-- ==== Sys2Proof/Word.lean ====
section
/-!
DEFINITION. Word.lean: the word type of the SX90 (R2, R3, R5) and its plainest arithmetic.
-/
namespace Sys2Proof

/-- A word: 64 bits (R5). -/
abbrev Word := BitVec 64

/-- A byte of memory (R3). -/
abbrev Byte := BitVec 8

/-- A vector register or a 4 KiB latch: 16 rows of 64 containers of 32 bits (R32, R36, R250).
Container (r, c) stands at bits [32 (64 r + c) + 31 : 32 (64 r + c)]. -/
abbrev VecReg := BitVec 32768

/-- A hypervector: 6,144 bits (R279). -/
abbrev HyperVec := BitVec 6144

/-- A counter register: 6,144 counters of 8 bits (R280). -/
abbrev CntReg := BitVec 49152

end Sys2Proof
end

