-- ==== Sys2Proof/Syntax.lean ====
section
/-!
DEFINITION. Syntax.lean: the instructions of the SX90 as data: typed operands (R63 to R70), the payload of each form
(R65, R269, R308, R413), and `Instr`, one constructor per row of spec/opcode_table.json: the slot instructions and
every whole step of the device's agents.
-/
namespace Sys2Proof

/-- Clusters of a core (R30): A holds slots 0, 1, 3, 5 and B holds slots 2, 4, 6, 7. -/
inductive Cluster where
  | a | b
  deriving DecidableEq, Repr

/-- Slot classes (R30, R71 to R75). -/
inductive SlotCls where
  | c | s | m | v | t
  deriving DecidableEq, Repr

/-- The guard predicate a slot names (R64): none, an own-cluster predicate p1 to p7, or a stage predicate. -/
inductive GuardSel where
  | one
  | pred (n : Fin 7)     -- p(n + 1)
  | loop (n : Fin 8)     -- lp n
  deriving DecidableEq, Repr

/-- PSEL and NEG (R34, R64). -/
structure Guard where
  sel : GuardSel
  neg : Bool
  deriving DecidableEq, Repr

/-- No guard (R82). -/
def Guard.always : Guard := { sel := .one, neg := false }

/-- An operand or destination selector (R67). `nil` is 0x7F; `pred n` names p(n + 1). -/
inductive Opnd where
  | sreg (n : Fin 64)
  | vreg (n : Fin 16)
  | latch (n : Fin 4)
  | pred (n : Fin 7)
  | sl (n : Fin 4)
  | hv (n : Fin 16)
  | hc (n : Fin 4)
  | ht
  | nil
  | imm (v : BitVec 7)
  deriving DecidableEq, Repr

/-- Type codes (R69): `fd k` is the narrow format of descriptor fd(k + 1). -/
inductive Ty where
  | i64 | n64 | i32 | n32 | i16 | n16 | i8 | n8 | f64 | f32 | f16 | bf16
  | fd (k : Fin 15)
  deriving DecidableEq, Repr

/-- SCOPE codes (R70). -/
inductive Scope where
  | core | pair | tower | device | pod
  deriving DecidableEq, Repr

/-- ORD codes (R70). -/
inductive MemOrd where
  | plain | acquire | release | nontemporal
  deriving DecidableEq, Repr

/-- SZ codes (R70). -/
inductive Size where
  | n8 | n16 | n32 | d64 | i8 | i16 | i32 | sector
  deriving DecidableEq, Repr

/-! ### Payloads

A field an entry does not use holds its unused value: `Opnd.nil` for a selector, `Ty.i64`, and 0. -/

/-- Form A (R65). -/
structure OpA where
  cl : Cluster
  g : Guard
  d : Opnd
  a : Opnd
  b : Opnd
  c : Opnd
  ty : Ty
  sub : BitVec 6
  md : BitVec 7
  deriving DecidableEq, Repr

/-- Form I (R65). -/
structure OpI where
  cl : Cluster
  g : Guard
  d : Opnd
  a : Opnd
  isub : BitVec 2
  imm : BitVec 32
  deriving DecidableEq, Repr

/-- Form M (R65). `wbs` stands for AMO and ACAS, whose V is an operand as well (R37, R338). -/
structure OpM where
  cl : Cluster
  g : Guard
  wbs : Bool
  v : Opnd
  b : Opnd
  fd : BitVec 4
  scope : Scope
  ord : MemOrd
  sz : Size
  off : BitVec 22
  deriving DecidableEq, Repr

/-- Form L (R65). -/
structure OpL where
  cl : Cluster
  g : Guard
  v : Opnd
  x : Opnd
  grp : BitVec 2
  bank : BitVec 3
  word : BitVec 11
  n : BitVec 4
  spread : Bool
  sub : BitVec 6
  md : BitVec 7
  deriving DecidableEq, Repr

/-- Form C (R65), always in slot c. `wbs` stands for CALL and CALLI (R178). -/
structure OpC where
  g : Guard
  wbs : Bool
  a : Opnd
  disp : BitVec 30
  sub : BitVec 6
  md : BitVec 6
  deriving DecidableEq, Repr

/-- MMA and MMAZ (R269). `d` is `nil` for a latch-only MMAZ. -/
structure OpMma where
  g : Guard
  d : Opnd
  x : Opnd
  l : Fin 4
  m : Opnd
  grp : BitVec 2
  bank : BitVec 3
  q : BitVec 2
  fa : Ty
  fb : Ty
  deriving DecidableEq, Repr

/-- CPY (R308, R309). -/
structure OpCpy where
  g : Guard
  d : Opnd
  a : Opnd
  b : Opnd
  c : Opnd
  scope : Scope
  dls : Bool
  sls : Bool
  cvt : Bool
  fm : Ty
  deriving DecidableEq, Repr

/-- CHASE (R308, R311). -/
structure OpChase where
  g : Guard
  d : Opnd
  a : Opnd
  b : Opnd
  c : Opnd
  scope : Scope
  dls : Bool
  deriving DecidableEq, Repr

/-- GATH (R308, R312). -/
structure OpGath where
  g : Guard
  d : Opnd
  a : Opnd
  b : Opnd
  c : Opnd
  n : Opnd
  scope : Scope
  dls : Bool
  sls : Bool
  isz : Bool
  gsz : BitVec 2
  deriving DecidableEq, Repr

/-- SEND and MSEND (R413); `e` is unused by SEND. -/
structure OpSend where
  g : Guard
  d : Opnd
  a : Opnd
  b : Opnd
  c : Opnd
  e : Opnd
  sls : Bool
  deriving DecidableEq, Repr

/-- A bundle as fetched (R61, R62): its header and one word per bit set in SPM, in slot order. -/
structure RawBundle where
  header : Word
  words : List Word
  deriving DecidableEq, Repr

/-! ### Arguments of the whole-device steps -/

/-- The two fabric planes (R14, R389). -/
inductive Plane where
  | x | y
  deriving DecidableEq, Repr

/-- One line of a plane: residue 0 to 31 and band 0 to 9 (R389, R391). -/
structure LineId where
  plane : Plane
  residue : Nat
  band : Nat
  deriving DecidableEq, Repr

/-- A control message as received (R407): its plane, the peer whose control lane carried it, its 128 bits. -/
structure CtlMsg where
  plane : Plane
  hop : Nat
  bits : BitVec 128
  deriving DecidableEq, Repr

/-- A host access to device memory (R21): address, bytes to write (none: a read of `len` bytes). -/
structure HostAcc where
  addr : Nat
  len : Nat
  bytes : Option (List Byte)
  deriving DecidableEq, Repr

/-- The instructions and steps of spec/opcode_table.json, one constructor per row. Steps without arguments and the actions of the device's
surroundings, which no definition of the model constructs, stand last. -/
inductive Instr where
  /-- BUNDLE_ISSUE (R48): A core issues a header word and its slot words as one bundle, or faults it whole at issue; a header with SPM 0 is a pure delay of 1 + WAIT issue cycles. -/
  | bundleIssue (lin : Nat) (b : RawBundle)
  /-- QUIESCENT_COMPLETION (R52): A bundle with Q = 1 waits for its results, performs its irrevocable operations, takes the snapshot and any suspension, trap or pre-emption. -/
  | quiescentCompletion (lin : Nat)
  /-- RESULT_VISIBLE (R39): An issued result becomes visible in its destination and latch once its latency has passed, releasing interlock freezes. -/
  | resultVisible (lin : Nat)
  /-- CURRENT_WINDOW_BOUNDARY (R55): A 64-cycle current window ends, USED resets, and a bundle frozen by the limit retries. -/
  | currentWindowBoundary (lin : Nat)
  /-- RAMP_WINDOW_BOUNDARY (R57): A 1,024-cycle ramp window ends, CUR moves to PREV, and MMAs frozen by the rise limit retry. -/
  | rampWindowBoundary (lin : Nat)
  /-- DUMMY_MMA (R57): The ramp limiter issues a dummy MMA in a cycle when the matrix unit is free and the rate falls too fast. -/
  | dummyMma (lin : Nat)
  /-- NOP (R76): OP 0x00 in any class does nothing and never faults. -/
  | nop (slot : Fin 8)
  /-- PREFETCH_HINT (R77): The M-class hint 0x7C may fetch a sector into L1 and never faults. -/
  | prefetchHint (x : OpM)
  /-- BRANCH_HINT (R77): The C-class hint 0x7D may start fetching the bundle at DISP. -/
  | branchHint (x : OpC)
  /-- BR (R178): Branches to this bundle plus DISP. -/
  | br (x : OpC)
  /-- BRI (R178): Branches to the address in A. -/
  | bri (x : OpC)
  /-- CALL (R178): Writes the link to sa63 and branches to this bundle plus DISP. -/
  | call (x : OpC)
  /-- CALLI (R178): Writes the link to sa63 and branches to the address in A. -/
  | calli (x : OpC)
  /-- RET (R178): Branches to the address in A, by default sa63. -/
  | ret (x : OpC)
  /-- LOOP (R180): Starts a hardware loop with count, stages, predicate base and optional pre-emption exit. -/
  | loop (x : OpC)
  /-- LBRK (R186): Ends the innermost active loop at once without draining. -/
  | lbrk (x : OpC)
  /-- LDRAIN (R187): Lowers N_eff of the innermost loop so that it drains. -/
  | ldrain (x : OpC)
  /-- SYSR (R190): Reads a system register into a scalar. -/
  | sysr (x : OpI)
  /-- SYSW (R190): Writes a system register at commit. -/
  | sysw (x : OpI)
  /-- TRAP (R148): Raises trap code 0x80 + n with two arguments. -/
  | trap (x : OpI)
  /-- TEND (R145): Ends the task, commits set stores, performs deferred operations, releases sets and updates the status block. -/
  | tend (x : OpC)
  /-- YIELD (R146): Gives up the core and returns the task to READY. -/
  | yield (x : OpC)
  /-- TSPAWN (R147): Creates a child task of the creator's launch. -/
  | tspawn (x : OpA)
  /-- FNEW (R155): Allocates a future and returns its handle. -/
  | fnew (x : OpA)
  /-- FSET (R155): Resolves a future SET with a value. -/
  | fset (x : OpA)
  /-- FFAIL (R155): Resolves a future FAILED with a status. -/
  | ffail (x : OpA)
  /-- FWAIT (R155): Suspends the task until the future leaves EMPTY. -/
  | fwait (x : OpA)
  /-- FTEST (R155): Returns a future's value or status and its state. -/
  | ftest (x : OpA)
  /-- FFREE (R155): Frees a future and advances its generation. -/
  | ffree (x : OpA)
  /-- BARA (R172): Arrives at a group or device barrier and returns the generation. -/
  | bara (x : OpA)
  /-- BARW (R172): Waits until a barrier phase has completed. -/
  | barw (x : OpA)
  /-- BARX (R172): Arrives at a barrier and waits for that phase. -/
  | barx (x : OpA)
  /-- BARI (R172): Initialises a device or pod barrier's EXPECT and SEATS. -/
  | bari (x : OpA)
  /-- PBARA (R172): Arrives at a pod barrier and returns the generation. -/
  | pbara (x : OpA)
  /-- PBARW (R172): Waits until a pod barrier phase has completed. -/
  | pbarw (x : OpA)
  /-- QPUT (R110): Puts a 64-byte record into a device queue ring or hands it to a waiter. -/
  | qput (x : OpI)
  /-- QGET (R110): Takes a record from a device queue ring or suspends the task as a waiter. -/
  | qget (x : OpI)
  /-- QPEEK (R110): Returns the number of records in a device queue ring. -/
  | qpeek (x : OpI)
  /-- QEXPIRE (R112): A bounded QGET's limit expires and the task traps with no record. -/
  | qexpire (task : Nat)
  /-- ADD (R231): Integer add. -/
  | add (x : OpA)
  /-- SUB (R231): Integer subtract. -/
  | sub (x : OpA)
  /-- ADDI (R237): Adds a sign-extended 32-bit immediate. -/
  | addi (x : OpI)
  /-- MUL (R231): Low bits of an integer product. -/
  | mul (x : OpA)
  /-- MULH (R231): High bits of a signed product. -/
  | mulh (x : OpA)
  /-- MULHN (R231): High bits of an unsigned product. -/
  | mulhn (x : OpA)
  /-- DIV (R231): Signed quotient. -/
  | div (x : OpA)
  /-- DIVN (R231): Unsigned quotient. -/
  | divn (x : OpA)
  /-- REM (R231): Signed remainder. -/
  | rem (x : OpA)
  /-- REMN (R231): Unsigned remainder. -/
  | remn (x : OpA)
  /-- AND (R232): Bitwise AND. -/
  | and (x : OpA)
  /-- OR (R232): Bitwise OR. -/
  | or (x : OpA)
  /-- XOR (R232): Bitwise XOR. -/
  | xor (x : OpA)
  /-- ANDN (R232): A AND NOT B. -/
  | andn (x : OpA)
  /-- ORN (R232): A OR NOT B. -/
  | orn (x : OpA)
  /-- SHL (R232): Shift left. -/
  | shl (x : OpA)
  /-- SHR (R232): Logical shift right. -/
  | shr (x : OpA)
  /-- SAR (R232): Arithmetic shift right. -/
  | sar (x : OpA)
  /-- ROL (R232): Rotate left. -/
  | rol (x : OpA)
  /-- CLZ (R232): Counts leading zeros. -/
  | clz (x : OpA)
  /-- CTZ (R232): Counts trailing zeros. -/
  | ctz (x : OpA)
  /-- POPC (R232): Counts one bits. -/
  | popc (x : OpA)
  /-- MIN (R231): Signed minimum. -/
  | min (x : OpA)
  /-- MAX (R231): Signed maximum. -/
  | max (x : OpA)
  /-- MINN (R231): Unsigned minimum. -/
  | minn (x : OpA)
  /-- MAXN (R231): Unsigned maximum. -/
  | maxn (x : OpA)
  /-- ABS (R231): Magnitude of a signed integer. -/
  | abs (x : OpA)
  /-- BFX (R233): Extracts a bit field. -/
  | bfx (x : OpA)
  /-- BFI (R234): Inserts a bit field. -/
  | bfi (x : OpA)
  /-- SEXT (R235): Sign-extends the low b bits. -/
  | sext (x : OpA)
  /-- LEA (R236): Forms A + B shifted + C. -/
  | lea (x : OpA)
  /-- MOVI (R237): Loads a sign-extended 32-bit immediate. -/
  | movi (x : OpI)
  /-- MOVH (R237): Sets the high 32 bits from an immediate. -/
  | movh (x : OpI)
  /-- SEL (R241): Selects A or B by C. -/
  | sel (x : OpA)
  /-- CMP (R238): Integer compare into a predicate or scalar. -/
  | cmp (x : OpA)
  /-- CMPI (R239): Compares with an immediate. -/
  | cmpi (x : OpI)
  /-- PLOG (R240): Combines truth values. -/
  | plog (x : OpA)
  /-- XCL (R242): Copies a scalar or latch from the other cluster. -/
  | xcl (x : OpA)
  /-- XCP (R242): Copies a predicate from the other cluster. -/
  | xcp (x : OpA)
  /-- MAD (R231): Integer multiply-add. -/
  | mad (x : OpA)
  /-- FADD (R244): Floating-point add. -/
  | fadd (x : OpA)
  /-- FSUB (R244): Floating-point subtract. -/
  | fsub (x : OpA)
  /-- FMUL (R244): Floating-point multiply. -/
  | fmul (x : OpA)
  /-- FMA (R244): Fused multiply-add. -/
  | fma (x : OpA)
  /-- FDIV (R244): Floating-point divide. -/
  | fdiv (x : OpA)
  /-- FSQRT (R244): Floating-point square root. -/
  | fsqrt (x : OpA)
  /-- FMIN (R245): Floating-point minimum. -/
  | fmin (x : OpA)
  /-- FMAX (R245): Floating-point maximum. -/
  | fmax (x : OpA)
  /-- FCMP (R246): Floating-point compare. -/
  | fcmp (x : OpA)
  /-- FCVT (R247): Converts between types, or rounds to integral. -/
  | fcvt (x : OpA)
  /-- FCLASS (R248): Classifies a floating-point value. -/
  | fclass (x : OpA)
  /-- FSGN (R249): Changes only the sign bit. -/
  | fsgn (x : OpA)
  /-- LD (R333): Scalar load from global memory. -/
  | ld (x : OpM)
  /-- ST (R333): Scalar store to global memory. -/
  | st (x : OpM)
  /-- LDV (R334): Loads a 4 KiB vector register. -/
  | ldv (x : OpM)
  /-- STV (R334): Stores a 4 KiB vector register. -/
  | stv (x : OpM)
  /-- LDT (R335): Loads and converts narrow codes into f32 containers. -/
  | ldt (x : OpM)
  /-- STT (R335): Converts f32 containers to narrow codes and stores them. -/
  | stt (x : OpM)
  /-- PREF (R336): Prefetches a sector or line. -/
  | pref (x : OpM)
  /-- NTST (R325): Non-temporal scalar store. -/
  | ntst (x : OpM)
  /-- NTSTV (R334): Non-temporal vector store. -/
  | ntstv (x : OpM)
  /-- AMO (R338): Atomic operation at the home slice returning the old value. -/
  | amo (x : OpM)
  /-- AMON (R338): Atomic operation with no result, possibly logged. -/
  | amon (x : OpM)
  /-- ACAS (R338): Atomic compare-and-swap. -/
  | acas (x : OpM)
  /-- MARK (R320): Orders earlier queue operations before later ones at core scope. -/
  | mark (x : OpM)
  /-- FENCE (R339): Acquire, release or full fence at a scope. -/
  | fence (x : OpM)
  /-- NTDRAIN (R325): Gathers earlier non-temporal stores into later releases. -/
  | ntdrain (x : OpM)
  /-- LSLD (R305): Loads 8 bytes from a local-store word. -/
  | lsld (x : OpL)
  /-- LSST (R305): Stores 8 bytes into a local-store word. -/
  | lsst (x : OpL)
  /-- LSLDV (R306): Loads local-store rows into a vector raw, converted, as scales or as tags. -/
  | lsldv (x : OpL)
  /-- LSSTV (R307): Stores vector rows into local-store words raw, converted or as scales. -/
  | lsstv (x : OpL)
  /-- MIGR (R362): Requests a page migration up or down. -/
  | migr (x : OpA)
  /-- PGSTAT (R363): Reads a page's residency state. -/
  | pgstat (x : OpA)
  /-- LOGAPPLY (R377): Forces application of a page's pending log. -/
  | logapply (x : OpA)
  /-- ASDECL (R380): Declares an atomic set. -/
  | asdecl (x : OpA)
  /-- ASDROP (R380): Drops an atomic set. -/
  | asdrop (x : OpA)
  /-- VADD (R255): Elementwise add. -/
  | vadd (x : OpA)
  /-- VSUB (R255): Elementwise subtract. -/
  | vsub (x : OpA)
  /-- VMUL (R255): Elementwise multiply. -/
  | vmul (x : OpA)
  /-- VFMA (R255): Elementwise fused multiply-add. -/
  | vfma (x : OpA)
  /-- VFMS (R255): Elementwise fused multiply-subtract. -/
  | vfms (x : OpA)
  /-- VMIN (R255): Elementwise minimum. -/
  | vmin (x : OpA)
  /-- VMAX (R255): Elementwise maximum. -/
  | vmax (x : OpA)
  /-- VABS (R255): Elementwise magnitude. -/
  | vabs (x : OpA)
  /-- VNEG (R255): Elementwise negation. -/
  | vneg (x : OpA)
  /-- VAND (R258): Containerwise AND. -/
  | vand (x : OpA)
  /-- VOR (R258): Containerwise OR. -/
  | vor (x : OpA)
  /-- VXOR (R258): Containerwise XOR. -/
  | vxor (x : OpA)
  /-- VANDN (R258): Containerwise A AND NOT B. -/
  | vandn (x : OpA)
  /-- VSHL (R255): Elementwise shift left. -/
  | vshl (x : OpA)
  /-- VSHR (R255): Elementwise logical shift right. -/
  | vshr (x : OpA)
  /-- VSAR (R255): Elementwise arithmetic shift right. -/
  | vsar (x : OpA)
  /-- VCMP (R257): Elementwise compare into masks. -/
  | vcmp (x : OpA)
  /-- VSEL (R258): Bitwise select by mask. -/
  | vsel (x : OpA)
  /-- VMOV (R258): Copies a vector. -/
  | vmov (x : OpA)
  /-- VSPLAT (R259): Fills every element with a scalar. -/
  | vsplat (x : OpA)
  /-- VINS (R259): Inserts one element. -/
  | vins (x : OpA)
  /-- VEXT (R259): Extracts one element into a scalar. -/
  | vext (x : OpA)
  /-- VCLAMP (R255): Clamps elements between B and C. -/
  | vclamp (x : OpA)
  /-- VMAD (R255): Integer multiply-add. -/
  | vmad (x : OpA)
  /-- VDOT4 (R256): Dot product within each container. -/
  | vdot4 (x : OpA)
  /-- VPOPC (R255): Elementwise population count. -/
  | vpopc (x : OpA)
  /-- VROTR (R260): Rotates rows. -/
  | vrotr (x : OpA)
  /-- VROTC (R260): Rotates columns. -/
  | vrotc (x : OpA)
  /-- VBCR (R260): Broadcasts one row. -/
  | vbcr (x : OpA)
  /-- VBCC (R260): Broadcasts one column. -/
  | vbcc (x : OpA)
  /-- VREDR (R261): Reduces down the rows by a fixed tree. -/
  | vredr (x : OpA)
  /-- VREDC (R261): Reduces across each row by a fixed tree. -/
  | vredc (x : OpA)
  /-- VTRN (R260): Transposes each quarter. -/
  | vtrn (x : OpA)
  /-- VCVT (R262): Converts elements between types by parts. -/
  | vcvt (x : OpA)
  /-- VRCP (R263): Correctly rounded reciprocal. -/
  | vrcp (x : OpA)
  /-- VRSQ (R263): Correctly rounded reciprocal square root. -/
  | vrsq (x : OpA)
  /-- VSQRT (R263): Correctly rounded square root. -/
  | vsqrt (x : OpA)
  /-- VEXP2 (R263): Correctly rounded 2^a. -/
  | vexp2 (x : OpA)
  /-- VLOG2 (R263): Correctly rounded log2. -/
  | vlog2 (x : OpA)
  /-- VTANH (R263): Correctly rounded tanh. -/
  | vtanh (x : OpA)
  /-- SLLD (R267): Loads stationary latch columns from the local store. -/
  | slld (x : OpL)
  /-- MMA (R271): Matrix step accumulating into a quarter. -/
  | mma (x : OpMma)
  /-- MMAZ (R271): Matrix step starting from zero. -/
  | mmaz (x : OpMma)
  /-- HLD (R290): Loads a hypervector from a local-store tile. -/
  | hld (x : OpL)
  /-- HST (R290): Stores a hypervector into a local-store tile. -/
  | hst (x : OpL)
  /-- HXOR (R284): Binds two hypervectors with XOR. -/
  | hxor (x : OpA)
  /-- HROT (R284): Rotates a hypervector. -/
  | hrot (x : OpA)
  /-- HLOG (R284): Bitwise logic on hypervectors. -/
  | hlog (x : OpA)
  /-- HBUND (R285): Adds a weighted hypervector into counters. -/
  | hbund (x : OpA)
  /-- HMAJ (R287): Turns counters into bits by majority. -/
  | hmaj (x : OpA)
  /-- HCCLR (R287): Clears a counter register. -/
  | hcclr (x : OpA)
  /-- HTIE (R288): Fills the tie vector from a seed. -/
  | htie (x : OpA)
  /-- HDIST (R289): Hamming distance of two hypervectors. -/
  | hdist (x : OpA)
  /-- HNEAR (R292): Searches an attic item memory for the nearest entry. -/
  | hnear (x : OpA)
  /-- HMOVV (R291): Moves between hypervector or counter registers and a vector register. -/
  | hmovv (x : OpA)
  /-- CPY (R309): Starts a copy-engine copy, raw or converting. -/
  | cpy (x : OpCpy)
  /-- CHASE (R311): Starts a pointer chase on the walkers. -/
  | chase (x : OpChase)
  /-- GATH (R312): Starts an indexed gather on the walkers. -/
  | gath (x : OpGath)
  /-- SEND (R415): Sends a payload into a peer's window. -/
  | send (x : OpSend)
  /-- MSEND (R416): Sends a payload to every member of a multicast group. -/
  | msend (x : OpSend)
  /-- WOPEN (R419): Opens a receive window. -/
  | wopen (x : OpA)
  /-- WCLOSE (R420): Closes a receive window. -/
  | wclose (x : OpA)
  /-- LSTAT (R421): Returns a snapshot of a link, window, credit or table. -/
  | lstat (x : OpA)
  /-- FDSET (R224): Writes a format descriptor. -/
  | fdset (x : OpA)
  /-- FDGET (R225): Reads a format descriptor. -/
  | fdget (x : OpA)
  /-- BFMT (R302): Sets or clears local-store bank format tags. -/
  | bfmt (x : OpL)
  /-- TASK_PICK (R134): An idle core's tower scheduler picks a READY task or group and starts it on the core. -/
  | taskPick (tower : Nat)
  /-- GROUP_START (R162): A placed group's records arrive and all members issue in one cycle. -/
  | groupStart (tower slot : Nat)
  /-- PREEMPT_ARRIVAL (R143): A pre-emption request reaches a task's core and becomes pending. -/
  | preemptArrival (lin : Nat)
  /-- WOUND_ARRIVAL (R140): A wound reaches the holder's core and aborts the task at its next bundle boundary. -/
  | woundArrival (lin : Nat)
  /-- WALKER_CREATE (R119): A loop-nest walker creates the next chain head task of a launch. -/
  | walkerCreate (tower : Nat)
  /-- LAUNCH_ACCEPT (R122): Every selected walker accepts a LOADED launch, which goes to WALKING. -/
  | launchAccept (slot : Nat)
  /-- LAUNCH_COMPLETE (R124): A QUIET launch's outstanding work resolves; the status block is written and DONEF set. -/
  | launchComplete (slot : Nat)
  /-- LAUNCH_ABORT_DRAIN_COMPLETE (R122): An aborting launch has no task or operation left and enters FAULTED. -/
  | launchAbortDrainComplete (slot : Nat)
  /-- HANDLER_START (R123): The hub starts a handler task for the oldest pending fault of a launch. -/
  | handlerStart (slot : Nat)
  /-- NOP_RECORD (R105): The queue engine takes a NOP record. -/
  | nopRecord (q : Nat)
  /-- LAUNCH (R115): The queue engine takes a LAUNCH record, checks the image and creates a launch. -/
  | launch (q : Nat)
  /-- GLAUNCH (R157): The queue engine takes a GLAUNCH record and creates a launch placed as groups. -/
  | glaunch (q : Nat)
  /-- SIGNAL (R105): The queue engine takes a SIGNAL record and sets or fails a future. -/
  | signal (q : Nat)
  /-- WAITF (R106): The queue engine takes a WAITF record and blocks the queue until the future leaves EMPTY. -/
  | waitf (q : Nat)
  /-- MIGSCHED (R357): The queue engine takes a MIGSCHED record and loads a migration schedule. -/
  | migsched (q : Nat)
  /-- SLOTTAB_LOAD (R437): A SLOTTAB record with MODE 0 loads an image into the standby table. -/
  | slottabLoad (q : Nat)
  /-- SLOTTAB_SWITCH (R437): A SLOTTAB record with MODE 1 arms a switch of the standby table at TICK. -/
  | slottabSwitch (q : Nat)
  /-- MCGROUP (R105): The queue engine takes an MCGROUP record and writes a multicast group entry. -/
  | mcgroup (q : Nat)
  /-- RESERVED_RECORD (R106): A record of KIND 8-15 puts the queue in ERROR. -/
  | reservedRecord (q : Nat)
  /-- CTX_DRAIN_COMPLETE (R94): A quiescing or faulted context's drain completes. -/
  | ctxDrainComplete (c : Nat)
  /-- TEARDOWN_COMPLETE (R96): Teardown of a context finishes; it enters FREE and CTXFREE is raised. -/
  | teardownComplete (c : Nat)
  /-- MAP (R350): Page-window command MAP writes a table entry or leaf. -/
  | map (c : Nat)
  /-- UNMAP (R349): Page-window command UNMAP makes a leaf ABSENT. -/
  | unmap (c : Nat)
  /-- CHMOD (R350): Page-window command CHMOD writes W, LOG, LOGFP and POL. -/
  | chmod (c : Nat)
  /-- REMAP (R350): Page-window command REMAP gives a POISONED leaf a new frame. -/
  | remap (c : Nat)
  /-- PANTRY (R359): Page-window command PANTRY adds a frame to a tower's pantry and releases its waiters. -/
  | pantry (tower frame : Nat)
  /-- TRANSLATION_COMPLETE (R347): A page walk or TLB lookup ends and the access meets its fate. -/
  | translationComplete (lin seq : Nat)
  /-- TRANSIT (R354): A freeze at translation reaches TLIMIT × 64 cycles and the task takes a restartable fault. -/
  | transit (lin : Nat)
  /-- MIGRATION_START (R353): A page whose pins reached zero starts its promotion or demotion. -/
  | migrationStart (page : Nat)
  /-- MIGRATION_COMPLETE (R348): A migration copy completes and the page reaches its target state. -/
  | migrationComplete (page : Nat)
  /-- SCHEDULE_ENTRY (R357): A schedule entry is read LEAD ticks before its deadline and handled as a MIGR. -/
  | scheduleEntry (c index : Nat)
  /-- QUEUE_PERFORM (R319): An operation at the head of a core's load or store queue performs. -/
  | queuePerform (lin : Nat) (store : Bool)
  /-- DIRTY_LINE_WRITEBACK (R316): The dirty-line FIFO writes back its oldest line to the home slice. -/
  | dirtyLineWriteback (lin : Nat)
  /-- LOG_APPEND (R369): A logged AMON reaches the residency controller and is appended to the page's log. -/
  | logAppend (page : Nat)
  /-- LOG_APPLY_COMPLETE (R373): A log application finishes and the page returns to CELLAR or becomes ATTIC. -/
  | logApplyComplete (page : Nat)
  /-- SET_REQUEST (R382): The hub judges an acquiring access's request for an atomic set. -/
  | setRequest (lin seq : Nat)
  /-- CPY_COMPLETE (R309): A copy-engine operation finishes and its future resolves. -/
  | cpyComplete (id : Nat)
  /-- CHASE_COMPLETE (R311): A pointer chase ends, LAST is written and its future resolves. -/
  | chaseComplete (id : Nat)
  /-- GATH_COMPLETE (R312): A gather delivers every item and its future resolves. -/
  | gathComplete (id : Nat)
  /-- SEND_SOURCE_READ (R415): The send engine translates and reads a send's source and queues its flits. -/
  | sendSourceRead (id : Nat)
  /-- ACK_TIMEOUT (R404): No ACK arrived by the peg of T + 12 and the slot's flits are queued for retransmission. -/
  | ackTimeout (plane : Plane) (residue slot : Nat)
  /-- FLIT_WRITE (R409): A receiver checks a camped flit against its window and writes or discards it. -/
  | flitWrite (plane : Plane) (residue : Nat)
  /-- NOTICE_APPLY (R410): A NOTICE is applied once its send's flits are written, and DONE is sent. -/
  | noticeApply (plane : Plane) (index : Nat)
  /-- WAVELENGTH_CHECK (R428): A lit line is checked against its wavelength locker. -/
  | wavelengthCheck (line : LineId) (err : Int)
  /-- REPAIR_READY_DEADLINE (R432): At SWITCH − 4 a receiver lacking a READY aborts the repair. -/
  | repairReadyDeadline (id : Nat)
  /-- REPAIR_SWITCH (R430): At the peg of SWITCH the devices patch their table entries. -/
  | repairSwitch (id : Nat)
  /-- RETUNE_RELOCK (R428): A retuning line relocks and returns to LIT. -/
  | retuneRelock (line : LineId)
  /-- RETUNE_TIMEOUT (R428): A retuning line has not relocked after 8 slots and fails. -/
  | retuneTimeout (line : LineId)
  /-- LANTERN_TAKEOVER_COMPLETE (R434): The standby lantern has taken over and lines leave RETUNING. -/
  | lanternTakeoverComplete (plane : Plane)
  /-- AUTOPARK_IDLE (R435): A band idle for PARKIDLE ticks starts parking under AUTOPARK. -/
  | autoparkIdle (plane : Plane) (band : Nat)
  /-- PARK_SWITCH (R435): At the peg of a PARK SWITCH the band's lines go PARKED. -/
  | parkSwitch (plane : Plane) (band : Nat)
  /-- WAKE_START (R436): Queued data flits exceed WAKEQ and auto-parked bands start waking. -/
  | wakeStart (plane : Plane)
  /-- WAKE_SWITCH (R436): At the peg of a WAKE SWITCH woken lines become LIT or FAILED. -/
  | wakeSwitch (plane : Plane) (band : Nat)
  /-- CALIBRATION_COMPLETE (R424): Calibration of a link finishes and it becomes TRAINED. -/
  | calibrationComplete (plane : Plane) (peer : Nat)
  /-- CALIBRATION_TIMEOUT (R425): Calibration has not ended within 200 ms and the link fails. -/
  | calibrationTimeout (plane : Plane) (peer : Nat)
  /-- SLOTTAB_LOAD_READY (R437): A MODE 0 image finishes loading into the standby table. -/
  | slottabLoadReady (plane : Plane)
  /-- TABLE_SWITCH_TICK (R437): At the peg of TICK the standby table becomes active. -/
  | tableSwitchTick (plane : Plane)
  /-- THERMAL_SAMPLE (R455): Every 100 µs the estimator sets tile temperatures and applies throttling and trips. -/
  | thermalSample (sensors : List (Int × Int))
  /-- AGE_REBASE (R130): With every task FREE, the hub rebases AGEBASE and takes the held launch record. -/
  | ageRebase
  /-- COUNTER_DECAY (R352): Every 2^DECAY ticks access counters halve and cold attic pages demote. -/
  | counterDecay
  /-- POWER_TRIM (R427): Every 1,024 ticks laser power of each lit line is trimmed. -/
  | powerTrim
  /-- TICKSYNC_SEND (R426): Every aligned 1,024 ticks a locked device sends TICKSYNC to each next hop. -/
  | ticksyncSend
  /-- PEG (R396): A slot boundary opens a tick; TICK advances and the active table entry comes into force. -/
  | peg
  /-- WARM_RESET (R451): A write of 1 to RESETCMD resets the device and reruns the boot ROM. -/
  | warmReset
  /-- POWER_ON_RESET (R451): Reset starts the boot ROM, which verifies the staged image. -/
  | powerOnReset
  /-- FLIT_RECEIVE (R400): A flit arrives, is checked and taken into its camp or dropped. -/
  | flitReceive (plane : Plane) (residue band : Nat) (pos : Nat) (cw : BitVec 2448) (tag : Nat)
  /-- IDLE (R406): An IDLE control message is received as a loopback check. -/
  | idle (m : CtlMsg)
  /-- CREDIT (R403): A CREDIT message updates FREED for a stream. -/
  | credit (m : CtlMsg)
  /-- ACK (R404): An ACK message marks flits good or queues them for retransmission. -/
  | ack (m : CtlMsg)
  /-- NOTICE (R410): A NOTICE message arrives at a receiver or relay. -/
  | notice (m : CtlMsg)
  /-- DONE (R415): A DONE message resolves a send's future or counts a multicast member. -/
  | done (m : CtlMsg)
  /-- ARRIVE (R166): An ARRIVE message for a pod barrier is received and may advance GEN. -/
  | arrive (m : CtlMsg)
  /-- TICKSYNC (R426): A TICKSYNC message is received and an unlocked device locks to it. -/
  | ticksync (m : CtlMsg)
  /-- PREP (R430): A REPAIR PREP message is received. -/
  | prep (m : CtlMsg)
  /-- READY (R430): A REPAIR READY message is received. -/
  | ready (m : CtlMsg)
  /-- COMMIT (R430): A REPAIR COMMIT message is received. -/
  | commit (m : CtlMsg)
  /-- ABORT (R432): A REPAIR ABORT message is received. -/
  | abort (m : CtlMsg)
  /-- PARK (R435): A REPAIR PARK message is received. -/
  | park (m : CtlMsg)
  /-- WAKE (R436): A REPAIR WAKE message is received. -/
  | wake (m : CtlMsg)
  /-- PROBE (R425): A REPAIR PROBE message reports received power. -/
  | probe (m : CtlMsg)
  /-- MCFAN (R417): An MCFAN message gives a fan-out device a multicast seat mask. -/
  | mcfan (m : CtlMsg)
  /-- RESERVED_MESSAGE (R407): A control message of reserved TYPE is discarded. -/
  | reservedMessage (m : CtlMsg)
  /-- THERMAL_RETUNE (R428): A thermal retune of a lit line falls due and the line goes RETUNING. -/
  | thermalRetune (line : LineId)
  /-- LANTERN_FAULT (R434): The primary lantern loses power or lock on more than 16 lines. -/
  | lanternFault (plane : Plane)
  /-- MEMORY_ERROR (R361): An uncorrectable error in a frame, attic slot or log chunk poisons the page. -/
  | memoryError (pa : Nat)
  /-- ATS_INVALIDATION (R346): The host link takes an ATS invalidation from the host. -/
  | atsInvalidation (host : Nat)
  /-- QUEUE_APPEND (R102): A 64-byte aperture write appends a record to a host work queue. -/
  | queueAppend (q offset : Nat) (bytes : List Byte)
  /-- HOST_ACCESS (R21): A host read or write reaches device memory over the host link. -/
  | hostAccess (a : HostAcc)
  /-- REGISTER_WRITE (R8): A host write to a control-space register with no row of its own stores its writable fields. -/
  | registerWrite (off : Nat) (v : Word)
  /-- MANAGEMENT_REQUEST (R453): An MCTP request over I3C on the management port is served as MCTP control, PLDM monitoring or firmware update, or SPDM attestation. -/
  | managementRequest (bytes : List Byte)
  /-- PAIR_RETIREMENT (R29): The host retires a pair: the scheduler stops placing tasks on it, its cores get pre-emption requests, persistent launches on it fault with RETIRED, and after draining its local store is zeroed and it stays dark. -/
  | pairRetirement (pair : Nat)
  /-- ENABLE (R106): Queue command ENABLE. -/
  | enable (q : Nat)
  /-- DRAIN (R106): Queue command DRAIN. -/
  | drain (q : Nat)
  /-- STOP (R106): Queue command STOP. -/
  | stop (q : Nat)
  /-- RESET (R106): Queue command RESET. -/
  | reset (q : Nat)
  /-- BUILD (R93): Context command BUILD. -/
  | build (c : Nat)
  /-- ACTIVATE (R93): Context command ACTIVATE. -/
  | activate (c : Nat)
  /-- QUIESCE (R94): Context command QUIESCE starts quiescing. -/
  | quiesce (c : Nat)
  /-- RESUME (R93): Context command RESUME. -/
  | resume (c : Nat)
  /-- DESTROY (R93): Context command DESTROY starts teardown or is held until the drain completes. -/
  | destroy (c : Nat)
  /-- HOSTFAULT (R444): A write to HOSTFAULT puts the named context in FAULTED. -/
  | hostfault (v : Word)
  /-- FUTURE_ALLOC (R445): A host read of the future window allocates a future. -/
  | futureAlloc (c : Nat)
  /-- FUTURE_FREE (R445): A host write at offset 0x800 frees a future. -/
  | futureFree (v : Word)
  /-- FUTURE_SIGNAL (R445): A host write at offset 0x808 sets a future with the staged value. -/
  | futureSignal (v : Word)
  /-- BARRIER_BIND (R166): The host binds a device or pod barrier to a context. -/
  | barrierBind (pod : Bool) (index : Nat) (v : Word)
  /-- BARRIER_UNBIND (R166): The host unbinds a device or pod barrier. -/
  | barrierUnbind (pod : Bool) (index : Nat)
  /-- BRINGUP (R425): FABCMD BRINGUP starts lock and calibration of a plane. -/
  | bringup (plane : Plane)
  /-- PLANE_RESET (R423): FABCMD RESET darkens the plane and fails its sends. -/
  | planeReset (plane : Plane)
  /-- SNAP (R440): FABCMD SNAP requests a counter snapshot at the next peg. -/
  | snap (plane : Plane)
  /-- RESTORE (R428): FABCMD RESTORE relocks a substituted or failed line. -/
  | restore (line : LineId)
  /-- FABID_WRITE (R426): A write to FABID is taken only while every link is DARK. -/
  | fabidWrite (v : Word)
  /-- MODE_WRITE (R452): A write to MODE requests a power cap or profile change. -/
  | modeWrite (v : Word)
  deriving DecidableEq, Repr

end Sys2Proof
end

