-- ==== Sys2Proof/Machine/Rows.lean ====
section
/-!
DEFINITION. Machine/Rows.lean: the encoding tables of the slot instructions: selector, type, scope and size codes
(R64, R67, R69, R70), the opcode map (R71 to R75), and for every instruction the fields its entry uses and accepts.
-/
namespace Sys2Proof

/-! ### Types an entry accepts -/

def Ty.isInt : Ty → Bool
  | .i64 | .n64 | .i32 | .n32 | .i16 | .n16 | .i8 | .n8 => true
  | _ => false
def Ty.isFloat : Ty → Bool
  | .f64 | .f32 | .f16 | .bf16 => true
  | _ => false
def Ty.isNarrow : Ty → Bool
  | .fd _ => true
  | _ => false
def Ty.is64 : Ty → Bool
  | .i64 | .n64 | .f64 => true
  | _ => false
/-- R253: the types called integer and float in a vector. -/
def Ty.vInt (t : Ty) : Bool := t.isInt && !t.is64
def Ty.vFloat (t : Ty) : Bool := t.isFloat && !t.is64
/-- Elements per container (R250). -/
def Ty.epc : Ty → Nat
  | .i64 | .n64 | .f64 | .i32 | .n32 | .f32 => 1
  | .i16 | .n16 | .f16 | .bf16 => 2
  | .i8 | .n8 => 4
  | .fd _ => 4

end Sys2Proof

namespace Sys2Proof.Machine

/-! ### Codes -/

def clusterIdx : Cluster → Nat
  | .a => 0
  | .b => 1

/-- PSEL codes (R64). -/
def encGuardSel (cl : Cluster) : GuardSel → BitVec 5
  | .one => 0
  | .pred n => BitVec.ofNat 5 (8 * clusterIdx cl + n.val + 1)
  | .loop n => BitVec.ofNat 5 (16 + n.val)

/-- PSEL read back; none is an illegal operand (R64, R78). -/
def decGuardSel (cl : Cluster) (b : BitVec 5) : Option GuardSel :=
  let n := b.toNat
  if n = 0 then some .one
  else if h : 16 ≤ n ∧ n < 24 then some (.loop ⟨n - 16, by omega⟩)
  else
    let k := 8 * clusterIdx cl
    if h : k < n ∧ n ≤ k + 7 then some (.pred ⟨n - k - 1, by omega⟩) else none

/-- Selector codes (R67). -/
def encOpnd : Opnd → BitVec 8
  | .sreg n => BitVec.ofNat 8 n.val
  | .vreg n => BitVec.ofNat 8 (0x40 + n.val)
  | .latch n => BitVec.ofNat 8 (0x50 + n.val)
  | .pred n => BitVec.ofNat 8 (0x54 + n.val)
  | .sl n => BitVec.ofNat 8 (0x60 + n.val)
  | .hv n => BitVec.ofNat 8 (0x64 + n.val)
  | .hc n => BitVec.ofNat 8 (0x74 + n.val)
  | .ht => 0x78
  | .nil => 0x7F
  | .imm v => 1#1 ++ v

/-- Selector codes read back; none is reserved (R67). -/
def decOpnd (b : BitVec 8) : Option Opnd :=
  let n := b.toNat
  if h : n < 0x40 then some (.sreg ⟨n, h⟩)
  else if h : n < 0x50 then some (.vreg ⟨n - 0x40, by omega⟩)
  else if h : n < 0x54 then some (.latch ⟨n - 0x50, by omega⟩)
  else if h : n < 0x5B then some (.pred ⟨n - 0x54, by omega⟩)
  else if n < 0x60 then none
  else if h : n < 0x64 then some (.sl ⟨n - 0x60, by omega⟩)
  else if h : n < 0x74 then some (.hv ⟨n - 0x64, by omega⟩)
  else if h : n < 0x78 then some (.hc ⟨n - 0x74, by omega⟩)
  else if n = 0x78 then some .ht
  else if n < 0x7F then none
  else if n = 0x7F then some .nil
  else some (.imm (b.extractLsb' 0 7))

/-- TY codes (R69). -/
def encTy : Ty → BitVec 5
  | .i64 => 0 | .n64 => 1 | .i32 => 2 | .n32 => 3 | .i16 => 4 | .n16 => 5 | .i8 => 6 | .n8 => 7
  | .f64 => 8 | .f32 => 9 | .f16 => 10 | .bf16 => 11
  | .fd k => BitVec.ofNat 5 (0x11 + k.val)

def decTy (b : BitVec 5) : Option Ty :=
  let n := b.toNat
  match n with
  | 0 => some .i64 | 1 => some .n64 | 2 => some .i32 | 3 => some .n32 | 4 => some .i16 | 5 => some .n16
  | 6 => some .i8 | 7 => some .n8 | 8 => some .f64 | 9 => some .f32 | 10 => some .f16 | 11 => some .bf16
  | _ => if h : 0x11 ≤ n then some (.fd ⟨n - 0x11, by have := b.isLt; omega⟩) else none

/-- SCOPE codes (R70). -/
def encScope : Scope → BitVec 3
  | .core => 0 | .pair => 1 | .tower => 2 | .device => 3 | .pod => 4

def decScope (b : BitVec 3) : Option Scope :=
  match b.toNat with
  | 0 => some .core | 1 => some .pair | 2 => some .tower | 3 => some .device | 4 => some .pod
  | _ => none

def encOrd : MemOrd → BitVec 2
  | .plain => 0 | .acquire => 1 | .release => 2 | .nontemporal => 3

def decOrd (b : BitVec 2) : MemOrd :=
  match b.toNat with
  | 0 => .plain | 1 => .acquire | 2 => .release | _ => .nontemporal

def encSize : Size → BitVec 3
  | .n8 => 0 | .n16 => 1 | .n32 => 2 | .d64 => 3 | .i8 => 4 | .i16 => 5 | .i32 => 6 | .sector => 7

def decSize (b : BitVec 3) : Size :=
  match b.toNat with
  | 0 => .n8 | 1 => .n16 | 2 => .n32 | 3 => .d64 | 4 => .i8 | 5 => .i16 | 6 => .i32 | _ => .sector

/-! ### Operand kinds (R67) -/

/-- Kinds of operand an entry may accept: scalar, vector, 64-bit latch, 4 KiB latch, qt, predicate, stationary latch,
hypervector, counters, ht, 0x7F and immediate. -/
inductive Kind where
  | s | v | l | lv | qt | p | sl | hv | hc | ht | z | i
  deriving DecidableEq, Repr

/-- The kind of an operand (R35, R36): in cluster A the fourth latch is 4 KiB, in cluster B the third and fourth. -/
def kindOf (cl : Cluster) : Opnd → Kind
  | .sreg _ => .s
  | .vreg _ => .v
  | .latch n =>
    match cl with
    | .a => if n.val = 3 then .lv else .l
    | .b => if n.val = 3 then .qt else if n.val = 2 then .lv else .l
  | .pred _ => .p
  | .sl _ => .sl
  | .hv _ => .hv
  | .hc _ => .hc
  | .ht => .ht
  | .nil => .z
  | .imm _ => .i

/-- R226: a scalar source of an S-class instruction. -/
def srcS : List Kind := [.s, .l, .lv, .qt, .p, .i, .z]
/-- R227: a scalar destination. -/
def dstS : List Kind := [.s, .z]
/-- R227, R238: a scalar or predicate destination. -/
def dstP : List Kind := [.s, .z, .p]
/-- A scalar, a 64-bit latch, an immediate or 0x7F (R282, R362, R377, R380, R413). -/
def srcW : List Kind := [.s, .l, .i, .z]
/-- A scalar, any latch, an immediate or 0x7F (R147, R155, R172, R224). -/
def srcC : List Kind := [.s, .l, .lv, .qt, .i, .z]
/-- A scalar, any latch or an immediate (R177, R180, R190). -/
def srcB : List Kind := [.s, .l, .lv, .qt, .i]
/-- R251: a vector operand. -/
def srcV : List Kind := [.v, .lv, .qt, .s, .i, .z]
/-- R259, R262: a vector, a 4 KiB latch or 0x7F. -/
def srcVC : List Kind := [.v, .lv, .qt, .z]
/-- R252: a vector destination. -/
def dstV : List Kind := [.v, .z]
/-- R260: an amount. -/
def srcAmt : List Kind := [.s, .i, .z]
/-- R282: H, HD, C, CD, V. -/
def srcH : List Kind := [.hv, .ht, .qt, .z]
def dstH : List Kind := [.hv, .z]
def srcCnt : List Kind := [.hc, .z]
def dstCnt : List Kind := [.hc]
def srcVT : List Kind := [.v, .lv, .qt]

/-! ### Form A -/

/-- What a form-A entry uses, at given SUB and MOD: kinds for D, A, B, C (none: the field is not decoded), whether TY
is used, the bits of SUB and MOD it uses, whether it defines this SUB, whether WBS = 1 is illegal, and its remaining
operand checks. -/
structure ASpec where
  d : List Kind := []
  a : List Kind := []
  b : List Kind := []
  c : List Kind := []
  tyUsed : Bool := false
  subMask : BitVec 6 := 0
  mdMask : BitVec 7 := 0
  subOk : Bool := true
  wbsBad : Bool := false
  ok : OpA → Bool := fun _ => true

def intTy (x : OpA) : Bool := x.ty.isInt
def fltTy (x : OpA) : Bool := x.ty.isFloat

def specInt1 : ASpec := { d := dstS, a := srcS, tyUsed := true, ok := intTy }
def specInt2 : ASpec := { d := dstS, a := srcS, b := srcS, tyUsed := true, ok := intTy }
def specInt3 : ASpec := { d := dstS, a := srcS, b := srcS, c := srcS, tyUsed := true, ok := intTy }
def specFlt1 : ASpec := { d := dstS, a := srcS, tyUsed := true, ok := fltTy }
def specFlt2 : ASpec := { d := dstS, a := srcS, b := srcS, tyUsed := true, ok := fltTy }
def specFlt3 : ASpec := { d := dstS, a := srcS, b := srcS, c := srcS, tyUsed := true, ok := fltTy }
def vAny (x : OpA) : Bool := x.ty.vInt || x.ty.vFloat
/-- SAT = 1 with a floating-point TY is illegal (R252). -/
def vSatOk (x : OpA) : Bool := vAny x && !(x.md.getLsbD 4 && x.ty.vFloat)
def specV1 (ok : OpA → Bool) : ASpec := { d := dstV, a := srcV, tyUsed := true, mdMask := 0x0F, ok := ok }
def specV2 (ok : OpA → Bool) : ASpec := { d := dstV, a := srcV, b := srcV, tyUsed := true, mdMask := 0x0F, ok := ok }
def specV3 (ok : OpA → Bool) : ASpec :=
  { d := dstV, a := srcV, b := srcV, c := srcV, tyUsed := true, mdMask := 0x0F, ok := ok }
def specVSat (k : List Kind) (ok : OpA → Bool) : ASpec :=
  { d := dstV, a := srcV, b := srcV, c := k, tyUsed := true, mdMask := 0x1F, ok := ok }
def specVBits (c : List Kind) : ASpec := { d := dstV, a := srcV, b := srcV, c := c, mdMask := 0x0F }
/-- An immediate with a narrow TY is illegal (R251, R259). -/
def noNarrowImm (o : Opnd) (t : Ty) : Bool :=
  match o with
  | .imm _ => !t.isNarrow
  | _ => true
/-- D must leave room for D + 1 (R155, R292). -/
def pairDst (x : OpA) : Bool := x.d != .sreg 63

/-- A VCVT to fewer elements per container than its source has (R262): such a word ignores C. -/
def widens (ty src : BitVec 5) : Bool :=
  match decTy ty, decTy src with
  | some d, some s => decide (d.epc < s.epc)
  | _, _ => true

/-- The form-A entries, by instruction, SUB, MOD and the code in TY. -/
def aSpec (i : Instr) (sub : BitVec 6) (md : BitVec 7) (ty : BitVec 5) : ASpec :=
  match i with
  -- C class (R147, R155, R172)
  | .tspawn _ => { d := dstS, a := srcC, b := srcC, c := srcC }
  | .fnew _ => { d := dstS }
  | .fset _ | .ffail _ => { a := srcC, b := srcC }
  | .fwait _ | .ffree _ => { a := srcC }
  | .ftest _ => { d := dstS, a := srcC, ok := pairDst }
  | .bara _ | .barx _ | .pbara _ => { d := dstS, a := srcC }
  | .barw _ | .pbarw _ => { a := srcC, b := srcC }
  | .bari _ => { a := srcC, b := srcC, c := srcC }
  -- S class (R231 to R249)
  | .add _ | .sub _ | .mul _ | .mulh _ | .mulhn _ | .div _ | .divn _ | .rem _ | .remn _ => specInt2
  | .and _ | .or _ | .xor _ | .andn _ | .orn _ | .shl _ | .shr _ | .sar _ | .rol _ => specInt2
  | .min _ | .max _ | .minn _ | .maxn _ => specInt2
  | .clz _ | .ctz _ | .popc _ | .abs _ => specInt1
  | .mad _ => specInt3
  | .bfx _ =>
    { d := dstS, a := srcS, b := srcS, c := srcS, tyUsed := true, ok := fun x => x.ty == .i64 || x.ty == .n64 }
  | .bfi _ =>
    { d := dstS, a := srcS, b := srcS, c := srcS, mdMask := 0x7F,
      ok := fun x => decide (1 ≤ x.md.toNat) && decide (x.md.toNat ≤ 64) }
  | .sext _ => { d := dstS, a := srcS, b := srcS }
  | .lea _ => { d := dstS, a := srcS, b := srcS, c := srcS, mdMask := 7 }
  | .sel _ => { d := dstS, a := srcS, b := srcS, c := srcS }
  | .cmp _ =>
    { d := dstP, a := srcS, b := srcS, tyUsed := true, subMask := 63, subOk := decide (sub.toNat ≤ 11), ok := intTy }
  | .plog _ =>
    { d := dstP, a := srcS, b := if sub.toNat = 3 then [] else srcS, subMask := 63, subOk := decide (sub.toNat ≤ 5) }
  | .xcl _ => { d := dstS, a := [.s, .l, .lv, .qt, .z] }
  | .xcp _ => { d := dstP, a := [.p, .z] }
  | .fadd _ | .fsub _ | .fmul _ | .fdiv _ | .fmin _ | .fmax _ => specFlt2
  | .fma _ => specFlt3
  | .fsqrt _ => specFlt1
  | .fcmp _ =>
    { d := dstP, a := srcS, b := srcS, tyUsed := true, subMask := 63, subOk := decide (sub.toNat ≤ 7), ok := fltTy }
  | .fcvt _ =>
    if sub.toNat = 1 then { d := dstS, a := srcS, tyUsed := true, subMask := 63, ok := fltTy }
    else
      { d := dstS, a := srcS, tyUsed := true, subMask := 63, mdMask := 31, subOk := decide (sub.toNat ≤ 2),
        ok := fun x => (decTy (x.md.extractLsb' 0 5)).isSome }
  | .fclass _ => { d := dstS, a := srcS, tyUsed := true, ok := fun x => x.ty.isFloat || x.ty.isNarrow }
  | .fsgn _ =>
    { d := dstS, a := srcS, b := if sub.toNat ≤ 1 then [] else srcS, tyUsed := true, subMask := 63,
      subOk := decide (sub.toNat ≤ 3), ok := fltTy }
  -- M class, form A (R362, R363, R377, R380)
  | .migr _ => { a := srcW, b := srcW, c := srcW, subMask := 63, subOk := decide (sub.toNat ≤ 1) }
  | .pgstat _ => { d := dstS, a := srcW }
  | .logapply _ => { a := srcW, c := srcW }
  | .asdecl _ => { d := dstS, a := srcW, b := srcW }
  | .asdrop _ => { d := dstS, a := srcW }
  -- V class (R251 to R263)
  | .vadd _ | .vsub _ | .vmul _ => specVSat [] vSatOk
  | .vfma _ | .vfms _ => specV3 fun x => x.ty.vFloat
  | .vmin _ | .vmax _ => specV2 vAny
  | .vabs _ | .vneg _ => specV1 vAny
  | .vshl _ | .vshr _ | .vsar _ => specV2 fun x => x.ty.vInt
  | .vclamp _ => specV3 vAny
  | .vmad _ => specVSat srcV fun x => x.ty.vInt
  | .vdot4 _ => specV3 fun x => x.ty.vInt && decide (x.ty.epc ≠ 1)
  | .vpopc _ => specV1 fun x => x.ty.vInt
  | .vand _ | .vor _ | .vxor _ | .vandn _ => specVBits []
  | .vsel _ => specVBits srcV
  | .vmov _ => { d := dstV, a := srcV, mdMask := 0x0F }
  | .vcmp _ =>
    { d := dstV, a := srcV, b := srcV, tyUsed := true, subMask := 63, mdMask := 0x0F,
      subOk := decide (sub.toNat ≤ 7) || decide (sub.toNat = 10) || decide (sub.toNat = 11),
      ok := fun x => (x.ty.vFloat && decide (x.sub.toNat ≤ 7))
        || (x.ty.vInt && (decide (x.sub.toNat ≤ 5) || decide (10 ≤ x.sub.toNat))) }
  | .vsplat _ =>
    { d := dstV, a := srcC, tyUsed := true, mdMask := 0x0F, ok := fun x => !x.ty.is64 && noNarrowImm x.a x.ty }
  | .vins _ =>
    { d := dstV, a := srcC, b := srcC, c := srcVC, tyUsed := true, mdMask := 0x0F,
      ok := fun x => !x.ty.is64 && noNarrowImm x.a x.ty }
  | .vext _ =>
    { d := dstS, a := srcV, b := srcC, tyUsed := true, ok := fun x => !x.ty.is64 && noNarrowImm x.a x.ty }
  | .vrotr _ | .vrotc _ | .vbcr _ | .vbcc _ => { d := dstV, a := srcV, b := srcAmt, mdMask := 0x0F }
  | .vtrn _ => { d := dstV, a := srcV, mdMask := 0x0F }
  | .vredr _ | .vredc _ =>
    { d := dstV, a := srcV, tyUsed := true, subMask := 63, mdMask := 0x0F,
      subOk := decide (sub.toNat % 8 ≤ 5) && decide (sub.toNat < 16),
      ok := fun x => x.ty.vInt || (x.ty.vFloat && decide (x.sub.toNat % 8 ≤ 2)) }
  | .vcvt _ =>
    if sub.toNat = 1 then { d := dstV, a := srcV, tyUsed := true, subMask := 63, ok := fun x => x.ty.vFloat }
    else
      let src := (md.extractLsb' 0 5)
      { d := dstV, a := srcV, tyUsed := true, subMask := 63, mdMask := 0x7F, subOk := decide (sub.toNat ≤ 2),
        c := if widens ty src then [] else srcVC
        ok := fun x =>
          match decTy src with
          | some st =>
            !x.ty.is64 && !st.is64 && noNarrowImm x.a st && noNarrowImm x.a x.ty
              && (if st.epc ≤ x.ty.epc then decide ((x.md.extractLsb' 5 2).toNat < x.ty.epc / st.epc)
                  else decide ((x.md.extractLsb' 5 2).toNat < st.epc / x.ty.epc))
          | none => false }
  | .vrcp _ | .vrsq _ | .vsqrt _ | .vexp2 _ | .vlog2 _ | .vtanh _ => specV1 fun x => x.ty.vFloat
  -- T class, form A (R224, R225, R282 to R292, R419 to R421)
  | .hxor _ => { d := dstH, a := srcH, b := srcH }
  | .hrot _ => { d := dstH, a := srcH, b := srcW }
  | .hlog _ =>
    { d := dstH, a := srcH, b := if sub.toNat = 2 then [] else srcH, subMask := 63, subOk := decide (sub.toNat ≤ 3) }
  | .hbund _ =>
    { d := dstCnt, a := srcCnt, b := srcH, mdMask := 0x1F, wbsBad := true, ok := fun x => x.md.extractLsb' 0 4 != 0 }
  | .hmaj _ => { d := dstH, a := srcCnt, b := srcH }
  | .hcclr _ => { d := dstCnt, wbsBad := true }
  | .htie _ => { d := [.ht], a := srcW, wbsBad := true }
  | .hdist _ => { d := dstS, a := srcH, b := srcH }
  | .hnear _ => { d := dstS, a := srcH, b := srcW, c := srcW, ok := pairDst }
  | .hmovv _ =>
    match sub.toNat with
    | 0 => { d := dstH, a := srcVT, subMask := 63 }
    | 1 => { d := dstV, a := srcH, subMask := 63 }
    | 2 => { d := dstV, a := srcCnt, subMask := 63, mdMask := 1 }
    | 3 => { d := dstCnt, a := srcVT, subMask := 63, mdMask := 1, wbsBad := true }
    | _ => { subMask := 63, subOk := false }
  | .wopen _ => { d := dstS, a := srcW, b := srcW, c := srcW }
  | .wclose _ => { d := dstS, a := srcW }
  | .lstat _ => { d := dstS, a := srcW, subMask := 63, subOk := decide (sub.toNat ≤ 3) }
  | .fdset _ =>
    { a := srcC, mdMask := 15, ok := fun x => decide (1 ≤ x.md.toNat) && decide (x.md.toNat ≤ 10) }
  | .fdget _ => { d := dstS, mdMask := 15 }
  | _ => {}

/-! ### Form I -/

/-- A form-I entry: whether D is a source, the bits of ISUB and IMM32 it uses. -/
structure ISpec where
  d : List Kind := []
  dSrc : Bool := false
  a : List Kind := []
  isubMask : BitVec 2 := 0
  immMask : BitVec 32 := 0xFFFFFFFF
  ok : OpI → Bool := fun _ => true

/-- System register numbers of the map (R191). -/
def sysRegs : List Nat :=
  [0x000, 0x001, 0x002, 0x003, 0x010, 0x011, 0x012, 0x013, 0x014, 0x020, 0x021, 0x022, 0x030, 0x031,
   0x040, 0x041, 0x042, 0x043, 0x050]

def iSpec (i : Instr) : ISpec :=
  match i with
  | .sysr _ => { d := dstS, ok := fun x => sysRegs.contains x.imm.toNat }
  | .sysw _ => { a := srcB, ok := fun x => sysRegs.contains x.imm.toNat }
  | .trap _ =>
    { d := [.s, .l, .lv, .p, .i, .z], dSrc := true, a := [.s, .l, .lv, .p, .i, .z],
      ok := fun x => decide (x.imm.toNat ≤ 111) }
  | .qput _ => { d := [.s], dSrc := true, a := [.s], immMask := 0 }
  | .qget _ => { d := [.s], dSrc := true, a := [.s] }
  | .qpeek _ => { d := dstS, a := [.s], immMask := 0 }
  | .addi _ => { d := dstS, a := srcS }
  | .movi _ => { d := dstS }
  | .movh _ => { d := dstS, a := srcS }
  | .cmpi _ => { d := dstP, a := srcS, isubMask := 3 }
  | _ => {}

/-! ### Form M -/

/-- A form-M entry. `vDst`: V is a destination alone, so WBS = 1 leaves it undecoded; `vBoth`: operand and destination.
`szLine`: SZ tells a sector from a line (R336). -/
structure MSpec where
  v : List Kind := []
  vDst : Bool := false
  vBoth : Bool := false
  bUsed : Bool := true
  fdUsed : Bool := false
  szs : List Size := []
  szLine : Bool := false
  ords : List MemOrd := []
  scopeWith : List MemOrd := []
  scopeAlways : Bool := false
  ok : OpM → Bool := fun _ => true

/-- SZ codes 0 to 6 (R332). -/
def szAll : List Size := [.n8, .n16, .n32, .d64, .i8, .i16, .i32]
/-- SZ codes of the atomics (R337). -/
def szAtomic (fd : Nat) : List Size :=
  if fd = 1 ∨ fd = 6 ∨ fd = 7 then [.n32, .i32] else [.n32, .d64, .i32]
def ordLd : List MemOrd := [.plain, .acquire, .nontemporal]
def ordSt : List MemOrd := [.plain, .release, .nontemporal]
def ordAt : List MemOrd := [.plain, .acquire, .release]
/-- SCOPE counts only with acquire and release (R332). -/
def ordScoped : List MemOrd := [.acquire, .release]
def srcST : List Kind := [.s, .l, .i, .z]

def mSpec (i : Instr) : MSpec :=
  match i with
  | .ld _ => { v := dstS, vDst := true, szs := szAll, ords := ordLd, scopeWith := ordScoped }
  | .st _ => { v := srcST, szs := szAll, ords := ordSt, scopeWith := ordScoped }
  | .ldv _ => { v := [.v], vDst := true, ords := ordLd, scopeWith := ordScoped }
  | .stv _ => { v := srcVC, ords := ordSt, scopeWith := ordScoped }
  | .ldt _ => { v := [.v], vDst := true, fdUsed := true, ords := ordLd, scopeWith := ordScoped }
  | .stt _ => { v := [.v, .lv, .qt], fdUsed := true, ords := ordSt, scopeWith := ordScoped }
  | .pref _ => { szLine := true, scopeAlways := true }
  | .ntst _ => { v := srcST, szs := szAll }
  | .ntstv _ => { v := srcVC }
  | .amo _ =>
    { v := [.s], vBoth := true, fdUsed := true, szs := [.n32, .d64, .i32], ords := ordAt, scopeWith := ordScoped,
      ok := fun x => decide (x.fd.toNat ≤ 11) && (szAtomic x.fd.toNat).contains x.sz }
  | .amon _ =>
    { v := srcST, fdUsed := true, szs := [.n32, .d64, .i32], ords := [.plain, .release], scopeWith := ordScoped,
      ok := fun x => decide (x.fd.toNat ≤ 10) && (szAtomic x.fd.toNat).contains x.sz }
  | .acas _ =>
    { v := [.s], vBoth := true, szs := [.n32, .d64, .i32], ords := ordAt, scopeWith := ordScoped,
      ok := fun x => x.v != .sreg 63 }
  | .mark _ => { bUsed := false }
  | .fence _ => { bUsed := false, ords := [.plain, .acquire, .release], scopeAlways := true }
  | .ntdrain _ => { bUsed := false, scopeAlways := true }
  | _ => { bUsed := false }

/-- Is SCOPE used at this ORD (R332, R339)? -/
def MSpec.scopeUsed (sp : MSpec) (o : MemOrd) : Bool := sp.scopeAlways || sp.scopeWith.contains o

/-! ### Form L -/

/-- A form-L entry at given SUB, MOD and SPREAD. -/
structure LSpec where
  v : List Kind := []
  vDst : Bool := false
  xUsed : Bool := true
  grpUsed : Bool := true
  bankUsed : Bool := true
  wordUsed : Bool := true
  nUsed : Bool := true
  spreadUsed : Bool := true
  subMask : BitVec 6 := 0
  mdMask : BitVec 7 := 0
  subOk : Bool := true
  ok : OpL → Bool := fun _ => true

/-- SPREAD = 0 allows one or two rows (R304). -/
def rowsOk (x : OpL) : Bool := x.spread || decide (x.n.toNat ≤ 1)
/-- A type `.cvt` may name (R306): not reserved, not 64 bits. -/
def cvtTyOk (md : BitVec 7) : Bool :=
  match decTy (md.extractLsb' 0 5) with
  | some t => !t.is64
  | none => false

def lSpec (i : Instr) (sub : BitVec 6) (md : BitVec 7) (spread : Bool) : LSpec :=
  match i with
  | .lsld _ =>
    { v := dstS, vDst := true, nUsed := false, spreadUsed := false, mdMask := 7, ok := fun x => decide (x.md.toNat ≤ 5) }
  | .lsst _ =>
    { v := [.s], nUsed := false, spreadUsed := false, mdMask := 7, ok := fun x => decide (x.md.toNat ≤ 5) }
  | .lsldv _ =>
    match sub.toNat with
    | 0 => { v := dstV, vDst := true, subMask := 63, ok := rowsOk }
    | 1 => { v := dstV, vDst := true, subMask := 63, mdMask := 31, ok := fun x => rowsOk x && cvtTyOk x.md }
    | 2 => { v := dstV, vDst := true, subMask := 63, ok := rowsOk }
    | 3 =>
      { v := dstV, vDst := true, subMask := 63, xUsed := false, bankUsed := false, wordUsed := false, nUsed := false,
        spreadUsed := false }
    | _ => { subMask := 63, subOk := false }
  | .lsstv _ =>
    match sub.toNat with
    | 0 => { v := [.v], subMask := 63, mdMask := 0x40, ok := rowsOk }
    | 1 => { v := [.v], subMask := 63, mdMask := 0x5F, ok := fun x => rowsOk x && cvtTyOk x.md }
    | 2 => { v := [.v], subMask := 63, mdMask := 0x40, ok := rowsOk }
    | _ => { subMask := 63, subOk := false }
  | .slld _ => { v := [.sl], ok := fun x => x.spread }
  | .hld _ => { v := [.hv], vDst := true, ok := fun x => x.spread && x.n == 15 }
  | .hst _ => { v := [.hv, .ht], ok := fun x => x.spread && x.n == 15 }
  | .bfmt _ =>
    { xUsed := false, wordUsed := false, nUsed := false, bankUsed := !spread,
      mdMask := if md.getLsbD 5 then 0x20 else 0x3F, ok := fun x => x.md.getLsbD 5 || cvtTyOk x.md }
  | _ => { subOk := false }

/-! ### Form C -/

structure CSpec where
  a : List Kind := []
  dispUsed : Bool := false
  linkWbs : Bool := false
  all : Bool := false      -- SUB and MOD used (LOOP)
  aFill : BitVec 8 := 0    -- what a reserved A is written as

def cSpec (i : Instr) : CSpec :=
  match i with
  | .br _ => { dispUsed := true }
  | .bri _ => { a := srcB }
  | .call _ => { dispUsed := true, linkWbs := true }
  | .calli _ => { a := srcB, linkWbs := true }
  | .ret _ => { a := srcB }
  | .loop _ => { a := srcB, dispUsed := true, all := true }
  | .tend _ | .yield _ => { aFill := 0x7F }
  | _ => {}

/-! ### The opcode map (R71 to R75) -/

/-- The payload of a slot instruction. -/
inductive Form where
  | nop
  | prefetch (x : OpM)
  | branch (x : OpC)
  | a (x : OpA)
  | i (x : OpI)
  | m (x : OpM)
  | l (x : OpL)
  | c (x : OpC)
  | mma (x : OpMma)
  | cpy (x : OpCpy)
  | chase (x : OpChase)
  | gath (x : OpGath)
  | send (x : OpSend)
  deriving DecidableEq, Repr

/-- Class, OP and payload of a slot instruction; none for a step of another agent (R71 to R75). -/
def slotForm (i : Instr) : Option (SlotCls × Nat × Form) :=
  match i with
  | .nop _ => none
  | .prefetchHint x => some (.m, 0x7C, .prefetch x)
  | .branchHint x => some (.c, 0x7D, .branch x)
  | .br x => some (.c, 0x01, .c x)
  | .bri x => some (.c, 0x02, .c x)
  | .call x => some (.c, 0x03, .c x)
  | .calli x => some (.c, 0x04, .c x)
  | .ret x => some (.c, 0x05, .c x)
  | .loop x => some (.c, 0x06, .c x)
  | .lbrk x => some (.c, 0x07, .c x)
  | .ldrain x => some (.c, 0x08, .c x)
  | .sysr x => some (.c, 0x09, .i x)
  | .sysw x => some (.c, 0x0A, .i x)
  | .trap x => some (.c, 0x0B, .i x)
  | .tend x => some (.c, 0x10, .c x)
  | .yield x => some (.c, 0x11, .c x)
  | .tspawn x => some (.c, 0x12, .a x)
  | .fnew x => some (.c, 0x13, .a x)
  | .fset x => some (.c, 0x14, .a x)
  | .ffail x => some (.c, 0x15, .a x)
  | .fwait x => some (.c, 0x16, .a x)
  | .ftest x => some (.c, 0x17, .a x)
  | .ffree x => some (.c, 0x18, .a x)
  | .bara x => some (.c, 0x20, .a x)
  | .barw x => some (.c, 0x21, .a x)
  | .barx x => some (.c, 0x22, .a x)
  | .bari x => some (.c, 0x23, .a x)
  | .pbara x => some (.c, 0x24, .a x)
  | .pbarw x => some (.c, 0x25, .a x)
  | .qput x => some (.c, 0x28, .i x)
  | .qget x => some (.c, 0x29, .i x)
  | .qpeek x => some (.c, 0x2A, .i x)
  | .add x => some (.s, 0x01, .a x)
  | .sub x => some (.s, 0x02, .a x)
  | .addi x => some (.s, 0x03, .i x)
  | .mul x => some (.s, 0x04, .a x)
  | .mulh x => some (.s, 0x05, .a x)
  | .mulhn x => some (.s, 0x06, .a x)
  | .div x => some (.s, 0x07, .a x)
  | .divn x => some (.s, 0x08, .a x)
  | .rem x => some (.s, 0x09, .a x)
  | .remn x => some (.s, 0x0A, .a x)
  | .and x => some (.s, 0x0B, .a x)
  | .or x => some (.s, 0x0C, .a x)
  | .xor x => some (.s, 0x0D, .a x)
  | .andn x => some (.s, 0x0E, .a x)
  | .orn x => some (.s, 0x0F, .a x)
  | .shl x => some (.s, 0x10, .a x)
  | .shr x => some (.s, 0x11, .a x)
  | .sar x => some (.s, 0x12, .a x)
  | .rol x => some (.s, 0x13, .a x)
  | .clz x => some (.s, 0x14, .a x)
  | .ctz x => some (.s, 0x15, .a x)
  | .popc x => some (.s, 0x16, .a x)
  | .min x => some (.s, 0x17, .a x)
  | .max x => some (.s, 0x18, .a x)
  | .minn x => some (.s, 0x19, .a x)
  | .maxn x => some (.s, 0x1A, .a x)
  | .abs x => some (.s, 0x1B, .a x)
  | .bfx x => some (.s, 0x1C, .a x)
  | .bfi x => some (.s, 0x1D, .a x)
  | .sext x => some (.s, 0x1E, .a x)
  | .lea x => some (.s, 0x1F, .a x)
  | .movi x => some (.s, 0x20, .i x)
  | .movh x => some (.s, 0x21, .i x)
  | .sel x => some (.s, 0x22, .a x)
  | .cmp x => some (.s, 0x23, .a x)
  | .cmpi x => some (.s, 0x24, .i x)
  | .plog x => some (.s, 0x25, .a x)
  | .xcl x => some (.s, 0x26, .a x)
  | .xcp x => some (.s, 0x27, .a x)
  | .mad x => some (.s, 0x28, .a x)
  | .fadd x => some (.s, 0x30, .a x)
  | .fsub x => some (.s, 0x31, .a x)
  | .fmul x => some (.s, 0x32, .a x)
  | .fma x => some (.s, 0x33, .a x)
  | .fdiv x => some (.s, 0x34, .a x)
  | .fsqrt x => some (.s, 0x35, .a x)
  | .fmin x => some (.s, 0x36, .a x)
  | .fmax x => some (.s, 0x37, .a x)
  | .fcmp x => some (.s, 0x38, .a x)
  | .fcvt x => some (.s, 0x39, .a x)
  | .fclass x => some (.s, 0x3A, .a x)
  | .fsgn x => some (.s, 0x3B, .a x)
  | .ld x => some (.m, 0x01, .m x)
  | .st x => some (.m, 0x02, .m x)
  | .ldv x => some (.m, 0x03, .m x)
  | .stv x => some (.m, 0x04, .m x)
  | .ldt x => some (.m, 0x05, .m x)
  | .stt x => some (.m, 0x06, .m x)
  | .pref x => some (.m, 0x08, .m x)
  | .ntst x => some (.m, 0x09, .m x)
  | .ntstv x => some (.m, 0x0A, .m x)
  | .amo x => some (.m, 0x20, .m x)
  | .amon x => some (.m, 0x21, .m x)
  | .acas x => some (.m, 0x22, .m x)
  | .mark x => some (.m, 0x30, .m x)
  | .fence x => some (.m, 0x31, .m x)
  | .ntdrain x => some (.m, 0x32, .m x)
  | .lsld x => some (.m, 0x38, .l x)
  | .lsst x => some (.m, 0x39, .l x)
  | .lsldv x => some (.m, 0x3A, .l x)
  | .lsstv x => some (.m, 0x3B, .l x)
  | .migr x => some (.m, 0x40, .a x)
  | .pgstat x => some (.m, 0x41, .a x)
  | .logapply x => some (.m, 0x42, .a x)
  | .asdecl x => some (.m, 0x43, .a x)
  | .asdrop x => some (.m, 0x44, .a x)
  | .vadd x => some (.v, 0x01, .a x)
  | .vsub x => some (.v, 0x02, .a x)
  | .vmul x => some (.v, 0x03, .a x)
  | .vfma x => some (.v, 0x04, .a x)
  | .vfms x => some (.v, 0x05, .a x)
  | .vmin x => some (.v, 0x06, .a x)
  | .vmax x => some (.v, 0x07, .a x)
  | .vabs x => some (.v, 0x08, .a x)
  | .vneg x => some (.v, 0x09, .a x)
  | .vand x => some (.v, 0x0A, .a x)
  | .vor x => some (.v, 0x0B, .a x)
  | .vxor x => some (.v, 0x0C, .a x)
  | .vandn x => some (.v, 0x0D, .a x)
  | .vshl x => some (.v, 0x0E, .a x)
  | .vshr x => some (.v, 0x0F, .a x)
  | .vsar x => some (.v, 0x10, .a x)
  | .vcmp x => some (.v, 0x11, .a x)
  | .vsel x => some (.v, 0x12, .a x)
  | .vmov x => some (.v, 0x13, .a x)
  | .vsplat x => some (.v, 0x14, .a x)
  | .vins x => some (.v, 0x15, .a x)
  | .vext x => some (.v, 0x16, .a x)
  | .vclamp x => some (.v, 0x17, .a x)
  | .vmad x => some (.v, 0x18, .a x)
  | .vdot4 x => some (.v, 0x19, .a x)
  | .vpopc x => some (.v, 0x1A, .a x)
  | .vrotr x => some (.v, 0x30, .a x)
  | .vrotc x => some (.v, 0x31, .a x)
  | .vbcr x => some (.v, 0x32, .a x)
  | .vbcc x => some (.v, 0x33, .a x)
  | .vredr x => some (.v, 0x34, .a x)
  | .vredc x => some (.v, 0x35, .a x)
  | .vtrn x => some (.v, 0x36, .a x)
  | .vcvt x => some (.v, 0x40, .a x)
  | .vrcp x => some (.v, 0x48, .a x)
  | .vrsq x => some (.v, 0x49, .a x)
  | .vsqrt x => some (.v, 0x4A, .a x)
  | .vexp2 x => some (.v, 0x4B, .a x)
  | .vlog2 x => some (.v, 0x4C, .a x)
  | .vtanh x => some (.v, 0x4D, .a x)
  | .slld x => some (.t, 0x01, .l x)
  | .mma x => some (.t, 0x02, .mma x)
  | .mmaz x => some (.t, 0x03, .mma x)
  | .hld x => some (.t, 0x10, .l x)
  | .hst x => some (.t, 0x11, .l x)
  | .hxor x => some (.t, 0x12, .a x)
  | .hrot x => some (.t, 0x13, .a x)
  | .hlog x => some (.t, 0x14, .a x)
  | .hbund x => some (.t, 0x15, .a x)
  | .hmaj x => some (.t, 0x16, .a x)
  | .hcclr x => some (.t, 0x17, .a x)
  | .htie x => some (.t, 0x18, .a x)
  | .hdist x => some (.t, 0x19, .a x)
  | .hnear x => some (.t, 0x1A, .a x)
  | .hmovv x => some (.t, 0x1B, .a x)
  | .cpy x => some (.t, 0x30, .cpy x)
  | .chase x => some (.t, 0x32, .chase x)
  | .gath x => some (.t, 0x33, .gath x)
  | .send x => some (.t, 0x40, .send x)
  | .msend x => some (.t, 0x41, .send x)
  | .wopen x => some (.t, 0x42, .a x)
  | .wclose x => some (.t, 0x43, .a x)
  | .lstat x => some (.t, 0x44, .a x)
  | .fdset x => some (.t, 0x50, .a x)
  | .fdget x => some (.t, 0x51, .a x)
  | .bfmt x => some (.t, 0x52, .l x)
  | _ => none

/-- The instruction of a class and OP with this payload; none for an unassigned OP (R71 to R75, R78). -/
def ofForm (cls : SlotCls) (op : Nat) (f : Form) : Option Instr :=
  match cls, op, f with
  | .c, 0x01, .c x => some (.br x)
  | .c, 0x02, .c x => some (.bri x)
  | .c, 0x03, .c x => some (.call x)
  | .c, 0x04, .c x => some (.calli x)
  | .c, 0x05, .c x => some (.ret x)
  | .c, 0x06, .c x => some (.loop x)
  | .c, 0x07, .c x => some (.lbrk x)
  | .c, 0x08, .c x => some (.ldrain x)
  | .c, 0x09, .i x => some (.sysr x)
  | .c, 0x0A, .i x => some (.sysw x)
  | .c, 0x0B, .i x => some (.trap x)
  | .c, 0x10, .c x => some (.tend x)
  | .c, 0x11, .c x => some (.yield x)
  | .c, 0x12, .a x => some (.tspawn x)
  | .c, 0x13, .a x => some (.fnew x)
  | .c, 0x14, .a x => some (.fset x)
  | .c, 0x15, .a x => some (.ffail x)
  | .c, 0x16, .a x => some (.fwait x)
  | .c, 0x17, .a x => some (.ftest x)
  | .c, 0x18, .a x => some (.ffree x)
  | .c, 0x20, .a x => some (.bara x)
  | .c, 0x21, .a x => some (.barw x)
  | .c, 0x22, .a x => some (.barx x)
  | .c, 0x23, .a x => some (.bari x)
  | .c, 0x24, .a x => some (.pbara x)
  | .c, 0x25, .a x => some (.pbarw x)
  | .c, 0x28, .i x => some (.qput x)
  | .c, 0x29, .i x => some (.qget x)
  | .c, 0x2A, .i x => some (.qpeek x)
  | .s, 0x01, .a x => some (.add x)
  | .s, 0x02, .a x => some (.sub x)
  | .s, 0x03, .i x => some (.addi x)
  | .s, 0x04, .a x => some (.mul x)
  | .s, 0x05, .a x => some (.mulh x)
  | .s, 0x06, .a x => some (.mulhn x)
  | .s, 0x07, .a x => some (.div x)
  | .s, 0x08, .a x => some (.divn x)
  | .s, 0x09, .a x => some (.rem x)
  | .s, 0x0A, .a x => some (.remn x)
  | .s, 0x0B, .a x => some (.and x)
  | .s, 0x0C, .a x => some (.or x)
  | .s, 0x0D, .a x => some (.xor x)
  | .s, 0x0E, .a x => some (.andn x)
  | .s, 0x0F, .a x => some (.orn x)
  | .s, 0x10, .a x => some (.shl x)
  | .s, 0x11, .a x => some (.shr x)
  | .s, 0x12, .a x => some (.sar x)
  | .s, 0x13, .a x => some (.rol x)
  | .s, 0x14, .a x => some (.clz x)
  | .s, 0x15, .a x => some (.ctz x)
  | .s, 0x16, .a x => some (.popc x)
  | .s, 0x17, .a x => some (.min x)
  | .s, 0x18, .a x => some (.max x)
  | .s, 0x19, .a x => some (.minn x)
  | .s, 0x1A, .a x => some (.maxn x)
  | .s, 0x1B, .a x => some (.abs x)
  | .s, 0x1C, .a x => some (.bfx x)
  | .s, 0x1D, .a x => some (.bfi x)
  | .s, 0x1E, .a x => some (.sext x)
  | .s, 0x1F, .a x => some (.lea x)
  | .s, 0x20, .i x => some (.movi x)
  | .s, 0x21, .i x => some (.movh x)
  | .s, 0x22, .a x => some (.sel x)
  | .s, 0x23, .a x => some (.cmp x)
  | .s, 0x24, .i x => some (.cmpi x)
  | .s, 0x25, .a x => some (.plog x)
  | .s, 0x26, .a x => some (.xcl x)
  | .s, 0x27, .a x => some (.xcp x)
  | .s, 0x28, .a x => some (.mad x)
  | .s, 0x30, .a x => some (.fadd x)
  | .s, 0x31, .a x => some (.fsub x)
  | .s, 0x32, .a x => some (.fmul x)
  | .s, 0x33, .a x => some (.fma x)
  | .s, 0x34, .a x => some (.fdiv x)
  | .s, 0x35, .a x => some (.fsqrt x)
  | .s, 0x36, .a x => some (.fmin x)
  | .s, 0x37, .a x => some (.fmax x)
  | .s, 0x38, .a x => some (.fcmp x)
  | .s, 0x39, .a x => some (.fcvt x)
  | .s, 0x3A, .a x => some (.fclass x)
  | .s, 0x3B, .a x => some (.fsgn x)
  | .m, 0x01, .m x => some (.ld x)
  | .m, 0x02, .m x => some (.st x)
  | .m, 0x03, .m x => some (.ldv x)
  | .m, 0x04, .m x => some (.stv x)
  | .m, 0x05, .m x => some (.ldt x)
  | .m, 0x06, .m x => some (.stt x)
  | .m, 0x08, .m x => some (.pref x)
  | .m, 0x09, .m x => some (.ntst x)
  | .m, 0x0A, .m x => some (.ntstv x)
  | .m, 0x20, .m x => some (.amo x)
  | .m, 0x21, .m x => some (.amon x)
  | .m, 0x22, .m x => some (.acas x)
  | .m, 0x30, .m x => some (.mark x)
  | .m, 0x31, .m x => some (.fence x)
  | .m, 0x32, .m x => some (.ntdrain x)
  | .m, 0x38, .l x => some (.lsld x)
  | .m, 0x39, .l x => some (.lsst x)
  | .m, 0x3A, .l x => some (.lsldv x)
  | .m, 0x3B, .l x => some (.lsstv x)
  | .m, 0x40, .a x => some (.migr x)
  | .m, 0x41, .a x => some (.pgstat x)
  | .m, 0x42, .a x => some (.logapply x)
  | .m, 0x43, .a x => some (.asdecl x)
  | .m, 0x44, .a x => some (.asdrop x)
  | .v, 0x01, .a x => some (.vadd x)
  | .v, 0x02, .a x => some (.vsub x)
  | .v, 0x03, .a x => some (.vmul x)
  | .v, 0x04, .a x => some (.vfma x)
  | .v, 0x05, .a x => some (.vfms x)
  | .v, 0x06, .a x => some (.vmin x)
  | .v, 0x07, .a x => some (.vmax x)
  | .v, 0x08, .a x => some (.vabs x)
  | .v, 0x09, .a x => some (.vneg x)
  | .v, 0x0A, .a x => some (.vand x)
  | .v, 0x0B, .a x => some (.vor x)
  | .v, 0x0C, .a x => some (.vxor x)
  | .v, 0x0D, .a x => some (.vandn x)
  | .v, 0x0E, .a x => some (.vshl x)
  | .v, 0x0F, .a x => some (.vshr x)
  | .v, 0x10, .a x => some (.vsar x)
  | .v, 0x11, .a x => some (.vcmp x)
  | .v, 0x12, .a x => some (.vsel x)
  | .v, 0x13, .a x => some (.vmov x)
  | .v, 0x14, .a x => some (.vsplat x)
  | .v, 0x15, .a x => some (.vins x)
  | .v, 0x16, .a x => some (.vext x)
  | .v, 0x17, .a x => some (.vclamp x)
  | .v, 0x18, .a x => some (.vmad x)
  | .v, 0x19, .a x => some (.vdot4 x)
  | .v, 0x1A, .a x => some (.vpopc x)
  | .v, 0x30, .a x => some (.vrotr x)
  | .v, 0x31, .a x => some (.vrotc x)
  | .v, 0x32, .a x => some (.vbcr x)
  | .v, 0x33, .a x => some (.vbcc x)
  | .v, 0x34, .a x => some (.vredr x)
  | .v, 0x35, .a x => some (.vredc x)
  | .v, 0x36, .a x => some (.vtrn x)
  | .v, 0x40, .a x => some (.vcvt x)
  | .v, 0x48, .a x => some (.vrcp x)
  | .v, 0x49, .a x => some (.vrsq x)
  | .v, 0x4A, .a x => some (.vsqrt x)
  | .v, 0x4B, .a x => some (.vexp2 x)
  | .v, 0x4C, .a x => some (.vlog2 x)
  | .v, 0x4D, .a x => some (.vtanh x)
  | .t, 0x01, .l x => some (.slld x)
  | .t, 0x02, .mma x => some (.mma x)
  | .t, 0x03, .mma x => some (.mmaz x)
  | .t, 0x10, .l x => some (.hld x)
  | .t, 0x11, .l x => some (.hst x)
  | .t, 0x12, .a x => some (.hxor x)
  | .t, 0x13, .a x => some (.hrot x)
  | .t, 0x14, .a x => some (.hlog x)
  | .t, 0x15, .a x => some (.hbund x)
  | .t, 0x16, .a x => some (.hmaj x)
  | .t, 0x17, .a x => some (.hcclr x)
  | .t, 0x18, .a x => some (.htie x)
  | .t, 0x19, .a x => some (.hdist x)
  | .t, 0x1A, .a x => some (.hnear x)
  | .t, 0x1B, .a x => some (.hmovv x)
  | .t, 0x30, .cpy x => some (.cpy x)
  | .t, 0x32, .chase x => some (.chase x)
  | .t, 0x33, .gath x => some (.gath x)
  | .t, 0x40, .send x => some (.send x)
  | .t, 0x41, .send x => some (.msend x)
  | .t, 0x42, .a x => some (.wopen x)
  | .t, 0x43, .a x => some (.wclose x)
  | .t, 0x44, .a x => some (.lstat x)
  | .t, 0x50, .a x => some (.fdset x)
  | .t, 0x51, .a x => some (.fdget x)
  | .t, 0x52, .l x => some (.bfmt x)
  | _, _, _ => none

/-! Payloads with every field unused, from which an OP's entry is looked up. -/
def dflA : OpA := { cl := .a, g := Guard.always, d := .nil, a := .nil, b := .nil, c := .nil, ty := .i64, sub := 0, md := 0 }
def dflI : OpI := { cl := .a, g := Guard.always, d := .nil, a := .nil, isub := 0, imm := 0 }
def dflM : OpM :=
  { cl := .a, g := Guard.always, wbs := false, v := .nil, b := .nil, fd := 0, scope := .core, ord := .plain, sz := .n8, off := 0 }
def dflL : OpL :=
  { cl := .a, g := Guard.always, v := .nil, x := .nil, grp := 0, bank := 0, word := 0, n := 0, spread := false, sub := 0, md := 0 }
def dflC : OpC := { g := Guard.always, wbs := false, a := .nil, disp := 0, sub := 0, md := 0 }
def dflMma : OpMma :=
  { g := Guard.always, d := .nil, x := .nil, l := 0, m := .nil, grp := 0, bank := 0, q := 0, fa := .f16, fb := .f16 }
def dflCpy : OpCpy :=
  { g := Guard.always, d := .nil, a := .nil, b := .nil, c := .nil, scope := .core, dls := false, sls := false, cvt := false, fm := .i64 }
def dflChase : OpChase := { g := Guard.always, d := .nil, a := .nil, b := .nil, c := .nil, scope := .core, dls := false }
def dflGath : OpGath :=
  { g := Guard.always, d := .nil, a := .nil, b := .nil, c := .nil, n := .nil, scope := .core, dls := false, sls := false,
    isz := false, gsz := 0 }
def dflSend : OpSend := { g := Guard.always, d := .nil, a := .nil, b := .nil, c := .nil, e := .nil, sls := false }

/-- The form of an assigned OP (R71 to R75). -/
def opForm (cls : SlotCls) (op : Nat) : Option Form :=
  match cls with
  | .c =>
    if [0x01, 0x02, 0x03, 0x04, 0x05, 0x06, 0x07, 0x08, 0x10, 0x11].contains op then some (.c dflC)
    else if [0x09, 0x0A, 0x0B, 0x28, 0x29, 0x2A].contains op then some (.i dflI)
    else if [0x12, 0x13, 0x14, 0x15, 0x16, 0x17, 0x18, 0x20, 0x21, 0x22, 0x23, 0x24, 0x25].contains op then some (.a dflA)
    else none
  | .s =>
    if [0x01, 0x02, 0x04, 0x05, 0x06, 0x07, 0x08, 0x09, 0x0A, 0x0B, 0x0C, 0x0D, 0x0E, 0x0F, 0x10, 0x11, 0x12, 0x13, 0x14, 0x15, 0x16, 0x17, 0x18, 0x19, 0x1A, 0x1B, 0x1C, 0x1D, 0x1E, 0x1F, 0x22, 0x23, 0x25, 0x26, 0x27, 0x28, 0x30, 0x31, 0x32, 0x33, 0x34, 0x35, 0x36, 0x37, 0x38, 0x39, 0x3A, 0x3B].contains op then some (.a dflA)
    else if [0x03, 0x20, 0x21, 0x24].contains op then some (.i dflI)
    else none
  | .m =>
    if [0x01, 0x02, 0x03, 0x04, 0x05, 0x06, 0x08, 0x09, 0x0A, 0x20, 0x21, 0x22, 0x30, 0x31, 0x32].contains op then some (.m dflM)
    else if [0x38, 0x39, 0x3A, 0x3B].contains op then some (.l dflL)
    else if [0x40, 0x41, 0x42, 0x43, 0x44].contains op then some (.a dflA)
    else none
  | .v =>
    if [0x01, 0x02, 0x03, 0x04, 0x05, 0x06, 0x07, 0x08, 0x09, 0x0A, 0x0B, 0x0C, 0x0D, 0x0E, 0x0F, 0x10, 0x11, 0x12, 0x13, 0x14, 0x15, 0x16, 0x17, 0x18, 0x19, 0x1A, 0x30, 0x31, 0x32, 0x33, 0x34, 0x35, 0x36, 0x40, 0x48, 0x49, 0x4A, 0x4B, 0x4C, 0x4D].contains op then some (.a dflA)
    else none
  | .t =>
    if [0x01, 0x10, 0x11, 0x52].contains op then some (.l dflL)
    else if [0x02, 0x03].contains op then some (.mma dflMma)
    else if [0x12, 0x13, 0x14, 0x15, 0x16, 0x17, 0x18, 0x19, 0x1A, 0x1B, 0x42, 0x43, 0x44, 0x50, 0x51].contains op then some (.a dflA)
    else if [0x30].contains op then some (.cpy dflCpy)
    else if [0x32].contains op then some (.chase dflChase)
    else if [0x33].contains op then some (.gath dflGath)
    else if [0x40, 0x41].contains op then some (.send dflSend)
    else none

/-! ### Slots, classes and weights (R30, R40, R41) -/

/-- Class and cluster of a slot (R30). -/
def slotCls (n : Nat) : SlotCls :=
  match n with
  | 0 => .c | 1 => .s | 2 => .s | 3 => .m | 4 => .m | 5 => .v | 6 => .v | _ => .t
def slotCluster (n : Nat) : Cluster :=
  match n with
  | 0 => .a | 1 => .a | 3 => .a | 5 => .a | _ => .b

/-- The slot a class has in a cluster (R30). -/
def slotOf (cls : SlotCls) (cl : Cluster) : Nat :=
  match cls, cl with
  | .c, _ => 0
  | .s, .a => 1
  | .s, .b => 2
  | .m, .a => 3
  | .m, .b => 4
  | .v, .a => 5
  | .v, .b => 6
  | .t, _ => 7

/-- The cluster a payload names. -/
def Form.cluster : Form → Cluster
  | .a x => x.cl
  | .i x => x.cl
  | .m x => x.cl
  | .l x => x.cl
  | .prefetch x => x.cl
  | .c _ | .branch _ | .nop => .a
  | _ => .b

/-- The guard of a payload; NOP and hints check none (R76, R77). -/
def Form.guard : Form → Guard
  | .nop | .prefetch _ | .branch _ => Guard.always
  | .a x => x.g
  | .i x => x.g
  | .m x => x.g
  | .l x => x.g
  | .c x => x.g
  | .mma x => x.g
  | .cpy x => x.g
  | .chase x => x.g
  | .gath x => x.g
  | .send x => x.g

/-- The fixed-latency class of an instruction, by its number in R40. -/
def latClass (i : Instr) : Option Nat :=
  match i with
  | .add _ | .sub _ | .addi _ | .and _ | .or _ | .xor _ | .andn _ | .orn _ | .shl _ | .shr _ | .sar _ | .rol _
  | .clz _ | .ctz _ | .popc _ | .min _ | .max _ | .minn _ | .maxn _ | .abs _ | .bfx _ | .bfi _ | .sext _ | .lea _
  | .movi _ | .movh _ | .sel _ | .cmp _ | .cmpi _ | .plog _ | .sysr _ | .fdset _ => some 0
  | .xcl _ | .xcp _ => some 1
  | .mul _ | .mulh _ | .mulhn _ | .mad _ => some 2
  | .div _ | .divn _ | .rem _ | .remn _ => some 3
  | .fadd _ | .fsub _ | .fmul _ | .fma _ | .fmin _ | .fmax _ | .fcmp _ | .fcvt _ | .fclass _ | .fsgn _ => some 4
  | .fdiv _ | .fsqrt _ => some 5
  | .vadd _ | .vsub _ | .vmin _ | .vmax _ | .vabs _ | .vneg _ | .vand _ | .vor _ | .vxor _ | .vandn _ | .vshl _
  | .vshr _ | .vsar _ | .vcmp _ | .vsel _ | .vmov _ | .vsplat _ | .vins _ | .vext _ | .vclamp _ | .vpopc _ => some 6
  | .vmul _ | .vfma _ | .vfms _ | .vmad _ | .vdot4 _ => some 7
  | .vcvt _ => some 8
  | .vrotr _ => some 9
  | .vrotc _ => some 10
  | .vbcr _ => some 11
  | .vbcc _ => some 12
  | .vredr _ => some 13
  | .vredc _ => some 14
  | .vtrn _ => some 15
  | .vrcp _ | .vrsq _ | .vsqrt _ | .vexp2 _ | .vlog2 _ | .vtanh _ => some 16
  | .lsld _ => some 17
  | .lsldv _ => some 18
  | .slld _ => some 19
  | .mma _ | .mmaz _ => some 20
  | .hxor _ | .hlog _ | .hcclr _ | .htie _ => some 21
  | .hrot _ | .hmaj _ => some 22
  | .hbund _ => some 23
  | .hdist _ => some 24
  | .hld _ | .hmovv _ => some 25
  | _ => none

/-- L_c of the classes of R40. -/
def nativeLatency : List Nat :=
  [1, 1, 3, 18, 4, 16, 6, 8, 6, 6, 10, 5, 8, 10, 16, 12, 16, 3, 6, 4, 12, 2, 3, 4, 5, 4]
/-- Occupancy of the classes of R40. -/
def classOccupancy : List Nat :=
  [1, 1, 1, 18, 1, 16, 4, 4, 4, 4, 4, 4, 4, 4, 4, 4, 4, 1, 2, 2, 2, 1, 1, 1, 1, 1]
/-- Weights of the classes of R40; MMA's is that of 16-bit operands. -/
def classWeight : List Nat :=
  [1, 1, 2, 3, 2, 3, 8, 12, 8, 8, 10, 8, 10, 10, 10, 10, 12, 2, 6, 6, 36, 3, 4, 6, 4, 4]

/-- The weight of a step on operands of width w (R40, R277). -/
def mmaWeight (w : Nat) : Nat :=
  if w = 16 then 36 else if w = 8 then 40 else if w = 6 then 44 else 48

/-- Weights of instructions with no fixed latency (R41). -/
def openWeight (i : Instr) : Nat :=
  match i with
  | .nop _ | .prefetchHint _ | .branchHint _ => 0
  | .ld _ | .st _ | .ntst _ => 2
  | .ldv _ | .stv _ | .ldt _ | .stt _ | .ntstv _ => 4
  | .amo _ | .amon _ | .acas _ => 3
  | .lsst _ => 2
  | .lsstv _ => 6
  | .hst _ | .hnear _ => 4
  | .cpy _ | .chase _ | .gath _ | .send _ | .msend _ | .wopen _ | .wclose _ | .lstat _ => 2
  | _ => 1

/-- The weight of an instruction, MMA's operand width given (R40, R41). -/
def weightOf (i : Instr) (mmaWidth : Nat) : Nat :=
  match latClass i with
  | some 20 => mmaWeight mmaWidth
  | some k => classWeight.getD k 0
  | none => openWeight i

/-- The irrevocable instructions (R51). -/
def irrevocable (i : Instr) : Bool :=
  match i with
  | .send _ | .msend _ | .fset _ | .ffail _ | .qput _ | .tspawn _ | .bara _ | .barx _ | .pbara _ | .trap _ => true
  | _ => false

/-- The instructions that may suspend or end the task (R51). -/
def suspending (i : Instr) : Bool :=
  match i with
  | .fwait _ | .yield _ | .barw _ | .barx _ | .pbarw _ | .qget _ | .tend _ => true
  | _ => false

/-- The instructions that raise SETWAIT under a held set (R51). -/
def setwaiting (i : Instr) : Bool :=
  match i with
  | .fwait _ | .yield _ | .barw _ | .barx _ | .pbarw _ | .qget _ => true
  | _ => false

/-- The interlocked instructions of R42, with ASDECL and ASDROP, whose results freeze a reader in the same way (R380). -/
def interlocked (i : Instr) : Bool :=
  match i with
  | .ld _ | .ldv _ | .ldt _ | .amo _ | .acas _ | .hnear _ | .qget _ | .qpeek _ | .fnew _ | .ftest _ | .fdget _
  | .pgstat _ | .asdecl _ | .asdrop _ => true
  | _ => false

end Sys2Proof.Machine
end

