-- ==== Sys2Proof/WellFormed.lean ====
section
/-!
DEFINITION. WellFormed.lean: which instructions are encodable as the spec lays them out (R63 to R78): every operand of a
kind its entry accepts, every unused field at its unused value; and which steps name an object the device has.
-/
namespace Sys2Proof

open Machine

/-- A source or destination of an accepted kind; an unused field holds `nil`. -/
def kindWf (cl : Cluster) (ks : List Kind) (o : Opnd) : Bool :=
  if ks.isEmpty then o == .nil else ks.contains (kindOf cl o)

/-- A destination: `nil` stands for WBS = 1 (R37) wherever that is legal. -/
def dstWf (cl : Cluster) (ks : List Kind) (wbsOk : Bool) (o : Opnd) : Bool :=
  if ks.isEmpty then o == .nil else (o == .nil && wbsOk) || ks.contains (kindOf cl o)

def OpA.wf (cls : SlotCls) (i : Instr) (x : OpA) : Bool :=
  let sp := aSpec i x.sub x.md (encTy x.ty)
  (match cls with
    | .c => x.cl == .a
    | .t => x.cl == .b
    | _ => true)
  && sp.subOk && dstWf x.cl sp.d (!sp.wbsBad) x.d && kindWf x.cl sp.a x.a && kindWf x.cl sp.b x.b
  && kindWf x.cl sp.c x.c && (sp.tyUsed || x.ty == .i64) && x.sub &&& sp.subMask == x.sub
  && x.md &&& sp.mdMask == x.md && sp.ok x

def OpI.wf (cls : SlotCls) (i : Instr) (x : OpI) : Bool :=
  let sp := iSpec i
  (match cls with
    | .c => x.cl == .a
    | _ => true)
  && dstWf x.cl sp.d (!sp.dSrc) x.d && kindWf x.cl sp.a x.a && x.isub &&& sp.isubMask == x.isub
  && x.imm &&& sp.immMask == x.imm && sp.ok x

def OpM.wf (i : Instr) (x : OpM) : Bool :=
  let sp := mSpec i
  dstWf x.cl sp.v sp.vDst x.v && (sp.vBoth || !x.wbs)
  && (if sp.bUsed then srcW.contains (kindOf x.cl x.b) else x.b == .nil && x.off == 0)
  && (sp.fdUsed || x.fd == 0)
  && (if sp.szLine then x.sz == .n8 || x.sz == .sector
      else if sp.szs.isEmpty then x.sz == .n8 else sp.szs.contains x.sz)
  && (if sp.ords.isEmpty then x.ord == .plain else sp.ords.contains x.ord)
  && (sp.scopeUsed x.ord || x.scope == .core) && sp.ok x

def OpL.wf (cls : SlotCls) (i : Instr) (x : OpL) : Bool :=
  let sp := lSpec i x.sub x.md x.spread
  (match cls with
    | .t => x.cl == .b
    | _ => true)
  && sp.subOk && dstWf x.cl sp.v sp.vDst x.v
  && (if sp.xUsed then srcW.contains (kindOf x.cl x.x) else x.x == .nil)
  && (sp.bankUsed || x.bank == 0) && (sp.wordUsed || x.word == 0) && (sp.nUsed || x.n == 0)
  && (sp.spreadUsed || !x.spread) && x.sub &&& sp.subMask == x.sub && x.md &&& sp.mdMask == x.md && sp.ok x

def OpC.wf (i : Instr) (x : OpC) : Bool :=
  let sp := cSpec i
  kindWf .a sp.a x.a && (sp.dispUsed || x.disp == 0) && (sp.linkWbs || !x.wbs)
  && (sp.all || (x.sub == 0 && x.md == 0))

/-- A nonnegative immediate, or another S operand (R269, R273). -/
def mmaXOk (o : Opnd) : Bool :=
  match o with
  | .imm v => !v.getLsbD 6
  | o => [Kind.s, .l, .z].contains (kindOf .b o)

/-- The width of the operands a type names in a matrix step, where the type alone fixes it (R264): a narrow format's descriptor
fixes 4, 6 or 8 bits. None: no step accepts the type. -/
def Ty.mmaWidth : Ty → Option Nat
  | .f16 | .bf16 => some 16
  | .i8 | .n8 | .fd _ => some 8
  | _ => none
/-- FA and FB as the word alone decides them (R78, R264). -/
def mmaTyOk (fa fb : Ty) : Bool := fa.mmaWidth.isSome && fa.mmaWidth == fb.mmaWidth

def OpMma.wf (i : Instr) (x : OpMma) : Bool :=
  (match x.d with
    | .vreg _ => true
    | .nil => (match i with
      | .mmaz _ => true
      | _ => false)
    | _ => false)
  && mmaXOk x.x && [Kind.s, .l, .z].contains (kindOf .b x.m) && mmaTyOk x.fa x.fb

def srcWb (o : Opnd) : Bool := srcW.contains (kindOf .b o)

def OpCpy.wf (x : OpCpy) : Bool :=
  srcWb x.d && srcWb x.a && srcWb x.b && srcWb x.c && (if x.cvt then !x.fm.is64 else x.fm == .i64)
def OpChase.wf (x : OpChase) : Bool := srcWb x.d && srcWb x.a && srcWb x.b && srcWb x.c
def OpGath.wf (x : OpGath) : Bool := srcWb x.d && srcWb x.a && srcWb x.b && srcWb x.c && srcWb x.n
def OpSend.wf (i : Instr) (x : OpSend) : Bool :=
  srcWb x.d && srcWb x.a && srcWb x.b && srcWb x.c
  && (match i with
    | .msend _ => srcWb x.e
    | _ => x.e == .nil)

/-- A hint keeps its base and displacement alone (R77). -/
def prefetchWf (x : OpM) : Bool :=
  x == { dflM with cl := x.cl, b := x.b, off := x.off }
  && (match x.b with
    | .sreg _ => true
    | .nil => x.off == 0
    | _ => false)
def branchHintWf (x : OpC) : Bool := x == { dflC with disp := x.disp }

/-- A slot instruction that some word encodes. -/
def slotWf (i : Instr) : Bool :=
  match slotForm i with
  | none => (match i with
    | .nop _ => true
    | _ => false)
  | some (cls, _, f) =>
    match f with
    | .nop => true
    | .prefetch x => prefetchWf x
    | .branch x => branchHintWf x
    | .a x => x.wf cls i
    | .i x => x.wf cls i
    | .m x => x.wf i
    | .l x => x.wf cls i
    | .c x => x.wf i
    | .mma x => x.wf i
    | .cpy x => x.wf
    | .chase x => x.wf
    | .gath x => x.wf
    | .send x => x.wf i

/-- Slot words a header announces (R61, R62). -/
def spmCount (h : Word) : Nat :=
  ((List.range 8).filter fun k => h.getLsbD k).length

/-- A bundle with one word for each bit of SPM (R61). -/
def RawBundle.wf (b : RawBundle) : Bool := b.words.length == spmCount b.header

def LineId.wf (l : LineId) : Bool := decide (l.residue < 32) && decide (l.band < 10)

/-- Instructions and steps that name what the device has: cores 0 to 1151 (R15), queues, contexts, launch slots and so
on within their numbers. -/
def Instr.wf (i : Instr) : Bool :=
  match i with
  | .bundleIssue lin b => decide (lin < 1152) && b.wf
  | .quiescentCompletion lin | .resultVisible lin | .currentWindowBoundary lin | .rampWindowBoundary lin
  | .dummyMma lin | .preemptArrival lin | .woundArrival lin | .transit lin | .dirtyLineWriteback lin =>
    decide (lin < 1152)
  | .queuePerform lin _ | .translationComplete lin _ | .setRequest lin _ => decide (lin < 1152)
  | .taskPick t | .walkerCreate t | .groupStart t _ | .pantry t _ => decide (t < 8)
  | .launchAccept k | .launchComplete k | .launchAbortDrainComplete k | .handlerStart k => decide (k < 4096)
  | .nopRecord q | .launch q | .glaunch q | .signal q | .waitf q | .migsched q | .slottabLoad q | .slottabSwitch q
  | .mcgroup q | .reservedRecord q | .enable q | .drain q | .stop q | .reset q => decide (q < 1024)
  | .queueAppend q _ _ => decide (q < 1024)
  | .build c | .activate c | .quiesce c | .resume c | .destroy c | .ctxDrainComplete c | .teardownComplete c
  | .futureAlloc c | .map c | .unmap c | .chmod c | .remap c => decide (c < 64)
  | .wavelengthCheck l _ | .thermalRetune l | .retuneRelock l | .retuneTimeout l | .restore l => l.wf
  | .pairRetirement p => decide (p < 576)
  | i => (slotForm i).isNone || slotWf i

end Sys2Proof
end

