-- ==== Sys2Proof/Decode.lean ====
section
/-!
DEFINITION. Decode.lean: from bits to instructions (R61 to R78), total, refusing by name; and the encoder, written from
the same tables.
-/
namespace Sys2Proof

open Machine

/-- Why bits are refused: the two fates of R78, and too few bytes for the bundle the header announces. -/
inductive DecodeError where
  | illInst
  | illOpnd
  | truncated
  deriving DecidableEq, Repr

/-! ### Fields of a slot word (R63, R65) -/

def fOp (w : Word) : BitVec 7 := w.extractLsb' 57 7
def fNeg (w : Word) : Bool := w.getLsbD 56
def fPsel (w : Word) : BitVec 5 := w.extractLsb' 51 5
def fWbs (w : Word) : Bool := w.getLsbD 50
def fD (w : Word) : BitVec 8 := w.extractLsb' 42 8
def fA (w : Word) : BitVec 8 := w.extractLsb' 34 8
def fB (w : Word) : BitVec 8 := w.extractLsb' 26 8
def fC (w : Word) : BitVec 8 := w.extractLsb' 18 8

/-- An operand of an accepted kind, or an illegal operand; an unused field is not decoded (R67). -/
def decKind (cl : Cluster) (ks : List Kind) (b : BitVec 8) : Except DecodeError Opnd :=
  if ks.isEmpty then .ok .nil
  else
    match decOpnd b with
    | some o => if ks.contains (kindOf cl o) then .ok o else .error .illOpnd
    | none => .error .illOpnd

/-- A destination: with WBS = 1 it is not decoded (R37). -/
def decDst (cl : Cluster) (ks : List Kind) (wbs : Bool) (b : BitVec 8) : Except DecodeError Opnd :=
  if wbs then .ok .nil else decKind cl ks b

def orIllOpnd {α : Type} (o : Option α) : Except DecodeError α :=
  match o with
  | some a => .ok a
  | none => .error .illOpnd

/-- The guard fields (R64). -/
def decGuard (cl : Cluster) (w : Word) : Except DecodeError Guard := do
  let s ← orIllOpnd (decGuardSel cl (fPsel w))
  .ok { sel := s, neg := fNeg w }

def guardIf {α : Type} (c : Bool) (e : DecodeError) (k : Except DecodeError α) : Except DecodeError α :=
  if c then k else .error e

/-- Form A (R65). -/
def decA (i : Instr) (cl : Cluster) (w : Word) : Except DecodeError OpA := do
  let sub : BitVec 6 := w.extractLsb' 7 6
  let md : BitVec 7 := w.extractLsb' 0 7
  let sp := aSpec i sub md (w.extractLsb' 13 5)
  guardIf sp.subOk .illInst do
    let g ← decGuard cl w
    guardIf (!(fWbs w && sp.wbsBad)) .illOpnd do
      let d ← decDst cl sp.d (fWbs w) (fD w)
      let a ← decKind cl sp.a (fA w)
      let b ← decKind cl sp.b (fB w)
      let c ← decKind cl sp.c (fC w)
      let ty ← if sp.tyUsed then orIllOpnd (decTy (w.extractLsb' 13 5)) else .ok .i64
      let x : OpA := { cl := cl, g := g, d := d, a := a, b := b, c := c, ty := ty, sub := sub &&& sp.subMask,
                       md := md &&& sp.mdMask }
      guardIf (sp.ok x) .illOpnd (.ok x)

/-- Form I (R65). -/
def decI (i : Instr) (cl : Cluster) (w : Word) : Except DecodeError OpI := do
  let sp := iSpec i
  let g ← decGuard cl w
  let d ← decDst cl sp.d (fWbs w && !sp.dSrc) (fD w)
  let a ← decKind cl sp.a (fA w)
  let x : OpI := { cl := cl, g := g, d := d, a := a, isub := w.extractLsb' 32 2 &&& sp.isubMask,
                   imm := w.extractLsb' 0 32 &&& sp.immMask }
  guardIf (sp.ok x) .illOpnd (.ok x)

/-- Form M (R65, R332). -/
def decM (i : Instr) (cl : Cluster) (w : Word) : Except DecodeError OpM := do
  let sp := mSpec i
  let g ← decGuard cl w
  let v ← decDst cl sp.v (fWbs w && sp.vDst) (fD w)
  let b ← if sp.bUsed then decKind cl srcW (fA w) else .ok .nil
  let sz0 := decSize (w.extractLsb' 22 3)
  let sz : Size := if sp.szLine then (if sz0 = .sector then .sector else .n8)
    else if sp.szs.isEmpty then .n8 else sz0
  let ord : MemOrd := if sp.ords.isEmpty then .plain else decOrd (w.extractLsb' 25 2)
  guardIf ((sp.szs.isEmpty || sp.szs.contains sz) && (sp.ords.isEmpty || sp.ords.contains ord)) .illOpnd do
    let scope ← if sp.scopeUsed ord then orIllOpnd (decScope (w.extractLsb' 27 3)) else .ok .core
    let x : OpM := { cl := cl, g := g, wbs := fWbs w && sp.vBoth, v := v, b := b,
                     fd := if sp.fdUsed then w.extractLsb' 30 4 else 0, scope := scope, ord := ord, sz := sz,
                     off := if sp.bUsed then w.extractLsb' 0 22 else 0 }
    guardIf (sp.ok x) .illOpnd (.ok x)

/-- Form L (R65). -/
def decL (i : Instr) (cl : Cluster) (w : Word) : Except DecodeError OpL := do
  let sub : BitVec 6 := w.extractLsb' 7 6
  let md : BitVec 7 := w.extractLsb' 0 7
  let spread := w.getLsbD 13
  let sp := lSpec i sub md spread
  guardIf sp.subOk .illInst do
    let g ← decGuard cl w
    let v ← decDst cl sp.v (fWbs w && sp.vDst) (fD w)
    let x ← if sp.xUsed then decKind cl srcW (fA w) else .ok .nil
    let r : OpL := { cl := cl, g := g, v := v, x := x, grp := w.extractLsb' 32 2,
                     bank := if sp.bankUsed then w.extractLsb' 29 3 else 0,
                     word := if sp.wordUsed then w.extractLsb' 18 11 else 0,
                     n := if sp.nUsed then w.extractLsb' 14 4 else 0, spread := spread && sp.spreadUsed,
                     sub := sub &&& sp.subMask, md := md &&& sp.mdMask }
    guardIf (sp.ok r) .illOpnd (.ok r)

/-- Form C (R65), in slot c. -/
def decC (i : Instr) (w : Word) : Except DecodeError OpC := do
  let sp := cSpec i
  let g ← decGuard .a w
  let a ← decKind .a sp.a (w.extractLsb' 12 8)
  .ok { g := g, wbs := fWbs w && sp.linkWbs, a := a, disp := if sp.dispUsed then w.extractLsb' 20 30 else 0,
        sub := if sp.all then w.extractLsb' 6 6 else 0, md := if sp.all then w.extractLsb' 0 6 else 0 }

/-- MMA and MMAZ (R269, R273). -/
def decMma (i : Instr) (w : Word) : Except DecodeError OpMma := do
  let g ← decGuard .b w
  let isZ := match i with
    | .mmaz _ => true
    | _ => false
  guardIf (isZ || !fWbs w) .illOpnd do
    let d ← decDst .b (if isZ then [.v, .z] else [.v]) (fWbs w) (fD w)
    let l ← decKind .b [.sl] (fB w)
    let x ← decKind .b srcW (fA w)
    let m ← decKind .b [.s, .l, .z] (fC w)
    let fa ← orIllOpnd (decTy (w.extractLsb' 5 5))
    let fb ← orIllOpnd (decTy (w.extractLsb' 0 5))
    guardIf (mmaXOk x && mmaTyOk fa fb) .illOpnd
      (match l with
        | .sl k => .ok { g := g, d := d, x := x, l := k, m := m, grp := w.extractLsb' 15 2,
                         bank := w.extractLsb' 12 3, q := w.extractLsb' 10 2, fa := fa, fb := fb }
        | _ => .error .illOpnd)

/-- CPY (R308, R309). -/
def decCpy (w : Word) : Except DecodeError OpCpy := do
  let g ← decGuard .b w
  let d ← decKind .b srcW (fD w)
  let a ← decKind .b srcW (fA w)
  let b ← decKind .b srcW (fB w)
  let c ← decKind .b srcW (fC w)
  let scope ← orIllOpnd (decScope (w.extractLsb' 0 3))
  let cvt := w.getLsbD 5
  let fm ← if cvt then orIllOpnd (decTy (w.extractLsb' 6 5)) else .ok .i64
  guardIf (!cvt || !fm.is64) .illOpnd
    (.ok { g := g, d := d, a := a, b := b, c := c, scope := scope, dls := w.getLsbD 3, sls := w.getLsbD 4,
           cvt := cvt, fm := fm })

/-- CHASE (R308, R311). -/
def decChase (w : Word) : Except DecodeError OpChase := do
  let g ← decGuard .b w
  let d ← decKind .b srcW (fD w)
  let a ← decKind .b srcW (fA w)
  let b ← decKind .b srcW (fB w)
  let c ← decKind .b srcW (fC w)
  let scope ← orIllOpnd (decScope (w.extractLsb' 0 3))
  .ok { g := g, d := d, a := a, b := b, c := c, scope := scope, dls := w.getLsbD 3 }

/-- GATH (R308, R312). -/
def decGath (w : Word) : Except DecodeError OpGath := do
  let g ← decGuard .b w
  let d ← decKind .b srcW (fD w)
  let a ← decKind .b srcW (fA w)
  let b ← decKind .b srcW (fB w)
  let c ← decKind .b srcW (fC w)
  let n ← decKind .b srcW (w.extractLsb' 10 8)
  let scope ← orIllOpnd (decScope (w.extractLsb' 0 3))
  .ok { g := g, d := d, a := a, b := b, c := c, n := n, scope := scope, dls := w.getLsbD 3, sls := w.getLsbD 4,
        isz := w.getLsbD 5, gsz := w.extractLsb' 6 2 }

/-- SEND and MSEND (R413). -/
def decSend (i : Instr) (w : Word) : Except DecodeError OpSend := do
  let g ← decGuard .b w
  let d ← decKind .b srcW (fD w)
  let a ← decKind .b srcW (fA w)
  let b ← decKind .b srcW (fB w)
  let c ← decKind .b srcW (fC w)
  let e ← match i with
    | .msend _ => decKind .b srcW (w.extractLsb' 10 8)
    | _ => .ok .nil
  .ok { g := g, d := d, a := a, b := b, c := c, e := e, sls := w.getLsbD 0 }

def fromForm (cls : SlotCls) (op : Nat) (f : Form) : Except DecodeError Instr :=
  match ofForm cls op f with
  | some i => .ok i
  | none => .error .illInst

/-- A prefetch hint keeps the address it names; it never faults (R77). -/
def decPrefetch (cl : Cluster) (w : Word) : OpM :=
  match decOpnd (fA w) with
  | some (.sreg n) => { dflM with cl := cl, b := .sreg n, off := w.extractLsb' 0 22 }
  | _ => { dflM with cl := cl }

/-- A slot word decoded in the class of the slot it fills (R63, R71 to R78). -/
def decodeSlot (n : Fin 8) (w : Word) : Except DecodeError Instr :=
  let cls := slotCls n.val
  let cl := slotCluster n.val
  let op := (fOp w).toNat
  if op = 0 then .ok (.nop n)
  else if 0x7C ≤ op then
    if op = 0x7C ∧ cls = .m then .ok (.prefetchHint (decPrefetch cl w))
    else if op = 0x7D ∧ cls = .c then .ok (.branchHint { dflC with disp := w.extractLsb' 20 30 })
    else .ok (.nop n)
  else
    match opForm cls op with
    | none => .error .illInst
    | some f0 =>
      match ofForm cls op f0 with
      | none => .error .illInst
      | some i0 =>
        match f0 with
        | .a _ => do fromForm cls op (.a (← decA i0 cl w))
        | .i _ => do fromForm cls op (.i (← decI i0 cl w))
        | .m _ => do fromForm cls op (.m (← decM i0 cl w))
        | .l _ => do fromForm cls op (.l (← decL i0 cl w))
        | .c _ => do fromForm cls op (.c (← decC i0 w))
        | .mma _ => do fromForm cls op (.mma (← decMma i0 w))
        | .cpy _ => do fromForm cls op (.cpy (← decCpy w))
        | .chase _ => do fromForm cls op (.chase (← decChase w))
        | .gath _ => do fromForm cls op (.gath (← decGath w))
        | .send _ => do fromForm cls op (.send (← decSend i0 w))
        | _ => .error .illInst

/-! ### Bundles (R61, R62) -/

/-- Eight bytes, the lowest first, as a word (R3). -/
def wordOfBytes : List Byte → Option (Word × List Byte)
  | b0 :: b1 :: b2 :: b3 :: b4 :: b5 :: b6 :: b7 :: rest => some (b7 ++ b6 ++ b5 ++ b4 ++ b3 ++ b2 ++ b1 ++ b0, rest)
  | _ => none

def bytesOfWord (w : Word) : List Byte := (List.range 8).map fun k => w.extractLsb' (8 * k) 8

/-- `k` words from a byte stream. -/
def wordsOfBytes : Nat → List Byte → Option (List Word × List Byte)
  | 0, bs => some ([], bs)
  | k + 1, bs =>
    match wordOfBytes bs with
    | none => none
    | some (w, rest) =>
      match wordsOfBytes k rest with
      | none => none
      | some (ws, rest') => some (w :: ws, rest')

/-- A bundle from memory bytes: the header, then one word for each bit of SPM (R61). -/
def decodeBundle (bs : List Byte) : Except DecodeError (RawBundle × List Byte) :=
  match wordOfBytes bs with
  | none => .error .truncated
  | some (h, rest) =>
    match wordsOfBytes (spmCount h) rest with
    | none => .error .truncated
    | some (ws, rest') => .ok ({ header := h, words := ws }, rest')

/-- The slots a header names, ascending (R61, R62). -/
def spmSlots (h : Word) : List (Fin 8) :=
  [0, 1, 2, 3, 4, 5, 6, 7].filter fun k : Fin 8 => h.getLsbD k.val

/-- Slot numbers with their words. -/
def RawBundle.slotWords (b : RawBundle) : List (Fin 8 × Word) := (spmSlots b.header).zip b.words

def RawBundle.quiet (b : RawBundle) : Bool := b.header.getLsbD 8
def RawBundle.wait (b : RawBundle) : Nat := (b.header.extractLsb' 9 5).toNat
/-- Length in words (R61). -/
def RawBundle.len (b : RawBundle) : Nat := 1 + b.words.length

/-! ### The encoder -/

def encCommon (op : Nat) (cl : Cluster) (g : Guard) (wbs : Bool) (body : BitVec 50) : Word :=
  BitVec.ofNat 7 op ++ BitVec.ofBool g.neg ++ encGuardSel cl g.sel ++ BitVec.ofBool wbs ++ body

/-- A destination of `nil` is written with WBS = 1 and 0x7F, as rhas writes `_` (R37, R83). -/
def encA (i : Instr) (op : Nat) (x : OpA) : Word :=
  let sp := aSpec i x.sub x.md (encTy x.ty)
  encCommon op x.cl x.g (x.d == .nil && !sp.wbsBad && !sp.d.isEmpty)
    (encOpnd x.d ++ encOpnd x.a ++ encOpnd x.b ++ encOpnd x.c ++ encTy x.ty ++ x.sub ++ x.md)

def encI (i : Instr) (op : Nat) (x : OpI) : Word :=
  encCommon op x.cl x.g (x.d == .nil && !(iSpec i).dSrc && !(iSpec i).d.isEmpty) (encOpnd x.d ++ encOpnd x.a ++ x.isub ++ x.imm)

def encM (i : Instr) (op : Nat) (x : OpM) : Word :=
  encCommon op x.cl x.g (x.wbs || (x.v == .nil && (mSpec i).vDst))
    (encOpnd x.v ++ encOpnd x.b ++ x.fd ++ encScope x.scope ++ encOrd x.ord ++ encSize x.sz ++ x.off)

def encL (i : Instr) (op : Nat) (x : OpL) : Word :=
  encCommon op x.cl x.g (x.v == .nil && (lSpec i x.sub x.md x.spread).vDst)
    (encOpnd x.v ++ encOpnd x.x ++ x.grp ++ x.bank ++ x.word ++ x.n ++ BitVec.ofBool x.spread ++ x.sub ++ x.md)

/-- A reserved A is written as zero, and as 0x7F in TEND and YIELD (R145, R146, R177). -/
def encC (i : Instr) (op : Nat) (x : OpC) : Word :=
  let a : BitVec 8 := if (cSpec i).a.isEmpty then (cSpec i).aFill else encOpnd x.a
  encCommon op .a x.g x.wbs (x.disp ++ a ++ x.sub ++ x.md)

def encMma (op : Nat) (x : OpMma) : Word :=
  encCommon op .b x.g (x.d == .nil)
    (encOpnd x.d ++ encOpnd x.x ++ encOpnd (.sl x.l) ++ encOpnd x.m ++ (0 : BitVec 1) ++ x.grp ++ x.bank ++ x.q
      ++ encTy x.fa ++ encTy x.fb)

def encCpy (op : Nat) (x : OpCpy) : Word :=
  encCommon op .b x.g false
    (encOpnd x.d ++ encOpnd x.a ++ encOpnd x.b ++ encOpnd x.c ++ (0 : BitVec 7) ++ encTy x.fm ++ BitVec.ofBool x.cvt
      ++ BitVec.ofBool x.sls ++ BitVec.ofBool x.dls ++ encScope x.scope)

def encChase (op : Nat) (x : OpChase) : Word :=
  encCommon op .b x.g false
    (encOpnd x.d ++ encOpnd x.a ++ encOpnd x.b ++ encOpnd x.c ++ (0 : BitVec 14) ++ BitVec.ofBool x.dls
      ++ encScope x.scope)

def encGath (op : Nat) (x : OpGath) : Word :=
  encCommon op .b x.g false
    (encOpnd x.d ++ encOpnd x.a ++ encOpnd x.b ++ encOpnd x.c ++ encOpnd x.n ++ (0 : BitVec 2) ++ x.gsz
      ++ BitVec.ofBool x.isz ++ BitVec.ofBool x.sls ++ BitVec.ofBool x.dls ++ encScope x.scope)

/-- The field E: SEND's is reserved and written as zero (R413). -/
def encSendE (i : Instr) (x : OpSend) : BitVec 8 :=
  match i with
  | .msend _ => encOpnd x.e
  | _ => 0

def encSend (i : Instr) (op : Nat) (x : OpSend) : Word :=
  encCommon op .b x.g false
    (encOpnd x.d ++ encOpnd x.a ++ encOpnd x.b ++ encOpnd x.c ++ encSendE i x ++ (0 : BitVec 9) ++ BitVec.ofBool x.sls)

/-- The slot of a slot instruction, with the word that encodes it; none for a step of another agent. -/
def encode (i : Instr) : Option (Fin 8 × Word) :=
  match i with
  | .nop n => some (n, 0)
  | i =>
    match slotForm i with
    | none => none
    | some (cls, op, f) =>
      let n : Fin 8 := Fin.ofNat 8 (slotOf cls f.cluster)
      match f with
      | .nop => some (n, 0)
      | .prefetch x =>
        some (n, encCommon op x.cl Guard.always false
          ((0x7F : BitVec 8) ++ encOpnd x.b ++ (0 : BitVec 12) ++ x.off))
      | .branch x => some (n, encCommon op .a Guard.always false (x.disp ++ (0 : BitVec 20)))
      | .a x => some (n, encA i op x)
      | .i x => some (n, encI i op x)
      | .m x => some (n, encM i op x)
      | .l x => some (n, encL i op x)
      | .c x => some (n, encC i op x)
      | .mma x => some (n, encMma op x)
      | .cpy x => some (n, encCpy op x)
      | .chase x => some (n, encChase op x)
      | .gath x => some (n, encGath op x)
      | .send x => some (n, encSend i op x)

/-- A bundle of one slot instruction (R61, R62). -/
def encodeBundle (quiet : Bool) (wait : BitVec 5) (slot : Fin 8) (w : Word) : RawBundle :=
  { header := (0 : BitVec 50) ++ wait ++ BitVec.ofBool quiet ++ BitVec.ofNat 8 (2 ^ slot.val), words := [w] }

/-! ### The host's word -/

/-- The bytes of a number, lowest first. -/
def bytesOfNat (w : Nat) : Nat → List Byte
  | 0 => []
  | k + 1 => BitVec.ofNat 8 w :: bytesOfNat (w / 256) k

/-- The bundle in a number's bytes: nine words at most, the bits above `nbits` zero (R61). -/
def bundleOfNat (nbits w : Nat) : Option RawBundle :=
  match decodeBundle (bytesOfNat (w % 2 ^ nbits) 72) with
  | .ok (b, _) => some b
  | .error _ => none

/-- What the decoder reads from a bundle laid out as the hardware stores it: the issue of that bundle on core 0. -/
def decodeTableWord (nbits w : Nat) : Option Instr :=
  (bundleOfNat nbits w).map fun b => .bundleIssue 0 b

end Sys2Proof
end

