-- ==== Sys2Proof/Machine/Flags.lean ====
section
/-!
DEFINITION. Machine/Flags.lean: the sticky flags FPSF (R215), the event counters MXC (R216), and every rule that
computes them from the flags and counts a result raises.
-/
namespace Sys2Proof.Machine

/-- The six flags of R215, in the order of their bits. -/
structure FpFlags where
  io : Bool := false
  dz : Bool := false
  ovf : Bool := false
  unf : Bool := false
  nx : Bool := false
  nc : Bool := false
  deriving DecidableEq, Repr

/-- No flag raised. -/
def FpFlags.none : FpFlags := {}

/-- Flags raised together: each is the OR (R47, R217). -/
def FpFlags.or (a b : FpFlags) : FpFlags :=
  { io := a.io || b.io, dz := a.dz || b.dz, ovf := a.ovf || b.ovf,
    unf := a.unf || b.unf, nx := a.nx || b.nx, nc := a.nc || b.nc }

/-- The layout of FPSF (R215): IO bit 0, DZ 1, OF 2, UF 3, NX 4, NC 5. -/
def FpFlags.toBits (f : FpFlags) : BitVec 6 :=
  BitVec.ofNat 6
    ((if f.io then 1 else 0) + (if f.dz then 2 else 0) + (if f.ovf then 4 else 0)
      + (if f.unf then 8 else 0) + (if f.nx then 16 else 0) + (if f.nc then 32 else 0))

/-- FPSF's layout read back (R215). -/
def FpFlags.ofBits (b : BitVec 6) : FpFlags :=
  { io := b.getLsbD 0, dz := b.getLsbD 1, ovf := b.getLsbD 2,
    unf := b.getLsbD 3, nx := b.getLsbD 4, nc := b.getLsbD 5 }

def FpFlags.ioF : FpFlags := { io := true }
def FpFlags.dzF : FpFlags := { dz := true }
def FpFlags.nxF : FpFlags := { nx := true }
def FpFlags.ncF : FpFlags := { nc := true }
def FpFlags.ncnxF : FpFlags := { nc := true, nx := true }
def FpFlags.ofnxF : FpFlags := { ovf := true, nx := true }
def FpFlags.ionc : FpFlags := { io := true, nc := true }

/-- The events a result adds to MXC (R216). -/
structure FpCounts where
  nanin : Nat := 0
  infin : Nat := 0
  accovf : Nat := 0
  nsat : Nat := 0
  deriving DecidableEq, Repr

/-- Events of two results. -/
def FpCounts.add (a b : FpCounts) : FpCounts :=
  { nanin := a.nanin + b.nanin, infin := a.infin + b.infin,
    accovf := a.accovf + b.accovf, nsat := a.nsat + b.nsat }

/-- The four counters of MXC (R216), 16 bits each. -/
structure Mxc where
  nanin : BitVec 16 := 0
  infin : BitVec 16 := 0
  accovf : BitVec 16 := 0
  nsat : BitVec 16 := 0
  deriving DecidableEq, Repr

/-- One MXC counter: it saturates at 0xFFFF (R216). -/
def satAdd16 (c : BitVec 16) (n : Nat) : BitVec 16 :=
  if c.toNat + n ≥ 65535 then 65535#16 else BitVec.ofNat 16 (c.toNat + n)

/-- MXC after a result's events (R216). -/
def Mxc.add (m : Mxc) (c : FpCounts) : Mxc :=
  { nanin := satAdd16 m.nanin c.nanin, infin := satAdd16 m.infin c.infin,
    accovf := satAdd16 m.accovf c.accovf, nsat := satAdd16 m.nsat c.nsat }

/-- Counters as counts (R138). -/
def Mxc.counts (m : Mxc) : FpCounts :=
  { nanin := m.nanin.toNat, infin := m.infin.toNat, accovf := m.accovf.toNat, nsat := m.nsat.toNat }

/-- The layout of MXC (R216). -/
def Mxc.toWord (m : Mxc) : Word := m.nsat ++ m.accovf ++ m.infin ++ m.nanin

/-- MXC's layout read back (R216). -/
def Mxc.ofWord (w : Word) : Mxc :=
  { nanin := w.extractLsb' 0 16, infin := w.extractLsb' 16 16,
    accovf := w.extractLsb' 32 16, nsat := w.extractLsb' 48 16 }

/-- The flags an enabled trap names: enables IOE to NXE in bits [9:5] of FPCR stand in the order of the flags IO to
NX, and NC has no enable (R215, R218). -/
def trapping (enables : BitVec 5) (f : FpFlags) : Bool :=
  (f.toBits.extractLsb' 0 5 &&& enables) != 0

/-- A 32-bit counter that saturates (R46, R59). -/
def satAdd32 (c : BitVec 32) (n : Nat) : BitVec 32 :=
  if c.toNat + n ≥ 4294967295 then 4294967295#32 else BitVec.ofNat 32 (c.toNat + n)

end Sys2Proof.Machine
end

