-- ==== Sys2Proof/Machine/Formats.lean ====
section
/-!
DEFINITION. Machine/Formats.lean: the number formats of chapter 12: decoding a code to an exact value (R198, R203,
R204), Round (R206 to R211), NaN results (R214) and the correctly rounded operations built on them.
-/
namespace Sys2Proof.Machine

/-- Rounding modes of FPCR.RM and of a descriptor's RM (R201, R206, R212). -/
inductive RMode where
  | rne | rtz | rup | rdn | rna
  deriving DecidableEq, Repr

/-- FPCR.RM: values 5 to 7 select RNE (R212). -/
def RMode.ofFpcr (b : BitVec 3) : RMode :=
  match b.toNat with
  | 1 => .rtz
  | 2 => .rup
  | 3 => .rdn
  | 4 => .rna
  | _ => .rne

/-- The standard floating-point formats (R198). -/
inductive StdFmt where
  | f64 | f32 | f16 | bf16
  deriving DecidableEq, Repr

def StdFmt.width : StdFmt → Nat
  | .f64 => 64 | .f32 => 32 | .f16 => 16 | .bf16 => 16
/-- Fraction bits (R198). -/
def StdFmt.frac : StdFmt → Nat
  | .f64 => 52 | .f32 => 23 | .f16 => 10 | .bf16 => 7
def StdFmt.expBits : StdFmt → Nat
  | .f64 => 11 | .f32 => 8 | .f16 => 5 | .bf16 => 8
def StdFmt.bias : StdFmt → Nat
  | .f64 => 1023 | .f32 => 127 | .f16 => 15 | .bf16 => 127
/-- Exponent of the smallest normal magnitude. -/
def StdFmt.emin (f : StdFmt) : Int := 1 - (f.bias : Int)

/-- What a code means: an exact real, an infinity or a NaN (R206). A NaN keeps its fraction bits left-aligned in 52
bits, so that a narrower destination takes the high bits and a wider one pads zeros below (R214). -/
inductive Val where
  | num (neg : Bool) (m : Nat) (e : Int)
  | inf (neg : Bool)
  | nan (neg : Bool) (frac : Nat) (sig : Bool)
  deriving DecidableEq, Repr

def Val.isNan : Val → Bool
  | .nan _ _ _ => true
  | _ => false
def Val.isInf : Val → Bool
  | .inf _ => true
  | _ => false
def Val.isSig : Val → Bool
  | .nan _ _ s => s
  | _ => false
def Val.isZero : Val → Bool
  | .num _ m _ => m == 0
  | _ => false
def Val.neg? : Val → Bool
  | .num n _ _ => n
  | .inf n => n
  | .nan n _ _ => n

/-- The value with its sign inverted. -/
def Val.negate : Val → Val
  | .num n m e => .num (!n) m e
  | .inf n => .inf (!n)
  | .nan n f s => .nan (!n) f s

/-- The value without its sign. -/
def Val.abs : Val → Val
  | .num _ m e => .num false m e
  | .inf _ => .inf false
  | .nan _ f s => .nan false f s

/-- An exact integer. -/
def Val.ofInt (i : Int) : Val := .num (decide (i < 0)) i.natAbs 0

/-- Number of bits of m: 0 for 0. -/
def bitLen (m : Nat) : Nat := if m = 0 then 0 else Nat.log2 m + 1

/-- m × 2^e rounded to a multiple of 2^q: the multiple, and whether the rounding was exact (R206). -/
def roundAt (rm : RMode) (neg : Bool) (m : Nat) (e q : Int) : Nat × Bool :=
  if q ≤ e then (m <<< (e - q).toNat, true)
  else
    let sh := (q - e).toNat
    let k := m >>> sh
    let r := m - (k <<< sh)
    if r = 0 then (k, true)
    else
      let half := 1 <<< (sh - 1)
      let up : Bool := match rm with
        | .rne => decide (half < r) || (decide (r = half) && k % 2 == 1)
        | .rna => decide (half ≤ r)
        | .rtz => false
        | .rup => !neg
        | .rdn => neg
      (if up then k + 1 else k, false)

/-- Does m1 × 2^e1 < m2 × 2^e2 hold? -/
def magLt (m1 : Nat) (e1 : Int) (m2 : Nat) (e2 : Int) : Bool :=
  let e := min e1 e2
  decide (m1 <<< (e1 - e).toNat < m2 <<< (e2 - e).toNat)

/-- Where an overflowing result of this sign goes to infinity (R208, IEEE 754). -/
def overflowsToInf (rm : RMode) (neg : Bool) : Bool :=
  match rm with
  | .rne => true
  | .rna => true
  | .rtz => false
  | .rup => !neg
  | .rdn => neg

namespace StdFmt

/-- Code from sign, exponent field and fraction. -/
def pack (f : StdFmt) (neg : Bool) (ex fr : Nat) : Nat :=
  ((if neg then 1 <<< (f.width - 1) else 0) + (ex <<< f.frac)) + fr

def infCode (f : StdFmt) (neg : Bool) : Nat := f.pack neg (2 ^ f.expBits - 1) 0
def maxCode (f : StdFmt) (neg : Bool) : Nat := f.pack neg (2 ^ f.expBits - 2) (2 ^ f.frac - 1)
/-- The canonical NaN of R214. -/
def canonNan (f : StdFmt) : Nat := f.pack false (2 ^ f.expBits - 1) (2 ^ (f.frac - 1))
/-- A NaN result that keeps an operand's sign and payload, its top fraction bit set (R214). -/
def nanCode (f : StdFmt) (neg : Bool) (frac52 : Nat) : Nat :=
  f.pack neg (2 ^ f.expBits - 1) ((frac52 >>> (52 - f.frac)) ||| (1 <<< (f.frac - 1)))

/-- Decode a standard code (R198, R199); with daz a subnormal reads as zero of its sign (R211). -/
def decode (f : StdFmt) (daz : Bool) (bits : Nat) : Val :=
  let neg := (bits >>> (f.width - 1)) % 2 == 1
  let ex := (bits >>> f.frac) % 2 ^ f.expBits
  let fr := bits % 2 ^ f.frac
  if ex = 2 ^ f.expBits - 1 then
    if fr = 0 then .inf neg
    else .nan neg (fr <<< (52 - f.frac)) ((fr >>> (f.frac - 1)) % 2 == 0)
  else if ex = 0 then
    if daz then .num neg 0 0 else .num neg fr (f.emin - f.frac)
  else .num neg (fr + 2 ^ f.frac) ((ex : Int) - f.bias - f.frac)

/-- Round an exact value into a standard format (R208 last paragraph, R211): the code and its flags. -/
def round (f : StdFmt) (rm : RMode) (ftz : Bool) (neg : Bool) (m : Nat) (e : Int) : Nat × FpFlags :=
  if m = 0 then (f.pack neg 0 0, {})
  else
    let qn : Int := e + bitLen m - (f.frac + 1)          -- quantum with the exponent unbounded
    let qs : Int := f.emin - f.frac                       -- quantum of the subnormals
    let q := max qn qs
    let (k, ex) := roundAt rm neg m e q
    let (t, _) := roundAt rm neg m e qn
    let tiny := magLt t qn 1 f.emin
    if !(magLt k q 1 ((f.bias : Int) + 1)) then
      (if overflowsToInf rm neg then f.infCode neg else f.maxCode neg, FpFlags.ofnxF)
    else if magLt k q 1 f.emin then
      if ftz && decide (k ≠ 0) then (f.pack neg 0 0, { unf := true, nx := true })
      else (f.pack neg 0 k, { unf := tiny && !ex, nx := !ex })
    else
      let ee := q + bitLen k - 1                          -- exponent of the rounded value
      let fr := if bitLen k > f.frac + 1 then (k >>> 1) - 2 ^ f.frac else k - 2 ^ f.frac
      (f.pack neg (ee + f.bias).toNat fr, { unf := tiny && !ex, nx := !ex })

end StdFmt

/-! ### Narrow formats (R201 to R205) -/

/-- The fields of a descriptor (R201). -/
structure Desc where
  s : Bool
  ew : Nat
  mw : Nat
  bias : Nat
  spec : Nat
  nanZero : Bool
  sat : Bool
  rm : Nat
  rs : Bool
  denorm : Bool
  deriving DecidableEq, Repr

def Desc.ofBits (v : BitVec 32) : Desc :=
  { s := v.getLsbD 0, ew := (v.extractLsb' 1 3).toNat, mw := (v.extractLsb' 4 3).toNat,
    bias := (v.extractLsb' 8 8).toNat, spec := (v.extractLsb' 16 2).toNat, nanZero := v.getLsbD 18,
    sat := v.getLsbD 19, rm := (v.extractLsb' 20 3).toNat, rs := v.getLsbD 23, denorm := v.getLsbD 24 }

/-- The code width w = S + EW + MW (R202). -/
def Desc.width (d : Desc) : Nat := (if d.s then 1 else 0) + d.ew + d.mw

/-- A value FDSET and the header check accept (R202, R224). -/
def descOk (v : BitVec 32) : Bool :=
  v == 0 || (let d := Desc.ofBits v
             decide (2 ≤ d.width) && decide (d.width ≤ 8) && decide (d.spec ≠ 3))

/-- The rounding mode of a conversion into d: RM 7 is FPCR's, 5 and 6 select RNE (R201, R206). -/
def Desc.rmode (d : Desc) (fpcr : RMode) : RMode :=
  if d.rm = 7 then fpcr
  else match d.rm with
    | 1 => .rtz
    | 2 => .rup
    | 3 => .rdn
    | 4 => .rna
    | _ => .rne

namespace Desc

/-- Decode a narrow code (R203, R204). -/
def decode (d : Desc) (code : Nat) : Val :=
  let w := d.width
  let c := code % 2 ^ w
  if d.ew = 0 then
    if d.s && decide (2 ^ (w - 1) ≤ c) then .num true (2 ^ w - c) (-(d.bias : Int))
    else .num false c (-(d.bias : Int))
  else
    let neg := d.s && c >>> (w - 1) == 1
    let ex := (c >>> d.mw) % 2 ^ d.ew
    let m := c % 2 ^ d.mw
    let top := 2 ^ d.ew - 1
    if ex = 0 then
      if m = 0 || !d.denorm then .num neg 0 0
      else .num neg m (1 - (d.bias : Int) - d.mw)
    else if ex = top && decide (d.spec = 0) then
      if m = 0 then .inf neg else .nan neg (m <<< (52 - d.mw)) false
    else if ex = top && decide (d.spec = 1) && decide (m ≠ 0) && m == 2 ^ d.mw - 1 then
      .nan neg (m <<< (52 - d.mw)) false
    else .num neg (m + 2 ^ d.mw) ((ex : Int) - d.bias - d.mw)

/-- Code of a magnitude with its sign bit, where the format has one. -/
def withSign (d : Desc) (neg : Bool) (mag : Nat) : Nat :=
  if neg && d.s then mag + 2 ^ (d.width - 1) else mag

/-- Magnitude code of maxfin in a floating-point format (R203): the largest finite one. -/
def maxMag (d : Desc) : Nat :=
  let ones := 2 ^ d.mw - 1
  let top := 2 ^ d.ew - 1
  match d.spec with
  | 0 => if d.ew = 1 then (if d.denorm then ones else 0) else ((top - 1) <<< d.mw) + ones
  | 1 => (top <<< d.mw) + (ones - 1)
  | _ => (top <<< d.mw) + ones

/-- maxfin as a code; for an integer format and a negative sign the lowest value of its range (R203, R204). -/
def maxCode (d : Desc) (neg : Bool) : Nat :=
  if d.ew = 0 then
    if neg then (if d.s then 2 ^ d.mw else 0) else 2 ^ d.mw - 1
  else d.withSign neg d.maxMag

/-- The result of a NaN into this format (R208). -/
def nanResult (d : Desc) (cn neg : Bool) : Nat × FpFlags :=
  let sg := neg && !cn
  if d.ew ≠ 0 && decide (d.spec = 0) && decide (1 ≤ d.mw) then
    (d.withSign sg (((2 ^ d.ew - 1) <<< d.mw) + 2 ^ (d.mw - 1)), {})
  else if d.ew ≠ 0 && decide (d.spec = 1) then
    (d.withSign sg (2 ^ (d.ew + d.mw) - 1), {})
  else (if d.nanZero then 0 else d.maxCode neg, FpFlags.ncF)

/-- OverflowResult of R207: the rows of R208; an infinite source raises NC alone. -/
def overflow (d : Desc) (rm : RMode) (neg : Bool) (ofInf : Bool) : Nat × FpFlags :=
  if d.sat || decide (d.ew = 0) then (d.maxCode neg, if ofInf then FpFlags.ncF else FpFlags.ncnxF)
  else
    match d.spec with
    | 0 => (if overflowsToInf rm neg then d.withSign neg ((2 ^ d.ew - 1) <<< d.mw) else d.maxCode neg,
            if ofInf then FpFlags.ncF else FpFlags.ofnxF)
    | 1 => (d.withSign neg (2 ^ (d.ew + d.mw) - 1), if ofInf then FpFlags.ncF else FpFlags.ofnxF)
    | _ => (if d.nanZero then 0 else d.maxCode neg,
            if ofInf then FpFlags.ncF else { ovf := true, nc := true, nx := true })

/-- Round of R207 for a number. -/
def roundNum (d : Desc) (rm : RMode) (neg : Bool) (m : Nat) (e : Int) : Nat × FpFlags :=
  if m = 0 then (if d.ew = 0 then 0 else d.withSign neg 0, {})
  else if !d.s && neg then (0, FpFlags.ncnxF)
  else if d.ew = 0 then
    let (k, ex) := roundAt rm neg m e (-(d.bias : Int))
    let beyond := if neg then decide (2 ^ d.mw < k) else decide (2 ^ d.mw - 1 < k)
    if beyond then d.overflow rm neg false
    else (if neg && decide (k ≠ 0) then 2 ^ d.width - k else k, { nx := !ex })
  else
    let qn : Int := e + bitLen m - (d.mw + 1)
    let qs : Int := 1 - (d.bias : Int) - d.mw
    let q := max qn qs
    let (k, ex) := roundAt rm neg m e q
    let (t, _) := roundAt rm neg m e qn
    let emin : Int := 1 - (d.bias : Int)
    let beyond := match d.decode d.maxMag with
      | .num _ mm me => magLt mm me k q
      | _ => true
    if beyond then d.overflow rm neg false
    else
      let uf := magLt t qn 1 emin && !ex && decide (t ≠ 0)
      let sub := magLt k q 1 emin
      if !d.denorm && sub && decide (k ≠ 0) then (d.withSign neg 0, { unf := true, nx := true })
      else if sub then (d.withSign neg k, { unf := uf, nx := !ex })
      else
        let ee := q + bitLen k - 1
        let fr := if bitLen k > d.mw + 1 then (k >>> 1) - 2 ^ d.mw else k - 2 ^ d.mw
        (d.withSign neg (((ee + d.bias).toNat <<< d.mw) + fr), { unf := uf, nx := !ex })

/-- Round into a narrow format (R207, R208). -/
def round (d : Desc) (rm : RMode) (cn : Bool) (v : Val) : Nat × FpFlags :=
  match v with
  | .nan neg _ _ => d.nanResult cn neg
  | .inf neg =>
    if !d.s && neg then (0, FpFlags.ncnxF)
    else if d.ew ≠ 0 && decide (d.spec = 0) then (d.withSign neg ((2 ^ d.ew - 1) <<< d.mw), {})
    else d.overflow rm neg true
  | .num neg m e => d.roundNum rm neg m e

end Desc

/-! ### The arithmetic state an instruction captures at issue (R212) -/

/-- FPCR (R212): the fields an operation captures when it issues. -/
structure FpEnv where
  rm : RMode
  ftz : Bool
  daz : Bool
  cn : Bool
  enables : BitVec 5
  deriving DecidableEq, Repr

/-- The fields of FPCR's 11 used bits (R212). -/
def FpEnv.ofFpcr (b : BitVec 11) : FpEnv :=
  { rm := RMode.ofFpcr (b.extractLsb' 0 3), ftz := b.getLsbD 3, daz := b.getLsbD 4,
    cn := b.getLsbD 10, enables := b.extractLsb' 5 5 }

/-- The state of a conversion outside the S and V classes, which read subnormal operands as they are (R211). -/
def FpEnv.noDaz (e : FpEnv) : FpEnv := { e with daz := false }

/-- A type of R69 with its descriptor resolved. A descriptor of value 0 is `raw`: no conversion, width 8 (R202). -/
inductive Fmt where
  | int (signed : Bool) (n : Nat)
  | std (f : StdFmt)
  | narrow (v : BitVec 32)
  | raw
  deriving DecidableEq, Repr

/-- Bits an element occupies (R198, R200, R202). -/
def Fmt.width : Fmt → Nat
  | .int _ n => n
  | .std f => f.width
  | .narrow v => (Desc.ofBits v).width
  | .raw => 8

/-- A descriptor as a format (R202). -/
def Fmt.ofDesc (v : BitVec 32) : Fmt := if v = 0 then .raw else .narrow v

/-- Decode an element of a type to its exact value (R206). -/
def Fmt.decode (t : Fmt) (daz : Bool) (bits : Nat) : Val :=
  match t with
  | .int sg n =>
    let c := bits % 2 ^ n
    if sg && decide (2 ^ (n - 1) ≤ c) then .num true (2 ^ n - c) 0 else .num false c 0
  | .std f => f.decode daz (bits % 2 ^ f.width)
  | .narrow v => (Desc.ofBits v).decode bits
  | .raw => .num false (bits % 256) 0

/-- A value into a standard floating-point format (R208, R214). -/
def roundStdVal (f : StdFmt) (env : FpEnv) (rm : RMode) (v : Val) : Nat × FpFlags :=
  match v with
  | .nan neg fr sg => (if env.cn then f.canonNan else f.nanCode neg fr, { io := sg })
  | .inf neg => (f.infCode neg, {})
  | .num neg m e => f.round rm env.ftz neg m e

/-- A value into a standard integer type (R208): NX when inexact, IO and NC out of range or for a NaN. -/
def roundIntVal (sg : Bool) (n : Nat) (rm : RMode) (v : Val) : Nat × FpFlags :=
  let top := if sg then 2 ^ (n - 1) - 1 else 2 ^ n - 1
  let bot := if sg then 2 ^ (n - 1) else 0        -- code and magnitude of the lowest value
  match v with
  | .nan _ _ _ => (0, FpFlags.ionc)
  | .inf neg => (if neg then bot else top, FpFlags.ionc)
  | .num neg m e =>
    let (k, ex) := roundAt rm neg m e 0
    if neg then
      if bot < k then (bot, FpFlags.ionc) else ((2 ^ n - k) % 2 ^ n, { nx := !ex })
    else if top < k then (top, FpFlags.ionc)
    else (k, { nx := !ex })

/-- Round(x, t, rm) of R206 with rm chosen as R206 says, `trunc` forcing RTZ (R247). A signalling NaN operand raises
IO whatever the destination (R199). -/
def Fmt.round (t : Fmt) (env : FpEnv) (trunc : Bool) (v : Val) : Nat × FpFlags :=
  let rm := if trunc then RMode.rtz else env.rm
  let (c, fl) := match t with
    | .int sg n => roundIntVal sg n rm v
    | .std f => roundStdVal f env rm v
    | .narrow d =>
      let d := Desc.ofBits d
      d.round (if trunc then .rtz else d.rmode env.rm) env.cn v
    | .raw => (0, {})
  (c, if v.isSig then { fl with io := true } else fl)

/-- Multiplication by 2^s, exact (R209). -/
def Val.scale (v : Val) (s : Int) : Val :=
  match v with
  | .num n m e => .num n m (e + s)
  | x => x

/-- One conversion of an element (R206, R210): a raw copy of the destination's width where either side converts
nothing. `sIn` and `sOut` are row scales (R209). -/
def convertElem (src dst : Fmt) (env : FpEnv) (trunc : Bool) (sIn sOut : Int) (bits : Nat) :
    Nat × FpFlags × FpCounts :=
  if src = .raw ∨ dst = .raw then
    ((bits % 2 ^ src.width) % 2 ^ dst.width, {}, {})
  else
    let daz := match src with
      | .std _ => env.daz
      | _ => false
    let v := (src.decode daz bits).scale (sIn - sOut)
    let (c, fl) := dst.round env trunc v
    (c, fl, { nanin := if v.isNan then 1 else 0, infin := if v.isInf then 1 else 0,
              nsat := if fl.nc then 1 else 0 })

/-! ### Exact arithmetic with one rounding -/

/-- m1 × 2^e1 + m2 × 2^e2 with signs, exactly; an exact zero takes the sign `zneg`. -/
def addNum (n1 : Bool) (m1 : Nat) (e1 : Int) (n2 : Bool) (m2 : Nat) (e2 : Int) (zneg : Bool) : Val :=
  let e := min e1 e2
  let a : Int := (m1 <<< (e1 - e).toNat : Nat)
  let b : Int := (m2 <<< (e2 - e).toNat : Nat)
  let s := (if n1 then -a else a) + (if n2 then -b else b)
  if s = 0 then .num zneg 0 0 else .num (decide (s < 0)) s.natAbs e

/-- The sign of an exact zero sum (R244): that of two zeros of one sign, else − under RDN and + otherwise. -/
def zeroSign (rm : RMode) (n1 n2 : Bool) (bothZero : Bool) : Bool :=
  if bothZero && n1 == n2 then n1 else rm == .rdn

/-- The NaN result of an operation with these operands (R214), the signalling operands' IO (R199). -/
def nanOf (f : StdFmt) (cn : Bool) (ops : List Val) : Nat × FpFlags :=
  let io := ops.any Val.isSig
  match ops.find? Val.isNan with
  | some (.nan neg fr _) => (if cn then f.canonNan else f.nanCode neg fr, { io := io })
  | _ => (f.canonNan, { io := io })

/-- An invalid operation with no NaN operand (R213, R214). -/
def invalid (f : StdFmt) : Nat × FpFlags := (f.canonNan, FpFlags.ioF)

/-- A + B in format f (R244). -/
def fpAdd (f : StdFmt) (env : FpEnv) (a b : Val) : Nat × FpFlags :=
  match a, b with
  | .num n1 m1 e1, .num n2 m2 e2 =>
    roundStdVal f env env.rm
      (addNum n1 m1 e1 n2 m2 e2 (zeroSign env.rm n1 n2 (m1 == 0 && m2 == 0)))
  | .inf n1, .inf n2 => if n1 = n2 then (f.infCode n1, {}) else invalid f
  | .inf n1, .num _ _ _ => (f.infCode n1, {})
  | .num _ _ _, .inf n2 => (f.infCode n2, {})
  | _, _ => nanOf f env.cn [a, b]

/-- A − B (R244): a NaN operand B keeps its own sign (R214). -/
def fpSub (f : StdFmt) (env : FpEnv) (a b : Val) : Nat × FpFlags :=
  if a.isNan || b.isNan then nanOf f env.cn [a, b] else fpAdd f env a b.negate

/-- A × B (R244). -/
def fpMul (f : StdFmt) (env : FpEnv) (a b : Val) : Nat × FpFlags :=
  match a, b with
  | .num n1 m1 e1, .num n2 m2 e2 => roundStdVal f env env.rm (.num (n1 != n2) (m1 * m2) (e1 + e2))
  | .inf n1, .inf n2 => (f.infCode (n1 != n2), {})
  | .inf n1, .num n2 m2 _ => if m2 = 0 then invalid f else (f.infCode (n1 != n2), {})
  | .num n1 m1 _, .inf n2 => if m1 = 0 then invalid f else (f.infCode (n1 != n2), {})
  | _, _ => nanOf f env.cn [a, b]

/-- Is the product 0 × ∞ (R213, R244)? -/
def zeroTimesInf (a b : Val) : Bool := (a.isZero && b.isInf) || (a.isInf && b.isZero)

/-- A × B + C rounded once (R244): 0 × ∞ raises IO even when C is a quiet NaN. -/
def fpFma (f : StdFmt) (env : FpEnv) (a b c : Val) : Nat × FpFlags :=
  if a.isNan || b.isNan || c.isNan then
    let (r, fl) := nanOf f env.cn [a, b, c]
    (r, if zeroTimesInf a b then { fl with io := true } else fl)
  else if zeroTimesInf a b then invalid f
  else
    match a, b, c with
    | .num n1 m1 e1, .num n2 m2 e2, .num n3 m3 e3 =>
      let np := n1 != n2
      roundStdVal f env env.rm
        (addNum np (m1 * m2) (e1 + e2) n3 m3 e3 (zeroSign env.rm np n3 (m1 * m2 == 0 && m3 == 0)))
    | .num _ _ _, .num _ _ _, .inf n3 => (f.infCode n3, {})
    | a, b, .inf n3 => if (a.neg? != b.neg?) = n3 then (f.infCode n3, {}) else invalid f
    | a, b, _ => (f.infCode (a.neg? != b.neg?), {})

/-- A × B − C rounded once (R255): C enters with its sign inverted, a NaN C keeps its own sign (R214). -/
def fpFms (f : StdFmt) (env : FpEnv) (a b c : Val) : Nat × FpFlags :=
  if c.isNan then fpFma f env a b c else fpFma f env a b c.negate

/-- An exact quotient to enough bits, with a last bit that is 1 when the division left a remainder. -/
def quot (m1 : Nat) (e1 : Int) (m2 : Nat) (e2 : Int) : Nat × Int :=
  let sh := 70 + bitLen m2
  let k := (m1 <<< sh) / m2
  let r := (m1 <<< sh) - k * m2
  (2 * k + (if r = 0 then 0 else 1), e1 - e2 - sh - 1)

/-- A ÷ B (R213, R244). -/
def fpDiv (f : StdFmt) (env : FpEnv) (a b : Val) : Nat × FpFlags :=
  match a, b with
  | .num n1 m1 e1, .num n2 m2 e2 =>
    if m2 = 0 then (if m1 = 0 then invalid f else (f.infCode (n1 != n2), FpFlags.dzF))
    else
      let (m, e) := quot m1 e1 m2 e2
      roundStdVal f env env.rm (.num (n1 != n2) m e)
  | .inf _, .inf _ => invalid f
  | .inf n1, .num n2 _ _ => (f.infCode (n1 != n2), {})
  | .num n1 _ _, .inf n2 => (f.pack (n1 != n2) 0 0, {})
  | _, _ => nanOf f env.cn [a, b]

/-- Integer square root of n, built bit by bit from bit k down. -/
def isqrtFrom (n : Nat) : Nat → Nat → Nat
  | 0, r => if (r + 1) * (r + 1) ≤ n then r + 1 else r
  | k + 1, r =>
    let r' := r + 2 ^ (k + 1)
    isqrtFrom n k (if r' * r' ≤ n then r' else r)

/-- The floor of the square root. -/
def isqrt (n : Nat) : Nat := isqrtFrom n (bitLen n / 2 + 1) 0

/-- An exact square root to enough bits with a sticky last bit. -/
def root (m : Nat) (e : Int) : Nat × Int :=
  let sh : Nat := 144 + (e % 2).toNat
  let n := m <<< sh
  let k := isqrt n
  (2 * k + (if k * k = n then 0 else 1), (e - sh) / 2 - 1)

/-- √A (R244). -/
def fpSqrt (f : StdFmt) (env : FpEnv) (a : Val) : Nat × FpFlags :=
  match a with
  | .num n m e =>
    if m = 0 then (f.pack n 0 0, {})
    else if n then invalid f
    else
      let (k, q) := root m e
      roundStdVal f env env.rm (.num false k q)
  | .inf n => if n then invalid f else (f.infCode false, {})
  | .nan _ _ _ => nanOf f env.cn [a]

/-- A < B as numbers or infinities, −0 below +0 where `signedZero` (R245). -/
def valLt (signedZero : Bool) (a b : Val) : Bool :=
  match a, b with
  | .num n1 m1 e1, .num n2 m2 e2 =>
    if m1 = 0 ∧ m2 = 0 then signedZero && n1 && !n2
    else if m1 = 0 then !n2
    else if m2 = 0 then n1
    else if n1 && !n2 then true
    else if !n1 && n2 then false
    else if n1 then magLt m2 e2 m1 e1
    else magLt m1 e1 m2 e2
  | .inf n1, .inf n2 => n1 && !n2
  | .inf n1, .num _ _ _ => n1
  | .num _ _ _, .inf n2 => !n2
  | _, _ => false

/-- A = B as numbers, −0 equal to +0 (R246). -/
def valEq (a b : Val) : Bool :=
  !a.isNan && !b.isNan && !valLt false a b && !valLt false b a

/-- FMIN and FMAX (R245): exact, the number where one operand is NaN, IO from a signalling NaN alone. The result is
returned unflushed. -/
def fpMinMax (f : StdFmt) (env : FpEnv) (isMax : Bool) (a b : Val) (abits bbits : Nat) : Nat × FpFlags :=
  let io : FpFlags := { io := a.isSig || b.isSig }
  let code (v : Val) (bits : Nat) : Nat := if v.isZero then f.pack v.neg? 0 0 else bits
  if a.isNan && b.isNan then ((nanOf f env.cn [a, b]).1, io)
  else if a.isNan then (code b bbits, io)
  else if b.isNan then (code a abits, io)
  else
    let pickB := if isMax then valLt true a b else valLt true b a
    (if pickB then code b bbits else code a abits, io)

/-- FCMP and VCMP conditions on floating-point values (R246): the truth value and its IO. -/
def fpCompare (cond : Nat) (a b : Val) : Bool × FpFlags :=
  let un := a.isNan || b.isNan
  let sig := a.isSig || b.isSig
  match cond with
  | 0 => (!un && valEq a b, { io := sig })
  | 1 => (un || !valEq a b, { io := sig })
  | 2 => (!un && valLt false a b, { io := un })
  | 3 => (!un && !valLt false b a, { io := un })
  | 4 => (!un && valLt false b a, { io := un })
  | 5 => (!un && !valLt false a b, { io := un })
  | 6 => (un, { io := sig })
  | _ => (!un, { io := sig })

/-- Rounding to an integral value of the same format (R247 SUB 1). -/
def fpRint (f : StdFmt) (env : FpEnv) (a : Val) : Nat × FpFlags :=
  match a with
  | .nan _ _ _ => nanOf f env.cn [a]
  | .inf n => (f.infCode n, {})
  | .num n m e =>
    if m = 0 then (f.pack n 0 0, {})
    else
      let (k, ex) := roundAt env.rm n m e 0
      let (c, _) := f.round .rne false n k 0
      (c, { nx := !ex })

/-- FCLASS of a standard code (R248). -/
def fpClassStd (f : StdFmt) (bits : Nat) : Nat :=
  match f.decode false bits with
  | .inf n => if n then 1 else 2 ^ 7
  | .nan _ _ sg => if sg then 2 ^ 8 else 2 ^ 9
  | .num n m e =>
    if m = 0 then (if n then 2 ^ 3 else 2 ^ 4)
    else if magLt m e 1 f.emin then (if n then 2 ^ 2 else 2 ^ 5)
    else (if n then 2 else 2 ^ 6)

/-- FCLASS of a narrow code (R248): 0 for an integer format. -/
def fpClassNarrow (d : Desc) (bits : Nat) : Nat :=
  if d.ew = 0 then 0
  else
    match d.decode bits with
    | .inf n => if n then 1 else 2 ^ 7
    | .nan _ _ _ => 2 ^ 9
    | .num n m e =>
      if m = 0 then (if n then 2 ^ 3 else 2 ^ 4)
      else if magLt m e 1 (1 - (d.bias : Int)) then (if n then 2 ^ 2 else 2 ^ 5)
      else (if n then 2 else 2 ^ 6)

/-- Operand events of one result element (R216). -/
def fpCounts (ops : List Val) : FpCounts :=
  { nanin := if ops.any Val.isNan then 1 else 0, infin := if ops.any Val.isInf then 1 else 0 }

end Sys2Proof.Machine
end

