-- ==== Sys2Proof/Machine/Alu.lean ====
section
/-!
DEFINITION. Machine/Alu.lean: the integer, logic, shift, field and compare functions of the scalar register chapter
(R228, R231 to R242), on words and widths alone.
-/
namespace Sys2Proof.Machine

/-- The low n bits of a source (R228). -/
def lowBits (n : Nat) (w : Word) : Nat := w.toNat % 2 ^ n

/-- n bits read as two's complement. -/
def signedOf (n : Nat) (v : Nat) : Int := if 2 ^ (n - 1) ≤ v then (v : Int) - 2 ^ n else v

/-- The low n bits of a source read signed or unsigned (R231). -/
def readInt (sg : Bool) (n : Nat) (w : Word) : Int :=
  if sg then signedOf n (lowBits n w) else (lowBits n w : Int)

/-- An n-bit result extended to 64 bits, by sign or by zeros (R228). -/
def extendTo64 (sg : Bool) (n : Nat) (r : Int) : Word :=
  let v := (r % 2 ^ n).toNat
  if sg then BitVec.ofInt 64 (signedOf n v) else BitVec.ofNat 64 v

/-! ### R231 -/

def aluAdd (n : Nat) (a b : Word) : Int := (lowBits n a : Int) + lowBits n b
def aluSub (n : Nat) (a b : Word) : Int := (lowBits n a : Int) - lowBits n b
def aluMul (n : Nat) (a b : Word) : Int := (lowBits n a : Int) * lowBits n b
def aluMad (n : Nat) (a b c : Word) : Int := (lowBits n a : Int) * lowBits n b + lowBits n c
/-- High n bits of the 2n-bit product, floored (R231). -/
def aluMulHigh (sg : Bool) (n : Nat) (a b : Word) : Int := (readInt sg n a * readInt sg n b) / 2 ^ n
/-- Quotient toward zero; all ones for a zero divisor; −2^(n−1) over −1 wraps (R231). -/
def aluDiv (sg : Bool) (n : Nat) (a b : Word) : Int :=
  let x := readInt sg n a
  let y := readInt sg n b
  if y = 0 then 2 ^ n - 1 else Int.tdiv x y
/-- Remainder with the sign of a; a itself for a zero divisor (R231). -/
def aluRem (sg : Bool) (n : Nat) (a b : Word) : Int :=
  let x := readInt sg n a
  let y := readInt sg n b
  if y = 0 then x else x - Int.tdiv x y * y
def aluMin (sg : Bool) (n : Nat) (a b : Word) : Int := min (readInt sg n a) (readInt sg n b)
def aluMax (sg : Bool) (n : Nat) (a b : Word) : Int := max (readInt sg n a) (readInt sg n b)
def aluAbs (n : Nat) (a : Word) : Int := (readInt true n a).natAbs

/-! ### R232 -/

def aluAnd (n : Nat) (a b : Word) : Int := lowBits n (a &&& b)
def aluOr (n : Nat) (a b : Word) : Int := lowBits n (a ||| b)
def aluXor (n : Nat) (a b : Word) : Int := lowBits n (a ^^^ b)
def aluAndn (n : Nat) (a b : Word) : Int := lowBits n (a &&& ~~~b)
def aluOrn (n : Nat) (a b : Word) : Int := lowBits n (a ||| ~~~b)
/-- Shift left by the whole 64-bit B; 0 from n on (R232). -/
def aluShl (n : Nat) (a b : Word) : Int := if n ≤ b.toNat then 0 else (lowBits n a <<< b.toNat : Nat)
def aluShr (n : Nat) (a b : Word) : Int := if n ≤ b.toNat then 0 else (lowBits n a >>> b.toNat : Nat)
/-- Arithmetic shift right; n copies of bit n − 1 from n on (R232). -/
def aluSar (n : Nat) (a b : Word) : Int :=
  readInt true n a / 2 ^ (min b.toNat n)
def aluRol (n : Nat) (a b : Word) : Int :=
  let k := b.toNat % n
  let v := lowBits n a
  (((v <<< k) ||| (v >>> (n - k))) % 2 ^ n : Nat)
/-- Leading zeros of n bits; n for zero (R232). -/
def aluClz (n : Nat) (a : Word) : Nat := n - bitLen (lowBits n a)

/-- Trailing zeros counted upward within `fuel` bits. -/
def ctzFrom : Nat → Nat → Nat
  | 0, _ => 0
  | k + 1, v => if v % 2 = 1 then 0 else 1 + ctzFrom k (v / 2)

def aluCtz (n : Nat) (a : Word) : Nat := ctzFrom n (lowBits n a)

/-- One bits among the low `fuel` bits. -/
def popFrom : Nat → Nat → Nat
  | 0, _ => 0
  | k + 1, v => v % 2 + popFrom k (v / 2)

def aluPopc (n : Nat) (a : Word) : Nat := popFrom n (lowBits n a)

/-! ### R233 to R236 -/

/-- BFX (R233). -/
def aluBfx (sg : Bool) (a b c : Word) : Word :=
  let p := b.toNat
  let w := min c.toNat 64
  if w = 0 ∨ 64 ≤ p then 0
  else
    let f := (a.toNat >>> p) % 2 ^ w
    if sg then BitVec.ofInt 64 (signedOf w f) else BitVec.ofNat 64 f

/-- BFI of W bits (R234). -/
def aluBfi (w : Nat) (a b c : Word) : Word :=
  let p := c.toNat
  if 64 ≤ p then a
  else
    let mask : Word := BitVec.ofNat 64 ((2 ^ w - 1) <<< p)
    (a &&& ~~~mask) ||| (BitVec.ofNat 64 (b.toNat <<< p) &&& mask)

/-- SEXT (R235). -/
def aluSext (a b : Word) : Word :=
  let k := b.toNat
  if k = 0 then 0
  else if 64 ≤ k then a
  else BitVec.ofInt 64 (signedOf k (lowBits k a))

/-- LEA (R236). -/
def aluLea (sh : Nat) (a b c : Word) : Word := a + b * BitVec.ofNat 64 (2 ^ sh) + c

/-! ### R238 to R240 -/

/-- Integer compare conditions (R238); the caller has refused values above 11. -/
def intCond (cond n : Nat) (a b : Word) : Bool :=
  let sa := readInt true n a
  let sb := readInt true n b
  let ua := lowBits n a
  let ub := lowBits n b
  match cond with
  | 0 => ua == ub
  | 1 => ua != ub
  | 2 => decide (sa < sb)
  | 3 => decide (sa ≤ sb)
  | 4 => decide (sb < sa)
  | 5 => decide (sb ≤ sa)
  | 6 => decide (ua < ub)
  | 7 => decide (ua ≤ ub)
  | 8 => decide (ub < ua)
  | 9 => decide (ub ≤ ua)
  | 10 => (ua &&& ub) == 0
  | _ => (ua &&& ub) != 0

/-- CMPI conditions (R239): eq, ne, signed lt, unsigned lt. -/
def immCond (cond : Nat) (a : Word) (imm : BitVec 32) : Bool :=
  let b := imm.signExtend 64
  match cond with
  | 0 => a == b
  | 1 => a != b
  | 2 => a.slt b
  | _ => a.ult b

/-- PLOG operations on truth values (R240). -/
def plogOp (op : Nat) (a b : Bool) : Bool :=
  match op with
  | 0 => a && b
  | 1 => a || b
  | 2 => a != b
  | 3 => !a
  | 4 => a && !b
  | _ => a || !b

/-- A truth value as 0 or 1 (R227). -/
def boolWord (b : Bool) : Word := if b then 1 else 0

/-- FSGN (R249) on codes of a standard format. -/
def fsgn (f : StdFmt) (op a b : Nat) : Nat :=
  let top := 2 ^ (f.width - 1)
  let mag := a % top
  let sa := decide (top ≤ a)
  let sb := decide (top ≤ b)
  let s := match op with
    | 0 => false
    | 1 => !sa
    | 2 => sb
    | _ => sa != sb
  if s then mag + top else mag

end Sys2Proof.Machine
end

