-- ==== Sys2Proof/Config.lean ====
section
/-!
DEFINITION. Config.lean: what one module fixes and what the spec leaves open. A free value is an opaque constant with no
body: nothing can evaluate it or prove a value of it (notes/assumptions/1.md).
-/
namespace Sys2Proof.Config

/-- The choice the device makes where the spec fixes no time or order (R472, R470, R310): applied to a counter of State. -/
opaque choice : Nat → Nat

/-- A byte whose value the spec does not state (attestation report, crash log: R442, R452). -/
opaque freeByte : Nat → Byte

/-- The silicon stepping that DEVID reports (R444). -/
opaque stepping : BitVec 8

/-- The boot ROM's verdict on the staged image: 0 when both signatures and the rollback check pass, else the number
of the failing check (R451). The signature schemes stand outside the spec's text. -/
opaque bootCheck : List (Nat × Byte) → Nat

/-- The estimator's combination of a tile's sensor reading and its activity model, in units of 0.125 degrees (R455). -/
opaque thermalEstimate : Int → Int → Int

/-- The mean of the readings of a tile's neighbours (R455 gives no geometry), from every tile's reading. -/
opaque neighbourMean : Nat → List Int → Int

/-- The answer a management protocol gives a request (R453 names the protocols and no message). -/
opaque managementReply : List Byte → List Byte

/-- EARG0 of a fault whose arguments the spec does not state (R139): by a counter and the code. -/
opaque faultArg : Nat → Nat → Word

/-- Probe power, receiver sensitivity and the lantern's limit, in 0.1 dBm (R425 gives no figures). -/
opaque probePower : Int
opaque sensitivity : Int
opaque lanternLimit : Int

/-- The cellar address of the task pool that firmware reserves at boot (R126). -/
opaque poolBase : Nat

/-- Entries of the task pool, N of R126 (notes/assumptions/7.md). -/
def poolSize : Nat := 65536

/-- Chunks of the log pool (R368: the size unless the module's configuration sets another). -/
def logPoolChunks : Nat := 65536

/-- FWSTEP (R58). -/
def fwStep : Nat := 64

/-- Bytes of the cellar: 12 stacks of 64 GiB (R14). -/
def cellarBytes : Nat := 768 * 2 ^ 30

end Sys2Proof.Config
end

