-- ==== Sys2Proof/Machine/VecAlu.lean ====
section
/-!
DEFINITION. Machine/VecAlu.lean: the functions of the vector register chapter (R250 to R263) on registers, types and
the captured arithmetic state alone.
-/
namespace Sys2Proof.Machine

/-- Elements a container packs (R250). -/
def Fmt.epc : Fmt → Nat
  | .int _ n => 32 / n
  | .std f => 32 / f.width
  | .narrow _ => 4
  | .raw => 4

/-- Bits between the starts of two packed elements in a register (R200). -/
def Fmt.stride (t : Fmt) : Nat := 32 / t.epc

/-- Elements of a register packed from the codes of a list, `st` bits apart, the first at bit 0. -/
def packList (st : Nat) : List Nat → Nat
  | [] => 0
  | c :: cs => c % 2 ^ st + (packList st cs <<< st)

def vecOfList (st : Nat) (cs : List Nat) : VecReg := BitVec.ofNat 32768 (packList st cs)

/-- The raw field of element i at stride st. -/
def vecElem (st : Nat) (v : VecReg) (i : Nat) : Nat := (v.extractLsb' (st * i) st).toNat

/-- Every element equal to one code (R251). -/
def vecSplat (st code : Nat) : VecReg := vecOfList st (List.replicate (32768 / st) code)

/-- Container (r, c) (R250). -/
def vecCont (v : VecReg) (r c : Nat) : Nat := vecElem 32 v (64 * r + c)

/-- A register built from a function of row and column. -/
def vecOfFn (f : Nat → Nat → Nat) : VecReg :=
  vecOfList 32 ((List.range 1024).map fun i => f (i / 64) (i % 64))

/-- Is quarter k enabled by QEN (R252)? -/
def qenOn (qen : BitVec 4) (k : Nat) : Bool := qen == 0 || qen.getLsbD k

/-- All bits of the containers in enabled quarters. -/
def qenMask (qen : BitVec 4) : VecReg :=
  vecOfFn fun _ c => if qenOn qen (c / 16) then 2 ^ 32 - 1 else 0

/-- What a vector operation produces: the value, the bits it writes, its flags and its counts (R252, R254). -/
structure VecResult where
  val : VecReg
  mask : VecReg
  fl : FpFlags
  cnt : FpCounts
  deriving DecidableEq, Repr

/-- Flags of a list of element results, ORed. -/
def orFlags (l : List FpFlags) : FpFlags := l.foldl FpFlags.or {}

def addCounts (l : List FpCounts) : FpCounts := l.foldl FpCounts.add {}

/-- A result element by element; those of disabled quarters raise and count nothing (R252). -/
def vecMap (st : Nat) (qen : BitVec 4) (f : Nat → Nat × FpFlags × FpCounts) : VecResult :=
  let epc := 32 / st
  let rs := (List.range (32768 / st)).map fun i => (qenOn qen ((i / epc % 64) / 16), f i)
  { val := vecOfList st (rs.map fun r => r.2.1)
    mask := qenMask qen
    fl := orFlags (rs.map fun r => if r.1 then r.2.2.1 else {})
    cnt := addCounts (rs.map fun r => if r.1 then r.2.2.2 else {}) }

/-- A whole register written, with no flag. -/
def vecPlain (qen : BitVec 4) (v : VecReg) : VecResult := { val := v, mask := qenMask qen, fl := {}, cnt := {} }

/-! ### Elementwise arithmetic (R255) -/

/-- Operations of R255. -/
inductive VOp where
  | add | sub | mul | fma | fms | min | max | abs | neg | shl | shr | sar | clamp | mad | popc
  deriving DecidableEq, Repr

/-- Sat of R11. -/
def satInt (x lo hi : Int) : Int := if x < lo then lo else if hi < x then hi else x

/-- One integer element (R255). -/
def vIntElem (op : VOp) (sg : Bool) (n : Nat) (sat : Bool) (a b c : Nat) : Nat :=
  let rd (x : Nat) : Int := if sg then signedOf n x else x
  let lo : Int := if sg then -(2 ^ (n - 1) : Int) else 0
  let hi : Int := if sg then 2 ^ (n - 1) - 1 else 2 ^ n - 1
  let wrap (x : Int) : Nat := (x % 2 ^ n).toNat
  let fin (x : Int) : Nat := wrap (if sat then satInt x lo hi else x)
  match op with
  | .add => fin (rd a + rd b)
  | .sub => fin (rd a - rd b)
  | .mul => fin (rd a * rd b)
  | .mad => fin (rd a * rd b + rd c)
  | .min => wrap (Min.min (rd a) (rd b))
  | .max => wrap (Max.max (rd a) (rd b))
  | .clamp => wrap (Min.min (Max.max (rd a) (rd b)) (rd c))
  | .abs => wrap (rd a).natAbs
  | .neg => wrap (-(rd a))
  | .shl => if n ≤ b then 0 else (a <<< b) % 2 ^ n
  | .shr => if n ≤ b then 0 else a >>> b
  | .sar => wrap (signedOf n a / 2 ^ (Min.min b n))
  | .popc => popFrom n a
  | .fma => wrap (rd a * rd b + rd c)
  | .fms => wrap (rd a * rd b - rd c)

/-- One floating-point element (R255, R254). -/
def vFloatElem (op : VOp) (f : StdFmt) (env : FpEnv) (a b c : Nat) : Nat × FpFlags × FpCounts :=
  let va := f.decode env.daz a
  let vb := f.decode env.daz b
  let vc := f.decode env.daz c
  match op with
  | .add => let r := fpAdd f env va vb; (r.1, r.2, fpCounts [va, vb])
  | .sub => let r := fpSub f env va vb; (r.1, r.2, fpCounts [va, vb])
  | .mul => let r := fpMul f env va vb; (r.1, r.2, fpCounts [va, vb])
  | .fma => let r := fpFma f env va vb vc; (r.1, r.2, fpCounts [va, vb, vc])
  | .mad => let r := fpFma f env va vb vc; (r.1, r.2, fpCounts [va, vb, vc])
  | .fms => let r := fpFms f env va vb vc; (r.1, r.2, fpCounts [va, vb, vc])
  | .min => let r := fpMinMax f env false va vb a b; (r.1, r.2, fpCounts [va, vb])
  | .max => let r := fpMinMax f env true va vb a b; (r.1, r.2, fpCounts [va, vb])
  | .clamp =>
    let r := fpMinMax f env true va vb a b
    let q := fpMinMax f env false (f.decode env.daz r.1) vc r.1 c
    (q.1, r.2.or q.2, fpCounts [va, vb, vc])
  | .abs => (fsgn f 0 a 0, {}, {})
  | _ => (fsgn f 1 a 0, {}, {})

/-- Elementwise operation of R255 on resolved operands. -/
def vecElementwise (op : VOp) (t : Fmt) (env : FpEnv) (sat : Bool) (qen : BitVec 4) (a b c : VecReg) : VecResult :=
  match t with
  | .std f =>
    vecMap t.stride qen fun i =>
      vFloatElem op f env (vecElem t.stride a i) (vecElem t.stride b i) (vecElem t.stride c i)
  | .int sg n =>
    vecMap t.stride qen fun i =>
      (vIntElem op sg n sat (vecElem t.stride a i) (vecElem t.stride b i) (vecElem t.stride c i), {}, {})
  | _ => vecPlain qen a

/-- VDOT4 (R256): exact sum of the products of a container's elements and C, modulo 2^32. -/
def vecDot4 (sg : Bool) (n : Nat) (qen : BitVec 4) (a b c : VecReg) : VecResult :=
  let rd (x : Nat) : Int := if sg then signedOf n x else x
  let k := 32 / n
  vecMap 32 qen fun i =>
    let s : Int := (List.range k).foldl
      (fun acc j => acc + rd (vecElem n a (k * i + j)) * rd (vecElem n b (k * i + j))) (vecElem 32 c i : Int)
    ((s % 2 ^ 32).toNat, {}, {})

/-- Integer VCMP conditions (R257). -/
def vIntCond (cond : Nat) (sg : Bool) (n a b : Nat) : Bool :=
  let rd (x : Nat) : Int := if sg then signedOf n x else x
  match cond with
  | 0 => a == b
  | 1 => a != b
  | 2 => decide (rd a < rd b)
  | 3 => decide (rd a ≤ rd b)
  | 4 => decide (rd b < rd a)
  | 5 => decide (rd b ≤ rd a)
  | 10 => (a &&& b) == 0
  | _ => (a &&& b) != 0

/-- VCMP (R257): all ones where the condition holds. -/
def vecCompare (cond : Nat) (t : Fmt) (env : FpEnv) (qen : BitVec 4) (a b : VecReg) : VecResult :=
  let n := t.stride
  vecMap n qen fun i =>
    let x := vecElem n a i
    let y := vecElem n b i
    match t with
    | .std f =>
      let va := f.decode env.daz x
      let vb := f.decode env.daz y
      let r := fpCompare cond va vb
      (if r.1 then 2 ^ n - 1 else 0, r.2, fpCounts [va, vb])
    | .int sg w => (if vIntCond cond sg w x y then 2 ^ n - 1 else 0, {}, {})
    | _ => (0, {}, {})

/-! ### Single elements (R259) -/

/-- The linear position of the element that index x names (R259). -/
def elemIndex (epc : Nat) (x : Word) : Nat :=
  let r := (x.extractLsb' 0 4).toNat
  let c := (x.extractLsb' 8 6).toNat
  let j := (x.extractLsb' 16 2).toNat % epc
  (64 * r + c) * epc + j

/-- VSPLAT (R259). -/
def vecVsplat (t : Fmt) (qen : BitVec 4) (code : Nat) : VecResult :=
  vecPlain qen (vecSplat t.stride (code % 2 ^ t.width))

/-- VINS (R259): C with one element replaced. -/
def vecIns (t : Fmt) (qen : BitVec 4) (c : VecReg) (code : Nat) (x : Word) : VecResult :=
  let i := elemIndex t.epc x
  vecMap t.stride qen fun k => (if k = i then code % 2 ^ t.width else vecElem t.stride c k, {}, {})

/-- VEXT (R259). -/
def vecExt (t : Fmt) (a : VecReg) (x : Word) : Word :=
  let v := vecElem t.stride a (elemIndex t.epc x) % 2 ^ t.width
  match t with
  | .int sg n => extendTo64 sg n v
  | _ => BitVec.ofNat 64 v

/-! ### Across rows and columns (R260, R261) -/

def vecRotr (a : VecReg) (k : Nat) : VecReg := vecOfFn fun r c => vecCont a ((r + k) % 16) c
def vecRotc (a : VecReg) (k : Nat) : VecReg := vecOfFn fun r c => vecCont a r ((c + k) % 64)
def vecBcr (a : VecReg) (k : Nat) : VecReg := vecOfFn fun _ c => vecCont a (k % 16) c
def vecBcc (a : VecReg) (k : Nat) : VecReg := vecOfFn fun r _ => vecCont a r (k % 64)
/-- VTRN (R260): D(r, 16k + i) ← A(i, 16k + r). -/
def vecTrn (a : VecReg) : VecReg := vecOfFn fun r c => vecCont a (c % 16) (16 * (c / 16) + r)

/-- One level of the pairwise tree (R261). -/
def pairUp (op : Nat → Nat → Nat × FpFlags) : List Nat → List Nat × FpFlags
  | x :: y :: rest =>
    let r := op x y
    let q := pairUp op rest
    (r.1 :: q.1, r.2.or q.2)
  | rest => (rest, {})

/-- The fixed pairwise tree of R261 over 2^k values. -/
def treeReduce (op : Nat → Nat → Nat × FpFlags) : Nat → List Nat → Nat × FpFlags
  | 0, l => (l.headD 0, {})
  | k + 1, l =>
    let p := pairUp op l
    let q := treeReduce op k p.1
    (q.1, p.2.or q.2)

/-- A leaf of a float reduction with DAZ applied (R211, R261). -/
def dazCode (f : StdFmt) (daz : Bool) (x : Nat) : Nat :=
  match f.decode daz x with
  | .num n 0 _ => f.pack n 0 0
  | _ => x

/-- One node of a reduction (R261). -/
def reduceNode (op : Nat) (t : Fmt) (env : FpEnv) (x y : Nat) : Nat × FpFlags :=
  match t with
  | .std f =>
    let a := f.decode false x
    let b := f.decode false y
    match op with
    | 0 => fpAdd f env a b
    | 1 => fpMinMax f env false a b x y
    | _ => fpMinMax f env true a b x y
  | .int sg n =>
    let o : VOp := match op with
      | 0 => .add
      | 1 => .min
      | _ => .max
    match op with
    | 3 => (x &&& y, {})
    | 4 => (x ||| y, {})
    | 5 => (x ^^^ y, {})
    | _ => (vIntElem o sg n false x y 0, {})
  | _ => (x, {})

/-- A reduced value with its flags and its one count (R261). -/
def reduceAll (op : Nat) (t : Fmt) (env : FpEnv) (levels : Nat) (l : List Nat) : Nat × FpFlags × FpCounts :=
  match t with
  | .std f =>
    let r := treeReduce (reduceNode op t env) levels (l.map (dazCode f env.daz))
    (r.1, r.2, fpCounts (l.map (f.decode env.daz)))
  | _ =>
    let r := treeReduce (reduceNode op t env) levels l
    (r.1, r.2, {})

/-- VREDR (R261): each element position down the rows. -/
def vecRedr (op : Nat) (bc : Bool) (t : Fmt) (env : FpEnv) (qen : BitVec 4) (a : VecReg) : VecResult :=
  let row := 64 * t.epc
  let red := (List.range row).map fun e =>
    reduceAll op t env 4 ((List.range 16).map fun r => vecElem t.stride a (row * r + e))
  let on (e : Nat) : Bool := qenOn qen (e / t.epc / 16)
  let codes := (List.range 16).flatMap fun r => red.map fun x => if bc || r == 0 then x.1 else 0
  let live := (List.range row).zip red |>.filter fun p => on p.1
  { val := vecOfList t.stride codes, mask := qenMask qen,
    fl := orFlags (live.map fun p => p.2.2.1), cnt := addCounts (live.map fun p => p.2.2.2) }

/-- VREDC (R261): the elements of each row; without BC only element 0, in quarter 0, is delivered. -/
def vecRedc (op : Nat) (bc : Bool) (t : Fmt) (env : FpEnv) (qen : BitVec 4) (a : VecReg) : VecResult :=
  let row := 64 * t.epc
  let levels := Nat.log2 row
  let red := (List.range 16).map fun r =>
    reduceAll op t env levels ((List.range row).map fun e => vecElem t.stride a (row * r + e))
  let codes := red.flatMap fun x => if bc then List.replicate row x.1 else x.1 :: List.replicate (row - 1) 0
  let live := if bc || qenOn qen 0 then red else []
  { val := vecOfList t.stride codes, mask := qenMask qen,
    fl := orFlags (live.map fun p => p.2.1), cnt := addCounts (live.map fun p => p.2.2) }

/-! ### Conversion (R262) -/

/-- VCVT `rint` of every element (R262). -/
def vecRint (f : StdFmt) (env : FpEnv) (a : VecReg) : VecResult :=
  let st := (Fmt.std f).stride
  vecMap st 0 fun i =>
    let v := f.decode env.daz (vecElem st a i)
    let r := fpRint f env v
    (r.1, r.2, fpCounts [v])

/-- Is PART legal for this pair of types (R262)? -/
def partOk (src dst : Fmt) (part : Nat) : Bool :=
  if src.epc ≤ dst.epc then decide (part < dst.epc / src.epc) else decide (part < src.epc / dst.epc)

/-- VCVT SUB 0 and 2 (R262). Elements kept from C raise nothing. -/
def vecCvt (src dst : Fmt) (env : FpEnv) (trunc : Bool) (part : Nat) (a c : VecReg) : VecResult :=
  let s := src.epc
  let d := dst.epc
  vecMap dst.stride 0 fun i =>
    let r := i / (64 * d)
    let e := i % (64 * d)
    if s ≤ d then
      if part * 64 * s ≤ e ∧ e < (part + 1) * 64 * s then
        convertElem src dst env trunc 0 0 (vecElem src.stride a (64 * s * r + (e - part * 64 * s)))
      else (vecElem dst.stride c i, {}, {})
    else
      convertElem src dst env trunc 0 0 (vecElem src.stride a (64 * s * r + part * 64 * d + e))

/-! ### Special functions (R263)

Each function is computed to `sfuK` fraction bits and rounded once; a last bit of 1 stands for the part of the exact
value below them. That no rounding boundary lies closer to a function value than that precision is PRESUMED (log 15). -/

/-- Fraction bits of the working precision. -/
def sfuK : Nat := 420

/-- Sum of 1 / (n 2^n), n from 1 upward: ln 2 at k fraction bits. -/
def ln2Sum (k : Nat) : Nat → Nat
  | 0 => 0
  | n + 1 => ln2Sum k n + 2 ^ k / ((n + 1) * 2 ^ (n + 1))

def ln2Fix : Nat := ln2Sum sfuK sfuK

/-- The series of e^x for 0 ≤ x < 1 at sfuK fraction bits: `n` terms from term number `i`. -/
def expSeries (x : Nat) : Nat → Nat → Nat → Nat
  | 0, _, _ => 0
  | n + 1, i, term => term + expSeries x n (i + 1) (((term * x) >>> sfuK) / (i + 1))

def expFix (x : Nat) : Nat := expSeries x 100 0 (2 ^ sfuK)

/-- Squared k times at sfuK fraction bits. -/
def squareTimes : Nat → Nat → Nat
  | 0, x => x
  | k + 1, x => squareTimes k ((x * x) >>> sfuK)

/-- Odd powers of z over odd numbers: atanh z. -/
def atanhSeries (z2 : Nat) : Nat → Nat → Nat → Nat
  | 0, _, _ => 0
  | n + 1, i, p => p / (2 * i + 1) + atanhSeries z2 n (i + 1) ((p * z2) >>> sfuK)

/-- m × 2^e as a fixed-point number of sfuK fraction bits, truncated. -/
def toFix (m : Nat) (e : Int) : Nat :=
  let s := e + sfuK
  if 0 ≤ s then m <<< s.toNat else m >>> (-s).toNat

/-- 2^a for a number. -/
def exp2Num (neg : Bool) (m : Nat) (e : Int) : Val :=
  if !(magLt m e 1 12) then .num false 1 (if neg then -5000 else 5000)
  else
    let x := toFix m e
    let i := x >>> sfuK
    let f := x % 2 ^ sfuK
    if f = 0 then .num false 1 (if neg then -(i : Int) else i)
    else
      let (ii, ff) : Int × Nat := if neg then (-(i : Int) - 1, 2 ^ sfuK - f) else ((i : Int), f)
      .num false (2 * expFix ((ff * ln2Fix) >>> sfuK) + 1) (ii - sfuK - 1)

/-- log2 of a positive number. -/
def log2Num (m : Nat) (e : Int) : Val :=
  let l := bitLen m
  let ee : Int := e + l - 1
  if m = 2 ^ (l - 1) then Val.ofInt ee
  else
    let f := m <<< (sfuK - (l - 1))                     -- in [1, 2)
    let z := ((f - 2 ^ sfuK) <<< sfuK) / (f + 2 ^ sfuK)
    let lg := ((2 * atanhSeries ((z * z) >>> sfuK) 140 0 z) <<< sfuK) / ln2Fix
    let s : Int := ee * 2 ^ sfuK + lg
    .num (decide (s < 0)) (2 * s.natAbs + 1) (-(sfuK : Int) - 1)

/-- tanh of a nonzero number. -/
def tanhNum (neg : Bool) (m : Nat) (e : Int) : Val :=
  if !(magLt m e 1 5) then .num neg (2 ^ 90 - 1) (-90)
  else if magLt m e 1 (-40) then .num neg ((m <<< 80) - 1) (e - 80)
  else
    let x := toFix m (e + 1)
    let ex := squareTimes 7 (expFix (x >>> 7))
    let t := ((ex - 2 ^ sfuK) <<< sfuK) / (ex + 2 ^ sfuK)
    .num neg (2 * t + 1) (-(sfuK : Int) - 1)

/-- 1 / √(m × 2^e) to enough bits with a sticky last bit. -/
def rsqNum (m : Nat) (e : Int) : Nat × Int :=
  let odd := (e % 2).toNat
  let mm := m <<< odd                                    -- value = mm × 2^(e − odd), an even exponent
  let k := 100 + bitLen mm
  let r := isqrt (2 ^ (2 * k) / mm)
  (2 * r + (if r * r * mm = 2 ^ (2 * k) then 0 else 1), -((e - odd) / 2) - k - 1)

/-- The six functions of R263. -/
inductive SfuOp where
  | rcp | rsq | sqrt | exp2 | log2 | tanh
  deriving DecidableEq, Repr

/-- One special-function element (R263). -/
def sfuElem (op : SfuOp) (f : StdFmt) (env : FpEnv) (a : Val) : Nat × FpFlags :=
  match a with
  | .nan _ _ _ => nanOf f env.cn [a]
  | .inf n =>
    match op with
    | .rcp => (f.pack n 0 0, {})
    | .rsq => if n then invalid f else (f.pack false 0 0, {})
    | .sqrt => if n then invalid f else (f.infCode false, {})
    | .exp2 => (if n then f.pack false 0 0 else f.infCode false, {})
    | .log2 => if n then invalid f else (f.infCode false, {})
    | .tanh => f.round .rne false n 1 0
  | .num n m e =>
    if m = 0 then
      match op with
      | .rcp => (f.infCode n, FpFlags.dzF)
      | .rsq => (f.infCode n, FpFlags.dzF)
      | .sqrt => (f.pack n 0 0, {})
      | .exp2 => f.round .rne false false 1 0
      | .log2 => (f.infCode true, FpFlags.dzF)
      | .tanh => (f.pack n 0 0, {})
    else
      match op with
      | .rcp =>
        let (k, q) := quot 1 0 m e
        roundStdVal f env env.rm (.num n k q)
      | .rsq =>
        if n then invalid f
        else
          let (k, q) := rsqNum m e
          roundStdVal f env env.rm (.num false k q)
      | .sqrt => fpSqrt f env a
      | .exp2 => roundStdVal f env env.rm (exp2Num n m e)
      | .log2 => if n then invalid f else roundStdVal f env env.rm (log2Num m e)
      | .tanh => roundStdVal f env env.rm (tanhNum n m e)

/-- A special function of every element (R263). -/
def vecSfu (op : SfuOp) (f : StdFmt) (env : FpEnv) (qen : BitVec 4) (a : VecReg) : VecResult :=
  let st := (Fmt.std f).stride
  vecMap st qen fun i =>
    let v := f.decode env.daz (vecElem st a i)
    let r := sfuElem op f env v
    (r.1, r.2, fpCounts [v])

end Sys2Proof.Machine
end

