-- ==== Sys2Proof/Machine/MatAlu.lean ====
section
/-!
DEFINITION. Machine/MatAlu.lean: the matrix step (R220, R221, R264 to R271) and the hypervector functions (R279 to R292)
on operands alone.
-/
namespace Sys2Proof.Machine

/-- One 48-byte operand row or column with its scale byte (R264 to R266). -/
structure MatRow where
  data : BitVec 384
  scale : BitVec 8
  deriving DecidableEq, Repr

/-- The mask word of R270. -/
structure MmaMask where
  rows : BitVec 16
  cols : BitVec 16
  depth : Nat
  deriving DecidableEq, Repr

def MmaMask.ofWord (w : Word) : MmaMask :=
  { rows := w.extractLsb' 0 16, cols := w.extractLsb' 16 16, depth := (w.extractLsb' 32 7).toNat }

/-- The mask 0x7F supplies: every row and column at full depth (R270). -/
def MmaMask.full : MmaMask := MmaMask.ofWord 0x00FFFFFFFF

/-- The depth of a step on w-bit operands (R264). -/
def mmaDepth (w : Nat) : Nat := 384 / w

/-- Formats R264 accepts: 16-bit floats, 8-bit integers, narrow codes of width 8, 6 or 4 whose descriptor is not 0. -/
def mmaFmtOk (t : Fmt) : Bool :=
  match t with
  | .std .f16 => true
  | .std .bf16 => true
  | .int _ 8 => true
  | .narrow v => let w := (Desc.ofBits v).width; w == 8 || w == 6 || w == 4
  | _ => false

/-- The exponent a row's scale gives: 0 unless the descriptor has RS = 1 (R209, R271). -/
def fmtScale (t : Fmt) (s : BitVec 8) : Int :=
  match t with
  | .narrow v => if (Desc.ofBits v).rs then s.toInt else 0
  | _ => 0

/-- The first `cnt` elements of a row, decoded with its scale (R264, R271). -/
def rowVals (t : Fmt) (cnt : Nat) (r : MatRow) : List Val :=
  let w := t.width
  let sc := fmtScale t r.scale
  (List.range cnt).map fun k => (t.decode false (r.data.extractLsb' (w * k) w).toNat).scale sc

/-- An exact running sum: mantissa and exponent. -/
def sumStep (acc : Int × Int) (neg : Bool) (m : Nat) (e : Int) : Int × Int :=
  if m = 0 then acc
  else
    let q := min acc.2 e
    let a := acc.1 * 2 ^ (acc.2 - q).toNat
    let b : Int := (m <<< (e - q).toNat : Nat)
    (a + (if neg then -b else b), q)

/-- What one output element has met among its products: NaN operands, 0 × ∞, infinities of each sign, whether every
product is −0, and the exact sum. -/
structure ProdAcc where
  nan : Bool := false
  sig : Bool := false
  zinf : Bool := false
  pinf : Bool := false
  ninf : Bool := false
  anyInf : Bool := false
  allNegZero : Bool := true
  sum : Int × Int := (0, 0)

def prodStep (p : ProdAcc) (a b : Val) : ProdAcc :=
  match a, b with
  | .num n1 m1 e1, .num n2 m2 e2 =>
    { p with allNegZero := p.allNegZero && m1 * m2 == 0 && n1 != n2,
             sum := sumStep p.sum (n1 != n2) (m1 * m2) (e1 + e2) }
  | _, _ =>
    let p := { p with anyInf := p.anyInf || a.isInf || b.isInf, allNegZero := false }
    if a.isNan || b.isNan then { p with nan := true, sig := p.sig || a.isSig || b.isSig }
    else if zeroTimesInf a b then { p with zinf := true }
    else if a.neg? != b.neg? then { p with ninf := true } else { p with pinf := true }

/-- One enabled output element (R220, R221): its f32 code, flags and counts. -/
def mmaElem (cn : Bool) (accCode : Nat) (as bs : List Val) : Nat × FpFlags × FpCounts :=
  let p := (as.zip bs).foldl (fun p ab => prodStep p ab.1 ab.2) ({} : ProdAcc)
  let acc := StdFmt.f32.decode false accCode
  let anyNan := p.nan || acc.isNan
  let cnt : FpCounts := { nanin := if anyNan then 1 else 0, infin := if p.anyInf || acc.isInf then 1 else 0 }
  let canon := StdFmt.f32.canonNan
  if anyNan then
    let code := match acc with
      | .nan n fr _ => if cn then canon else StdFmt.f32.nanCode n fr
      | _ => canon
    (code, { io := p.zinf || p.sig || acc.isSig }, cnt)
  else if p.zinf then (canon, FpFlags.ioF, cnt)
  else
    let pinf := p.pinf || (acc.isInf && !acc.neg?)
    let ninf := p.ninf || (acc.isInf && acc.neg?)
    if pinf && ninf then (canon, FpFlags.ioF, cnt)
    else if pinf || ninf then (StdFmt.f32.infCode ninf, {}, cnt)
    else
      match acc with
      | .num n m e =>
        let t := sumStep p.sum n m e
        if t.1 = 0 then
          (StdFmt.f32.pack (n && m == 0 && p.allNegZero) 0 0, {}, cnt)
        else
          let r := StdFmt.f32.round .rne false (decide (t.1 < 0)) t.1.natAbs t.2
          (r.1, r.2, if r.2.ovf then { cnt with accovf := 1 } else cnt)
      | _ => (canon, {}, cnt)

/-- The 256 output elements of a step, row by row (R271). -/
structure MmaOut where
  codes : List Nat
  fl : FpFlags
  cnt : FpCounts
  deriving DecidableEq, Repr

def mmaStep (isZ cn : Bool) (fa fb : Fmt) (mask : MmaMask) (acc : Nat → Nat → Nat) (rows cols : Nat → MatRow) :
    MmaOut :=
  let k := mmaDepth fa.width
  let cnt := if mask.depth = 0 then k else mask.depth
  let av := (List.range 16).map fun r => if mask.rows.getLsbD r then rowVals fa cnt (rows r) else []
  let bv := (List.range 16).map fun c => if mask.cols.getLsbD c then rowVals fb cnt (cols c) else []
  let outs := (List.range 256).map fun i =>
    let r := i / 16
    let c := i % 16
    if mask.rows.getLsbD r && mask.cols.getLsbD c then
      mmaElem cn (if isZ then 0 else acc r c) (av.getD r []) (bv.getD c [])
    else ((if isZ then 0 else acc r c), ({} : FpFlags), ({} : FpCounts))
  { codes := outs.map fun o => o.1, fl := orFlags (outs.map fun o => o.2.1), cnt := addCounts (outs.map fun o => o.2.2) }

/-- The output as quarter q of a register (R271). -/
def quarterVec (q : Nat) (codes : List Nat) : VecReg :=
  vecOfFn fun r c => if c / 16 = q then codes.getD (16 * r + c % 16) 0 else 0

/-- The bits of quarter q. -/
def quarterMask (q : Nat) : VecReg := vecOfFn fun _ c => if c / 16 = q then 2 ^ 32 - 1 else 0

/-! ### Hypervectors -/

/-- A hypervector in a 4 KiB register: row r in columns 0 to 11 of row r (R279). -/
def hvToVec (h : HyperVec) : VecReg :=
  BitVec.ofNat 32768 (packList 2048 ((List.range 16).map fun r => (h.extractLsb' (384 * r) 384).toNat))

/-- The hypervector a 4 KiB register holds (R279, R282). -/
def hvOfVec (v : VecReg) : HyperVec :=
  BitVec.ofNat 6144 (packList 384 ((List.range 16).map fun r => (v.extractLsb' (2048 * r) 384).toNat))

/-- The k-th 48-byte row of a hypervector (R279). -/
def hvRow (h : HyperVec) (r : Nat) : BitVec 384 := h.extractLsb' (384 * r) 384
def hvOfRows (f : Nat → BitVec 384) : HyperVec :=
  BitVec.ofNat 6144 (packList 384 ((List.range 16).map fun r => (f r).toNat))

/-- HROT (R284): bit i moves to bit i + k modulo 6,144. -/
def hvRot (h : HyperVec) (amt : Word) : HyperVec := h.rotateLeft (amt.toInt % 6144).toNat

/-- HLOG (R284). -/
def hvLog (op : Nat) (a b : HyperVec) : HyperVec :=
  match op with
  | 0 => a &&& b
  | 1 => a ||| b
  | 2 => ~~~a
  | _ => a &&& ~~~b

/-- One bits of a hypervector, 64 at a time. -/
def hvPop (h : HyperVec) : Nat :=
  ((List.range 96).map fun k => popFrom 64 (h.extractLsb' (64 * k) 64).toNat).foldl (· + ·) 0

/-- HDIST (R289). -/
def hvDist (a b : HyperVec) : Nat := hvPop (a ^^^ b)

/-- Counter i as a signed integer (R280). -/
def ctr (c : CntReg) (i : Nat) : Int := (c.extractLsb' (8 * i) 8).toInt

def ctrOfFn (f : Nat → Int) : CntReg :=
  BitVec.ofNat 49152 (packList 8 ((List.range 6144).map fun i => (f i % 256).toNat))

/-- HBUND (R285): the counters, and how many left the range. -/
def hvBund (w : Nat) (sub : Bool) (c : CntReg) (h : HyperVec) : CntReg × Nat :=
  let xs := (List.range 6144).map fun i =>
    let d : Int := if h.getLsbD i then w else -(w : Int)
    ctr c i + (if sub then -d else d)
  (BitVec.ofNat 49152 (packList 8 (xs.map fun x => (satInt x (-128) 127 % 256).toNat)),
   (xs.filter fun x => decide (x < -128) || decide (127 < x)).length)

/-- HMAJ (R287). -/
def hvMaj (c : CntReg) (tie : HyperVec) : HyperVec :=
  BitVec.ofNat 6144 (packList 1 ((List.range 6144).map fun i =>
    let x := ctr c i
    if 0 < x then 1 else if x < 0 then 0 else if tie.getLsbD i then 1 else 0))

/-- One step of HTIE's generator (R288). -/
def tieStep (s : Word) : Word :=
  let s := s ^^^ (s <<< 13)
  let s := s ^^^ (s >>> 7)
  s ^^^ (s <<< 17)

def tieWords : Nat → Word → List Nat
  | 0, _ => []
  | k + 1, s => let s' := tieStep s; s'.toNat :: tieWords k s'

/-- HTIE (R288). -/
def hvTie (seed : Word) : HyperVec :=
  BitVec.ofNat 6144 (packList 64 (tieWords 96 (if seed = 0 then 0x9E3779B97F4A7C15 else seed)))

/-- HMOVV SUB 2 (R291): half of a counter register as i8 elements. -/
def ctrToVec (c : CntReg) (half : Nat) : VecReg :=
  vecOfList 8 ((List.range 4096).map fun k =>
    let r := k / 256
    let e := k % 256
    if e < 192 then (c.extractLsb' (8 * (3072 * half + 192 * r + e)) 8).toNat else 0)

/-- HMOVV SUB 3 (R291): the reverse; the other half keeps its counters. -/
def ctrOfVec (c : CntReg) (v : VecReg) (half : Nat) : CntReg :=
  BitVec.ofNat 49152 (packList 8 ((List.range 6144).map fun i =>
    if i / 3072 = half then
      let k := i % 3072
      vecElem 8 v (256 * (k / 192) + k % 192)
    else (c.extractLsb' (8 * i) 8).toNat))

/-- HNEAR's search (R292): the lowest index of the least distance. -/
def nearest (q : HyperVec) : List HyperVec → Nat → Nat × Nat → Nat × Nat
  | [], _, best => best
  | h :: hs, j, best =>
    let d := hvDist q h
    nearest q hs (j + 1) (if d < best.2 then (j, d) else best)

/-- The nearest entry: index and distance (R292). -/
def nearestOf (q : HyperVec) (hs : List HyperVec) : Nat × Nat :=
  match hs with
  | [] => (0, 0)
  | h :: t => nearest q t 1 (0, hvDist q h)

end Sys2Proof.Machine
end

