-- ==== Sys2Proof/Machine/Tbl.lean ====
section
/-!
DEFINITION. Machine/Tbl.lean: sparse tables. A table maps every number to a value; it lists the numbers whose value
differs from the table's default, in rising order, so that equal tables are equal lists.
-/
namespace Sys2Proof.Machine

/-- A sparse table: the listed numbers rise strictly and no listed value is the default. -/
abbrev Tbl (α : Type) := List (Nat × α)

/-- The value at k; an unlisted number has the default. -/
def tget {α : Type} (d : α) : Tbl α → Nat → α
  | [], _ => d
  | (j, v) :: t, k => if j = k then v else if k < j then d else tget d t k

/-- The entry of k removed. -/
def tdel {α : Type} : Tbl α → Nat → Tbl α
  | [], _ => []
  | (j, v) :: t, k => if j = k then t else if k < j then (j, v) :: t else (j, v) :: tdel t k

/-- A listed value at k. -/
def tins {α : Type} : Tbl α → Nat → α → Tbl α
  | [], k, v => [(k, v)]
  | (j, w) :: t, k, v => if j = k then (k, v) :: t else if k < j then (k, v) :: (j, w) :: t else (j, w) :: tins t k v

/-- The table with the value v at k: the default is not listed. -/
def tput {α : Type} [DecidableEq α] (d : α) (t : Tbl α) (k : Nat) (v : α) : Tbl α :=
  if v = d then tdel t k else tins t k v

/-- Every number listed after k rises above it. -/
def tsorted {α : Type} (d : α) [DecidableEq α] : Option Nat → Tbl α → Bool
  | _, [] => true
  | lo, (j, v) :: t =>
    (match lo with
      | none => true
      | some k => decide (k < j)) && decide (v ≠ d) && tsorted d (some j) t

/-- The canonical form. -/
def twf {α : Type} (d : α) [DecidableEq α] (t : Tbl α) : Bool := tsorted d none t

/-- The numbers a table lists. -/
def tkeys {α : Type} (t : Tbl α) : List Nat := t.map fun e => e.1

/-- The value at k changed by f. -/
def tmod {α : Type} [DecidableEq α] (d : α) (t : Tbl α) (k : Nat) (f : α → α) : Tbl α := tput d t k (f (tget d t k))

/-- The lowest number below n at which p holds. -/
def firstBelow (n : Nat) (p : Nat → Bool) : Option Nat := (List.range n).find? p

/-- The lowest number from `lo` on, looking at `n` numbers, that satisfies p. -/
def firstFrom (p : Nat → Bool) : Nat → Nat → Option Nat
  | _, 0 => none
  | lo, n + 1 => if p lo then some lo else firstFrom p (lo + 1) n

end Sys2Proof.Machine
end

