-- ==== Sys2Proof/Machine/CoreState.lean ====
section
/-!
DEFINITION. Machine/CoreState.lean: the state of one core (R30 to R60, R173 to R197, R315 to R325, R383) and of one
pair (R29, R98, R298 to R312).
-/
namespace Sys2Proof.Machine

/-- A stationary latch: 16 columns (R266). -/
abbrev StatLatch := Tbl MatRow

/-- An all-zero column. -/
def MatRow.zero : MatRow := { data := 0, scale := 0 }

/-- The registers of R32. Every table's default is the zero value of R33. `lat` holds the 64-bit latches by slot
number (0 qc, 1 qsa, 2 qsb, 3 qma, 4 qmb), `latv` the 4 KiB latches (5 qva, 6 qvb, 7 qt). -/
structure Regs where
  sa : Tbl Word := []
  sb : Tbl Word := []
  pa : Tbl Bool := []
  pb : Tbl Bool := []
  va : Tbl VecReg := []
  vb : Tbl VecReg := []
  lat : Tbl Word := []
  latv : Tbl VecReg := []
  sl : Tbl StatLatch := []
  hv : Tbl HyperVec := []
  hc : Tbl CntReg := []
  ht : HyperVec := 0
  /-- fd1 to fd10 (R201). -/
  fd : Tbl (BitVec 32) := []
  deriving DecidableEq, Repr

/-- An active hardware loop (R180, R182). -/
structure Loop where
  /-- START and END, in words. -/
  start : Nat
  stop : Nat
  neff : Nat
  pass : Nat
  stages : Nat
  base : Nat
  /-- MOD: 0 no pre-emption exit. -/
  exit : Nat
  drain : Bool
  deriving DecidableEq, Repr

/-- The counters and limits of current control and of freezes (R46, R55 to R60). -/
structure Counters where
  limit : Nat := 2048
  pub : Nat := 2048
  used : Nat := 0
  step : Nat := 64
  prev : Nat := 0
  cur : Nat := 0
  skip : Nat := 0
  cwcyc : BitVec 32 := 0
  rampcyc : BitVec 32 := 0
  ilck : BitVec 32 := 0
  memw : BitVec 32 := 0
  /-- STAT (R60). -/
  stat : BitVec 6 := 0
  /-- The matrix unit is occupied by a dummy MMA until this cycle (R57). -/
  dummyUntil : Nat := 0
  deriving DecidableEq, Repr

/-- A register write that waits for visibility: where it goes, and the value. -/
inductive RegWrite where
  | sreg (cl : Cluster) (n : Nat) (v : Word)
  | pred (cl : Cluster) (n : Nat) (v : Bool)
  | vec (cl : Cluster) (n : Nat) (v : VecReg) (mask : VecReg)
  /-- Columns 0 to `cols` − 1 of a stationary latch (R267). -/
  | sl (n : Nat) (cols : Nat) (v : StatLatch)
  | hv (n : Nat) (v : HyperVec)
  | hc (n : Nat) (v : CntReg)
  /-- One half of a counter register (R291). -/
  | hcHalf (n : Nat) (half : Nat) (v : CntReg)
  | ht (v : HyperVec)
  | fd (n : Nat) (v : BitVec 32)
  deriving DecidableEq, Repr

/-- What a result writes into its slot's latch (R35, R36). -/
inductive LatchWrite where
  | none
  | word (v : Word)
  | wide (v : VecReg) (mask : VecReg)
  deriving DecidableEq, Repr

/-- A result issued and not yet visible (R39, R42). `ready` is false while an interlocked result waits for its value. -/
structure Pending where
  seq : Nat
  /-- Address of the bundle and its number in issue order. -/
  baddr : Nat
  bseq : Nat
  slot : Nat
  /-- Issue count and cycle of issue. -/
  ic : Nat
  cyc : Nat
  lh : Nat
  lc : Nat
  ready : Bool
  /-- A step of a chain: MMA, MMAZ, HBUND, HCCLR (R272, R286). -/
  chain : Bool
  /-- The instruction is interlocked whatever the header (R42). -/
  locked : Bool
  /-- The destinations, for interlocks and for a value still to come. -/
  dests : List Opnd
  cl : Cluster
  writes : List RegWrite
  latch : LatchWrite
  fl : FpFlags
  cnt : FpCounts
  /-- Trap enables of FPCR at issue (R212, R218). -/
  enables : BitVec 5
  deriving DecidableEq, Repr

/-- An operation with the operand values read at issue: an irrevocable operation of a bundle in its completion step
(R52), or a deferred one (R136). -/
structure HeldOp where
  slot : Nat
  instr : Instr
  vals : List Word
  deriving DecidableEq, Repr

/-- What a bundle asks of its completion step after its operations (R52, R144). -/
inductive Ask where
  | none
  | tend
  | yield
  /-- Suspend under WKIND, WOBJ and WADDR. -/
  | suspend (kind : Nat) (obj : Nat) (addr : Nat)
  deriving DecidableEq, Repr

/-- The completion step of a quiescent bundle (R52). -/
structure Completion where
  baddr : Nat
  bseq : Nat
  /-- The cycle of issue. -/
  cyc : Nat
  next : Nat
  /-- Slot operations still to perform, in slot order. -/
  ops : List HeldOp
  /-- The operations are being performed. -/
  performing : Bool
  /-- TEND's commit has begun: deferred operations perform (R136, R145). -/
  committing : Bool
  /-- A pod-barrier arrival of this step is held (R169). -/
  heldArrival : Option Nat
  /-- The generation a held arrival was counted in. -/
  arrivedGen : Option (BitVec 16)
  /-- What holds the step (R45): the cause, since which cycle, and the address of a page in transit. -/
  stall : Option (Nat × Nat × Nat)
  ask : Ask
  /-- A trap raised in this step: code, EARG0, EARG1, EARG2, slot (R142). -/
  trap : Option (Nat × Word × Word × Word × Nat)
  /-- The first failure of a deferred operation and the count of further ones (R137). -/
  failed : Option (Nat × Nat × Word × Word × Word × Nat)
  more : Nat
  deriving DecidableEq, Repr

/-- A local-store write: the word's key, the clock that claims it, the bits it writes, and a scale word (R304, R307). -/
structure LsWrite where
  key : Nat
  clock : Nat
  val : BitVec 384
  mask : BitVec 384
  scale : Option (BitVec 8)
  deriving DecidableEq, Repr

/-- Where issue goes after a bundle (R174 to R189). -/
inductive Redirect where
  | seq
  /-- A taken transfer: its target, and whether it ends loops that the target leaves (R174, R179). -/
  | xfer (target : Nat) (ends : Bool)
  | start (l : Loop)
  /-- A LOOP of count 0: its F (R181). -/
  | zero (fall : Nat)
  /-- LBRK: the F of the loop it ends (R186). -/
  | brk (fall : Nat)
  | drain
  /-- TEND: no bundle follows. -/
  | stop
  deriving DecidableEq, Repr

/-- The bundle whose slots are being issued (R48). -/
structure Issue where
  baddr : Nat
  bseq : Nat
  len : Nat
  wait : Nat
  quiet : Bool
  redir : Redirect
  /-- System-register writes, performed at commit (R190). -/
  sysw : List (Nat × Word)
  ops : List HeldOp
  /-- Local-store writes of this bundle (R304). -/
  lsw : List LsWrite
  deriving DecidableEq, Repr

/-- The path a task takes when it leaves its core (R131). -/
inductive Dest where
  | ready
  | suspended (kind obj addr : Nat)
  /-- Restartable: code, EARG0 to EARG2, WKIND, WOBJ, WADDR. -/
  | aborted (code : Nat) (a0 a1 a2 : Word) (kind obj addr : Nat)
  /-- Fatal (ECLASS 2) or trap (ECLASS 3). -/
  | faulted (eclass : Nat) (code : Nat) (a0 a1 a2 : Word)
  deriving DecidableEq, Repr

/-- A task on its way out: it waits for its earlier memory effects (R318). -/
structure Leave where
  dest : Dest
  mask : Nat
  epc : Nat
  deriving DecidableEq, Repr

/-- The snapshot of R52 and R138. -/
structure Snapshot where
  next : Nat := 0
  sa : Tbl Word := []
  fl : FpFlags := {}
  mxc : Mxc := {}
  deriving DecidableEq, Repr

/-- Where an entry of the load and store queues stands. -/
inductive MqState where
  /-- Translation in progress (R345). -/
  | walk
  /-- The page is in transit or applying: the core is frozen since that cycle (R354). -/
  | transit (since : Nat) (page : Nat)
  /-- Translated; the sets it still has to request, by index (R382). -/
  | sets (rest : List Nat)
  /-- It wounds the holder of the first of these sets and stays frozen (R382). -/
  | wounding (rest : List Nat)
  /-- The release it carries waits at its markers (R317, R322). -/
  | marked
  | ready
  /-- A logged AMON held at the controller (R354, R376), with its place in the order of arrival (R370). -/
  | held (n : Nat)
  /-- Its append overflowed the log: the core is frozen until it performs (R375). -/
  | overflow
  /-- An ASDECL or ASDROP at the hub, or an access the slice makes wait. -/
  | slice
  deriving DecidableEq, Repr

/-- The translation of one page of an access: its virtual 64 KiB page, its unified physical base, and the address of
its leaf entry. -/
structure Xlat where
  vpage : Nat
  base : Nat
  leaf : Nat
  size : Nat
  deriving DecidableEq, Repr

/-- An entry of the load queue, the store queue, or both (R319). -/
structure MqEntry where
  seq : Nat
  bseq : Nat
  baddr : Nat
  slot : Nat
  instr : Instr
  inLoad : Bool
  inStore : Bool
  ea : Nat
  vals : List Word
  vec : VecReg
  fpcr : BitVec 11
  desc : BitVec 32
  /-- Tags and scale words captured at issue by a converting copy (R309): destination, source. -/
  tagD : BitVec 32
  tagS : BitVec 32
  scD : List (BitVec 8)
  scS : List (BitVec 8)
  st : MqState
  xl : List Xlat
  /-- Indexes of the sets the access belongs to, held when it entered or acquired by it (R381). -/
  inSet : List Nat
  deriving DecidableEq, Repr

/-- A byte of the L1 data cache (R315). -/
structure L1Byte where
  val : Byte
  dirty : Bool
  deriving DecidableEq, Repr

/-- An entry of the dirty-line FIFO (R316, R317): a line by its physical line number, or a marker of the operation
with that sequence number. -/
inductive FifoEntry where
  | line (n : Nat)
  | marker (seq : Nat)
  deriving DecidableEq, Repr

/-- A non-temporal store on its way to the write-combining buffer of its home slice (R325): bytes by physical
address. -/
structure NtStore where
  seq : Nat
  bytes : List (Nat × Byte)
  deriving DecidableEq, Repr

/-- For whose sake a pre-emption request was made (R143, R471): the host or a group's own pre-emption, a waiting task, a group
that reserves the core. -/
inductive ReqBy where
  | plain
  | task (i : Nat)
  | group (key : Nat)
  deriving DecidableEq, Repr

/-- One core. The tables' defaults are reset values; a core's linear number is its key in State. -/
structure Core where
  regs : Regs := {}
  fpcr : BitVec 11 := 0
  fpsf : FpFlags := {}
  mxc : Mxc := {}
  /-- Address of the next bundle in words (R173). -/
  pc : Nat := 0
  loops : List Loop := []
  /-- LSTG.PX (R197). -/
  px : Bool := false
  /-- The issue count, and the count at which the next bundle issues (R38, R174). -/
  ic : Nat := 0
  nextIc : Nat := 0
  /-- The cycle in progress is frozen (R44): model bookkeeping. -/
  frozen : Bool := false
  cnt : Counters := {}
  /-- The running task and the cycle of its first bundle (R134, R135). -/
  task : Option Nat := none
  startAt : Nat := 0
  lastCtx : Option Nat := none
  /-- The L1 TLB: leaf entries by their addresses, each held while it stands as it was read (R97, R345, R348). -/
  tlb : List (Nat × Nat) := []
  snap : Snapshot := {}
  /-- A request decided and not yet arrived, by its cycle (R470), and one that has arrived (R143) with its cycle. -/
  preqIn : Option Nat := none
  preq : Option Nat := none
  preqBy : List ReqBy := []
  /-- A wound decided: its cycle, set index, wounder; and one that has arrived. -/
  woundIn : Option (Nat × Nat × Nat) := none
  wound : Option (Nat × Nat) := none
  /-- The wounder of either has since released every set it held (R132). -/
  woundDone : Bool := false
  spawn : Nat := 0
  pend : List Pending := []
  /-- Flags and counts of results that became visible in this cycle (R217). -/
  dueFl : FpFlags := {}
  dueCnt : FpCounts := {}
  /-- Occupied units: the cycle each becomes free (R43). -/
  busy : Tbl Nat := []
  /-- Bank clocks claimed: group times 8 plus bank, and the clock (R275). -/
  claims : List (Nat × Nat) := []
  mq : List MqEntry := []
  l1 : Tbl (Option L1Byte) := []
  fifo : List FifoEntry := []
  nt : List NtStore := []
  /-- The set-store buffer: bytes by virtual address (R383). -/
  setBuf : Tbl (Option Byte) := []
  defer : List HeldOp := []
  iss : Option Issue := none
  compl : Option Completion := none
  leave : Option Leave := none
  /-- The fetch waits for a page in transit: its leaf entry and the cycle since (R354). -/
  fetchWait : Option (Nat × Nat) := none
  /-- The linear number in issue order of the last bundle issued: model bookkeeping. -/
  bseq : Nat := 0
  deriving DecidableEq, Repr

/-- The reset core. -/
def Core.reset : Core := {}

/-- A range-scoreboard entry (R303). -/
structure SbEntry where
  op : Nat
  group : Nat
  banks : Nat
  lo : Nat
  hi : Nat
  writes : Bool
  deriving DecidableEq, Repr

/-- An operation of the copy engine or of the walkers (R308 to R312), from issue until its future resolves. -/
structure EngOp where
  id : Nat
  instr : Instr
  vals : List Word
  fpcr : BitVec 11
  desc : BitVec 32
  tagD : BitVec 32
  tagS : BitVec 32
  scD : List (BitVec 8)
  scS : List (BitVec 8)
  lin : Nat
  task : Nat
  launch : Nat
  ctx : Nat
  /-- It has left the load queue and its marker has completed (R321). -/
  started : Bool
  /-- Pages it pins, by leaf entry address (R353), and the tower whose empty pantry it waits for (R359). -/
  pins : List Nat
  pantry : Option Nat
  deriving DecidableEq, Repr

/-- Service state of a pair (R29). -/
inductive Service where
  | inService | retiring | dark
  deriving DecidableEq, Repr

/-- A pair's local store and copy engine. -/
structure Pair where
  /-- Local-store words, scale words and tags by (group times 8 plus bank) times 2,048 plus word, and by bank. -/
  data : Tbl (BitVec 384) := []
  scale : Tbl (BitVec 8) := []
  tags : Tbl (BitVec 32) := []
  /-- The launch that owns the local store, by handle, and its context (R98). -/
  owner : Option Nat := none
  ownerCtx : Option Nat := none
  /-- The local store is being zeroed until this cycle (R98). -/
  zeroUntil : Nat := 0
  sb : List SbEntry := []
  eng : List EngOp := []
  service : Service := .inService
  deriving DecidableEq, Repr

def Pair.reset : Pair := {}

end Sys2Proof.Machine
end

