-- ==== Sys2Proof/Machine/HubState.lean ====
section
/-!
DEFINITION. Machine/HubState.lean: the state of the hub and of the towers' schedulers and controllers: contexts, queues,
launches, tasks, groups, futures, barriers, atomic sets, pages, pantries, logs, events, housekeeping.
-/
namespace Sys2Proof.Machine

/-- A context's states, in the order of their codes (R91). -/
inductive CtxState where
  | free | building | active | quiescing | suspended | faulted | destroyed
  deriving DecidableEq, Repr

/-- A context slot (R91), its multicast table (R416), and its counters of the event log. -/
structure Ctx where
  state : CtxState := .free
  status : Nat := 0
  cerr : Nat := 0
  /-- PTROOT, in units of 4 KiB. -/
  ptroot : Nat := 0
  respol : Nat := 0
  logfp : Bool := false
  maxpri : Nat := 0
  priv : Bool := false
  slip : BitVec 32 := 0
  /-- Seat masks: entry times 32 plus pod (R416). -/
  mcast : Tbl (BitVec 32) := []
  /-- The drain of a quiescing or faulted context is complete (R94). -/
  drained : Bool := false
  /-- A DESTROY held until the drain completes (R93). -/
  held : Bool := false
  /-- Ignored aperture writes (R102). -/
  qpartial : Nat := 0
  deriving DecidableEq, Repr

/-- A queue's states, in the order of their codes (R100). -/
inductive QState where
  | disabled | enabled | blocked | draining | stopped | error
  deriving DecidableEq, Repr

/-- A host work queue (R100, R106). -/
structure Queue where
  state : QState := .disabled
  pri : Nat := 0
  ctx : Nat := 0
  privq : Bool := false
  err : Nat := 0
  log2n : Nat := 6
  rbase : Nat := 0
  appended : BitVec 32 := 0
  taken : BitVec 32 := 0
  /-- The WAITF in progress: handle and ONFAIL. -/
  waitf : Option (Nat × Bool) := none
  /-- The record at the head is taken and waits for a page (R115). -/
  stalled : Bool := false
  deriving DecidableEq, Repr

/-- A launch's states (R122); `free` is an unused slot. -/
inductive LState where
  | free | loaded | walking | draining | quiet | complete | faulted
  deriving DecidableEq, Repr

/-- The part of an image header the device uses after the launch is taken (R114). -/
structure Image where
  /-- Virtual address of the code section, and its length in words. -/
  text : Nat := 0
  words : Nat := 0
  entry : Nat := 0
  lsuse : Bool := false
  persist : Bool := false
  fpol : Nat := 0
  handler : Nat := 0
  fpcr : BitVec 11 := 0
  /-- fd1 to fd10. -/
  fds : Tbl (BitVec 32) := []
  /-- Latency bytes by class. -/
  lat : Tbl Nat := []
  /-- Extents in force and kinds of the levels in use (R117): 1 T, 2 C, 3 D. -/
  levels : List (Nat × Nat) := []
  deriving DecidableEq, Repr

/-- A chain successor whose predecessor has committed (R119): the rank of that commit, its index tuple, the core it is
bound to (PERSIST). -/
structure Succ where
  order : Nat
  iter : List Nat
  bound : Option Nat
  deriving DecidableEq, Repr

/-- One walker's work on a launch (R118, R119). -/
structure Walker where
  tower : Nat
  /-- The rank of this launch among those the walker accepted. -/
  order : Nat
  /-- The number, in lexicographic order of chain heads, at which the walker's search for its next head begins. -/
  next : Nat
  /-- Chain successors, the earliest commit first. -/
  succ : List Succ
  deriving DecidableEq, Repr

/-- A launch (R122 to R125). -/
structure Launch where
  state : LState := .free
  gen : Nat := 0
  queue : Nat := 0
  ctx : Nat := 0
  pri : Nat := 0
  donef : Nat := 0
  towers : Nat := 0
  arg : Nat := 0
  status : Nat := 0
  ltag : BitVec 32 := 0
  /-- GSIZE of a GLAUNCH, or 0. -/
  gsize : Nat := 0
  img : Image := {}
  himg : Option Image := none
  /-- The launch tick S (R130). -/
  stick : Nat := 0
  abort : Bool := false
  walkers : List Walker := []
  held : Bool := false
  fpsf : FpFlags := {}
  mxc : Mxc := {}
  tasks : Nat := 0
  fcode : Nat := 0
  faults : Nat := 0
  fpc : Nat := 0
  fmask : Nat := 0
  fcore : Nat := 0
  /-- Age and pool index of the task whose fault is recorded; (0, 0), which no task is older than, under a code that stands for the launch
  itself (R122, R123). -/
  fage : Option (Nat × Nat) := none
  /-- The handler in progress: its task and the faulted task (R123). -/
  handling : Option (Nat × Nat) := none
  /-- Committed tasks whose recorded failure a handler must see (R137): pool index of the record kept. -/
  failures : List Nat := []
  /-- Words 1 to 3, and words 0 and 4 to 7, of the status block changed and not yet written: model bookkeeping. -/
  owedTasks : Bool := false
  owedState : Bool := false
  /-- The write of the status block has found a pantry empty and waits (R359): PANTRYEMPTY is raised once. -/
  statusWaits : Bool := false
  deriving DecidableEq, Repr

/-- A task's states, in the order of their codes (R128). -/
inductive TState where
  | free | ready | running | suspended | aborted | faulted | done
  deriving DecidableEq, Repr

/-- A pool entry: continuation record (R128), side record (R129), and what the scheduler knows of the task. -/
structure Task where
  state : TState := .free
  ctx : Nat := 0
  h : Bool := false
  pc : Nat := 0
  age : Nat := 0
  launch : Nat := 0
  fpsnap : FpFlags := {}
  gslot : Nat := 65535
  sa : Tbl Word := []
  wkind : Nat := 0
  wobj : Nat := 0
  waddr : Nat := 0
  ecode : Nat := 0
  emask : Nat := 0
  eclass : Nat := 0
  ecore : Nat := 0
  epc : Nat := 0
  earg0 : Word := 0
  earg1 : Word := 0
  earg2 : Word := 0
  mxcacc : Mxc := {}
  /-- The tower that is its domain (R133). -/
  tower : Nat := 0
  /-- The core it is bound to. -/
  bound : Option Nat := none
  /-- Index tuple of a chain member (R118). -/
  iter : List Nat := []
  /-- A wounder it still waits for beside the cause under WKIND (R132). -/
  wounder : Option Nat := none
  /-- A waiting QGET's destination and expiry cycle (R110, R112). -/
  qdest : Nat := 0
  qlimit : Option Nat := none
  /-- The QGET's bundle and core. -/
  qfrom : Nat × Nat := (0, 0)
  /-- The barrier and phase that a waiter of a lost barrier checks again as it resumes (R170). -/
  recheck : Option (Nat × Nat) := none
  deriving DecidableEq, Repr

/-- A group's states (R162); `none` is a free slot. -/
inductive GState where
  | none | requested | waiting | placed | running | draining | faulted
  deriving DecidableEq, Repr

/-- A barrier entry (R164) with the ARRIVE messages kept (R169). `lostSeat` is the seat of PODBARLOST. -/
structure Barrier where
  expect : Nat := 0
  arrived : Nat := 0
  gen : BitVec 16 := 0
  ctx : Nat := 0
  bound : Bool := false
  seats : BitVec 32 := 0
  agen : BitVec 16 := 0
  lost : Bool := false
  lostSeat : Nat := 0
  /-- Seats whose ARRIVE for GEN, and for GEN + 1, has been received. -/
  got : BitVec 32 := 0
  gotNext : BitVec 32 := 0
  deriving DecidableEq, Repr

/-- A group slot (R157 to R162, R471). -/
structure Group where
  state : GState := .none
  launch : Nat := 0
  age : Nat := 0
  /-- Pool index and rank of each member still in the group. -/
  members : List (Nat × Nat) := []
  size : Nat := 0
  /-- The pitch's first position in snake order. -/
  pitch : Option Nat := none
  /-- Each rank's core, while placed. -/
  cores : List (Nat × Nat) := []
  reserved : List Nat := []
  startAt : Nat := 0
  bar : Barrier := {}
  deriving DecidableEq, Repr

/-- A future entry's states, in the order of their codes (R151). -/
inductive FState where
  | free | empty | set | failed
  deriving DecidableEq, Repr

/-- A future (R151). -/
structure Fut where
  value : Word := 0
  state : FState := .free
  ctx : Nat := 0
  gen : BitVec 12 := 0
  rscope : Nat := 0
  status : BitVec 16 := 0
  deriving DecidableEq, Repr

/-- A set-table entry's states, in the order of their codes (R379). -/
inductive SState where
  | free | declared | held | dropping
  deriving DecidableEq, Repr

/-- A set-table entry (R379). -/
structure ASet where
  state : SState := .free
  gen : BitVec 12 := 0
  base : Nat := 0
  lines : Nat := 0
  holder : Option Nat := none
  next : Option Nat := none
  deriving DecidableEq, Repr

/-- A pending-log record (R367); OFFSET, OP, W64, MRG and SEQ. -/
structure LogRec where
  operand : Word
  offset : Nat
  op : Nat
  w64 : Bool
  mrg : Bool
  seq : BitVec 32
  deriving DecidableEq, Repr

/-- A migration in flight or waiting (R353 to R358). Tower 8 stands for the cellar. -/
structure Migration where
  target : Nat
  /-- Deadlines, futures and number of schedule entries of the requests it carries. -/
  deadlines : List Nat
  futs : List Nat
  sched : Nat
  deriving DecidableEq, Repr

/-- What the residency controller holds for one page (R348 to R376), keyed by the address of its leaf entry. -/
structure PageX where
  ctx : Nat := 0
  vaddr : Nat := 0
  pins : Nat := 0
  count : BitVec 16 := 0
  /-- The attic slot's tower in ATTIC, PROMOTING, DEMOTING. -/
  tower : Option Nat := none
  log : List LogRec := []
  appends : BitVec 32 := 0
  /-- The chunks of the pool that hold the log, in order (R368). -/
  chunks : List Nat := []
  /-- The migration in flight, and those waiting. One in flight with its page in CELLAR has ended its demotion and its promotion is still
  to start (R358). -/
  mig : Option Migration := none
  waiting : List Migration := []
  /-- The application in flight: records it applies, into an attic copy, and the futures attached (R373, R377). -/
  app : Option (Nat × Bool × List Nat) := none
  /-- LOGAPPLY futures that wait for the arrival of a promotion (R377). -/
  logFuts : List Nat := []
  /-- A host command waits for pins and migrations to end (R349, R350). -/
  cmd : Bool := false
  deriving DecidableEq, Repr

/-- A migration schedule in progress (R357). -/
structure Sched where
  ctx : Nat
  addr : Nat
  count : Nat
  index : Nat
  last : Nat
  deriving DecidableEq, Repr

/-- A tower's pantry (R359, R360). -/
structure Pantry where
  frames : List Nat := []
  low : Nat := 256
  deriving DecidableEq, Repr

/-- A window entry (R408). -/
structure Window where
  isOpen : Bool := false
  wgen : Nat := 1
  ctx : Nat := 0
  peer : Nat := 0
  pmask : Nat := 0
  expect : Nat := 0
  notices : Nat := 0
  base : Nat := 0
  len : Nat := 0
  fut : Nat := 0
  deriving DecidableEq, Repr

/-- A tile's sensor history (R455). -/
structure Tile where
  temp : BitVec 12 := 0
  model : Bool := false
  failed : Bool := false
  reading : BitVec 12 := 0
  run : Nat := 0
  deriving DecidableEq, Repr

/-- The boot states of BOOTST (R451). -/
inductive Boot where
  | rom | verify | running | recovery
  deriving DecidableEq, Repr

/-- A page command in progress (R446): OP, context, tower, and VA, ENTRY and LEVEL as they stood when it was given. -/
structure PageCmd where
  op : Nat
  ctx : Nat
  tower : Nat
  va : Nat
  entry : Nat
  level : Nat
  deriving DecidableEq, Repr

/-- The hub's registers and counters. -/
structure Hub where
  boot : Boot := .rom
  bootFail : Nat := 0
  cap : Nat := 0
  profile : Nat := 1
  pendMode : Option (Nat × Nat) := none
  pasidBase : BitVec 20 := 0
  fabid : BitVec 11 := 0
  /-- PEER (R194). -/
  lock : Bool := false
  seat : Nat := 0
  pod : Nat := 0
  evbase : Nat := 0
  evlog2n : Nat := 6
  even : Bool := false
  lost : BitVec 32 := 0
  evhead : BitVec 32 := 0
  evtail : BitVec 32 := 0
  evseq : BitVec 32 := 0
  /-- The cycle from which the event ring signals at once, and whether a signal that fell before it is due then (R448). -/
  msixAt : Nat := 0
  msixDue : Bool := false
  throten : Bool := true
  tripen : Bool := true
  throt : BitVec 12 := 760
  trip : BitVec 12 := 880
  guard : Nat := 80
  tiles : Tbl Tile := []
  /-- The throttle step of each tower (R456), and the step in force in its cores since a window boundary. -/
  throttle : Tbl Nat := []
  inForce : Tbl Nat := []
  tripped : Bool := false
  /-- The future window's value register (R445). -/
  fwValue : Word := 0
  /-- The page window (R446) and its command in progress. -/
  pwVa : Word := 0
  pwEntry : Word := 0
  pwLevel : Word := 0
  pwStatus : Nat := 0
  pwCmd : Option PageCmd := none
  /-- RESCTL (R352), and a write that takes effect at the next tick. -/
  promth : Nat := 256
  demth : Nat := 16
  decay : Nat := 10
  lead : Nat := 16
  tlimit : Nat := 1024
  resNext : Option Word := none
  /-- LOGPOOL (R368). -/
  logFree : Nat := 65536
  logLow : Nat := 1024
  /-- AGEBASE and S_prev (R130). -/
  ageBase : Nat := 0
  sPrev : Nat := 0
  /-- Picks made in each tower (R134). -/
  picks : Tbl Nat := []
  /-- The cycle from which each tower's scheduler may pick again (R135). -/
  pickAt : Tbl Nat := []
  /-- Launches accepted so far by each tower's walker (R119). -/
  accepts : Tbl Nat := []
  /-- The queue number served last at each priority (R104). -/
  robin : Tbl Nat := []
  /-- Host pages of 4 KiB for which the host answers a translation request with no access (R346). -/
  atsDeny : Tbl Bool := []
  /-- The cycle from which each tower's walker may create again (R119). -/
  walkAt : Tbl Nat := []
  /-- The pool firmware has reserved: its cellar address (R126). -/
  poolAt : Option Nat := none
  /-- The cycle from which each tower's search unit is free (R294). -/
  search : Tbl Nat := []
  /-- The firmware staging area (R442). -/
  staging : Tbl Byte := []
  deriving DecidableEq, Repr

end Sys2Proof.Machine
end

