-- ==== Sys2Proof/Machine/FabricState.lean ====
section
/-!
DEFINITION. Machine/FabricState.lean: the state of one Faldex plane (R389 to R441): slot tables, streams, camps, lines,
links, control messages, sends, repairs, counters and policy.
-/
namespace Sys2Proof.Machine

/-- A flit (R399). `tag` names its send, by SENDID and, in bit 16, its plane (R407): no bit of a flit carries it, and R409 marks sends by
their flits (notes/assumptions/81.md). -/
structure Flit where
  tag : Nat
  dest : Nat
  src : Nat
  poison : BitVec 4
  win : Nat
  wgen : Nat
  offset : Nat
  seq : Nat
  chk : BitVec 64
  data : BitVec 1024
  deriving DecidableEq, Repr

/-- A flit in a stream, with the local send or the camp pitch it comes from. -/
structure QFlit where
  flit : Flit
  send : Option Nat
  pitch : Option Nat
  deriving DecidableEq, Repr

/-- What was emitted on one line in one slot and is not yet acknowledged (R404). -/
structure Unacked where
  tick : Nat
  band : Nat
  items : List (Nat × QFlit)
  deriving DecidableEq, Repr

/-- A stream (R401, R403). -/
structure Stream where
  retr : List QFlit := []
  relay : List QFlit := []
  loc : List QFlit := []
  sent : Nat := 0
  freed : Nat := 0
  unacked : List Unacked := []
  deriving DecidableEq, Repr

/-- A pitch of a camp that holds a flit (R402): its arrival number, and the copies still to be acknowledged or written. -/
structure Pitch where
  seq : Nat
  flit : Flit
  /-- It is to be written here. -/
  write : Bool
  /-- Copies queued onward and not yet acknowledged. -/
  copies : Nat
  /-- It waits for the MCFAN of its source (R417). -/
  fanWait : Bool
  deriving DecidableEq, Repr

/-- A camp (R402). `blocked`: the write in turn has raised PANTRYEMPTY and waits (R359). -/
structure Camp where
  pitches : List Pitch := []
  freed : Nat := 0
  blocked : Bool := false
  deriving DecidableEq, Repr

/-- What a listened line delivered in the slot of a tick (R404): the GOOD mask and the codewords counted. -/
structure RxSlot where
  tick : Nat
  good : BitVec 32
  cws : List Nat
  deriving DecidableEq, Repr

/-- Line states (R428); `dark` stands for 'no state'. -/
inductive LineState where
  | dark | lit | drifting | substituted | failed | retuning | parked | waking
  deriving DecidableEq, Repr

/-- A line of this device as a sender. -/
structure Line where
  state : LineState := .dark
  /-- Consecutive checks above DRIFTTH (R428), unacknowledged slots (R395), and whether UNHEARD was raised for the run. -/
  drifts : Nat := 0
  unheard : Nat := 0
  raised : Bool := false
  /-- The tick a retune began, and whether a lantern fault caused it (R434). -/
  since : Nat := 0
  lantern : Bool := false
  /-- Bring-up found that the line's loss needs more power than it may have: a table that lights it makes it FAILED (R425). -/
  beyond : Bool := false
  /-- Laser power and its bring-up setting in 0.1 dB (R425, R427). -/
  power : Option Int := none
  floor : Int := 0
  /-- Repairs of this line aborted (R432). -/
  aborts : Nat := 0
  deriving DecidableEq, Repr

/-- A data band's parking (R435, R436). -/
structure Band where
  parkAt : Option Nat := none
  wakeAt : Option Nat := none
  parked : Bool := false
  /-- Parked by AUTOPARK and not by PARKMASK. -/
  auto : Bool := false
  lastFlit : Nat := 0
  lastWake : Nat := 0
  deriving DecidableEq, Repr

/-- Link states in the order of LSTAT's codes (R421, R424). -/
inductive LinkState where
  | dark | calibrating | trained | inService | parked | waking | degraded | failed
  deriving DecidableEq, Repr

/-- A slot table (R393): its period, its TABLEID, and the lane codes: entry times 256 plus modulator lane, or plus 128
plus detector lane. -/
structure SlotTable where
  period : Nat
  id : BitVec 32
  codes : Tbl (BitVec 16)
  deriving DecidableEq, Repr

/-- One copy of a send, by first hop and destination (R415, R416): flits not yet acknowledged at the first hop, whether
its flits have been queued and its NOTICE sent. -/
structure Copy where
  plane : Plane
  residue : Nat
  dest : Nat
  left : Nat
  notice : Bool
  queued : Bool
  deriving DecidableEq, Repr

/-- A send in the engine (R415, R416). -/
structure Send where
  id : Nat
  multi : Bool
  /-- SENDID. -/
  num : Nat
  vals : List Word
  sls : Bool
  lin : Nat
  ctx : Nat
  task : Nat
  launch : Nat
  fut : Nat
  len : Nat
  win : Nat
  wgen : Nat
  offset : Nat
  /-- Its marker stands in the dirty-line FIFO (R310, R317). -/
  marked : Bool := false
  /-- The source has been read; what its flits carry, while a copy is still to be queued: POISON, CHK, payload. -/
  read : Bool
  payload : List (BitVec 4 × BitVec 64 × BitVec 1024)
  copies : List Copy
  /-- The members and the seat mask of each other pod, and the answers (R416). -/
  masks : List (Nat × BitVec 32)
  members : List (Nat × Option Nat)
  /-- It failed before anything was emitted (R416). -/
  failed : Option Nat
  /-- The pages of a source in memory, once translated: each holds a pin until it has been read (R353). -/
  pins : Option (List Nat) := none
  /-- The status block's write has raised PANTRYEMPTY and waits (R359). -/
  blocked : Bool := false
  deriving DecidableEq, Repr

/-- A NOTICE received and not yet applied or forwarded (R405, R410). -/
structure Notice where
  seq : Nat
  src : Nat
  dest : Nat
  win : Nat
  wgen : Nat
  num : Nat
  plane : Nat
  flits : Nat
  /-- A copy that a fan-out device makes (R417). -/
  fan : Bool
  deriving DecidableEq, Repr

/-- A fan-out entry (R417). -/
structure Fan where
  src : Nat
  num : Nat
  win : Nat
  mask : BitVec 32
  deriving DecidableEq, Repr

/-- The sender's part in a repair (R430): its line, SWITCH, and the entries COMMITs named with their lanes. -/
structure RepairS where
  id : Nat
  residue : Nat
  band : Nat
  switch : Nat
  commits : List (Nat × Nat)
  deriving DecidableEq, Repr

/-- One entry a receiver patches: entry, detector lane, and the given-up line as its sender D names it with D's peer id. -/
structure Pick where
  entry : Nat
  lane : Nat
  giver : Option (Nat × Nat × Nat)
  ready : Bool
  deriving DecidableEq, Repr

/-- The receiver's part (R430, R432). -/
structure RepairV where
  sender : Nat
  id : Nat
  residue : Nat
  band : Nat
  switch : Nat
  picks : List Pick
  committed : Bool
  deriving DecidableEq, Repr

/-- The part of a sender that gives up a line (R430). -/
structure RepairD where
  receiver : Nat
  id : Nat
  residue : Nat
  band : Nat
  switch : Nat
  entry : Nat
  committed : Bool
  deriving DecidableEq, Repr

/-- FABPOL (R422). -/
structure FabPol where
  subst : Bool := false
  lantern : Bool := false
  autopark : Bool := false
  parkmask : BitVec 8 := 0
  parkidle : Nat := 1024
  wakeq : Nat := 256
  margin : Nat := 30
  driftth : Nat := 20
  deriving DecidableEq, Repr

/-- One plane of the fabric. -/
structure PlaneSt where
  pol : FabPol := {}
  polNext : Option FabPol := none
  histBucket : Nat := 5
  histLimit : Nat := 100
  /-- Codewords of the present 1,024-tick window by 10 times lane plus bucket, and lanes whose LANEHEALTH was raised. -/
  high : Tbl Nat := []
  healthRaised : List Nat := []
  snapgen : BitVec 16 := 0
  livegen : BitVec 16 := 0
  snapReq : Bool := false
  /-- Live counters and SNAP copies: 10 times lane plus bucket; the copies carry the generation of the copy (R438). -/
  live : Tbl (BitVec 32) := []
  snaps : Tbl (BitVec 32) := []
  snapLive : BitVec 16 := 0
  active : Option SlotTable := none
  standby : Option SlotTable := none
  /-- A table being loaded, and a switch agreed for a tick (R437). -/
  loading : Option SlotTable := none
  switchAt : Option Nat := none
  streams : Tbl Stream := []
  camps : Tbl Camp := []
  rx : Tbl (Option RxSlot) := []
  /-- Residue times 16 plus band. -/
  lines : Tbl Line := []
  bands : Tbl Band := []
  links : Tbl LinkState := []
  /-- Ticks at which calibrations began, by peer. -/
  calib : Tbl (Option Nat) := []
  /-- Control messages queued by next-hop residue (R406). -/
  ctl : Tbl (List (BitVec 128)) := []
  /-- Residues whose next hops are due a TICKSYNC (R426). -/
  syncDue : List Nat := []
  sends : List Send := []
  nextNum : BitVec 16 := 0
  notices : List Notice := []
  fans : List Fan := []
  /-- The first status a send was marked with, by source and tag (R409). -/
  marks : List (Nat × Nat × Nat) := []
  /-- Sends with a flit that a relay dropped for a failed link, by source, tag and destination (R433). -/
  lost : List (Nat × Nat × Nat) := []
  nextRepair : BitVec 16 := 0
  repS : List RepairS := []
  repV : Option RepairV := none
  repD : List RepairD := []
  onStandby : Bool := false
  lanternLost : Bool := false
  takeover : Option Nat := none
  /-- The control lanes are lit: from BRINGUP to RESET (R423, R425). -/
  ctlLit : Bool := false
  /-- BRINGUP has been given and the plane is not yet locked (R425). -/
  locking : Bool := false
  deriving DecidableEq, Repr

end Sys2Proof.Machine
end

