-- ==== Sys2Proof/Machine/State.lean ====
section
/-!
DEFINITION. Machine/State.lean: the whole state of the device as plain data, its value at reset, and the reasons a step
can stop.
-/
namespace Sys2Proof.Machine

/-- Why the machine stops. -/
inductive Fault where
  /-- THERMTRIP has stopped every clock (R456) and no reset is among the inputs. Raised by `step` (Step.lean) alone.
  Safe: the device does nothing either. -/
  | thermalTrip
  deriving DecidableEq, Repr

/-- Why the model gives no meaning. -/
inductive Refusal where
  /-- An instruction whose arm has no meaning yet. Raised by an arm of `exec` only. Safe: the model stops. -/
  | notModelled (mnemonic : String)
  deriving DecidableEq, Repr

/-- What leaves the device (R401, R406, R448, R453): model bookkeeping, emptied when the clock advances. -/
inductive Out where
  | flit (p : Plane) (residue band pos : Nat) (f : Flit)
  | ctl (p : Plane) (residue : Nat) (bits : BitVec 128)
  /-- Light at probe power on a line (R425). -/
  | probe (p : Plane) (residue band : Nat)
  /-- Bytes of a read completion, and whether it carries the poisoned-data indication (R21). -/
  | read (bytes : List Byte) (poisoned : Bool)
  /-- MSI-X vector 0 (R448), and the management port's mirror of an event record (R453). -/
  | msix
  | mirror (words : List Word)
  | reply (bytes : List Byte)
  deriving DecidableEq, Repr

/-- A sparse byte memory (R3): (address, byte) pairs in one canonical form, an unlisted address reading 0x00. -/
abbrev Memory := List Host.Cell

/-- The canonical form of a memory. -/
abbrev Memory.wf (m : Memory) : Bool := twf (0 : Byte) m

/-- Physical addresses: device memory by its physical address, and host memory (the larder) at its host address plus
this base, so that one table holds both. -/
def larderBase : Nat := 2 ^ 60

structure State where
  /-- CYCLE, TICK (R192) and cycles since the last peg (R396). -/
  cycle : Nat
  tick : Nat
  phase : Nat
  /-- The core a slot operation acts on, and the others by linear number (R15): model bookkeeping. -/
  cur : Nat
  core : Core
  cores : Tbl Core
  /-- Pairs: tower times 72 plus pair. -/
  pairs : Tbl Pair
  mem : Memory
  /-- Poison bits, and sectors whose check does not match their bytes, by sector number (R18 to R21). -/
  poison : Tbl Bool
  badCheck : Tbl Bool
  tasks : Tbl Task
  launches : Tbl Launch
  /-- Group slots: tower times 256 plus slot. -/
  groups : Tbl Group
  ctxs : Tbl Ctx
  queues : Tbl Queue
  futs : Tbl Fut
  devBars : Tbl Barrier
  podBars : Tbl Barrier
  /-- Set-table entries: context times 4,096 plus index. -/
  sets : Tbl ASet
  /-- Pages by the address of their leaf entry. -/
  pages : Tbl PageX
  pantries : Tbl Pantry
  scheds : List Sched
  windows : Tbl Window
  hub : Hub
  planeX : PlaneSt
  planeY : PlaneSt
  /-- Model bookkeeping (notes/assumptions/2.md): slot operations of the bundle in issue, steps decided and not yet
  performed, actions of the surroundings with the cycle of their arrival, the counter of free values, the counter
  that numbers results and operations, and what has left the device since the clock last advanced. -/
  slots : List Instr
  agenda : List Instr
  inputs : List (Nat × Instr)
  fresh : Nat
  seqNo : Nat
  /-- What has performed in this cycle, where the spec orders what performs in one cycle: an object's key and the rank of the last
  (R22, R95, R153, R349, R387). Emptied when the clock advances. -/
  marks : Tbl Nat
  outbox : List Out
  deriving DecidableEq, Repr

/-- The machine right after reset. -/
def State.reset : State :=
  { cycle := 0, tick := 0, phase := 0, cur := 0, core := Core.reset, cores := [], pairs := [], mem := [], poison := [],
    badCheck := [], tasks := [], launches := [], groups := [], ctxs := [], queues := [], futs := [], devBars := [],
    podBars := [], sets := [], pages := [], pantries := [], scheds := [], windows := [], hub := {}, planeX := {},
    planeY := {}, slots := [], agenda := [], inputs := [], fresh := 0, seqNo := 0, marks := [], outbox := [] }

end Sys2Proof.Machine
end

