-- ==== Sys2Proof/Machine/Ops.lean ====
section
/-!
DEFINITION. Machine/Ops.lean: the named operations over State: tables, memory, events, the waking and leaving of tasks,
the release of sets, and taking a fault or trap (R138 to R142).
-/
namespace Sys2Proof.Machine

/-- A step's outcome. -/
abbrev Res := Host.Outcome State Fault Refusal

/-! ### Tables -/

def State.coreAt (s : State) (lin : Nat) : Core := if lin = s.cur then s.core else tget Core.reset s.cores lin
def State.setCore (s : State) (lin : Nat) (c : Core) : State :=
  if lin = s.cur then { s with core := c } else { s with cores := tput Core.reset s.cores lin c }
def State.modCore (s : State) (lin : Nat) (f : Core → Core) : State := s.setCore lin (f (s.coreAt lin))
/-- The core in focus changed. -/
def State.onCore (s : State) (f : Core → Core) : State := { s with core := f s.core }
/-- Core `lin` brought into focus. -/
def State.focus (s : State) (lin : Nat) : State :=
  if lin = s.cur then s
  else
    { s with cores := tput Core.reset (tput Core.reset s.cores s.cur s.core) lin Core.reset,
             core := tget Core.reset s.cores lin, cur := lin }

def State.pairAt (s : State) (k : Nat) : Pair := tget Pair.reset s.pairs k
def State.modPair (s : State) (k : Nat) (f : Pair → Pair) : State := { s with pairs := tmod Pair.reset s.pairs k f }
def State.task (s : State) (i : Nat) : Task := tget {} s.tasks i
def State.modTask (s : State) (i : Nat) (f : Task → Task) : State := { s with tasks := tmod {} s.tasks i f }
def State.launchOf (s : State) (k : Nat) : Launch := tget {} s.launches k
def State.modLaunch (s : State) (k : Nat) (f : Launch → Launch) : State := { s with launches := tmod {} s.launches k f }
def State.group (s : State) (k : Nat) : Group := tget {} s.groups k
def State.modGroup (s : State) (k : Nat) (f : Group → Group) : State := { s with groups := tmod {} s.groups k f }
def State.ctx (s : State) (c : Nat) : Ctx := tget {} s.ctxs c
def State.modCtx (s : State) (c : Nat) (f : Ctx → Ctx) : State := { s with ctxs := tmod {} s.ctxs c f }
def State.queue (s : State) (q : Nat) : Queue := tget {} s.queues q
def State.modQueue (s : State) (q : Nat) (f : Queue → Queue) : State := { s with queues := tmod {} s.queues q f }
def State.fut (s : State) (i : Nat) : Fut := tget {} s.futs i
def State.modFut (s : State) (i : Nat) (f : Fut → Fut) : State := { s with futs := tmod {} s.futs i f }
def State.devBar (s : State) (i : Nat) : Barrier := tget {} s.devBars i
def State.podBar (s : State) (i : Nat) : Barrier := tget {} s.podBars i
def State.aset (s : State) (k : Nat) : ASet := tget {} s.sets k
def State.modSet (s : State) (k : Nat) (f : ASet → ASet) : State := { s with sets := tmod {} s.sets k f }
def State.page (s : State) (k : Nat) : PageX := tget {} s.pages k
def State.modPage (s : State) (k : Nat) (f : PageX → PageX) : State := { s with pages := tmod {} s.pages k f }
def State.pantry (s : State) (t : Nat) : Pantry := tget {} s.pantries t
def State.window (s : State) (e : Nat) : Window := tget {} s.windows e
def State.modWindow (s : State) (e : Nat) (f : Window → Window) : State := { s with windows := tmod {} s.windows e f }
def State.plane (s : State) : Plane → PlaneSt
  | .x => s.planeX
  | .y => s.planeY
def State.modPlane (s : State) (p : Plane) (f : PlaneSt → PlaneSt) : State :=
  match p with
  | .x => { s with planeX := f s.planeX }
  | .y => { s with planeY := f s.planeY }
def State.modHub (s : State) (f : Hub → Hub) : State := { s with hub := f s.hub }

/-- The pair of a core: tower times 72 plus pair (R15). -/
def pairOf (lin : Nat) : Nat := lin / 144 * 72 + lin % 72
def towerOf (lin : Nat) : Nat := lin / 144
def layerOf (lin : Nat) : Nat := lin % 144 / 72
/-- The cores of a pair: layer 0, then layer 1. -/
def coresOfPair (k : Nat) : List Nat := [k / 72 * 144 + k % 72, k / 72 * 144 + 72 + k % 72]

/-- The next free value (R472; notes/assumptions/1.md) below n. -/
def State.draw (s : State) (n : Nat) : Nat × State :=
  (Config.choice s.fresh % n, { s with fresh := s.fresh + 1 })

def State.nextSeq (s : State) : Nat × State := (s.seqNo, { s with seqNo := s.seqNo + 1 })
def State.emit (s : State) (o : Out) : State := { s with outbox := s.outbox ++ [o] }

/-- Steps put on the agenda behind those already there. -/
def State.plan (s : State) (l : List Instr) : State := { s with agenda := s.agenda ++ l }

/-- Insertion into a sorted list, and insertion sort. -/
def insertBy {α : Type} (le : α → α → Bool) (x : α) : List α → List α
  | [] => [x]
  | y :: ys => if le x y then x :: y :: ys else y :: insertBy le x ys
def sortBy {α : Type} (le : α → α → Bool) : List α → List α
  | [] => []
  | x :: xs => insertBy le x (sortBy le xs)
/-- Each number once, ascending. -/
def sortNat (l : List Nat) : List Nat := sortBy (fun a b => decide (a ≤ b)) l.eraseDups

/-- The cores the state lists, the one in focus among them, ascending; every other core is at its reset value. -/
def State.coreList (s : State) : List Nat := insertBy (fun a b => decide (a ≤ b)) s.cur ((tkeys s.cores).filter (· != s.cur))
/-- The cores that run a task. -/
def State.runningCores (s : State) : List Nat := s.coreList.filter fun l => (s.coreAt l).task.isSome

/-! ### Memory -/

def getBytes (m : Memory) (a : Nat) : Nat → List Byte
  | 0 => []
  | n + 1 => tget 0 m a :: getBytes m (a + 1) n
def putBytes (m : Memory) (a : Nat) : List Byte → Memory
  | [] => m
  | b :: bs => putBytes (tput 0 m a b) (a + 1) bs
/-- Bytes, the lowest first, as a number (R3). -/
def natOfBytes : List Byte → Nat
  | [] => 0
  | b :: bs => b.toNat + 256 * natOfBytes bs
/-- A number as n bytes, the lowest first (R3). -/
def leBytes (w : Nat) : Nat → List Byte
  | 0 => []
  | n + 1 => BitVec.ofNat 8 w :: leBytes (w / 256) n

/-! ### Tasks: age, waiting -/

/-- Task a is older than task b (R130). -/
def State.older (s : State) (a b : Nat) : Bool :=
  let ta := s.task a
  let tb := s.task b
  decide (ta.age < tb.age) || (decide (ta.age = tb.age) && decide (a < b))

/-- The oldest of some tasks. -/
def State.oldest (s : State) : List Nat → Option Nat
  | [] => none
  | i :: is =>
    match s.oldest is with
    | none => some i
    | some j => if s.older j i then some j else some i

/-- Pool indexes in use. -/
def State.taskList (s : State) : List Nat := tkeys s.tasks

/-- The sets a task holds, as table keys, ascending. -/
def State.heldSets (s : State) (i : Nat) : List Nat := (tkeys s.sets).filter fun k => (s.aset k).holder == some i

/-- The waiters of an object (R129): tasks of context c linked under a kind and an object. -/
def State.waiters (s : State) (kind obj c : Nat) : List Nat :=
  s.taskList.filter fun i =>
    let t := s.task i
    t.wkind == kind && t.wobj == obj && t.ctx == c && (t.state == .suspended || t.state == .aborted)

/-- Tasks linked under a kind whose WADDR is `addr`. -/
def State.waitersAt (s : State) (kind addr c : Nat) : List Nat :=
  s.taskList.filter fun i =>
    let t := s.task i
    t.wkind == kind && t.waddr == addr && t.ctx == c && (t.state == .suspended || t.state == .aborted)

/-- The id of a set-table entry (R378). -/
def State.setId (s : State) (key : Nat) : Nat := key % 4096 + (s.aset key).gen.toNat * 4096

/-! ### The cellar regions that firmware reserves (R126, R151, R368, R379) -/

def TState.code : TState → Nat
  | .free => 0
  | .ready => 1
  | .running => 2
  | .suspended => 3
  | .aborted => 4
  | .faulted => 5
  | .done => 6
def FState.code : FState → Nat
  | .free => 0
  | .empty => 1
  | .set => 2
  | .failed => 3
def SState.code : SState → Nat
  | .free => 0
  | .declared => 1
  | .held => 2
  | .dropping => 3

/-- The end of a waiter list (R126). -/
def noTask : Nat := 0xFFFFFF
/-- The first task of a waiter list, or none. -/
def firstWaiter (l : List Nat) : Nat := l.head?.getD noTask
/-- The waiters of a set, oldest first (R379, R385). -/
def State.setWaiters (s : State) (key : Nat) : List Nat :=
  sortBy (fun a b => !s.older b a) (s.waiters 2 (s.setId key) (key / 4096))

/-- The waiter list in which a task is linked (R129): a set's oldest first (R385), a pantry's by its tower, the others by index
(notes/assumptions/75.md). -/
def State.waitList (s : State) (i : Nat) : List Nat :=
  let t := s.task i
  match t.wkind with
  | 0 => []
  | 2 => sortBy (fun a b => !s.older b a) (s.waiters 2 t.wobj t.ctx)
  | 7 => s.taskList.filter fun j => (s.task j).wkind == 7 && (s.task j).tower == t.tower
  | k => s.taskList.filter fun j =>
      let u := s.task j
      u.wkind == k && u.wobj == t.wobj && u.ctx == t.ctx && (k == 3 || u.waddr == t.waddr)
/-- WNEXT (R129). -/
def State.wnext (s : State) (i : Nat) : Nat := firstWaiter (((s.waitList i).dropWhile fun j => j != i).drop 1)

/-- The 16 words of a pool entry: continuation record and side record (R128, R129). -/
def State.entryWords (s : State) (i : Nat) : List Word :=
  let t := tget {} s.tasks i
  let w (n : Nat) : Word := BitVec.ofNat 64 n
  [w (t.state.code + t.ctx * 2 ^ 4 + (if t.h then 2 ^ 10 else 0) + t.pc * 2 ^ 16), w t.age,
   w (t.launch + t.fpsnap.toBits.toNat * 2 ^ 32 + t.gslot * 2 ^ 48)] ++ (List.range 5).map (fun k => tget 0 t.sa k) ++
  [w (t.wkind + s.wnext i * 2 ^ 8 + t.wobj * 2 ^ 32), w (if t.wkind = 3 then 0 else t.waddr % 2 ^ 57),
   w (t.ecode + t.emask * 2 ^ 16 + t.eclass * 2 ^ 24 + t.ecore * 2 ^ 32), w t.epc, t.earg0, t.earg1, t.earg2, t.mxcacc.toWord]

/-- The handle of a future entry (R149). -/
def State.futHandle (s : State) (i : Nat) : Nat := i + (s.fut i).gen.toNat * 2 ^ 20
/-- A future entry's words (R151). -/
def State.futWord (s : State) (i w : Nat) : Nat :=
  let f := s.fut i
  match w with
  | 0 => if f.state == .set then f.value.toNat else 0
  | _ => f.state.code + f.ctx * 4 + f.gen.toNat * 2 ^ 8 + f.rscope * 2 ^ 20 + (if f.state == .failed then f.status.toNat * 2 ^ 24 else 0)
      + firstWaiter (s.waiters 1 (s.futHandle i) f.ctx) * 2 ^ 40
/-- A set-table entry's words (R379). -/
def State.setWord (s : State) (key w : Nat) : Nat :=
  let a := s.aset key
  match w with
  | 0 => a.state.code + a.gen.toNat * 4
  | 1 => a.base
  | 2 => a.lines + a.holder.getD noTask * 2 ^ 14 + a.next.getD noTask * 2 ^ 38
  | _ => firstWaiter (s.setWaiters key)

/-- The two words of a log record (R367). -/
def LogRec.word (r : LogRec) (w : Nat) : Nat :=
  match w with
  | 0 => if r.w64 then r.operand.toNat else r.operand.toNat % 2 ^ 32
  | _ => r.offset + r.op * 2 ^ 16 + (if r.w64 then 2 ^ 20 else 0) + (if r.mrg then 2 ^ 21 else 0) + r.seq.toNat * 2 ^ 32
/-- Word w of log position n: 0 where no record stands. -/
def PageX.logWord (p : PageX) (n w : Nat) : Nat := (p.log[n]?).elim 0 fun r => r.word w
/-- The page whose chunk list holds a chunk of the pool, and the chunk's place in it (R368). -/
def State.chunkOwner (s : State) (k : Nat) : Option (Nat × Nat) :=
  (tkeys s.pages).findSome? fun a => (((s.page a).chunks.zip (List.range 8)).find? fun q => q.1 == k).map fun q => (a, q.2)
/-- Word w of a chunk: 256 records of two words (R367, R368). -/
def State.chunkWord (s : State) (k w : Nat) : Nat :=
  (s.chunkOwner k).elim 0 fun q => (s.page q.1).logWord (256 * q.2 + w / 2) (w % 2)

/-- Bytes of the regions, which stand behind each other in this order: task pool, future table, set tables, log pool. -/
def poolBytes : Nat := 128 * Config.poolSize
def futBytes : Nat := 16 * 2 ^ 20
def setBytes : Nat := 64 * 4096 * 32
def chunkBytes : Nat := 4096
def reservedBytes : Nat := poolBytes + futBytes + setBytes + chunkBytes * Config.logPoolChunks

/-- The word at an offset, a multiple of 8, in the regions. -/
def State.reservedWord (s : State) (off : Nat) : Nat :=
  if off < poolBytes then ((s.entryWords (off / 128)).getD (off % 128 / 8) 0).toNat
  else if off < poolBytes + futBytes then s.futWord ((off - poolBytes) / 16) (off / 8 % 2)
  else if off < poolBytes + futBytes + setBytes then s.setWord ((off - poolBytes - futBytes) / 32) (off / 8 % 4)
  else
    let o := off - poolBytes - futBytes - setBytes
    s.chunkWord (o / chunkBytes) (o % chunkBytes / 8)

/-- n bytes at a physical address. The reserved regions read as the entries, records and log positions they hold (R126, R151, R368,
R379). -/
def State.read (s : State) (pa n : Nat) : List Byte :=
  match s.hub.poolAt with
  | none => getBytes s.mem pa n
  | some base =>
    if pa + n ≤ base || base + reservedBytes ≤ pa then getBytes s.mem pa n
    else
      (List.range n).map fun k =>
        let a := pa + k
        if a < base || base + reservedBytes ≤ a then tget 0 s.mem a
        else BitVec.ofNat 8 (s.reservedWord ((a - base) / 8 * 8) >>> (8 * ((a - base) % 8)))
def State.readWord (s : State) (pa : Nat) : Nat := natOfBytes (s.read pa 8)

/-- The sectors that n bytes at an address touch. -/
def sectorsOf (a n : Nat) : List Nat :=
  if n = 0 then [] else (List.range ((a + n - 1) / 32 - a / 32 + 1)).map (· + a / 32)

/-! ### The order within one cycle (R22, R95, R153, R349, R387) -/

/-- The key of an object of a kind: 0 a sector, 1 a page, 2 a future, 3 a set, 4 a context, 5 a queue stopped, 6 (id 0) the last steps of the
cycle, 7 a barrier, a window or the search units. -/
def markKey (kind id : Nat) : Nat := 8 * id + kind
/-- The search units as an object: requests of one cycle arrive in the order of their cores (R294). -/
def searchMark : Nat := 2 ^ 41
/-- The rank of what last performed on an object in this cycle, plus 1; 0 when nothing has. -/
def State.rankOf (s : State) (kind id : Nat) : Nat := tget 0 s.marks (markKey kind id)
/-- Something of a rank performs on an object. -/
def State.rank (s : State) (kind id rank : Nat) : State :=
  { s with marks := tput 0 s.marks (markKey kind id) (max (rank + 1) (s.rankOf kind id)) }

/-- Bytes written by a performing agent: the checks of the sectors are fresh (R19), and a sector written whole is no
longer poisoned (R21). -/
def State.write (s : State) (pa : Nat) (bs : List Byte) : State :=
  let n := bs.length
  let secs := sectorsOf pa n
  let whole := secs.filter fun k => decide (pa ≤ 32 * k) && decide (32 * k + 32 ≤ pa + n)
  { s with mem := putBytes s.mem pa bs,
           badCheck := secs.foldl (fun t k => tput false t k false) s.badCheck,
           poison := whole.foldl (fun t k => tput false t k false) s.poison,
           marks := whole.foldl (fun t k => tput 0 t (markKey 0 k) 1) s.marks }

/-- The poison bits of whole sectors set (R20, R21, R312). -/
def State.poisonSectors (s : State) (secs : List Nat) : State :=
  { s with poison := secs.foldl (fun t k => tput false t k true) s.poison }
def State.poisoned (s : State) (pa n : Nat) : Bool := (sectorsOf pa n).any fun k => tget false s.poison k

/-! ### Events (R448, R469) -/

/-- The four words of an event record (R448). -/
def eventWords (code : Nat) (ctx : Option Nat) (seq : BitVec 32) (tick a0 a1 : Nat) : List Word :=
  [BitVec.ofNat 64 (code + (match ctx with
      | some c => c * 2 ^ 16 + 2 ^ 22
      | none => 0) + seq.toNat * 2 ^ 32),
   BitVec.ofNat 64 tick, BitVec.ofNat 64 a0, BitVec.ofNat 64 a1]

def bytesOfWords (ws : List Word) : List Byte := ws.flatMap fun w => leBytes w.toNat 8

/-- Cycles in 1 microsecond, within which signals coalesce (R192, R448). -/
def msixCycles : Nat := 1700

/-- MSI-X vector 0 is signalled; within 1 microsecond of a signal, signals coalesce into one at its end (R448; notes/assumptions/30.md). -/
def State.signal (s : State) : State :=
  if s.hub.msixAt ≤ s.cycle then { s with hub := { s.hub with msixAt := s.cycle + msixCycles, msixDue := false } }.emit .msix
  else { s with hub := { s.hub with msixDue := true } }

/-- The hub raises an event: the record is written in the host's ring and mirrored on the management port, or counted
as lost (R447, R448, R453). -/
def State.event (s : State) (code : Nat) (ctx : Option Nat) (a0 a1 : Nat) : State :=
  let h := s.hub
  let ws := eventWords code ctx h.evseq s.tick a0 a1
  let s := s.emit (.mirror ws)
  let size := 2 ^ (h.evlog2n + 6)
  let h' := { h with evseq := h.evseq + 1 }
  if !h.even then { s with hub := h' }
  else if (h.evtail - h.evhead).toNat = size then { s with hub := { h' with lost := satAdd32 h.lost 1 } }
  else
    ({ s with hub := { h' with evtail := h.evtail + 1 } }.write
      (larderBase + h.evbase + 32 * (h.evtail.toNat % size)) (bytesOfWords ws)).signal

def evINTEGRITY := 0x01
def evCTXQUIET := 0x02
def evCTXFREE := 0x03
def evQPARTIAL := 0x04
def evQDRAINED := 0x05
def evQDROP := 0x06
def evFUTLATE := 0x07
def evLAUNCHEND := 0x08
def evPODBARLOST := 0x09
def evPOOLHOLD := 0x0A
def evPAGEMISS := 0x10
def evPAGEPOISON := 0x11
def evLARDERMISS := 0x12
def evPANTRYEMPTY := 0x13
def evPANTRYLOW := 0x14
def evSCHEDDONE := 0x15
def evMIGFAIL := 0x16
def evLOGPOOLLOW := 0x17
def evLOGPOOLEMPTY := 0x18
def evUNHEARD := 0x20
def evLINKDOWN := 0x21
def evLINKDEGR := 0x22
def evDRIFT := 0x23
def evLINEFAIL := 0x24
def evPOWERMAX := 0x25
def evSUBSTITUTED := 0x26
def evLANTERNLOST := 0x27
def evLANEHEALTH := 0x28
def evLANEUNC := 0x29
def evMODECHG := 0x2A
def evTHROTTLE := 0x30
def evTHERMTRIP := 0x31
def evSENSORFAIL := 0x32

/-- A sector has been written whole in this cycle: its verification would come first, so that it waits for the next one (R22). -/
def State.freshSectors (s : State) (secs : List Nat) : Bool := secs.any fun k => s.rankOf 0 k != 0

/-- A check of sectors at a verifying point (R19, R20): a mismatch poisons the sector and raises one INTEGRITY. -/
def State.verify (s : State) (secs : List Nat) (point : Nat) (ctx : Option Nat) : State :=
  secs.foldl (fun s k =>
    if tget false s.badCheck k && !tget false s.poison k then
      (s.poisonSectors [k]).event evINTEGRITY ctx (32 * k) point
    else s) s

/-! ### Fault and trap codes (R139) -/

def fcNOTPRESENT := 0x01
def fcPANTRY := 0x02
def fcWOUND := 0x03
def fcTRANSIT := 0x04
def fcILLINST := 0x10
def fcILLOPND := 0x11
def fcBANKCONFLICT := 0x12
def fcPOISON := 0x13
def fcFPTRAP := 0x14
def fcSETBUF := 0x15
def fcSTALEFUT := 0x16
def fcSETWAIT := 0x17
def fcQDESC := 0x18
def fcBADENTRY := 0x19
def fcDEFERBUF := 0x1A
def fcFUTRESOLVED := 0x20
def fcBARBUSY := 0x21
def fcBARSTALE := 0x22
def fcBADTARGET := 0x23
def fcLOOPNEST := 0x24
def fcBADFMT := 0x25
def fcLSRANGE := 0x26
def fcNOTATTIC := 0x27
def fcMISALIGN := 0x28
def fcADDRRANGE := 0x29
def fcREADONLY := 0x2A
def fcSETMAX := 0x2B
def fcPOOLFULL := 0x2C
def fcBARLOST := 0x2D
def fcQEXPIRE := 0x40
def fcQFULL := 0x41
/-- EARG0 of a code whose arguments the spec does not state. -/
def State.freeArg (s : State) (code : Nat) : Word := Config.faultArg s.fresh code
def fcRETIRED := 0xF0
def fcHANDLERFAULT := 0xF1
def fcCTXGONE := 0xF2

/-! ### Engine statuses (R152, R364, R418) -/

def stPOISON := 0x100
def stREVOKED := 0x101
def stNOTPRESENT := 0x102
def stLINKFAIL := 0x103
def stCTXGONE := 0x104
def stPINNED := 0x105
def stNOTMOVABLE := 0x106
def stATTICFULL := 0x107
def stMIGBUSY := 0x108
def stREADONLY := 0x109
def stNOROUTE := 0x10A
def stMCNEG := 0x10B
def stWINRANGE := 0x10C
def stDENIED := 0x10D

/-! ### Tasks: waking -/

/-- A waiting task's cause clears (R131): it becomes READY, unless a wounder still holds a set, under which it is then
linked (R132). -/
def State.wake (s : State) (i : Nat) : State :=
  let t := s.task i
  if t.state == .suspended || t.state == .aborted then
    match t.wounder with
    | some w =>
      if s.heldSets w = [] then
        s.modTask i fun t => { t with state := .ready, wkind := 0, wobj := 0, waddr := 0, wounder := none, qlimit := none }
      else s.modTask i fun t => { t with wkind := 6, wobj := w, waddr := 0, wounder := none }
    | none => s.modTask i fun t => { t with state := .ready, wkind := 0, wobj := 0, waddr := 0, qlimit := none }
  else s

def State.wakeAll (s : State) (l : List Nat) : State := l.foldl State.wake s

/-- A task's pool entry returns to FREE (R131). -/
def State.freeTask (s : State) (i : Nat) : State := s.modTask i fun _ => {}

/-- The lowest free pool entry a creation may take, leaving `spare` entries free (R126, R127). -/
def State.freeEntry (s : State) (spare : Nat) : Option Nat :=
  if s.taskList.length + spare < Config.poolSize then
    firstFrom (fun i => (s.task i).state == .free) 0 Config.poolSize
  else none

/-! ### Atomic sets: release (R386) -/

/-- The cores whose frozen access wounds the holder of a set (R382). -/
def State.wounders (s : State) (key : Nat) : List Nat :=
  s.coreList.filter fun l =>
    let c := s.coreAt l
    match c.task with
    | none => false
    | some i => (s.task i).ctx == key / 4096 && c.mq.any fun e =>
        match e.st with
        | .wounding (x :: _) => x == key % 4096
        | _ => false

/-- The wounding entries of a core on a set go on: the set was received, or is judged again. -/
def Core.unwound (c : Core) (index : Nat) (got : Bool) : Core :=
  { c with mq := c.mq.map fun e =>
      match e.st with
      | .wounding (x :: rest) =>
        if x = index then
          if got then { e with st := .sets rest, inSet := e.inSet ++ [x] } else { e with st := .sets (x :: rest) }
        else e
      | _ => e }

/-- A DROPPING or freed entry: FREE, with the next generation (R387). -/
def ASet.freed (a : ASet) : ASet := { ({} : ASet) with gen := a.gen + 1 }

/-- The oldest remaining waiter becomes NEXT, or a DROPPING entry without holder is freed (R386, R387). -/
def State.reserve (s : State) (key : Nat) : State :=
  let a := s.aset key
  let ws := s.waiters 2 (s.setId key) (key / 4096)
  if a.holder.isSome then s
  else if a.state == .dropping then (if a.next.isSome then s else (s.wakeAll ws).modSet key ASet.freed)
  else
    match s.oldest ws with
    | none => s.modSet key fun a => { a with state := .declared }
    | some w => (s.wake w).modSet key fun a => { a with state := .declared, next := some w }

/-- A release of an entry (R386). -/
def State.releaseSet (s : State) (key : Nat) : State :=
  let a := s.aset key
  let ws := s.wounders key
  let index := key % 4096
  if a.state == .dropping then
    let s := s.wakeAll (s.waiters 2 (s.setId key) (key / 4096))
    let s := ws.foldl (fun s l => s.modCore l fun c => c.unwound index false) s
    s.modSet key ASet.freed
  else
    match s.oldest (ws.filterMap fun l => (s.coreAt l).task) with
    | some w =>
      let s := s.modSet key fun a => { a with holder := some w }
      ws.foldl (fun s l => s.modCore l fun c => c.unwound index (c.task == some w)) s
    | none => (s.modSet key fun a => { a with holder := none }).reserve key

/-- NEXT cleared for a task without an acquisition (R386). -/
def State.clearNext (s : State) (i : Nat) : State :=
  ((tkeys s.sets).filter fun k => (s.aset k).next == some i).foldl
    (fun s k => (s.modSet k fun a => { a with next := none }).reserve k) s

/-- A wound of task w whose victim has not left its core is released (R132, R140). -/
def Core.released (c : Core) (w : Nat) : Core :=
  if (c.woundIn.any fun x => x.2.2 == w) || c.wound.any fun x => x.2 == w then { c with woundDone := true } else c

/-- Every set a task holds is released, and the tasks it wounded are freed of it (R132, R140), those still on their cores too. -/
def State.releaseAll (s : State) (i : Nat) : State :=
  let keys := s.heldSets i
  let s := keys.foldl State.releaseSet s
  let s := s.coreList.foldl (fun s l => s.modCore l fun c => c.released i) s
  if keys = [] then s
  else
    let s := s.taskList.foldl
      (fun s j => if (s.task j).wounder == some i then s.modTask j fun t => { t with wounder := none } else s) s
    s.wakeAll (s.taskList.filter fun j =>
      let t := s.task j
      t.wkind == 6 && t.wobj == i && t.state == .aborted)

/-! ### Launches: abort, faults (R122, R123) -/

/-- The launch slot of a handle, and the handle of a slot (R122). -/
def slotOfHandle (h : Nat) : Nat := h % 4096
def State.handleOf (s : State) (slot : Nat) : Nat := slot + (s.launchOf slot).gen * 4096

/-- A request decided in this cycle for the task of a core (R470). A request on the way or arrived stands. -/
def Core.request (c : Core) (now : Nat) (by_ : ReqBy) : Core :=
  if c.task.isNone || c.leave.isSome then c
  else { c with preqIn := if c.preq.isSome || c.preqIn.isSome then c.preqIn else some now, preqBy := by_ :: c.preqBy.filter (· != by_) }

/-- Every running task of which p holds receives a pre-emption request. -/
def State.requestWhere (s : State) (p : Nat → Bool) : State :=
  s.runningCores.foldl (fun s l =>
    match (s.coreAt l).task with
    | some i => if p i then s.modCore l fun c => c.request s.cycle .plain else s
    | none => s) s

/-- The tasks of an aborting launch that are off their cores are discarded (R122, R131), with the records kept of committed ones (R137),
and groups without members end. -/
def State.abortSweep (s : State) (slot : Nat) : State :=
  let mine := s.taskList.filter fun i =>
    let t := s.task i
    slotOfHandle t.launch == slot && t.state != .running && t.state != .free
  let s := mine.foldl (fun s i => ((s.clearNext i).freeTask i)) s
  ((tkeys s.groups).filter fun k => (s.group k).launch == s.handleOf slot && (s.group k).state != .none).foldl
    (fun s k => s.modGroup k fun g =>
      let ms := g.members.filter fun m => !mine.contains m.1
      if ms = [] then {} else { g with members := ms, reserved := [] }) s

/-- A launch aborts: the flag, DRAINING, no more creation, requests to its running tasks (R122). -/
def State.abortLaunch (s : State) (slot : Nat) : State :=
  let l := s.launchOf slot
  if l.state == .free || l.state == .complete || l.state == .faulted then s
  else
    let s := s.modLaunch slot fun l =>
      { l with state := .draining, abort := true, owedState := true, walkers := l.walkers.map fun w => { w with succ := [] }, failures := [] }
    let s := s.requestWhere fun i => slotOfHandle (s.task i).launch == slot
    s.abortSweep slot

/-- The code, bundle, mask and core of the oldest faulting task are kept for the status block (R125), also while the launch aborts. -/
def Launch.record (l : Launch) (age : Nat × Nat) (code fpc mask core : Nat) : Launch :=
  let older := match l.fage with
    | none => true
    | some (a, i) => decide (age.1 < a) || (decide (age.1 = a) && decide (age.2 < i))
  if older then { l with fage := some age, fcode := code, fpc := fpc, fmask := mask, fcore := core } else l

/-- FCODE takes a code that stands for the launch itself: RETIRED, HANDLERFAULT or CTXGONE (R122, R123). No later fault replaces it; FPC,
FMASK and FCORE keep what was recorded, which the spec leaves open (notes/assumptions/93.md). -/
def Launch.ends (l : Launch) (code : Nat) : Launch := { l with fcode := code, fage := some (0, 0) }

/-- A fault or trap of a task meets its launch's fault policy (R122, R123): `i` is in FAULTED, or has committed with a
recorded failure (R137). FPC, FMASK and FCORE of a handler's fault: notes/assumptions/93.md. -/
def State.faultPolicy (s : State) (i : Nat) (committed : Bool) : State :=
  let t := s.task i
  let slot := slotOfHandle t.launch
  let l := s.launchOf slot
  if l.state == .complete || l.state == .faulted || l.state == .free then s
  else
    let s := s.modLaunch slot fun l =>
      ({ l with faults := min (l.faults + 1) (2 ^ 48 - 1) }).record (t.age, i)
        (if t.h then fcHANDLERFAULT else t.ecode) t.epc t.emask t.ecore
    if t.h || l.img.fpol = 0 then
      (s.modLaunch slot fun l => if t.h then l.ends fcHANDLERFAULT else l).abortLaunch slot
    else if committed && !l.abort then s.modLaunch slot fun l => { l with failures := l.failures ++ [i] }
    else s

/-! ### Page tables (R342 to R344) -/

/-- RES codes (R343). -/
def resABSENT := 0
def resZERO := 1
def resCELLAR := 2
def resATTIC := 3
def resLARDER := 4
def resPROMOTING := 5
def resDEMOTING := 6
def resLOGGED := 7
def resAPPLYING := 8
def resPOISONED := 9

def bitsOf (w lo n : Nat) : Nat := w / 2 ^ lo % 2 ^ n
def pteRes (e : Nat) : Nat := bitsOf e 0 4
def pteSize (e : Nat) : Nat := bitsOf e 4 2
def pteW (e : Nat) : Bool := bitsOf e 6 1 == 1
def pteLog (e : Nat) : Bool := bitsOf e 7 1 == 1
def pteMerged (e : Nat) : Bool := bitsOf e 8 1 == 1
def ptePol (e : Nat) : Nat := bitsOf e 9 2
def pteFrame (e : Nat) : Nat := bitsOf e 16 41 * 2 ^ 16
def pteTable (e : Nat) : Nat := bitsOf e 8 49 * 2 ^ 8
/-- An entry with a field replaced. -/
def setBits (e lo n v : Nat) : Nat := e - bitsOf e lo n * 2 ^ lo + v % 2 ^ n * 2 ^ lo

/-- The index of a virtual address at a level (R342). -/
def levelIndex (level va : Nat) : Nat :=
  match level with
  | 0 => bitsOf va 16 5
  | 1 => bitsOf va 21 9
  | 2 => bitsOf va 30 9
  | _ => bitsOf va 39 18
/-- The bytes a leaf at a level maps: 64 KiB, 2 MiB, 1 GiB (R342). -/
def pageBytes (level : Nat) : Nat :=
  match level with
  | 0 => 2 ^ 16
  | 1 => 2 ^ 21
  | _ => 2 ^ 30

/-- The checks of R344 on a leaf that is not ABSENT. -/
def leafOk (level e : Nat) : Bool :=
  decide (level ≤ 2) && decide (pteRes e ≤ 9) && pteSize e == level && ptePol e != 3
    && (level == 0 || ((pteRes e == resCELLAR || pteRes e == resLARDER || pteRes e == resPOISONED) && ptePol e == 2))
    && pteFrame e % pageBytes level == 0
/-- The checks of R344 on a table entry. -/
def tableOk (level e : Nat) : Bool := level != 0 && (level == 1 || bitsOf e 8 4 == 0)

/-- How a walk ends: a leaf with its entry's address, level and value; an ABSENT entry; a malformed or poisoned table. -/
inductive Walk where
  | leaf (addr level pte : Nat)
  | absent
  | format
  | poison
  deriving DecidableEq, Repr

/-- The walk from a table of a level (R342, R344). -/
def State.walkFrom (s : State) (va : Nat) : Nat → Nat → Walk
  | level, table =>
    let a := table + 8 * levelIndex level va
    if s.poisoned a 8 then .poison
    else
      let e := s.readWord a
      if pteRes e = 15 then
        if tableOk level e then
          match level with
          | 0 => .format
          | l + 1 => s.walkFrom va l (pteTable e)
        else .format
      else if pteRes e = resABSENT then (if ptePol e = 3 || pteSize e = 3 then .format else .absent)
      else if leafOk level e then .leaf a level e
      else .format

/-- A context's walk of a virtual address (R342). A root of 0 maps nothing. -/
def State.walk (s : State) (c va : Nat) : Walk :=
  if (s.ctx c).ptroot = 0 then .absent else s.walkFrom va 3 ((s.ctx c).ptroot * 4096)

/-- The PASID under which the host link translates a context's larder pages (R346). -/
def State.pasid (s : State) (c : Nat) : Nat := (s.hub.pasidBase.toNat + c) % 2 ^ 20
/-- Where the host memory that a PASID reaches stands (notes/assumptions/91.md). -/
def hostSpace (pasid : Nat) : Nat := larderBase + (pasid + 1) * 2 ^ 57
/-- The physical address a leaf gives a virtual address of a context; a larder leaf gives a host address under its PASID. -/
def State.physOf (s : State) (c level e va : Nat) : Nat :=
  pteFrame e + va % pageBytes level + (if pteRes e = resLARDER then hostSpace (s.pasid c) else 0)
/-- The host page of 4 KiB at a host address, for a PASID. -/
def atsKey (pasid host : Nat) : Nat := pasid * 2 ^ 45 + host / 4096
/-- The host answers with no access for one of the larder pages under n bytes (R346). -/
def State.atsDenied (s : State) (c level e va n : Nat) : Bool :=
  pteRes e == resLARDER &&
    (let h := pteFrame e + va % pageBytes level
     (List.range ((h + n - 1) / 4096 - h / 4096 + 1)).any fun k => tget false s.hub.atsDeny (atsKey (s.pasid c) (h + 4096 * k)))

/-- A page in transit (R347). -/
def inTransit (res : Nat) : Bool := res == resPROMOTING || res == resDEMOTING || res == resAPPLYING

/-- The residency state in the leaf entry. -/
def State.res (s : State) (a : Nat) : Nat := pteRes (s.readWord a)
/-- Reads of the page wait for its log (R354, R374). -/
def State.logBlocked (s : State) (a : Nat) : Bool := s.res a == resLOGGED || s.res a == resAPPLYING

/-- The entry of a page rewritten by its controller (R348). -/
def State.setPte (s : State) (a e : Nat) : State := s.write a (leBytes e 8)
def State.setRes (s : State) (a res : Nat) : State := s.setPte a (setBits (s.readWord a) 0 4 res)

/-! ### Leaving the core (R138 to R142, R318) -/

/-- The tower's group slot, and the rank, that GSLOT names (R158). -/
def groupKey (gslot : Nat) : Nat := bitsOf gslot 8 3 * 256 + bitsOf gslot 0 8
def groupRank (gslot : Nat) : Nat := bitsOf gslot 11 4

/-- The queue priority of a launch, by handle (R134). -/
def State.prio (s : State) (h : Nat) : Nat := (s.launchOf (slotOfHandle h)).pri
/-- The launch of a group. -/
def State.groupLaunch (s : State) (key : Nat) : Launch := s.launchOf (slotOfHandle (s.group key).launch)

/-- The pair of a tower at a position of the snake order (R160). -/
def snake (q : Nat) : Nat := if q / 9 % 2 = 0 then q else 18 * (q / 9) + 8 - q
/-- The pairs of the pitch of a group that starts at a position: GSIZE of them, whatever the group's SIZE (R160). -/
def State.pitchFrom (s : State) (key start : Nat) : List Nat :=
  (List.range (s.groupLaunch key).gsize).map fun r => key / 256 * 72 + snake (start + r)
/-- The pairs of a group's pitch. -/
def State.pitch (s : State) (key : Nat) : List Nat := (s.group key).pitch.elim [] (s.pitchFrom key)

/-- The requests a group's reservation made lapse, but for those of some cores (R471). -/
def State.lapse (s : State) (key : Nat) (keep : List Nat) : State :=
  s.coreList.foldl (fun s l =>
    if keep.contains l || !(s.coreAt l).preqBy.contains (.group key) then s
    else s.modCore l fun c =>
      let b := c.preqBy.filter fun r => r != .group key
      if b = [] then { c with preqBy := [], preq := none, preqIn := none } else { c with preqBy := b }) s

/-- A core runs a task of another launch than the group's whose priority is below the group's (R471). -/
def State.foreign (s : State) (key l : Nat) : Bool :=
  (s.coreAt l).task.elim false fun i =>
    (s.task i).launch != (s.group key).launch && decide (s.prio (s.task i).launch < s.prio (s.group key).launch)

/-- A core has become idle (R471): of two cores that a waiting group reserves on its pair, the first to become idle keeps its reservation,
and the other's is released with its request, unless LSUSE keeps both. -/
def State.coreFreed (s : State) (lin : Nat) : State :=
  let both := coresOfPair (pairOf lin)
  ((tkeys s.groups).filter fun k => (s.group k).state == .waiting && both.all fun l => (s.group k).reserved.contains l).foldl (fun s k =>
    if (s.groupLaunch k).img.lsuse && both.any (s.foreign k) then s
    else
      let idle (l : Nat) : Bool := (s.coreAt l).task.isNone
      let gone := both.filter fun l => if both.all idle then l == lin else l != lin
      (s.modGroup k fun g => { g with reserved := g.reserved.filter fun l => !gone.contains l }).lapse k
        ((s.coreList).filter fun l => !gone.contains l)) s

/-- A draining group whose members have all left their cores is REQUESTED again (R162). -/
def State.groupSettle (s : State) (key : Nat) : State :=
  let g := s.group key
  if g.state == .draining && g.members.all fun m => (s.task m.1).state != .running then
    let s := g.members.foldl (fun s m => s.modTask m.1 fun t => { t with bound := none }) s
    s.modGroup key fun g => { g with state := .requested, pitch := none, cores := [], reserved := [] }
  else s

/-- A group pre-emption (R162): DRAINING, and a request to every member. -/
def State.groupPreempt (s : State) (key : Nat) : State :=
  if (s.group key).state == .running then
    let s := s.modGroup key fun g => { g with state := .draining }
    (s.requestWhere fun i => (s.group key).members.any fun m => m.1 == i).groupSettle key
  else s

/-- A member's fatal fault or trap (R162): FAULTED, and requests to the other members. -/
def State.groupFault (s : State) (key i : Nat) : State :=
  if (s.group key).state == .running || (s.group key).state == .draining then
    let s := s.modGroup key fun g => { g with state := .faulted }
    s.requestWhere fun j => j != i && (s.group key).members.any fun m => m.1 == j
  else s

/-- The phase g has completed (R165). -/
def phaseDone (gen : BitVec 16) (g : Nat) : Bool := decide ((gen - BitVec.ofNat 16 g - 1).toNat < 32768)

/-- The barrier entry that task i waits at under an id (R163). -/
def State.waitedBar (s : State) (i id : Nat) : Barrier :=
  match bitsOf id 30 2 with
  | 0 => (s.group (groupKey (s.task i).gslot)).bar
  | 1 => s.devBar (id % 4096)
  | _ => s.podBar (id % 256)

/-- The cause under which task i of context c would be linked has already cleared (R131, R132). -/
def State.causeCleared (s : State) (i c kind obj addr : Nat) : Bool :=
  match kind with
  | 1 => let f := s.fut (obj % 2 ^ 20)
         f.state != .empty || f.gen.toNat != obj / 2 ^ 20 % 4096 || f.ctx != c
  | 3 => let b := s.waitedBar i obj
         phaseDone b.gen addr || b.lost || (bitsOf obj 30 2 != 0 && !b.bound)
  | 2 => let k := c * 4096 + obj % 4096
         s.setId k != obj || (s.aset k).state == .free
  | 5 => match s.walk c addr with
         | .leaf _ level e => !inTransit (pteRes e) && pteRes e != resPOISONED && !s.atsDenied c level e addr 65536
         | _ => false
  | 6 => (s.heldSets obj).isEmpty
  | 7 => !((s.pantry (s.task i).tower).frames.isEmpty)
  | _ => false

/-- R138: the record a task writes back when it leaves. -/
def Task.writeBack (t : Task) (sn : Snapshot) : Task :=
  { t with pc := sn.next, sa := sn.sa, fpsnap := sn.fl,
           mxcacc := t.mxcacc.add sn.mxc.counts }

/-- The core after its task has left it: idle, with the counters that belong to the core. -/
def Core.idle (c : Core) : Core :=
  { c with task := none, leave := none, compl := none, iss := none, pend := [], loops := [], setBuf := [], defer := [],
           preq := none, preqIn := none, preqBy := [], wound := none, woundIn := none, woundDone := false, mq := [], fifo := [], nt := [],
           claims := [], dueFl := {}, dueCnt := {}, frozen := false, fetchWait := none }

/-- The task of a core leaves it (R131, R138), all its earlier memory effects having performed (R318). -/
def State.finishLeave (s : State) (lin : Nat) : State :=
  let c := s.coreAt lin
  match c.task, c.leave with
  | some i, some lv =>
    let s := s.modTask i fun t => t.writeBack c.snap
    let ctx := (s.task i).ctx
    let slot := slotOfHandle (s.task i).launch
    let gk := groupKey (s.task i).gslot
    let grouped := (s.task i).gslot != 65535
    let s := (s.setCore lin c.idle).coreFreed lin
    let s :=
      match lv.dest with
      | .ready => s.modTask i fun t => { t with state := .ready }
      | .suspended kind obj addr =>
        let s := s.modTask i fun t => { t with state := .suspended, wkind := kind, wobj := obj, waddr := addr }
        if s.causeCleared i ctx kind obj addr then
          let b := s.waitedBar i obj
          let lost := decide (kind = 3) && b.lost && !phaseDone b.gen addr
          (s.wake i).modTask i fun t => { t with recheck := if lost then some (obj, addr) else t.recheck }
        else if kind = 2 && (s.aset (ctx * 4096 + obj % 4096)).next.isNone then s.reserve (ctx * 4096 + obj % 4096) else s
      | .aborted code a0 a1 a2 kind obj addr =>
        let wounder := if kind = 6 || c.woundDone then none else c.wound.map (fun w : Nat × Nat => w.2)
        let s := s.modTask i fun t =>
          { t with state := .aborted, ecode := code, eclass := 1, ecore := lin, epc := lv.epc, emask := lv.mask,
                   earg0 := a0, earg1 := a1, earg2 := a2, wkind := kind, wobj := obj, waddr := addr, wounder := wounder }
        if s.causeCleared i ctx kind obj addr || (kind == 6 && c.woundDone) then s.wake i else s
      | .faulted cls code a0 a1 a2 =>
        let s := s.modTask i fun t =>
          { t with state := .faulted, ecode := code, eclass := cls, ecore := lin, epc := lv.epc, emask := lv.mask,
                   earg0 := a0, earg1 := a1, earg2 := a2 }
        let s := if grouped then s.groupFault gk i else s
        s.faultPolicy i false
    let s := if grouped then s.groupSettle gk else s
    if (s.launchOf slot).abort then s.abortSweep slot else s
  | _, _ => s

/-- The memory effects a leaving task waits for have performed (R318). -/
def Core.drained (c : Core) : Bool := c.mq.isEmpty && c.fifo.isEmpty && c.nt.isEmpty

/-- A leaving task leaves as soon as nothing of it is outstanding (R318). -/
def State.tryLeave (s : State) (lin : Nat) : State :=
  let c := s.coreAt lin
  if c.leave.isSome && c.drained then s.finishLeave lin else s

/-- The scoreboard entries of an operation end (R303). -/
def State.dropScore (s : State) (op : Nat) : State :=
  (tkeys s.pairs).foldl (fun s p => s.modPair p fun q => { q with sb := q.sb.filter fun e => e.op != op }) s

/-- What queue entries hold outside their core when they are abandoned: the pins of searches (R296), the scoreboard entries of
engine operations that have not launched (R303). -/
def State.dropEntries (s : State) (es : List MqEntry) : State :=
  es.foldl (fun s e =>
    match e.instr with
    | .hnear _ => e.xl.foldl (fun s x => s.modPage x.leaf fun p => { p with pins := p.pins - 1 }) s
    | .cpy _ | .chase _ | .gath _ => s.dropScore e.seq
    | _ => s) s

/-- An entry of the queues that outlives an abort at the bundle numbered `from_` (R49, R140, R296). -/
def MqEntry.survives (e : MqEntry) (from_ : Nat) : Bool :=
  decide (e.bseq < from_) && e.inSet.isEmpty &&
    (match e.instr with
      | .hnear _ => false
      | _ => true) &&
    (match e.st with
      | .sets _ => false
      | .wounding _ => false
      | _ => true)

/-- Issue stops and the task begins to leave its core (R49, R138, R140): results in flight, the buffers, and the queue
entries of bundles from number `from_` on are discarded, as are entries of sets; every set is released. -/
def State.startLeave (s : State) (lin : Nat) (dest : Dest) (mask epc from_ : Nat) : State :=
  let c := s.coreAt lin
  match c.task with
  | none => s
  | some i =>
    let s := s.setCore lin
      { c with leave := some { dest := dest, mask := mask, epc := epc }, compl := none, iss := none, pend := [],
               loops := [], setBuf := [], defer := [], preq := none, preqIn := none, preqBy := [], fetchWait := none,
               mq := c.mq.filter fun e => e.survives from_ }
    let s := s.dropEntries (c.mq.filter fun e => !e.survives from_)
    let s := if lin = s.cur then { s with slots := [] } else s
    (((s.releaseAll i).clearNext i).tryLeave lin)

/-- The abort of a wound by task w for the set with an id (R140), at the bundle at `epc` numbered `bseq`. -/
def State.woundAbort (s : State) (lin id w epc bseq : Nat) : State :=
  s.startLeave lin (.aborted fcWOUND (BitVec.ofNat 64 id) (BitVec.ofNat 64 w) (BitVec.ofNat 64 (s.task w).age) 6 w 0) 0 epc bseq

/-- A fatal fault of a core's task (R141): in the bundle at `epc` numbered `bseq`, with its slot mask. A wound that has reached
the core prevails (R132). -/
def State.fatal (s : State) (lin bseq epc mask code : Nat) (a0 a1 a2 : Word) : State :=
  match (s.coreAt lin).wound with
  | some (id, w) => s.woundAbort lin id w epc bseq
  | none => s.startLeave lin (.faulted 2 code a0 a1 a2) mask epc bseq

/-- A restartable fault (R140), linked under WKIND, WOBJ and WADDR. -/
def State.restart (s : State) (lin bseq epc mask code : Nat) (a0 a1 : Word) (kind obj addr : Nat) : State :=
  s.startLeave lin (.aborted code a0 a1 0 kind obj addr) mask epc bseq

/-- A trap taken after the snapshot (R142). -/
def State.trapTaken (s : State) (lin epc mask code : Nat) (a0 a1 a2 : Word) : State :=
  s.startLeave lin (.faulted 3 code a0 a1 a2) mask epc ((s.coreAt lin).bseq + 1)

end Sys2Proof.Machine
end

