-- ==== Sys2Proof/Machine/Operands.lean ====
section
/-!
DEFINITION. Machine/Operands.lean: every operand form: guards (R34, R64), scalar, floating-point and vector sources
(R36, R67, R226, R243, R251), formats named by TY (R69, R201 to R205), and the issue of a result (R35 to R43).
-/
namespace Sys2Proof.Machine

/-! ### Registers as a bundle reads them -/

/-- The slot whose latch a latch selector names (R35). -/
def latchSlot : Cluster → Nat → Nat
  | .a, 0 => 0
  | .a, 1 => 1
  | .a, 2 => 3
  | .a, _ => 5
  | .b, 0 => 2
  | .b, 1 => 4
  | .b, 2 => 6
  | .b, _ => 7

def Regs.scalar (r : Regs) (cl : Cluster) (n : Nat) : Word :=
  match cl with
  | .a => tget 0 r.sa n
  | .b => tget 0 r.sb n
def Regs.predicate (r : Regs) (cl : Cluster) (n : Nat) : Bool :=
  match cl with
  | .a => tget false r.pa n
  | .b => tget false r.pb n
def Regs.vector (r : Regs) (cl : Cluster) (n : Nat) : VecReg :=
  match cl with
  | .a => tget 0 r.va n
  | .b => tget 0 r.vb n
/-- A latch as a scalar operand: a 4 KiB latch gives bits [63:0] (R36). -/
def Regs.latchWord (r : Regs) (slot : Nat) : Word :=
  if slot < 5 then tget 0 r.lat slot else (tget 0 r.latv slot).extractLsb' 0 64
/-- A latch as a vector operand (R36). -/
def Regs.latchVec (r : Regs) (slot : Nat) : VecReg :=
  if slot < 5 then (tget 0 r.lat slot).setWidth 32768 else tget 0 r.latv slot

/-- Stage predicate lp k (R182): 1 exactly in the stages an active loop runs in its pass. -/
def stagePred (loops : List Loop) (k : Nat) : Bool :=
  loops.any fun l => decide (l.base ≤ k) && decide (k < l.base + l.stages) && decide (k - l.base ≤ l.pass)
    && decide (l.pass - (k - l.base) < l.neff)

/-- The guard of a slot (R34, R64). -/
def Core.guard (c : Core) (cl : Cluster) (g : Guard) : Bool :=
  (match g.sel with
    | .one => true
    | .pred n => c.regs.predicate cl (n.val + 1)
    | .loop n => stagePred c.loops n.val) != g.neg

/-- A scalar source (R67, R226). -/
def Core.src (c : Core) (cl : Cluster) : Opnd → Word
  | .sreg n => c.regs.scalar cl n.val
  | .latch n => c.regs.latchWord (latchSlot cl n.val)
  | .pred n => boolWord (c.regs.predicate cl (n.val + 1))
  | .imm v => v.signExtend 64
  | .vreg n => (c.regs.vector cl n.val).extractLsb' 0 64
  | _ => 0

/-! ### Formats -/

/-- The value of descriptor fd k (R201, R202, R205). -/
def Core.fdValue (c : Core) (k : Nat) : BitVec 32 :=
  match k with
  | 0 => 0
  | 11 => 0x017A0327
  | 12 => 0x01790739
  | 13 => 0x01700F2B
  | 14 => 0x017A0135
  | 15 => 0x017A0115
  | _ => tget 0 c.regs.fd k

/-- The format a type names, given the value of each descriptor (R69). -/
def fmtOfTy (fd : Nat → BitVec 32) : Ty → Fmt
  | .i64 => .int true 64
  | .n64 => .int false 64
  | .i32 => .int true 32
  | .n32 => .int false 32
  | .i16 => .int true 16
  | .n16 => .int false 16
  | .i8 => .int true 8
  | .n8 => .int false 8
  | .f64 => .std .f64
  | .f32 => .std .f32
  | .f16 => .std .f16
  | .bf16 => .std .bf16
  | .fd k => Fmt.ofDesc (fd (k.val + 1))
def Core.fmt (c : Core) (t : Ty) : Fmt := fmtOfTy c.fdValue t

/-- The standard format of a floating-point type. -/
def stdOf : Ty → StdFmt
  | .f64 => .f64
  | .f16 => .f16
  | .bf16 => .bf16
  | _ => .f32

/-- An integer's code in a standard format, exactly (R243, R251): every value from −64 to 63 has one. -/
def stdOfInt (f : StdFmt) (i : Int) : Nat := (f.round .rne false (decide (i < 0)) i.natAbs 0).1

/-- A floating-point scalar source as a code (R243). -/
def Core.fsrc (c : Core) (cl : Cluster) (f : StdFmt) (o : Opnd) : Nat :=
  match o with
  | .imm v => stdOfInt f v.toInt
  | .pred n => stdOfInt f (if c.regs.predicate cl (n.val + 1) then 1 else 0)
  | _ => (c.src cl o).toNat % 2 ^ f.width

/-- The code an immediate has in a type (R251): its value, exactly, or mod 2^n for an unsigned type. -/
def immCode (t : Fmt) (v : BitVec 7) : Nat :=
  match t with
  | .std f => stdOfInt f v.toInt
  | _ => (v.signExtend 64).toNat % 2 ^ t.width

/-- A vector source of a typed instruction (R251). -/
def Core.vsrc (c : Core) (cl : Cluster) (t : Fmt) (o : Opnd) : VecReg :=
  match o with
  | .vreg n => c.regs.vector cl n.val
  | .latch n => c.regs.latchVec (latchSlot cl n.val)
  | .sreg n => vecSplat t.stride ((c.regs.scalar cl n.val).toNat % 2 ^ t.width)
  | .imm v => vecSplat t.stride (immCode t v)
  | _ => 0

/-- A vector source of a typeless instruction (R251). -/
def Core.vraw (c : Core) (cl : Cluster) (o : Opnd) : VecReg :=
  match o with
  | .vreg n => c.regs.vector cl n.val
  | .latch n => c.regs.latchVec (latchSlot cl n.val)
  | .sreg n => vecSplat 32 ((c.regs.scalar cl n.val).toNat % 2 ^ 32)
  | .imm v => vecSplat 32 ((v.signExtend 64).toNat % 2 ^ 32)
  | _ => 0

/-- A hypervector source (R282): hv, ht, qt rows 0 to 15 columns 0 to 11, or zero. -/
def Core.hsrc (c : Core) (o : Opnd) : HyperVec :=
  match o with
  | .hv n => tget 0 c.regs.hv n.val
  | .ht => c.regs.ht
  | .latch n => hvOfVec (c.regs.latchVec (latchSlot .b n.val))
  | _ => 0

/-- A counter source (R282). -/
def Core.csrc (c : Core) (o : Opnd) : CntReg :=
  match o with
  | .hc n => tget 0 c.regs.hc n.val
  | _ => 0

/-! ### The bundle a slot stands in -/

/-- Address and number of the bundle in issue. -/
def Core.bundle (c : Core) : Nat × Nat :=
  match c.iss with
  | some b => (b.baddr, b.bseq)
  | none => (c.pc, c.bseq)

/-- The image the running task runs (R173). -/
def State.imageOf (s : State) (i : Nat) : Image :=
  let t := s.task i
  let l := s.launchOf (slotOfHandle t.launch)
  if t.h then l.himg.getD {} else l.img
/-- The image of the running task of the core in focus. -/
def State.image (s : State) : Image :=
  match s.core.task with
  | some i => s.imageOf i
  | none => {}

/-- The task of the core in focus, and its context. -/
def State.curTask (s : State) : Nat := s.core.task.getD 0
def State.curCtx (s : State) : Nat := (s.task s.curTask).ctx

/-- L_c and L_h of a class for the running task (R40, R121). -/
def State.latencies (s : State) (k : Nat) : Nat × Nat :=
  let lc := nativeLatency.getD k 1
  let b := tget 0 s.image.lat k
  (lc, if b = 0 then lc else b)

/-! ### Issue of a result -/

/-- The unit an instruction occupies in a slot, and for how many cycles (R40, R43, R229, R304). -/
def unitOf (i : Instr) (slot : Nat) : Option (Nat × Nat) :=
  match i with
  | .lsst _ => some (slot, 1)
  | .lsstv _ => some (slot, 2)
  | _ =>
    match latClass i with
    | none => none
    | some k =>
      let occ := classOccupancy.getD k 1
      if k = 3 || k = 5 then some (10 + slot, occ)
      else if 6 ≤ k ∧ k ≤ 16 then some (slot, occ)
      else if k = 17 || k = 18 then some (slot, occ)
      else if k = 19 then some (21, occ)
      else if k = 20 then some (20, occ)
      else if 21 ≤ k then some (22, occ)
      else none

/-- The slot's unit is occupied from this cycle on. -/
def State.occupy (s : State) (i : Instr) (slot : Nat) : State :=
  match unitOf i slot with
  | none => s
  | some (u, n) => s.onCore fun c => { c with busy := tput 0 c.busy u (s.cycle + n) }

/-- The register writes of a scalar result to a destination (R37, R227): a predicate receives bit 0. -/
def destWrites (cl : Cluster) (d : Opnd) (v : Word) : List RegWrite :=
  match d with
  | .sreg n => [.sreg cl n.val v]
  | .pred n => [.pred cl (n.val + 1) (v.getLsbD 0)]
  | _ => []

/-- A result of known value enters flight (R39): its writes, its latch, its flags and counts, its latencies. -/
def State.flightOf (s : State) (slot : Nat) (cl : Cluster) (lat : Nat × Nat) (chain : Bool) (dests : List Opnd) (ws : List RegWrite)
    (lw : LatchWrite) (fl : FpFlags) (cnt : FpCounts) : State :=
  let c := s.core
  let p : Pending :=
    { seq := s.seqNo, baddr := c.bundle.1, bseq := c.bundle.2, slot := slot, ic := c.ic, cyc := s.cycle, lh := lat.2,
      lc := lat.1, ready := true, chain := chain, locked := false, dests := dests, cl := cl, writes := ws, latch := lw, fl := fl,
      cnt := cnt, enables := (FpEnv.ofFpcr c.fpcr).enables }
  { s with seqNo := s.seqNo + 1, core := { c with pend := c.pend ++ [p] } }

/-- The steps of a chain (R272, R286). -/
def chained (i : Instr) : Bool :=
  match i with
  | .mma _ | .mmaz _ | .hbund _ | .hcclr _ => true
  | _ => false

/-- The number of a vector register. -/
def vecNumber : Opnd → Option Nat
  | .vreg n => some n.val
  | _ => none

/-- The slot an instruction stands in (R30). -/
def instrSlot (i : Instr) : Nat :=
  match i with
  | .nop n => n.val
  | _ =>
    match slotForm i with
    | some f => slotOf f.1 f.2.2.cluster
    | none => 0
/-- The guard of a slot instruction with its cluster (R34). -/
def instrGuard (i : Instr) : Cluster × Guard :=
  match slotForm i with
  | some f => (f.2.2.cluster, f.2.2.guard)
  | none => (.a, Guard.always)

/-- A result of class k with its unit taken (R40). -/
def State.result (s : State) (i : Instr) (cl : Cluster) (dests : List Opnd) (ws : List RegWrite) (lw : LatchWrite)
    (fl : FpFlags) (cnt : FpCounts) : State :=
  (s.occupy i (instrSlot i)).flightOf (instrSlot i) cl (s.latencies ((latClass i).getD 0)) (chained i) dests ws lw fl cnt

/-- A scalar result of an S- or C-class instruction (R35, R227). -/
def State.scalarResult (s : State) (i : Instr) (cl : Cluster) (d : Opnd) (v : Word) (fl : FpFlags) (cnt : FpCounts) :
    State :=
  s.result i cl [d] (destWrites cl d v) (.word v) fl cnt

/-- A vector result (R252): the enabled containers of D and of the latch. -/
def State.vectorResult (s : State) (i : Instr) (cl : Cluster) (d : Opnd) (r : VecResult) : State :=
  s.result i cl [d]
    (match d with
      | .vreg n => [.vec cl n.val r.val r.mask]
      | _ => [])
    (.wide r.val r.mask) r.fl r.cnt

/-- An interlocked result whose value is still to come (R42): its sequence number in `seq`. -/
def State.awaitResult (s : State) (slot : Nat) (cl : Cluster) (dests : List Opnd) (seq : Nat) : State :=
  s.onCore fun c =>
    { c with pend := c.pend ++ [
        { seq := seq, baddr := c.bundle.1, bseq := c.bundle.2, slot := slot, ic := c.ic, cyc := s.cycle, lh := 0,
          lc := 0, ready := false, chain := false, locked := true, dests := dests, cl := cl, writes := [], latch := .none, fl := {},
          cnt := {}, enables := (FpEnv.ofFpcr c.fpcr).enables }] }

/-- The value of an awaited result arrives: it becomes visible at the next RESULT_VISIBLE. -/
def Core.arrive (c : Core) (seq : Nat) (ws : List RegWrite) (lw : LatchWrite) (fl : FpFlags) (cnt : FpCounts) : Core :=
  { c with pend := c.pend.map fun p =>
      if p.seq = seq then { p with ready := true, writes := ws, latch := lw, fl := fl, cnt := cnt } else p }

/-- The mask of one slot (R50). -/
def slotMask (slot : Nat) : Nat := 2 ^ slot

end Sys2Proof.Machine
end

