-- ==== Sys2Proof/Machine/Check.lean ====
section
/-!
DEFINITION. Machine/Check.lean: the checks a slot makes at issue on values (R48): branch targets (R173), loops (R181),
addresses (R331), local-store ranges and owners (R298, R304), tags (R306), matrix operands (R273), engine and fabric
operands (R309 to R312, R414, R419); the bank clocks a slot claims (R275, R304) and the local-store places it touches (R303).
-/
namespace Sys2Proof.Machine

/-! ### Addresses of code -/

/-- The word at a code address of the running task, when its page is there (R173, R175). -/
def State.fetchWord (s : State) (k : Nat) : Option Word :=
  let va := s.image.text + 8 * k
  match s.walk s.curCtx va with
  | .leaf a level e =>
    let r := pteRes e
    let pa := s.physOf s.curCtx level e va
    let denied := s.atsDenied s.curCtx level e va 8
    if (r == resCELLAR || r == resATTIC || r == resLARDER) && !denied && !s.logBlocked a && !s.poisoned pa 8 then
      some (BitVec.ofNat 64 (s.readWord pa))
    else none
  | _ => none

/-- Words of the bundle that starts at a code address (R61), by the header that stands there; 1 when none can be read. -/
def State.bundleLen (s : State) (a : Nat) : Nat := 1 + (s.fetchWord a).elim 0 spmCount

/-- The target of a transfer: this bundle plus DISP, as an exact integer (R178). -/
def dispTarget (base : Nat) (disp : BitVec 30) : Int := (base : Int) + disp.toInt
/-- A target that stands in the code section (R173). -/
def State.targetOk (s : State) (t : Int) : Bool := decide (0 ≤ t) && decide (t < s.image.words)

/-! ### Local-store places -/

/-- The bank groups a core owns (R298). -/
def ownsGroup (lin g : Nat) : Bool := g / 2 == layerOf lin
/-- A local-store word's key: group, bank, word. -/
def lsKey (g b w : Nat) : Nat := (g * 8 + b) * 2048 + w
/-- Word i of a range (R299): bank and word. -/
def lsPlace (spread : Bool) (k b i : Nat) : Nat × Nat := if spread then ((k + i) % 8, b + i / 8) else (k, b + i)

/-- The base word of a form-L access: W plus the signed index, as an exact integer (R267, R304). -/
def Core.lsBase (c : Core) (x : OpL) : Int :=
  (x.word.toNat : Int) + (match x.x with
    | .nil => 0
    | o => (c.src x.cl o).toInt)
/-- LSSTV `.m` names no index (R307). -/
def Core.lsBaseOf (c : Core) (i : Instr) (x : OpL) : Int :=
  match i with
  | .lsstv _ => if x.md.getLsbD 6 then x.word.toNat else c.lsBase x
  | _ => c.lsBase x

/-- The last row a form-L instruction touches: its index, and whether it spreads. -/
def lsShape (i : Instr) (x : OpL) : Nat × Bool :=
  match i with
  | .lsld _ => (0, false)
  | .lsst _ => (0, false)
  | _ => (x.n.toNat, x.spread)

/-- The rows an instruction touches in its own local store: bank key, word, clocks after issue (R267, R275, R290, R304). -/
def Core.lsRows (c : Core) (i : Instr) : List (Nat × Nat × Nat) :=
  let rows (x : OpL) : List (Nat × Nat × Nat) :=
    let sh := lsShape i x
    let b := (c.lsBaseOf i x).toNat
    (List.range (sh.1 + 1)).map fun r =>
      let p := lsPlace sh.2 x.bank.toNat b r
      (x.grp.toNat * 8 + p.1, p.2, if sh.2 then r / 8 else r)
  match i with
  | .lsld x => rows x
  | .lsst x => rows x
  | .lsldv x => if x.sub = 3 then [] else rows x
  | .lsstv x => rows x
  | .slld x => rows x
  | .hld x => rows x
  | .hst x => rows x
  | .mma x | .mmaz x =>
    (List.range 16).map fun r =>
      let p := lsPlace true x.bank.toNat (c.src .b x.x).toNat r
      (x.grp.toNat * 8 + p.1, p.2, r / 8)
  | _ => []

/-- The bank clocks a slot claims (R275, R304). MMA claims every bank of G in two clocks. -/
def Core.claimsOf (c : Core) (i : Instr) (now : Nat) : List (Nat × Nat) :=
  ((c.lsRows i).map fun r => (r.1, now + r.2.2)).eraseDups

/-- The instruction writes local-store words, scale words or tags. -/
def lsWrites (i : Instr) : Bool :=
  match i with
  | .lsst _ | .lsstv _ | .hst _ | .bfmt _ => true
  | _ => false

/-- The banks BFMT names (R302). -/
def bfmtBanks (x : OpL) : List Nat :=
  if x.spread then (List.range 8).map (x.grp.toNat * 8 + ·) else [x.grp.toNat * 8 + x.bank.toNat]

/-- A scoreboard entry covers a bank and word (R303). -/
def SbEntry.covers (e : SbEntry) (bank word : Nat) : Bool :=
  bank / 8 == e.group && e.banks.testBit (bank % 8) && decide (e.lo ≤ word) && decide (word ≤ e.hi)

/-- A synchronous access or BFMT meets a copy in flight (R303, R276). -/
def State.scoreHit (s : State) (i : Instr) : Bool :=
  let sb := (s.pairAt (pairOf s.cur)).sb
  match i with
  | .bfmt x => sb.any fun e => (bfmtBanks x).any fun b => b / 8 == e.group && e.banks.testBit (b % 8)
  | _ => (s.core.lsRows i).any fun r => sb.any fun e => e.covers r.1 r.2.1 && (e.writes || lsWrites i)

/-! ### Local-store addresses (R299) -/

/-- A local-store address's fields: group, bank, word, spread, remote, pair; none when a reserved bit is 1. -/
structure LsAddr where
  word : Nat
  bank : Nat
  group : Nat
  spread : Bool
  pair : Nat
  remote : Bool
  deriving DecidableEq, Repr

def LsAddr.of (w : Word) : Option LsAddr :=
  let n := w.toNat
  let p := bitsOf n 17 7
  if n < 2 ^ 25 && p ≤ 71 then
    some { word := bitsOf n 0 11, bank := bitsOf n 11 3, group := bitsOf n 14 2, spread := bitsOf n 16 1 == 1,
           pair := p, remote := bitsOf n 24 1 == 1 }
  else none

/-- The pair a local-store address names from a core (R298, R299): its own, or one of its task's group pitch. -/
def State.lsPair (s : State) (lin : Nat) (a : LsAddr) : Option Nat :=
  if a.remote then
    let k := towerOf lin * 72 + a.pair
    match (s.coreAt lin).task with
    | none => none
    | some i =>
      let t := s.task i
      if t.gslot = 65535 then none
      else
        if (s.pitch (groupKey t.gslot)).contains k then some k else none
  else some (pairOf lin)

/-- n words from a local-store address stay within word 2,047 (R309). -/
def LsAddr.fits (a : LsAddr) (n : Nat) : Bool :=
  n == 0 || decide ((lsPlace a.spread a.bank a.word (n - 1)).2 ≤ 2047)
/-- Word i of a range from a local-store address, as a key. -/
def LsAddr.key (a : LsAddr) (i : Nat) : Nat :=
  let p := lsPlace a.spread a.bank a.word i
  lsKey a.group p.1 p.2
/-- The banks a range of n words touches. -/
def LsAddr.banks (a : LsAddr) (n : Nat) : List Nat :=
  ((List.range (min n 8)).map fun i => a.group * 8 + (lsPlace a.spread a.bank a.word i).1).eraseDups

/-! ### Formats of banks and of engine operands -/

/-- The format a tag names (R300): none when untagged. -/
def tagFmt (t : BitVec 32) : Option Fmt :=
  if t.getLsbD 30 then
    match decTy (t.extractLsb' 25 5) with
    | some (.fd _) => some (Fmt.ofDesc ((t.extractLsb' 0 25).setWidth 32))
    | some ty => some (fmtOfTy (fun _ => 0) ty)
    | none => none
  else none

/-- The scale factor applies exactly when the tag carries RS = 1 (R209, R301). -/
def tagScaled (t : BitVec 32) : Bool :=
  t.getLsbD 30 && t.getLsbD 23 && (match decTy (t.extractLsb' 25 5) with
    | some (.fd _) => true
    | _ => false)

/-- Elements of a local-store word (R200). -/
def lsCount (f : Fmt) : Nat := 384 / f.width

/-! ### The checks -/

/-- A fault found at issue: code and arguments. -/
abbrev IssueFault := Nat × Word × Word

def badOpnd : Option IssueFault := some (fcILLOPND, 0, 0)
def faultIf (c : Bool) (f : Option IssueFault) (k : Option IssueFault) : Option IssueFault := if c then f else k

/-- The effective address of a form-M instruction (R331). -/
def Core.effAddr (c : Core) (x : OpM) : Word := c.src x.cl x.b + x.off.signExtend 64

/-- Bytes an access of a form-M instruction covers. -/
def sizeBytes : Size → Nat
  | .n8 | .i8 => 1
  | .n16 | .i16 => 2
  | .n32 | .i32 => 4
  | .d64 => 8
  | .sector => 32

/-- The width of the descriptor that LDT and STT name; 0 for a raw transfer (R335). -/
def Core.ldtWidth (c : Core) (x : OpM) : Nat :=
  let v := c.fdValue x.fd.toNat
  if v = 0 then 0 else (Desc.ofBits v).width

/-- Bytes and alignment of an access (R332, R334, R335, R337). -/
def Core.accessShape (c : Core) (i : Instr) (x : OpM) : Nat × Nat :=
  match i with
  | .ldv _ | .stv _ | .ntstv _ => (4096, 128)
  | .ldt _ | .stt _ => let w := c.ldtWidth x
                       (if w = 0 then 4096 else 128 * w, 128)
  | _ => (sizeBytes x.sz, sizeBytes x.sz)

/-- ADDRRANGE, then MISALIGN (R331). -/
def Core.addrFault (c : Core) (i : Instr) (x : OpM) : Option IssueFault :=
  let a := c.effAddr x
  if a.extractLsb' 57 7 != 0 then some (fcADDRRANGE, a, 0)
  else if a.toNat % (c.accessShape i x).2 ≠ 0 then some (fcMISALIGN, a, 0)
  else none

/-- LSRANGE of a form-L access (R268, R290, R304): EARG0 the word b, EARG1 the group. -/
def Core.lsRangeFault (c : Core) (i : Instr) (x : OpL) (last : Nat) : Option IssueFault :=
  let b := c.lsBaseOf i x
  if decide (b < 0) || decide (b + last > 2047) then
    some (fcLSRANGE, BitVec.ofInt 64 b, x.grp.zeroExtend 64)
  else none

/-- The rows' banks of LSLDV and LSSTV `.cvt` are tagged, and their words' counts fit the register's rows (R306). -/
def State.cvtOk (s : State) (i : Instr) (x : OpL) : Bool :=
  match decTy (x.md.extractLsb' 0 5) with
  | none => false
  | some ty =>
    let epc := (s.core.fmt ty).epc
    (s.core.lsRows i).all fun r =>
      match tagFmt (tget 0 (s.pairAt (pairOf s.cur)).tags r.1) with
      | none => false
      | some f => decide (lsCount f ≤ 64 * epc)

/-- FA and FB name formats a step accepts, of one width (R264). -/
def Core.mmaPairOk (c : Core) (x : OpMma) : Bool :=
  mmaFmtOk (c.fmt x.fa) && mmaFmtOk (c.fmt x.fb) && (c.fmt x.fa).width == (c.fmt x.fb).width

/-- R273, in its order. -/
def State.mmaFault (s : State) (x : OpMma) : Option IssueFault :=
  let c := s.core
  let fa := c.fmt x.fa
  let depth := ((c.src .b x.m).extractLsb' 32 7).toNat
  let depth := match x.m with
    | .nil => 0
    | _ => depth
  let b := (c.src .b x.x).toNat
  faultIf (!c.mmaPairOk x) badOpnd <|
  faultIf (decide (depth > mmaDepth fa.width)) badOpnd <|
  faultIf (!ownsGroup s.cur x.grp.toNat) badOpnd <|
  faultIf (decide (b + 1 > 2047)) (some (fcLSRANGE, c.src .b x.x, x.grp.zeroExtend 64)) none

/-- A local-store operand of an engine (R299): its address and pair, or ILLOPND. -/
def State.lsOperand (s : State) (w : Word) : Option (LsAddr × Nat) :=
  match LsAddr.of w with
  | none => none
  | some a => (s.lsPair s.cur a).map fun p => (a, p)

/-- The tag all banks of a range carry, when it is one and the banks are tagged (R309). -/
def State.rangeTag (s : State) (a : LsAddr) (p n : Nat) : Option (BitVec 32) :=
  let ts := (a.banks n).map fun b => tget 0 (s.pairAt p).tags b
  match ts with
  | [] => none
  | t :: rest => if (tagFmt t).isSome && rest.all (· == t) then some t else none

/-- Local-store words a side of a copy takes: bytes by 48, or elements by the tag's count (R309). -/
def State.copyWords (s : State) (cvt : Bool) (a : LsAddr) (p n : Nat) : Nat :=
  if cvt then
    match tagFmt (tget 0 (s.pairAt p).tags (a.group * 8 + a.bank)) with
    | some f => (n + lsCount f - 1) / lsCount f
    | none => 1
  else (n + 47) / 48

/-- One side of a copy checked (R299, R309). -/
def State.copySide (s : State) (isLs cvt : Bool) (w : Word) (n : Nat) : Option IssueFault :=
  if !isLs then none
  else
    match s.lsOperand w with
    | none => badOpnd
    | some (a, p) =>
      if n = 0 then none
      else
        let k := s.copyWords cvt a p n
        faultIf (cvt && (s.rangeTag a p k).isNone) badOpnd <|
        faultIf (!a.fits k) (some (fcLSRANGE, BitVec.ofNat 64 a.word, BitVec.ofNat 64 a.group)) none

/-- R309. -/
def State.cpyFault (s : State) (x : OpCpy) : Option IssueFault :=
  let c := s.core
  let n := (c.src .b x.b).toNat
  faultIf (decide (n > 2 ^ 24)) badOpnd <|
  faultIf (decide (n ≠ 0) && x.cvt && !(x.dls || x.sls)) badOpnd <|
  faultIf (decide (n ≠ 0) && x.cvt && x.fm.is64) badOpnd <|
  (s.copySide x.dls x.cvt (c.src .b x.d) n).or (s.copySide x.sls x.cvt (c.src .b x.a) n)

/-- A local-store range of whole words that holds n bytes (R311, R312). -/
def State.byteRange (s : State) (isLs : Bool) (w : Word) (n : Nat) : Option IssueFault := s.copySide isLs false w n

/-- R311. -/
def State.chaseFault (s : State) (x : OpChase) : Option IssueFault :=
  let c := s.core
  let n := (c.src .b x.b).toNat
  faultIf (n % 32 != 0 || decide (n < 32) || decide (n > 2 ^ 24)) badOpnd <|
  faultIf ((c.src .b x.a).toNat % 32 != 0) badOpnd <|
  s.byteRange x.dls (c.src .b x.d) n

/-- R312. -/
def State.gathFault (s : State) (x : OpGath) : Option IssueFault :=
  let c := s.core
  let n := (c.src .b x.n).toNat
  faultIf (decide (n = 0) || decide (n > 65536)) badOpnd <|
  faultIf ((c.src .b x.a).toNat % 32 != 0) badOpnd <|
  (s.byteRange x.sls (c.src .b x.b) (n * (if x.isz then 8 else 4))).or
    (s.byteRange x.dls (c.src .b x.d) (n * 32 * (x.gsz.toNat + 1)))

/-- R414. -/
def State.sendFault (s : State) (multi : Bool) (x : OpSend) : Option IssueFault :=
  let c := s.core
  let t := (c.src .b x.d).toNat
  let len := (c.src .b x.b).toNat
  let off := bitsOf t 32 32
  let src := c.src .b x.a
  let bad :=
    if multi then bitsOf t 8 2 != 0 || bitsOf t 18 14 != 0
    else bitsOf t 22 10 != 0 || bitsOf t 18 4 == 0 || bitsOf t 0 10 == s.hub.seat + 32 * s.hub.pod
  faultIf bad badOpnd <|
  faultIf (off % 128 != 0) badOpnd <|
  faultIf (len % 128 != 0 || decide (len < 128) || decide (len > 2 ^ 24)) badOpnd <|
  faultIf (!x.sls && src.toNat % 128 != 0) badOpnd <|
  faultIf (multi && (c.src .b x.e).toNat % 64 != 0) badOpnd <|
  faultIf (decide (off + len > 2 ^ 27)) badOpnd <|
  s.byteRange x.sls src len

/-- R419. -/
def Core.wopenFault (c : Core) (x : OpA) : Option IssueFault :=
  let a := (c.src .b x.a).toNat
  let b := (c.src .b x.b).toNat
  let cc := (c.src .b x.c).toNat
  let len := bitsOf b 0 28
  faultIf (decide (b ≥ 2 ^ 40) || decide (cc ≥ 2 ^ 61) || a % 128 != 0 || decide (a ≥ 2 ^ 57) || len % 128 != 0
    || decide (len < 128) || decide (len > 2 ^ 27)) badOpnd none

/-- The value faults of a slot instruction whose guard is true. `quiet` is the bundle's Q, `trapFl` the flags its
conversion at issue raises. -/
def State.slotFault (s : State) (quiet : Bool) (trapFl : FpFlags) (i : Instr) : Option IssueFault :=
  let c := s.core
  let bad := c.bundle.1
  let tgt (t : Int) : Option IssueFault := if s.targetOk t then none else some (fcBADTARGET, BitVec.ofInt 64 t, 0)
  let atIssue : Option IssueFault :=
    if trapping (FpEnv.ofFpcr c.fpcr).enables trapFl then some (fcFPTRAP, trapFl.toBits.zeroExtend 64, 0) else none
  match i with
  | .br x | .call x => tgt (dispTarget bad x.disp)
  | .bri x | .calli x | .ret x => tgt (c.src .a x.a).toNat
  | .loop x =>
    let stop := dispTarget bad x.disp
    let stages := (x.sub.extractLsb' 0 3).toNat + 1
    let base := (x.sub.extractLsb' 3 3).toNat
    let len := (match c.iss with
      | some b => b.len
      | none => 1)
    faultIf quiet (some (fcILLINST, 0, 0)) <|
    faultIf (decide (x.disp.toInt < len)) badOpnd <|
    faultIf (decide (base + stages > 8)) badOpnd <|
    faultIf (decide (c.loops.length ≥ 4)) (some (fcLOOPNEST, s.freeArg fcLOOPNEST, 0)) <|
    faultIf (c.loops.any fun l => decide (base < l.base + l.stages) && decide (l.base < base + stages))
      (some (fcLOOPNEST, s.freeArg fcLOOPNEST, 0)) <|
    faultIf (match c.loops with
      | [] => false
      | l :: _ => decide (stop ≥ l.stop)) (some (fcLOOPNEST, s.freeArg fcLOOPNEST, 0)) <|
    if x.md = 0 then (if (c.src .a x.a).toNat % 2 ^ 32 = 0 then tgt (stop + s.bundleLen stop.toNat) else none)
    else tgt (stop + s.bundleLen stop.toNat + x.md.toNat - 1)
  | .lbrk _ => (match c.loops with
    | [] => none
    | l :: _ => tgt (l.stop + s.bundleLen l.stop : Nat))
  | .bara x | .barw x | .barx x => faultIf (decide (bitsOf (c.src .a x.a).toNat 30 2 > 1)) badOpnd none
  | .bari x =>
    let kind := bitsOf (c.src .a x.a).toNat 30 2
    let count := (c.src .a x.b).toNat
    faultIf (decide (kind = 0) || decide (kind = 3) || decide (count = 0) || decide (count ≥ 2 ^ 20)
      || (decide (kind = 2) && !(c.src .a x.c).getLsbD s.hub.seat)) badOpnd none
  | .pbara x | .pbarw x => faultIf (bitsOf (c.src .a x.a).toNat 30 2 != 2) badOpnd none
  | .tspawn x =>
    let a := c.src .a x.a
    faultIf (decide (bitsOf (c.src .a x.c).toNat 0 4 > 8)) badOpnd <|
    faultIf (decide (a.toNat ≥ s.image.words)) (some (fcBADENTRY, a, 0)) none
  | .qput x | .qget x =>
    faultIf ((c.src .a x.a).toNat % 64 != 0 || (c.src .a x.d).toNat % 64 != 0) badOpnd none
  | .qpeek x => faultIf ((c.src .a x.a).toNat % 64 != 0) badOpnd none
  | .ld x | .st x | .ldv x | .stv x | .ldt x | .ntst x | .ntstv x | .amo x | .amon x | .acas x => c.addrFault i x
  | .stt x => (c.addrFault i x).or atIssue
  | .lsld x | .lsst x => faultIf (!ownsGroup s.cur x.grp.toNat) badOpnd (c.lsRangeFault i x 0)
  | .lsldv x =>
    faultIf (!ownsGroup s.cur x.grp.toNat) badOpnd <|
    if x.sub = 3 then none
    else
      (c.lsRangeFault i x (if x.spread then x.n.toNat / 8 else x.n.toNat)).or
        (if x.sub = 1 && !s.cvtOk i x then badOpnd else none)
  | .lsstv x =>
    faultIf (!ownsGroup s.cur x.grp.toNat) badOpnd <|
    (c.lsRangeFault i x (if x.spread then x.n.toNat / 8 else x.n.toNat)).or
      (if x.sub = 1 then (if s.cvtOk i x then atIssue else badOpnd) else none)
  | .slld x => faultIf (!ownsGroup s.cur x.grp.toNat) badOpnd (c.lsRangeFault i x (x.n.toNat / 8))
  | .hld x | .hst x => faultIf (!ownsGroup s.cur x.grp.toNat) badOpnd (c.lsRangeFault i x 1)
  | .bfmt x => faultIf (!ownsGroup s.cur x.grp.toNat) badOpnd none
  | .mma x | .mmaz x => s.mmaFault x
  | .migr x => faultIf (x.sub == 0 && decide (bitsOf (c.src x.cl x.b).toNat 0 4 > 8)) badOpnd none
  | .asdecl x =>
    let a := (c.src x.cl x.a).toNat
    let b := (c.src x.cl x.b).toNat
    faultIf (a % 128 != 0 || decide (a ≥ 2 ^ 57) || b % 128 != 0 || decide (b < 128) || decide (b > 1048576)) badOpnd none
  | .vcvt x =>
    if x.sub = 1 then none
    else
      match decTy (x.md.extractLsb' 0 5) with
      | some sty => faultIf (!partOk (c.fmt sty) (c.fmt x.ty) (x.md.extractLsb' 5 2).toNat) badOpnd none
      | none => badOpnd
  | .hnear x =>
    let n := (c.src .b x.c).toNat
    faultIf ((c.src .b x.b).toNat % 128 != 0 || decide (n = 0) || decide (n > 65536)) badOpnd none
  | .cpy x => s.cpyFault x
  | .chase x => s.chaseFault x
  | .gath x => s.gathFault x
  | .send x => s.sendFault false x
  | .msend x => s.sendFault true x
  | .wopen x => c.wopenFault x
  | .fdset x =>
    let v := (c.src .b x.a).extractLsb' 0 32
    faultIf (!descOk v) (some (fcBADFMT, v.zeroExtend 64, x.md.zeroExtend 64)) none
  | _ => none

/-- ILLINST and ILLOPND carry the slot word (R139). -/
def withWord (i : Instr) (f : IssueFault) : IssueFault :=
  if f.1 = fcILLINST || f.1 = fcILLOPND then
    (f.1, (match encode i with
      | some w => w.2
      | none => 0), 0)
  else f

/-- A slot whose guard is false does nothing (R34); one whose value check fails faults its task (R48, R141); otherwise
it acts. `fl` holds the flags a conversion at issue raises. -/
def State.slotRunWith (s : State) (i : Instr) (fl : FpFlags) (act : State → State) : Res :=
  let cg := instrGuard i
  if s.core.guard cg.1 cg.2 then
    match s.slotFault (match s.core.iss with
        | some b => b.quiet
        | none => false) fl i with
    | some f =>
      let f := withWord i f
      .next (s.fatal s.cur s.core.bundle.2 s.core.bundle.1 (slotMask (instrSlot i)) f.1 f.2.1 f.2.2 0)
    | none => .next (act s)
  else .next s
def State.slotRun (s : State) (i : Instr) (act : State → State) : Res := s.slotRunWith i {} act

end Sys2Proof.Machine
end

