-- ==== Sys2Proof/Machine/LocalStore.lean ====
section
/-!
DEFINITION. Machine/LocalStore.lean: synchronous access to the local store (R298 to R307): LSLD, LSST, LSLDV, LSSTV, BFMT.
-/
namespace Sys2Proof.Machine

/-- The 48 bytes of a word of the core's own pair as a read in clock `clk` sees them: a write of this bundle in an
earlier clock is seen (R304). -/
def State.lsData (s : State) (key clk : Nat) : BitVec 384 :=
  let ws := match s.core.iss with
    | some b => b.lsw
    | none => []
  ws.foldl (fun v w => if w.key = key ∧ w.clock < clk then (v &&& ~~~w.mask) ||| (w.val &&& w.mask) else v)
    (tget 0 (s.pairAt (pairOf s.cur)).data key)

/-- The scale word of a word of the core's own pair (R301). -/
def State.lsScale (s : State) (key clk : Nat) : BitVec 8 :=
  let ws := match s.core.iss with
    | some b => b.lsw
    | none => []
  ws.foldl (fun v w => if w.key = key ∧ w.clock < clk then w.scale.getD v else v)
    (tget 0 (s.pairAt (pairOf s.cur)).scale key)

/-- The tag of a bank of the core's own pair (R300): group times 8 plus bank. -/
def State.lsTag (s : State) (bank : Nat) : BitVec 32 := tget 0 (s.pairAt (pairOf s.cur)).tags bank

/-- A word and its scale word as a matrix operand (R265, R266). -/
def State.lsRow (s : State) (r : Nat × Nat × Nat) : MatRow :=
  { data := s.lsData (r.1 * 2048 + r.2.1) (s.cycle + r.2.2), scale := s.lsScale (r.1 * 2048 + r.2.1) (s.cycle + r.2.2) }

/-- A write of this bundle (R304): it performs in its claimed clock. -/
def State.lsPut (s : State) (w : LsWrite) : State :=
  s.onCore fun c => { c with iss := c.iss.map fun b => { b with lsw := b.lsw ++ [w] } }

/-- Rows 0 to N of a vector register (R306). -/
def rowsMask (n : Nat) : VecReg := vecOfFn fun r _ => if r ≤ n then 2 ^ 32 - 1 else 0
/-- A 48-byte word in columns 0 to 11 of a row (R306). -/
def rowOfWord (w : BitVec 384) : Nat := w.toNat
/-- A register from the 2,048-bit values of its rows. -/
def vecOfRows (rows : List Nat) : VecReg := vecOfList 2048 rows
/-- The 2,048-bit value of a row. -/
def vecRow (v : VecReg) (r : Nat) : BitVec 2048 := v.extractLsb' (2048 * r) 2048

/-- Row `r` of LSLDV `.cvt` (R306): the word's elements decoded under the bank's tag and scale word. -/
def State.cvtRow (s : State) (env : FpEnv) (dst : Fmt) (r : Nat × Nat × Nat) : Nat × FpFlags × FpCounts :=
  let tag := s.lsTag r.1
  match tagFmt tag with
  | none => (0, {}, {})
  | some f =>
    let row := s.lsRow r
    let sc := if tagScaled tag then row.scale.toInt else 0
    let es := (List.range (lsCount f)).map fun e =>
      convertElem f dst env.noDaz false sc 0 (row.data.extractLsb' (f.width * e) f.width).toNat
    (packList dst.stride (es.map fun x => x.1), orFlags (es.map fun x => x.2.1), addCounts (es.map fun x => x.2.2))

/-- LSLD (R305). -/
def execLsld (x : OpL) (s : State) : Res :=
  s.slotRun (.lsld x) fun s =>
    let key := lsKey x.grp.toNat x.bank.toNat (s.core.lsBase x).toNat
    let v := (s.lsData key s.cycle).extractLsb' (64 * (x.md.extractLsb' 0 3).toNat) 64
    s.scalarResult (.lsld x) x.cl x.v v {} {}

/-- LSST (R305). -/
def execLsst (x : OpL) (s : State) : Res :=
  s.slotRun (.lsst x) fun s =>
    let key := lsKey x.grp.toNat x.bank.toNat (s.core.lsBase x).toNat
    let sh := 64 * (x.md.extractLsb' 0 3).toNat
    let one : BitVec 384 := (BitVec.allOnes 64).setWidth 384
    (s.occupy (.lsst x) (instrSlot (.lsst x))).lsPut
      { key := key, clock := s.cycle, val := ((s.core.src x.cl x.v).setWidth 384) <<< sh, mask := one <<< sh,
        scale := none }

/-- LSLDV (R306): SUB 0 raw, 1 convert, 2 scale, 3 tag. -/
def execLsldv (x : OpL) (s : State) : Res :=
  s.slotRun (.lsldv x) fun s =>
    let rows := s.core.lsRows (.lsldv x)
    let n := x.n.toNat
    let dst := match decTy (x.md.extractLsb' 0 5) with
      | some t => s.core.fmt t
      | none => .raw
    let cvt := if x.sub = 1 then rows.map (s.cvtRow (FpEnv.ofFpcr s.core.fpcr) dst) else []
    let val : VecReg :=
      if x.sub = 0 then vecOfRows (rows.map fun r => rowOfWord (s.lsRow r).data)
      else if x.sub = 1 then vecOfRows (cvt.map fun r => r.1)
      else if x.sub = 2 then vecOfRows (rows.map fun r => ((s.lsRow r).scale.signExtend 32).toNat)
      else vecOfList 32 ((List.range 8).map fun k => (s.lsTag (x.grp.toNat * 8 + k)).toNat)
    let mask := if x.sub = 3 then BitVec.allOnes 32768 else rowsMask n
    s.result (.lsldv x) x.cl [x.v]
      (match x.v with
        | .vreg k => [.vec x.cl k.val val mask]
        | _ => [])
      (.word (val.extractLsb' 0 64)) (orFlags (cvt.map fun r => r.2.1)) (addCounts (cvt.map fun r => r.2.2))

/-- Row `r` of LSSTV `.cvt` (R307): the row's elements as type `src`, converted under the bank's tag and scale word. -/
def State.uncvtRow (s : State) (env : FpEnv) (src : Fmt) (v : VecReg) (k : Nat) (r : Nat × Nat × Nat) :
    Nat × FpFlags × FpCounts :=
  let tag := s.lsTag r.1
  match tagFmt tag with
  | none => (0, {}, {})
  | some f =>
    let sc := if tagScaled tag then (s.lsRow r).scale.toInt else 0
    let row := vecRow v k
    let es := (List.range (lsCount f)).map fun e =>
      convertElem src f env.noDaz false 0 sc (row.extractLsb' (src.stride * e) src.stride).toNat
    (packList f.width (es.map fun x => x.1), orFlags (es.map fun x => x.2.1), addCounts (es.map fun x => x.2.2))

/-- Bits [15:0] of the mask scalar enable rows, bits [63:16] bytes (R307). -/
def Core.storeMask (c : Core) (x : OpL) : Word := if x.md.getLsbD 6 then c.src x.cl x.x else BitVec.allOnes 64
/-- The bits of the enabled bytes. -/
def byteMask (m : Word) : BitVec 384 :=
  BitVec.ofNat 384 (packList 8 ((List.range 48).map fun k => if m.getLsbD (16 + k) then 255 else 0))

/-- The words LSSTV `.cvt` forms, by row number, with their flags and counts: enabled rows alone convert (R307). -/
def State.lsstvConv (s : State) (x : OpL) : List (Nat × Nat × FpFlags × FpCounts) :=
  if x.sub = 1 then
    let c := s.core
    let m := c.storeMask x
    let v := c.vraw x.cl x.v
    let src := match decTy (x.md.extractLsb' 0 5) with
      | some t => c.fmt t
      | none => .raw
    (((c.lsRows (.lsstv x)).zip (List.range 16)).filter fun p => m.getLsbD p.2).map fun p =>
      (p.2, s.uncvtRow (FpEnv.ofFpcr c.fpcr) src v p.2 p.1)
  else []

/-- LSSTV (R307): SUB 0 raw, 1 convert, 2 scale. -/
def execLsstv (x : OpL) (s : State) : Res :=
  let conv := s.lsstvConv x
  let fl := orFlags (conv.map fun r => r.2.2.1)
  let cnt := addCounts (conv.map fun r => r.2.2.2)
  s.slotRunWith (.lsstv x) fl fun s =>
    let c := s.core
    let m := c.storeMask x
    let v := c.vraw x.cl x.v
    let rows := ((c.lsRows (.lsstv x)).zip (List.range 16)).filter fun p => m.getLsbD p.2
    let s := rows.foldl (fun s p =>
      let base : LsWrite :=
        { key := p.1.1 * 2048 + p.1.2.1, clock := s.cycle + p.1.2.2, val := 0, mask := 0, scale := none }
      s.lsPut
        (if x.sub = 0 then { base with val := (vecRow v p.2).setWidth 384, mask := byteMask m }
         else if x.sub = 1 then
           { base with val := BitVec.ofNat 384 ((conv.find? fun q => q.1 == p.2).elim 0 fun q => q.2.1), mask := byteMask m }
         else { base with scale := some ((vecRow v p.2).extractLsb' 0 8) }))
      (s.occupy (.lsstv x) (instrSlot (.lsstv x)))
    if x.sub = 1 then s.flightOf (instrSlot (.lsstv x)) x.cl (1, 0) false [] [] .none fl cnt else s

/-- BFMT (R302): the tag of bank K, or of all banks of G. -/
def execBfmt (x : OpL) (s : State) : Res :=
  s.slotRun (.bfmt x) fun s =>
    let code := x.md.extractLsb' 0 5
    let tag : BitVec 32 :=
      if x.md.getLsbD 5 then 0
      else
        match decTy code with
        | some (.fd k) =>
          let d := s.core.fdValue (k.val + 1)
          if d = 0 then 0 else (1#2 ++ code ++ d.extractLsb' 0 25 : BitVec 32)
        | _ => (1#2 ++ code ++ 0#25 : BitVec 32)
    s.modPair (pairOf s.cur) fun p => { p with tags := (bfmtBanks x).foldl (fun t b => tput 0 t b tag) p.tags }

end Sys2Proof.Machine
end

