-- ==== Sys2Proof/Machine/HubOps.lean ====
section
/-!
DEFINITION. Machine/HubOps.lean: shared operations of the hub: futures (R149 to R154), the fault of a context (R93, R94),
and the launch's last steps (R122 to R125).
-/
namespace Sys2Proof.Machine

/-! ### Futures -/

/-- Index and generation of a handle (R149); bits [63:32] of a register that holds one are not part of it. -/
def futIndex (h : Nat) : Nat := h % 2 ^ 20
def futGen (h : Nat) : Nat := h / 2 ^ 20 % 4096

/-- R150, R149: a stale handle, or handle 0. -/
def State.futStale (s : State) (h c : Nat) : Bool :=
  let f := s.fut (futIndex h)
  futIndex h == 0 || f.state == .free || f.gen.toNat != futGen h || f.ctx != c

/-- How a future is resolved. -/
inductive Fate where
  | set (v : Word)
  | failed (status : Nat)
  deriving DecidableEq, Repr

/-- The tasks that wait on the future with index i become READY (R153). -/
def State.wakeFut (s : State) (i c : Nat) : State :=
  s.wakeAll (s.taskList.filter fun k =>
    let t := s.task k
    t.wkind == 1 && futIndex t.wobj == i && t.ctx == c && (t.state == .suspended || t.state == .aborted))

/-- An EMPTY entry leaves EMPTY (R153). -/
def State.endFuture (s : State) (i : Nat) (r : Fate) (rscope : Nat) : State :=
  let c := (s.fut i).ctx
  (s.modFut i fun f =>
    match r with
    | .set v => { f with state := .set, value := v, rscope := rscope }
    | .failed st => { f with state := .failed, status := BitVec.ofNat 16 st, rscope := rscope }).wakeFut i c

/-- An entry returns to FREE (R153); of its other fields, which the row does not name, none keeps its value (notes/assumptions/99.md). -/
def State.freeFuture (s : State) (i : Nat) : State :=
  let c := (s.fut i).ctx
  (s.modFut i fun f => { ({} : Fut) with gen := f.gen + 1 }).wakeFut i c

/-- A FREE entry becomes EMPTY (R153, R155): its handle, or 0. -/
def State.allocFuture (s : State) (c : Nat) : Nat × State :=
  match firstFrom (fun i => (s.fut i).state == .free) 1 (2 ^ 20 - 1) with
  | none => (0, s)
  | some i =>
    let s := s.modFut i fun f => { ({} : Fut) with gen := f.gen, state := .empty, ctx := c }
    (s.futHandle i, s)

/-- An engine's or window's resolution of a handle of context c (R150, R153): discarded with FUTLATE when the handle is
stale or the entry has left EMPTY. Handle 0 means no future. `src` is ARG1 of the event (R469). -/
def State.resolve (s : State) (h c rscope src : Nat) (r : Fate) : State :=
  let h := h % 2 ^ 32
  if h = 0 then s
  else if s.futStale h c || (s.fut (futIndex h)).state != .empty then s.event evFUTLATE (some c) h src
  else s.endFuture (futIndex h) r rscope

/-! ### Contexts -/

/-- A context whose tasks may be picked and whose queues are served. -/
def State.ctxActive (s : State) (c : Nat) : Bool := (s.ctx c).state == .active

/-- Every running task of a context receives a pre-emption request (R94); a RUNNING group is pre-empted as a whole (R162). -/
def State.quiesceTasks (s : State) (c : Nat) : State :=
  ((tkeys s.groups).filter fun k => (s.groupLaunch k).ctx == c).foldl State.groupPreempt (s.requestWhere fun i => (s.task i).ctx == c)

/-- A fault event of a context (R93, R95): FAULTED with its cause, quiescing under R94. A QUIESCE taken in the same cycle gives way to
it and ends with BADSTATE, code 1. -/
def State.ctxFault (s : State) (c cause : Nat) : State :=
  if (s.ctx c).state == .active || (s.ctx c).state == .quiescing then
    (s.modCtx c fun x =>
      { x with state := .faulted, status := cause, drained := false, held := false, cerr := if s.rankOf 4 c = 0 then x.cerr else 1 }).quiesceTasks c
  else s

end Sys2Proof.Machine
end

