-- ==== Sys2Proof/Machine/PageOps.lean ====
section
/-!
DEFINITION. Machine/PageOps.lean: shared operations of the residency controllers (R342 to R361) and of the pending-operation
log (R365 to R376): pins, counters, migration, the log, its compaction and application, poisoning, and translation.
-/
namespace Sys2Proof.Machine

/-! ### Pages by the address of their leaf entry -/

def State.pteOf (s : State) (a : Nat) : Nat := s.readWord a

/-- The controller's record of a page changed, with the context and virtual page it stands for. -/
def State.modPageOf (s : State) (a c va : Nat) (f : PageX → PageX) : State :=
  s.modPage a fun p => f { p with ctx := c, vaddr := va / 2 ^ 16 * 2 ^ 16 }

/-- Pins taken and released (R353). -/
def State.pin (s : State) (a c va : Nat) : State := (s.modPageOf a c va fun p => { p with pins := p.pins + 1 }).rank 1 a 2
def State.unpin (s : State) (a : Nat) : State := (s.modPage a fun p => { p with pins := p.pins - 1 }).rank 1 a 3

/-- Bytes of a leaf by its SIZE code. -/
def leafBytes (e : Nat) : Nat := pageBytes (pteSize e)

/-- A page arrived, or changed its leaf (R348): frozen accesses and fetches translate again, and tasks that wait on the page with WKIND 5 become READY. -/
def State.pageArrived (s : State) (a c va size : Nat) : State :=
  let s := s.coreList.foldl (fun s l => s.modCore l fun k =>
    { k with
      fetchWait := k.fetchWait.filter fun w => w.1 != a
      mq := k.mq.map fun e =>
        match e.st with
        | .transit _ p => if p = a then { e with st := .walk } else e
        | _ => e }) s
  s.wakeAll (s.taskList.filter fun i =>
    let t := s.task i
    t.wkind == 5 && t.ctx == c && decide (va / size = t.waddr / size) && t.state == .aborted)

/-- Sectors of a frame of n bytes whose poison bit is set. -/
def State.poisonIn (s : State) (pa n : Nat) : Bool :=
  s.poison.any fun e => decide (pa / 32 ≤ e.1) && decide (e.1 < (pa + n + 31) / 32)

/-! ### Atomics (R337) -/

/-- The environment of the f32 atomics: RNE, subnormals kept, canonical NaN. -/
def amoEnv : FpEnv := { rm := .rne, ftz := false, daz := false, cn := true, enables := 0 }

/-- Op(m, v) on n-bit values (R337). -/
def amoOp (op n m v : Nat) : Nat :=
  let m := m % 2 ^ n
  let v := v % 2 ^ n
  let f := StdFmt.f32
  match op with
  | 0 => (m + v) % 2 ^ n
  | 1 => (fpAdd f amoEnv (f.decode false m) (f.decode false v)).1
  | 2 => if signedOf n v < signedOf n m then v else m
  | 3 => if signedOf n m < signedOf n v then v else m
  | 4 => min m v
  | 5 => max m v
  | 6 => (fpMinMax f amoEnv false (f.decode false m) (f.decode false v) m v).1
  | 7 => (fpMinMax f amoEnv true (f.decode false m) (f.decode false v) m v).1
  | 8 => m &&& v
  | 9 => m ||| v
  | 10 => m ^^^ v
  | _ => v

/-! ### The log -/

/-- Bits of a record's operand. -/
def LogRec.width (r : LogRec) : Nat := if r.w64 then 64 else 32

/-- Two records touch a common byte. -/
def LogRec.overlaps (a b : LogRec) : Bool :=
  decide (a.offset < b.offset + b.width / 8) && decide (b.offset < a.offset + a.width / 8)

/-- A record merged into the list, under R371: into the latest earlier record of its place and operation that no
overlapping record of another operation or width follows; the list is kept newest first. -/
def mergeInto (r : LogRec) : List LogRec → Option (List LogRec)
  | [] => none
  | e :: es =>
    if e.offset = r.offset ∧ e.op = r.op ∧ e.w64 = r.w64 then
      some ({ e with mrg := true, operand := BitVec.ofNat 64 (amoOp r.op r.width e.operand.toNat r.operand.toNat) } :: es)
    else if e.overlaps r && (e.op != r.op || e.w64 != r.w64) then none
    else (mergeInto r es).map fun l => e :: l

/-- Compaction (R371, R372): FADD records merge only under MERGED. -/
def compactLog (merged : Bool) (l : List LogRec) : List LogRec :=
  (l.foldl (fun out r =>
    if r.op = 1 && !merged then r :: out
    else
      match mergeInto r out with
      | some out' => out'
      | none => r :: out) []).reverse

/-- Chunks that hold n records (R368). -/
def chunksFor (n : Nat) : Nat := (n + 255) / 256

/-- A record applied to memory (R373, R337). -/
def State.applyRec (s : State) (frame : Nat) (r : LogRec) : State :=
  let n := r.width / 8
  let m := natOfBytes (s.read (frame + r.offset) n)
  s.write (frame + r.offset) (leBytes (amoOp r.op r.width m r.operand.toNat) n)

/-- The pool's free count changed, with LOGPOOLLOW when it falls below LOW (R368). -/
def State.setLogFree (s : State) (n : Nat) : State :=
  let old := s.hub.logFree
  let s := s.modHub fun h => { h with logFree := n }
  if n < s.hub.logLow && decide (s.hub.logLow ≤ old) then s.event evLOGPOOLLOW none n 0 else s

/-- A free chunk of the pool, which one is open (R368). -/
def State.takeChunk (s : State) : Nat × State :=
  let (k, s) := s.draw Config.logPoolChunks
  let free (q : Nat) : Bool := (s.chunkOwner q).isNone
  (((firstFrom free k (Config.logPoolChunks - k)).orElse fun _ => firstFrom free 0 k).getD 0, s)

/-- How an append ends (R371, R375). -/
inductive Append where
  | taken | overflow | refused
  deriving DecidableEq, Repr

/-- An append taken by the controller (R369 to R371, R375). -/
def State.appendLog (s : State) (a c va op : Nat) (w64 : Bool) (operand : Word) : Append × State :=
  let take (s : State) : State :=
    let s := if (s.page a).log = [] then s.setRes a resLOGGED else s
    s.modPageOf a c va fun p =>
      { p with log := p.log ++ [{ operand := operand, offset := va % 2 ^ 16, op := op, w64 := w64, mrg := false, seq := p.appends }],
               appends := p.appends + 1 }
  let p := s.page a
  if p.log.length < p.chunks.length * 256 then (.taken, take s)
  else
    let l := if p.chunks = [] then p.log else compactLog (bitsOf (s.pteOf a) 8 1 == 1) p.log
    let k := chunksFor l.length
    let s := (s.modPageOf a c va fun p => { p with log := l, chunks := p.chunks.take k }).setLogFree (s.hub.logFree + (p.chunks.length - k))
    if l.length < k * 256 then (.taken, take s)
    else if k < 8 && decide (0 < s.hub.logFree) then
      let (q, s) := s.takeChunk
      (.taken, take ((s.setLogFree (s.hub.logFree - 1)).modPage a fun p => { p with chunks := p.chunks ++ [q] }))
    else
      let s := if k < 8 then s.event evLOGPOOLEMPTY (some c) (va / 2 ^ 16 * 2 ^ 16) 0 else s
      if l = [] then (.refused, s) else (.overflow, s)

/-- An application starts (R373): in place, or into the attic copy. -/
def State.startApply (s : State) (a : Nat) (attic : Bool) : State :=
  let n := (s.page a).log.length
  (s.setRes a resAPPLYING).modPage a fun p => { p with app := some (n, attic, p.logFuts), logFuts := [], pins := p.pins + 1 }

/-! ### Migration (R353 to R358) -/

/-- The futures of requests on a page resolve at device scope (R358, R362). -/
def State.resolveAll (s : State) (c : Nat) (hs : List Nat) (r : Fate) : State := hs.foldl (fun s h => s.resolve h c 3 0 r) s

/-- A migration fails (R355, R357, R361). -/
def State.failMig (s : State) (a : Nat) (m : Migration) (status : Nat) : State :=
  let p := s.page a
  (List.range m.sched).foldl (fun s _ => s.event evMIGFAIL (some p.ctx) p.vaddr status)
    (s.resolveAll p.ctx m.futs (.failed status))

/-- A migration's page reached its target (R356, R358): a poisoned sector of the page fails it (R21), and a failed migration is no
slip. -/
def State.endMig (s : State) (a : Nat) (m : Migration) : State :=
  let p := s.page a
  if s.poisonIn (pteFrame (s.pteOf a)) 65536 then s.failMig a m stPOISON
  else
    let late := m.deadlines.any fun d => d != 0 && decide (d < s.tick % 2 ^ 48)
    let s := if late then s.modCtx p.ctx fun x => { x with slip := satAdd32 x.slip 1 } else s
    s.resolveAll p.ctx m.futs (.set (BitVec.ofNat 64 s.tick))

/-- Where a page that no migration moves stands: tower of the attic, or 8 for the cellar. -/
def State.place (s : State) (a : Nat) : Nat := if s.res a = resATTIC then ((s.page a).tower).getD 8 else 8

/-- A request attached to a migration (R358): a repeated handle once, a ninth future fails. -/
def attachMig (m : Migration) (deadline fut sched : Nat) : Migration × Bool :=
  let m := { m with deadlines := if deadline = 0 then m.deadlines else m.deadlines ++ [deadline], sched := m.sched + sched }
  if fut = 0 || m.futs.contains fut then (m, true)
  else if m.futs.length ≥ 8 then (m, false)
  else ({ m with futs := m.futs ++ [fut] }, true)

/-- A request for a migration of a page (R353 to R358). -/
def State.requestMig (s : State) (a c va target deadline fut sched : Nat) : State :=
  let s := s.modPageOf a c va id
  let p := s.page a
  let busy (ok : Bool) (s : State) : State := if ok then s else s.resolve fut c 3 0 (.failed stMIGBUSY)
  let fresh : Migration := { target := target, deadlines := [], futs := [], sched := 0 }
  match p.mig with
  | some m =>
    if m.target = target then
      let r := attachMig m deadline fut sched
      busy r.2 (s.modPage a fun p => { p with mig := some r.1 })
    else
      match p.waiting.reverse with
      | w :: ws =>
        let r := if w.target = target then attachMig w deadline fut sched else attachMig fresh deadline fut sched
        busy r.2 (s.modPage a fun p =>
          { p with waiting := if w.target = target then (r.1 :: ws).reverse else p.waiting ++ [r.1] })
      | [] =>
        let r := attachMig fresh deadline fut sched
        busy r.2 (s.modPage a fun p => { p with waiting := [r.1] })
  | none =>
    if s.place a = target then s.resolve fut c 3 0 (.set (BitVec.ofNat 64 s.tick))
    else
      match p.waiting.reverse with
      | w :: ws =>
        let r := if w.target = target then attachMig w deadline fut sched else attachMig fresh deadline fut sched
        busy r.2 (s.modPage a fun p =>
          { p with waiting := if w.target = target then (r.1 :: ws).reverse else p.waiting ++ [r.1] })
      | [] =>
        let r := attachMig fresh deadline fut sched
        busy r.2 (s.modPage a fun p => { p with waiting := [r.1] })

/-- The pages that hold a slot of a tower's attic (R355). -/
def State.atticPages (s : State) (t : Nat) : List Nat := (tkeys s.pages).filter fun a => (s.page a).tower == some t

/-- The COUNTED ATTIC page of a tower with the lowest counter (R355). -/
def State.coldest (s : State) : List Nat → Option Nat
  | [] => none
  | a :: as =>
    match s.coldest as with
    | none => some a
    | some b => if (s.page b).count < (s.page a).count then some b else some a

/-- The victim a promotion into a tower may displace (R355). -/
def State.victim (s : State) (a t : Nat) : Option Nat :=
  let cs := (s.atticPages t).filter fun b => s.res b == resATTIC && ptePol (s.pteOf b) == 1
  match s.coldest cs with
  | none => none
  | some b => if ptePol (s.pteOf a) != 1 || decide ((s.page b).count < (s.page a).count) then some b else none

/-- Attic slots of a tower (R355). -/
def atticSlots : Nat := 7168

/-- The migration of a page that may start next: one whose promotion is still to start, else the first that waits (R358). -/
def State.nextMig (s : State) (a : Nat) : Option Migration :=
  match (s.page a).mig with
  | some m => if s.res a = resCELLAR || s.res a = resLOGGED then some m else none
  | none => (s.page a).waiting.head?

/-- An AMON at the controller stands before the appends that reach it from now on: held there, or the append that overflowed the log
(R370, R375, R376). -/
def MqState.queued : MqState → Bool
  | .held _ | .overflow => true
  | _ => false
/-- The AMONs of a page in some states at its controller: core and entry. -/
def State.amonsAt (s : State) (a : Nat) (p : MqState → Bool) : List (Nat × MqEntry) :=
  s.coreList.flatMap fun l =>
    ((s.coreAt l).mq.filter fun e => p e.st && (match e.instr with
      | .amon _ => true
      | _ => false) && e.xl.any fun x => x.leaf == a).map fun e => (l, e)

/-- A page's migration may start now (R353, R358): log events come before it (R376). -/
def State.migReady (s : State) (a : Nat) : Bool :=
  let p := s.page a
  match s.nextMig a with
  | some m =>
    p.pins == 0 && !p.cmd && s.amonsAt a (fun st => st.queued) == [] && (s.res a == resCELLAR || s.res a == resLOGGED || s.res a == resATTIC)
      && (decide (m.target = 8) || s.place a != 8 || decide ((s.atticPages m.target).length < atticSlots)
          || !((s.atticPages m.target).any fun b => s.res b == resDEMOTING))
  | none => false

/-- The next migration starts from the state the last one left (R353, R355, R358). -/
def State.startMig (s : State) (a : Nat) : State :=
  match s.nextMig a with
  | none => s
  | some m =>
    let gone (s : State) : State :=
      s.modPage a fun p => { p with mig := none, waiting := if p.mig.isSome then p.waiting else p.waiting.drop 1 }
    if ptePol (s.pteOf a) = 2 then (gone s).failMig a m stPINNED
    else if s.place a = m.target then (gone s).resolveAll (s.page a).ctx m.futs (.set (BitVec.ofNat 64 s.tick))
    else if s.res a = resATTIC then
      ((gone s).setRes a resDEMOTING).modPage a fun p => { p with mig := some m }
    else if (s.atticPages m.target).length < atticSlots then
      ((gone s).setRes a resPROMOTING).modPage a fun p => { p with mig := some m, tower := some m.target }
    else
      match s.victim a m.target with
      | none => (gone s).failMig a m stATTICFULL
      | some b =>
        if (s.page b).pins != 0 then (gone s).failMig a m stATTICFULL
        else
          (s.setRes b resDEMOTING).modPage b fun q =>
            { q with mig := some { target := 8, deadlines := [], futs := [], sched := 0 } }

/-- A page's copy has arrived where it was going (R348). -/
def State.settleMig (s : State) (a : Nat) : State :=
  let p := s.page a
  match p.mig with
  | none => s
  | some m =>
    let s := (s.modPage a fun p => { p with mig := none }).endMig a m
    s.pageArrived a p.ctx p.vaddr 65536

/-- A migration's copy is complete (R348). -/
def State.copyDone (s : State) (a : Nat) : State :=
  let p := s.page a
  match p.mig with
  | none => s
  | some m =>
    if s.res a = resPROMOTING then
      if p.log = [] then
        let s := (s.resolveAll p.ctx p.logFuts (.set 0)).modPage a fun p => { p with logFuts := [] }
        (s.setRes a resATTIC).settleMig a
      else s.startApply a true
    else if s.res a = resDEMOTING then
      let s := (s.setRes a resCELLAR).modPage a fun p => { p with tower := none }
      if m.target = 8 then s.settleMig a
      else
        s.pageArrived a p.ctx p.vaddr 65536
    else s

/-- A log application is complete (R373, R377). -/
def State.applyDone (s : State) (a : Nat) : State :=
  let p := s.page a
  match p.app with
  | none => s
  | some (n, attic, futs) =>
    let s := p.log.foldl (fun s r => s.applyRec (pteFrame (s.pteOf a)) r) s
    let s := (s.setLogFree (s.hub.logFree + p.chunks.length)).modPage a fun p =>
      { p with log := [], appends := 0, chunks := [], app := none, pins := p.pins - 1 }
    let s := s.setRes a (if attic then resATTIC else resCELLAR)
    let s := s.resolveAll p.ctx futs (.set (BitVec.ofNat 64 n))
    if attic then s.settleMig a else s.pageArrived a p.ctx p.vaddr 65536

/-- A sector access of an agent of tower t to a COUNTED page (R352). -/
def State.countPage (s : State) (a c va n t : Nat) : State :=
  let e := s.pteOf a
  if ptePol e = 1 && pteSize e = 0 && decide (0 < n) then
    let old := (s.page a).count
    let s := s.modPageOf a c va fun p => { p with count := satAdd16 p.count n }
    if (pteRes e = resCELLAR || pteRes e = resLOGGED) && decide (s.hub.promth ≤ (s.page a).count.toNat)
        && decide (old.toNat < s.hub.promth) then s.requestMig a c va t 0 0 0
    else s
  else s

/-! ### Leaves of all contexts -/

/-- Numbers of the listed entries of a table. -/
def State.tableEntries (s : State) (base bytes : Nat) : List Nat :=
  ((s.mem.filter fun e => decide (base ≤ e.1) && decide (e.1 < base + bytes)).map fun e => (e.1 - base) / 8).eraseDups

/-- Bytes of a table of a level (R342). -/
def tableBytes (level : Nat) : Nat :=
  match level with
  | 0 => 256
  | 1 => 4096
  | 2 => 4096
  | _ => 2 ^ 21
/-- Bytes an entry of a level spans. -/
def spanBytes (level : Nat) : Nat :=
  match level with
  | 0 => 2 ^ 16
  | 1 => 2 ^ 21
  | 2 => 2 ^ 30
  | _ => 2 ^ 39

/-- The leaves under a table: entry address, level, virtual address. -/
def State.leavesFrom (s : State) : Nat → Nat → Nat → List (Nat × Nat × Nat)
  | level, table, va =>
    (s.tableEntries table (tableBytes level)).flatMap fun k =>
      let a := table + 8 * k
      let e := s.readWord a
      let v := va + k * spanBytes level
      if pteRes e = 15 then
        match level with
        | 0 => []
        | l + 1 => if tableOk level e then s.leavesFrom l (pteTable e) v else []
      else if pteRes e != 0 && leafOk level e then [(a, level, v)] else []
def State.leaves (s : State) (c : Nat) : List (Nat × Nat × Nat) :=
  if (s.ctx c).ptroot = 0 then [] else s.leavesFrom 3 ((s.ctx c).ptroot * 4096) 0

/-- An uncorrectable error in a page's frame, attic slot or log (R361, R376): POISONED, its log and held appends discarded. -/
def State.poisonPage (s : State) (a c va : Nat) : State :=
  let p := s.page a
  let e := s.pteOf a
  let size := leafBytes e
  let isHeld (q : MqEntry) : Bool := q.st.queued && q.xl.any fun x => x.leaf == a
  let held := (s.coreList.map fun l => ((s.coreAt l).mq.filter isHeld).length).foldl (· + ·) 0
  let n := min (p.log.length + held) 0xFFFF
  let s := s.coreList.foldl (fun s l => s.modCore l fun k => { k with mq := k.mq.filter fun q => !isHeld q }) s
  let s := (s.setRes a resPOISONED).rank 1 a 0
  let s := match p.mig with
    | some m => s.failMig a m stPOISON
    | none => s
  let s := p.waiting.foldl (fun s m => s.failMig a m stPOISON) s
  let s := match p.app with
    | some (_, _, futs) => (s.resolveAll p.ctx futs (.failed stPOISON)).unpin a
    | none => s
  let s := (s.setLogFree (s.hub.logFree + p.chunks.length)).modPageOf a c va fun p =>
    { p with log := [], appends := 0, chunks := [], app := none, logFuts := [], mig := none, waiting := [], tower := none }
  let s := s.resolveAll p.ctx p.logFuts (.failed stPOISON)
  let s := s.event evPAGEPOISON (some c) (va / size * size) (pteFrame e + n)
  s.coreList.foldl (fun s l => s.modCore l fun k =>
    { k with mq := k.mq.map fun q =>
        match q.st with
        | .transit _ x => if x = a then { q with st := .walk } else q
        | _ => q }) s

/-! ### Translation (R345 to R347, R359) -/

/-- Fates of a translation. -/
inductive Trans where
  | ok (x : Xlat)
  | absent
  | readonly
  | poison (frame : Nat)
  | transit (page : Nat)
  | pantry (tower : Nat)
  deriving DecidableEq, Repr

/-- A first touch (R359): a frame from the pantry of a tower, or none. -/
def State.firstTouch (s : State) (a c va t : Nat) : Option State :=
  let p := s.pantry t
  match p.frames with
  | [] => none
  | _ :: _ =>
    let (k, s) := s.draw p.frames.length
    let f := p.frames.getD k 0
    let s := { s with pantries := tput {} s.pantries t { p with frames := p.frames.eraseIdx k } }
    let s := s.setPte a (setBits (setBits (s.readWord a) 16 41 (f / 2 ^ 16)) 0 4 resCELLAR)
    let n := p.frames.length - 1
    let s := if n < p.low && decide (p.low ≤ n + 1) then s.event evPANTRYLOW none t n else s
    some (s.modPageOf a c va id)

/-- The translation of n bytes of one 64 KiB page for an agent (R347): `t` the tower that walks, `agent` as PAGEMISS names
it. A first touch is made when the page is ZERO. -/
def State.translate (s : State) (c va n : Nat) (wr : Bool) (t agent : Nat) : Trans × State :=
  let miss (s : State) : Trans × State := (.absent, s.event evPAGEMISS (some c) va agent)
  let x (a level e : Nat) : Xlat :=
    { vpage := va / 2 ^ 16, base := s.physOf c level e (va / 2 ^ 16 * 2 ^ 16), leaf := a, size := level }
  match s.walk c va with
  | .absent => miss s
  | .format => miss (s.ctxFault c 2)
  | .poison => miss (s.ctxFault c 1)
  | .leaf a level e =>
    if pteRes e = resPOISONED then (.poison (pteFrame e), s)
    else if wr && !pteW e then (.readonly, s)
    else if inTransit (pteRes e) then (.transit a, s)
    else if pteRes e = resZERO then
      match s.firstTouch a c va t with
      | none => (.pantry t, s.event evPANTRYEMPTY (some c) t va)
      | some s => (.ok (x a level (s.readWord a)), s)
    else if pteRes e = resLARDER then
      if s.atsDenied c level e va n then
        (.absent, s.event evLARDERMISS (some c) va 0)
      else (.ok (x a level e), s)
    else (.ok (x a level e), s)

/-- The 64 KiB pages that n bytes at a virtual address touch: start and length in each. -/
def pieces (va n : Nat) : List (Nat × Nat) :=
  if n = 0 then []
  else
    (List.range ((va + n - 1) / 65536 - va / 65536 + 1)).map fun k =>
      let p := (va / 65536 + k) * 65536
      let lo := max va p
      (lo, min (va + n) (p + 65536) - lo)

/-- The physical address of a virtual address through translations made. -/
def physVia (xl : List Xlat) (va : Nat) : Nat :=
  match xl.find? fun x => x.vpage == va / 65536 with
  | some x => x.base + va % 65536
  | none => 0

/-- Every page of an access of an agent translated: the first that is not usable, or all. -/
def State.translateAll (s : State) (c : Nat) (wr : Bool) (t agent : Nat) : List (Nat × Nat) → Except (Trans × Nat) (List Xlat) × State
  | [] => (.ok [], s)
  | (va, n) :: rest =>
    match s.translate c va n wr t agent with
    | (.ok x, s) =>
      match s.translateAll c wr t agent rest with
      | (.ok xs, s) => (.ok (x :: xs), s)
      | (.error f, s) => (.error f, s)
    | (f, s) => (.error (f, va), s)

end Sys2Proof.Machine
end

