-- ==== Sys2Proof/Machine/MemOps.lean ====
section
/-!
DEFINITION. Machine/MemOps.lean: shared operations of the memory path (R313 to R327): the L1 data cache, the dirty-line
FIFO, the queues, and the bytes an access reads or writes.
-/
namespace Sys2Proof.Machine

/-! ### Queue entries -/

/-- The form-M payload of an instruction. -/
def opmOf (i : Instr) : Option OpM :=
  match slotForm i with
  | some (_, _, .m x) => some x
  | some (_, _, .prefetch x) => some x
  | _ => none

/-- Bytes of LDT and STT with a descriptor (R335). -/
def tileBytes (desc : BitVec 32) : Nat := if desc = 0 then 4096 else 128 * (Desc.ofBits desc).width

/-- Bytes an entry's access covers (R332 to R338). -/
def MqEntry.len (e : MqEntry) : Nat :=
  match e.instr with
  | .ldv _ | .stv _ | .ntstv _ => 4096
  | .ldt _ | .stt _ => tileBytes e.desc
  | .ld x | .st x | .ntst x | .amo x | .amon x | .acas x => sizeBytes x.sz
  | .qpeek _ => 64
  | _ => 0

/-- Stores and atomics: they need W (R347). -/
def MqEntry.writes (e : MqEntry) : Bool :=
  match e.instr with
  | .st _ | .stv _ | .stt _ | .ntst _ | .ntstv _ | .amo _ | .amon _ | .acas _ => true
  | _ => false
def MqEntry.atomic (e : MqEntry) : Bool :=
  match e.instr with
  | .amo _ | .amon _ | .acas _ => true
  | _ => false
def MqEntry.isLoad (e : MqEntry) : Bool :=
  match e.instr with
  | .ld _ | .ldv _ | .ldt _ => true
  | _ => false

def MqEntry.ord (e : MqEntry) : MemOrd := (opmOf e.instr).elim .plain fun x => x.ord
/-- Tower scope or wider; the pair scope orders as tower (R313, R340). -/
def wide (sc : Scope) : Bool := sc != .core
def MqEntry.scope (e : MqEntry) : Scope := (opmOf e.instr).elim .core fun x => x.scope

/-- Non-temporal accesses (R325). -/
def MqEntry.nontemporal (e : MqEntry) : Bool :=
  match e.instr with
  | .ntst _ | .ntstv _ => true
  | .ld x | .ldv x | .ldt x | .st x | .stv x | .stt x => x.ord == .nontemporal
  | _ => false
/-- Release and acquire semantics (R322, R323, R339). -/
def MqEntry.releases (e : MqEntry) : Bool :=
  match e.instr with
  | .st x | .stv x | .stt x | .amo x | .amon x | .acas x => x.ord == .release
  | .fence x => x.ord == .plain || x.ord == .release
  | _ => false
def MqEntry.acquires (e : MqEntry) : Bool :=
  match e.instr with
  | .ld x | .ldv x | .ldt x | .amo x | .acas x => x.ord == .acquire
  | .fence x => x.ord == .plain || x.ord == .acquire
  | _ => false
/-- A load that reads at the home slice (R323, R333). -/
def MqEntry.atSlice (e : MqEntry) : Bool := e.isLoad && (e.nontemporal || (e.acquires && wide e.scope))

/-- An operation enters the queues (R319), with its result awaited when it has one (R42). -/
def State.enqueue (s : State) (i : Instr) (inLoad inStore : Bool) (ea : Nat) (vals : List Word) (vec : VecReg)
    (desc : BitVec 32) (st : MqState) (awaits : Bool) (dests : List Opnd) : State :=
  let c := s.core
  let cg := instrGuard i
  let (k, s) := s.nextSeq
  let e : MqEntry :=
    { seq := k, bseq := c.bundle.2, baddr := c.bundle.1, slot := instrSlot i, instr := i, inLoad := inLoad, inStore := inStore,
      ea := ea, vals := vals, vec := vec, fpcr := c.fpcr, desc := desc, tagD := 0, tagS := 0, scD := [], scS := [], st := st,
      xl := [], inSet := [] }
  let s := s.onCore fun c => { c with mq := c.mq ++ [e] }
  if awaits then s.awaitResult (instrSlot i) cg.1 dests k else s

def State.entry (s : State) (lin seq : Nat) : Option MqEntry := (s.coreAt lin).mq.find? fun e => e.seq == seq
def State.setEntry (s : State) (lin seq : Nat) (f : MqEntry → MqEntry) : State :=
  s.modCore lin fun c => { c with mq := c.mq.map fun e => if e.seq = seq then f e else e }
/-- An entry leaves its queues; a task that was only waiting for it leaves its core (R318). -/
def State.dequeue (s : State) (lin seq : Nat) : State :=
  (s.modCore lin fun c => { c with mq := c.mq.filter fun e => e.seq != seq }).tryLeave lin

/-- The context of the task of a core. -/
def State.ctxOf (s : State) (lin : Nat) : Nat :=
  match (s.coreAt lin).task with
  | some i => (s.task i).ctx
  | none => 0

/-- The fatal fault of a queue entry (R49, R141). -/
def State.entryFatal (s : State) (lin : Nat) (e : MqEntry) (code : Nat) (a0 a1 : Word) : State :=
  s.fatal lin e.bseq e.baddr (slotMask e.slot) code a0 a1 0

/-! ### Sets (R381 to R383) -/

/-- The set-table entries of a context that satisfy p and have a line that n bytes at va touch, by index, ascending. -/
def State.setsTouching (s : State) (c va n : Nat) (p : ASet → Bool) : List Nat :=
  ((tkeys s.sets).filter fun k =>
    let a := s.aset k
    k / 4096 == c && a.state != .free && p a && decide (a.base < va + n) && decide (va < a.base + 128 * a.lines)).map
    fun k => k % 4096

/-- The set a task holds that covers an address. -/
def State.heldSetAt (s : State) (i va : Nat) : Option Nat :=
  (s.heldSets i).find? fun k => let a := s.aset k; decide (a.base ≤ va) && decide (va < a.base + 128 * a.lines)

/-- The lines the set-store buffer of a core holds (R383). -/
def Core.setLines (c : Core) : List Nat := (c.setBuf.map fun e => e.1 / 128).eraseDups

/-! ### The L1 data cache and the dirty-line FIFO -/

/-- Sets of the L1: 640 KiB in lines of 128 bytes, 20 ways (R315). A line's set is its number modulo this (notes/assumptions/97.md). -/
def l1Sets : Nat := 256
/-- Lines with a valid byte. -/
def Core.l1Lines (c : Core) : List Nat := (c.l1.map fun e => e.1 / 128).eraseDups
/-- The line is present, or its set has a way free. -/
def Core.hasWay (c : Core) (n : Nat) : Bool :=
  c.l1Lines.contains n || decide ((c.l1Lines.filter fun m => m % l1Sets == n % l1Sets).length < 20)
def Core.l1At (c : Core) (pa : Nat) : Option L1Byte := tget none c.l1 pa
def Core.lineDirty (c : Core) (n : Nat) : Bool :=
  c.l1.any fun e => e.1 / 128 == n && (match e.2 with
    | some b => b.dirty
    | none => false)
/-- Entries of lines with no dirty byte are void (R316). -/
def Core.tidyFifo (c : Core) : Core :=
  { c with fifo := c.fifo.filter fun f =>
      match f with
      | .line n => c.lineDirty n
      | .marker _ => true }
/-- An acquire's invalidation: every byte that is not dirty (R317). -/
def Core.invalidate (c : Core) : Core :=
  { c with l1 := c.l1.filter fun e => match e.2 with
      | some b => b.dirty
      | none => false }
/-- Clean bytes dropped: a load that read them at the slice is not followed by one that reads an older value (R321). -/
def Core.dropClean (c : Core) (pa n : Nat) : Core :=
  { c with l1 := c.l1.filter fun e => decide (e.1 < pa) || decide (pa + n ≤ e.1) || (match e.2 with
      | some b => b.dirty
      | none => false) }
/-- A sector invalidated (R326). -/
def Core.dropSector (c : Core) (k : Nat) : Core := { c with l1 := c.l1.filter fun e => e.1 / 32 != k }
/-- A byte stored: valid and dirty (R315). -/
def Core.dirtyByte (c : Core) (pa : Nat) (b : Byte) : Core := { c with l1 := tput none c.l1 pa (some { val := b, dirty := true }) }

/-- The dirty bytes of a sector written to the home slice, and clean from then on (R316). -/
def State.flushSector (s : State) (lin k : Nat) : State :=
  let c := s.coreAt lin
  let bs := c.l1.filter fun e => e.1 / 32 == k && (match e.2 with
    | some b => b.dirty
    | none => false)
  let val (e : Nat × Option L1Byte) : Byte := match e.2 with
    | some b => b.val
    | none => 0
  let s := if bs.length = 32 then s.write (32 * k) (bs.map val) else bs.foldl (fun s e => s.write e.1 [val e]) s
  s.setCore lin { c with l1 := c.l1.map fun e =>
    if e.1 / 32 = k then (e.1, e.2.map fun b => { b with dirty := false }) else e }
def State.flushLine (s : State) (lin n : Nat) : State :=
  ((List.range 4).foldl (fun s k => s.flushSector lin (4 * n + k)) s).modCore lin Core.tidyFifo

/-- The page in LOGGED or APPLYING whose frame holds a physical address (R374). -/
def State.logPageAt (s : State) (pa : Nat) : Option Nat :=
  (tkeys s.pages).find? fun a =>
    let e := s.pteOf a
    (pteRes e == resLOGGED || pteRes e == resAPPLYING) && decide (pteFrame e ≤ pa) && decide (pa < pteFrame e + 65536)

/-- An access that reaches the home slice of a page in LOGGED starts its application (R374). Appends of the cycle are taken first
(R376): one not taken by then has reached the controller in a later cycle. -/
def State.force (s : State) (a : Nat) : State := if s.res a = resLOGGED then (s.startApply a false).rank 1 a 5 else s

/-- A slice may have filled the sector from the page's frame: the counters of R352 rise, by choice (R472). -/
def State.maybeCount (s : State) (leaf c va t : Nat) : State :=
  if ptePol (s.pteOf leaf) = 1 then
    let (d, s) := s.draw 2
    if d = 1 then s.countPage leaf c va 1 t else s
  else s

/-- A line leaves the L1: its dirty bytes are written back first (R315). -/
def State.evictLine (s : State) (lin n : Nat) : State :=
  (s.flushLine lin n).modCore lin fun c => { c with l1 := c.l1.filter fun e => e.1 / 128 != n }
/-- A line's write-back must wait: it has dirty bytes in a page that has a log to apply (R374). -/
def State.stuck (s : State) (lin n : Nat) : Bool := (s.coreAt lin).lineDirty n && (s.logPageAt (128 * n)).isSome

/-- A line may be evicted at any time (R315). -/
def State.evictSome (s : State) (lin : Nat) : State :=
  let lines := (s.coreAt lin).l1Lines
  let (d, s) := s.draw 2
  if d = 1 then
    let (k, s) := s.draw (lines.length + 1)
    match lines[k]? with
    | none => s
    | some n => if s.stuck lin n then s else s.evictLine lin n
  else s

/-- Some line of the set gives way when a line that is not present finds its 20 ways taken; which one is open (R315). -/
def State.makeRoom (s : State) (lin n : Nat) : State :=
  if (s.coreAt lin).hasWay n then s
  else
    let out := ((s.coreAt lin).l1Lines.filter fun m => m % l1Sets == n % l1Sets).filter fun m => !s.stuck lin m
    let (k, s) := s.draw (out.length + (if out = [] then 1 else 0))
    match out[k]? with
    | none => s
    | some m => s.evictLine lin m

/-- A sector's bytes filled around the dirty ones (R315). -/
def Core.fill (c : Core) (k : Nat) (bs : List Byte) : Core :=
  (bs.zip (List.range 32)).foldl (fun c b =>
    match c.l1At (32 * k + b.2) with
    | some x => if x.dirty then c else { c with l1 := tput none c.l1 (32 * k + b.2) (some { val := b.1, dirty := false }) }
    | none => { c with l1 := tput none c.l1 (32 * k + b.2) (some { val := b.1, dirty := false }) }) c

/-- The parts of an access by sector: virtual address and length. -/
def sectorParts (va n : Nat) : List (Nat × Nat) :=
  (sectorsOf va n).map fun k =>
    let lo := max va (32 * k)
    (lo, min (va + n) (32 * k + 32) - lo)

/-- A part that is not all valid in the L1. -/
def Core.misses (c : Core) (pa n : Nat) : Bool := (List.range n).any fun k => (c.l1At (pa + k)).isNone

/-- A fill that the parts of an access need must wait: the sector has been written whole in this cycle (R22). -/
def State.fillFresh (s : State) (lin : Nat) (xl : List Xlat) (parts : List (Nat × Nat)) : Bool :=
  parts.any fun p => (s.coreAt lin).misses (physVia xl p.1) p.2 && s.freshSectors [physVia xl p.1 / 32]

/-- Bytes of a part from memory, under the set-store buffer's bytes (R383). -/
def State.sliceBytes (s : State) (lin va pa n : Nat) (held : Bool) : List Byte :=
  let c := s.coreAt lin
  (List.range n).map fun k =>
    match (if held then tget none c.setBuf (va + k) else none) with
    | some b => b
    | none => ((s.read (pa + k) 1).head?).getD 0

/-- Bytes that an access reads at the slice lie in a poisoned sector (R21): a holder takes those in its set-store buffer from there
(R383). -/
def State.slicePoison (s : State) (lin va pa n : Nat) (held : Bool) : Bool :=
  s.poisoned pa n && !(held && (List.range n).all fun k => (tget none (s.coreAt lin).setBuf (va + k)).isSome)

/-- The bytes a load returns, or the physical address of a poisoned sector (R21, R315, R383). -/
def State.loadParts (s : State) (lin : Nat) (e : MqEntry) (slice : Bool) : List (Nat × Nat) → Except Nat (List Byte) × State
  | [] => (.ok [], s)
  | (va, n) :: rest =>
    let c := s.coreAt lin
    let pa := physVia e.xl va
    let held := match c.task with
      | some i => (s.heldSetAt i va).isSome
      | none => false
    let leaf := (e.xl.find? fun x => x.vpage == va / 65536).elim 0 fun x => x.leaf
    let k := pa / 32
    let ctx := s.ctxOf lin
    let more (s : State) (bs : List Byte) : Except Nat (List Byte) × State :=
      match s.loadParts lin e slice rest with
      | (.ok r, s) => (.ok (bs ++ r), s)
      | (.error a, s) => (.error a, s)
    if slice || held then
      -- the task's own dirty bytes are written back before the slice is read (R321)
      let s := if held then s else (s.flushSector lin k).modCore lin Core.tidyFifo
      if s.slicePoison lin va pa n held then (.error (32 * k), s)
      else
        let bs := s.sliceBytes lin va pa n held
        more ((s.maybeCount leaf ctx va (towerOf lin)).modCore lin fun c => c.dropClean pa n) bs
    else if c.misses pa n then
      let s := s.verify [k] 0 (some ctx)
      if s.poisoned pa n then (.error (32 * k), s)
      else
        let s := ((s.evictSome lin).makeRoom lin (pa / 128)).maybeCount leaf ctx va (towerOf lin)
        let filled := (s.coreAt lin).fill k (s.read (32 * k) 32)
        let s := if (s.coreAt lin).hasWay (pa / 128) then s.setCore lin filled else s
        more s ((List.range n).map fun j => ((filled.l1At (pa + j)).elim 0 fun b => b.val))
    else more s ((List.range n).map fun j => ((c.l1At (pa + j)).elim 0 fun b => b.val))

/-- The bytes of set lines go to the set-store buffer: or the id of the set of a line for which it has no room (R383). -/
def State.storeSet (s : State) (lin va : Nat) (bs : List Byte) : Except Nat State :=
  let c := s.coreAt lin
  let lines := c.setLines
  let new := (((List.range bs.length).map fun k => (va + k) / 128).eraseDups).filter fun n => !lines.contains n
  if lines.length + new.length > 256 then
    let i := c.task.getD 0
    .error ((s.heldSetAt i (128 * (new.getD (256 - lines.length) 0))).elim 0 s.setId)
  else
    .ok (s.setCore lin
      { c with setBuf := (bs.zip (List.range bs.length)).foldl (fun t b => tput none t (va + b.2) (some b.1)) c.setBuf })

/-- The bytes of a part stored into the L1; a line whose first byte becomes dirty joins the FIFO (R315, R316). -/
def Core.storeL1 (c : Core) (pa : Nat) (bs : List Byte) : Core :=
  let lines := ((List.range bs.length).map fun k => (pa + k) / 128).eraseDups
  let new := lines.filter fun n => !c.lineDirty n
  let c := (bs.zip (List.range bs.length)).foldl (fun c b => c.dirtyByte (pa + b.2) b.1) c
  { c with fifo := c.fifo ++ new.map .line }

/-- Lines a store would append to the FIFO. -/
def Core.newLines (c : Core) (xl : List Xlat) (va n : Nat) : Nat :=
  ((((sectorParts va n).map fun p => physVia xl p.1 / 128).eraseDups).filter fun k => !c.lineDirty k).length
def Core.fifoLines (c : Core) : Nat :=
  (c.fifo.filter fun f => match f with
    | .line _ => true
    | .marker _ => false).length

/-- Line entries that stand before the marker of an operation (R317). -/
def linesBefore (seq : Nat) : List FifoEntry → Nat
  | [] => 0
  | .marker k :: rest => if k = seq then 0 else linesBefore seq rest
  | .line _ :: rest => 1 + linesBefore seq rest
def Core.markerDone (c : Core) (seq : Nat) : Bool := linesBefore seq c.fifo == 0
def Core.dropMarker (c : Core) (seq : Nat) : Core := { c with fifo := c.fifo.filter fun f => f != .marker seq }

/-- The markers of operations that have left the queues: engine operations and sends (R310, R321). -/
def Core.idleMarkers (c : Core) : List Nat :=
  c.fifo.filterMap fun f => match f with
    | .marker k => if c.mq.any fun e => e.seq == k then none else some k
    | .line _ => none

/-- Engine operations and sends whose marker has completed start (R310, R321). -/
def State.startEngines (s : State) (lin : Nat) : State :=
  let c := s.coreAt lin
  let done := c.idleMarkers.filter c.markerDone
  let begun (q : PlaneSt) : PlaneSt := { q with sends := q.sends.map fun d => if done.contains d.id then { d with marked := false } else d }
  let s := s.modCore lin fun c => done.foldl Core.dropMarker c
  let s := (s.modPlane .x begun).modPlane .y begun
  s.modPair (pairOf lin) fun p =>
    { p with eng := p.eng.map fun o => if done.contains o.id then { o with started := true } else o }

/-- The FIFO writes back its oldest line (R316): it waits at the slice while the line's page applies its log (R374). -/
def State.writeBackOldest (s : State) (lin : Nat) : State :=
  let c := s.coreAt lin
  match c.fifo.findSome? fun f => match f with
    | .line n => some n
    | .marker _ => none with
  | none => (s.startEngines lin).tryLeave lin
  | some n =>
    match s.logPageAt (128 * n) with
    | some a => s.force a
    | none => ((s.flushLine lin n).startEngines lin).tryLeave lin

/-- A non-temporal store reaches the write-combining buffer of its slice (R325). -/
def State.ntArrive (s : State) (lin k : Nat) : State :=
  let c := s.coreAt lin
  match c.nt[k]? with
  | none => s
  | some n =>
    match n.bytes.findSome? fun b => s.logPageAt b.1 with
    | some a => s.force a
    | none =>
      let s := s.setCore lin { c with nt := c.nt.eraseIdx k }
      -- whole sectors are written as such (R21)
      let secs := (n.bytes.map fun b => b.1 / 32).eraseDups
      let s := secs.foldl (fun s q =>
        let bs := n.bytes.filter fun b => b.1 / 32 == q
        if bs.length = 32 then s.write (32 * q) (bs.map fun b => b.2) else bs.foldl (fun s b => s.write b.1 [b.2]) s) s
      s.tryLeave lin

/-- A non-temporal store no earlier one of its core overlaps may arrive next. -/
def ntFree (l : List NtStore) (k : Nat) : Bool :=
  match l[k]? with
  | none => false
  | some n => (l.take k).all fun m => m.bytes.all fun b => n.bytes.all fun d => b.1 != d.1

end Sys2Proof.Machine
end

