-- ==== Sys2Proof/Machine/AtomicSet.lean ====
section
/-!
DEFINITION. Machine/AtomicSet.lean: the atomic set (R378 to R388): ASDECL, ASDROP, the judgement of a request, and wounds
(R132, R140, R470).
-/
namespace Sys2Proof.Machine

/-- The value an entry of the queues was waiting for arrives, and the entry leaves (R42). -/
def State.deliver (s : State) (lin : Nat) (e : MqEntry) (ws : List RegWrite) (lw : LatchWrite) (fl : FpFlags) (cnt : FpCounts) : State :=
  (s.modCore lin fun c => c.arrive e.seq ws lw fl cnt).dequeue lin e.seq
/-- A scalar value delivered to D. -/
def State.deliverWord (s : State) (lin : Nat) (e : MqEntry) (d : Opnd) (v : Word) : State :=
  s.deliver lin e (destWrites (instrGuard e.instr).1 d v) (.word v) {} {}

/-- ASDECL enters both queues (R380). -/
def execAsdecl (x : OpA) (s : State) : Res :=
  s.slotRun (.asdecl x) fun s =>
    s.enqueue (.asdecl x) true true 0 [s.core.src x.cl x.a, s.core.src x.cl x.b] 0 0 .ready true [x.d]

/-- ASDROP enters both queues (R380). -/
def execAsdrop (x : OpA) (s : State) : Res :=
  s.slotRun (.asdrop x) fun s =>
    s.enqueue (.asdrop x) true true 0 [s.core.src x.cl x.a] 0 0 .ready true [x.d]

/-- ASDECL at the hub (R380): the word it returns. -/
def State.declare (s : State) (c base lines : Nat) : Word × State :=
  match s.setsTouching c base (128 * lines) fun a => (a.state == .declared || a.state == .held) && a.base == base && a.lines == lines with
  | k :: _ => (BitVec.ofNat 64 (s.setId (c * 4096 + k)), s)
  | [] =>
    if s.setsTouching c base (128 * lines) (fun _ => true) != [] then (BitVec.allOnes 64, s)
    else
      match firstFrom (fun k => (s.aset (c * 4096 + k)).state == .free) 0 4096 with
      | none => (BitVec.allOnes 64, s)
      | some k =>
        let s := s.modSet (c * 4096 + k) fun a => { ({} : ASet) with gen := a.gen, state := .declared, base := base, lines := lines }
        (BitVec.ofNat 64 (s.setId (c * 4096 + k)), s)

/-- ASDROP at the hub (R380): a number with a bit of [31:24] set is the id of no set, and stale (R378; notes/assumptions/62.md). -/
def State.dropSet (s : State) (c id : Nat) : Word × State :=
  let key := c * 4096 + id % 4096
  let a := s.aset key
  if id ≥ 2 ^ 24 || a.state == .free || a.gen.toNat != id / 4096 % 4096 || a.state == .dropping then (0, s)
  else if a.holder.isSome || a.next.isSome || s.waiters 2 (s.setId key) c != [] then
    (1, s.modSet key fun a => { a with state := .dropping })
  else (1, s.modSet key ASet.freed)

/-- ASDECL and ASDROP perform at the hub (R380). -/
def State.performSetOp (s : State) (lin : Nat) (e : MqEntry) : State :=
  let c := s.ctxOf lin
  match e.instr with
  | .asdecl x =>
    let r := s.declare c (e.vals.getD 0 0).toNat ((e.vals.getD 1 0).toNat / 128)
    r.2.deliverWord lin e x.d r.1
  | .asdrop x =>
    let r := s.dropSet c ((e.vals.getD 0 0).toNat % 2 ^ 32)
    r.2.deliverWord lin e x.d r.1
  | _ => s

/-- The core that runs a task. -/
def State.coreOfTask (s : State) (i : Nat) : Option Nat := s.runningCores.find? fun l => (s.coreAt l).task == some i

/-- The task of a core leaves it to wait for a set (R385). -/
def State.waitSet (s : State) (lin : Nat) (e : MqEntry) (key : Nat) : State :=
  s.startLeave lin (.suspended 2 (s.setId key) 0) 0 e.baddr e.bseq

/-- The sets that other accesses of a core are frozen on, to receive them at release (R382, R386). -/
def Core.wounded (c : Core) (seq : Nat) : List Nat :=
  (c.mq.flatMap fun e => match e.st with
    | .wounding (x :: _) => if e.seq = seq then [] else [x]
    | _ => []).eraseDups

/-- The hub's judgement of a request (R382): `x` the index of the lowest set that the access still has to acquire. -/
def State.judge (s : State) (lin : Nat) (e : MqEntry) (i c x : Nat) : State :=
  let key := c * 4096 + x
  let a := s.aset key
  let own (s : State) : State := s.setEntry lin e.seq fun e => { e with inSet := e.inSet ++ [x] }
  let take (s : State) : State :=
    own (s.modSet key fun a =>
      { a with state := .held, holder := some i, next := if a.next = some i then none else a.next })
  if a.holder = some i then own s
  else if (s.heldSets i).length + (((s.coreAt lin).wounded e.seq).filter fun y => y != x).length ≥ 8 then s.entryFatal lin e fcSETMAX (BitVec.ofNat 64 (s.setId key)) 0
  else
  match a.holder with
  | some h =>
    if s.older i h then
      -- the holder is wounded; the requester stays frozen
      let s := s.setEntry lin e.seq fun e => { e with st := .wounding [x] }
      match s.coreOfTask h with
      | none => s
      | some l =>
        s.modCore l fun k =>
          if k.woundIn.isSome || k.wound.isSome then k else { k with woundIn := some (s.cycle, s.setId key, i), woundDone := false }
    else s.waitSet lin e key
  | none =>
    match a.next with
    | none => take s
    | some n => if n = i || s.older i n then take s else s.waitSet lin e key

/-- The sets an access still has to acquire, as the table stands (R381, R382). -/
def State.wanted (s : State) (i c : Nat) (e : MqEntry) : List Nat :=
  (s.setsTouching c e.ea e.len fun a => a.state == .declared || a.state == .held || a.holder == some i).filter
    fun k => !e.inSet.contains k

/-- An ASDECL or ASDROP of its core stands before the access, which is judged against the new table (R380). -/
def Core.setOpAhead (c : Core) (e : MqEntry) : Bool :=
  c.mq.any fun o => decide (o.seq < e.seq) && (match o.instr with
    | .asdecl _ | .asdrop _ => true
    | _ => false)

/-- SET_REQUEST (R382): the hub judges the next request of an access; with none left it proceeds. -/
def execSetRequest (lin seq : Nat) (s : State) : Res :=
  match s.entry lin seq, (s.coreAt lin).task with
  | some e, some i =>
    match e.st with
    | .sets _ =>
      let c := (s.task i).ctx
      if (s.coreAt lin).setOpAhead e then .next s
      else
      match s.wanted i c e with
      | [] => .next (s.setEntry lin seq fun e => { e with st := .ready })
      | x :: _ => .next (s.judge lin e i c x)
    | _ => .next s
  | _, _ => .next s

/-- A wound that has reached the core of its task is taken at a bundle boundary, or before a frozen bundle issues, or before
the completion step of a bundle other than TEND's performs anything (R44, R132, R140). A held arrival that has counted is such an
operation (R169). -/
def State.takeWound (s : State) (lin : Nat) : State :=
  let c := s.coreAt lin
  match c.wound with
  | none => s
  | some (id, w) =>
    let free := match c.compl with
      | some q => !q.performing && !q.committing && q.arrivedGen.isNone
      | none => c.iss.isNone
    if c.leave.isSome || !free then s
    else
      let at_ := match c.compl with
        | some q => (q.baddr, q.bseq)
        | none => (c.pc, c.bseq + 1)
      s.woundAbort lin id w at_.1 at_.2

/-- The completion step of TEND has begun: its results are visible (R132, R145). -/
def Core.ending (c : Core) : Bool :=
  match c.compl with
  | some q => q.committing || q.ask == .tend || (c.pend.isEmpty && q.ops.any fun h => match h.instr with
      | .tend _ => true
      | _ => false)
  | none => false

/-- WOUND_ARRIVAL (R140, R470): refused once the task's TEND has begun its completion step; the requesters stay frozen on the set until
its release hands it on (R132, R386, R388). -/
def execWoundArrival (lin : Nat) (s : State) : Res :=
  let c := s.coreAt lin
  match c.woundIn, c.task with
  | some (k, id, w), some _ =>
    if s.cycle ≤ k then .next s
    else
    let s := s.setCore lin { c with woundIn := none }
    if c.ending then .next s
    else .next ((s.modCore lin fun c => { c with wound := some (id, w) }).takeWound lin)
  | _, _ => .next s

end Sys2Proof.Machine
end

