-- ==== Sys2Proof/Machine/FabOps.lean ====
section
/-!
DEFINITION. Machine/FabOps.lean: shared operations of the fabric: peers and routes (R389, R390), the slot table in force
(R392 to R395), control messages (R406, R407), link states (R421, R424).
-/
namespace Sys2Proof.Machine

/-! ### Peers and routes -/

/-- This device's peer id (R389). -/
def Hub.peer (h : Hub) : Nat := h.seat + 32 * h.pod
def peerSeat (p : Nat) : Nat := p % 32
def peerPod (p : Nat) : Nat := p / 32 % 32
def planeNum : Plane → Nat
  | .x => 0
  | .y => 1
def planeOf (n : Nat) : Plane := if n % 2 = 0 then .x else .y

/-- The first hop from `own` to a peer (R390): plane and residue; none when it is delivered here. -/
def hopFrom (own dest : Nat) : Option (Plane × Nat) :=
  if peerPod dest = peerPod own then
    if peerSeat dest = peerSeat own then none else some (.x, (peerSeat dest + 32 - peerSeat own) % 32)
  else some (.y, (peerPod dest + 32 - peerPod own) % 32)

/-- The neighbour that a residue of a plane reaches (R389). -/
def neighbour (own : Nat) (p : Plane) (k : Nat) : Nat :=
  match p with
  | .x => (peerSeat own + k) % 32 + 32 * peerPod own
  | .y => peerSeat own + 32 * ((peerPod own + k) % 32)
/-- The residue on which this device reaches a neighbour of a plane. -/
def residueTo (own : Nat) (p : Plane) (peer : Nat) : Nat :=
  match p with
  | .x => (peerSeat peer + 32 - peerSeat own) % 32
  | .y => (peerPod peer + 32 - peerPod own) % 32
/-- The residue on which a neighbour's light arrives here. -/
def residueFrom (own : Nat) (p : Plane) (peer : Nat) : Nat := (32 - residueTo own p peer) % 32
/-- The neighbour whose light arrives on a residue. -/
def sourceOf (own : Nat) (p : Plane) (k : Nat) : Nat := neighbour own p ((32 - k % 32) % 32)

/-! ### The slot table (R392, R393, R395) -/

/-- A lane code: residue, band, lit (R392). -/
def codeResidue (c : BitVec 16) : Nat := (c.extractLsb' 0 5).toNat
def codeBand (c : BitVec 16) : Nat := (c.extractLsb' 5 4).toNat
def codeLit (c : BitVec 16) : Bool := c.getLsbD 15

/-- The code of a modulator lane, and of a detector lane, in an entry. -/
def SlotTable.modCode (t : SlotTable) (e l : Nat) : BitVec 16 := tget 0 t.codes (256 * e + l)
def SlotTable.detCode (t : SlotTable) (e l : Nat) : BitVec 16 := tget 0 t.codes (256 * e + 128 + l)

/-- The lit codes of an entry: residue, band, lane. -/
def SlotTable.lit (t : SlotTable) (e : Nat) (det : Bool) : List (Nat × Nat × Nat) :=
  (t.codes.filter fun q => q.1 / 256 == e && (q.1 / 128 % 2 == 1) == det && codeLit q.2).map fun q =>
    (codeResidue q.2, codeBand q.2, q.1 % 128)

/-- The bands an entry lights towards a residue, ascending. -/
def SlotTable.stripe (t : SlotTable) (e k : Nat) : List Nat :=
  sortNat (((t.lit e false).filter fun q => q.1 == k).map fun q => q.2.1)

/-- Entries of the table that light a line, and those that light a residue. -/
def SlotTable.entriesOf (t : SlotTable) (k b : Nat) : List Nat :=
  (List.range t.period).filter fun e => (t.lit e false).any fun q => q.1 == k && q.2.1 == b
def SlotTable.lights (t : SlotTable) (k : Nat) : Bool :=
  (List.range t.period).any fun e => (t.lit e false).any fun q => q.1 == k
/-- The widest stripe to a residue (R421). -/
def SlotTable.widest (t : SlotTable) (k : Nat) : Nat := (List.range t.period).foldl (fun m e => max m (t.stripe e k).length) 0

/-- A plane's active table lights the residue (R415). -/
def PlaneSt.routed (p : PlaneSt) (k : Nat) : Bool := p.active.elim false fun t => t.lights k

/-! ### Links -/

/-- The code of a link's state (R421). -/
def LinkState.code : LinkState → Nat
  | .dark => 0
  | .calibrating => 1
  | .trained => 2
  | .inService => 3
  | .parked => 4
  | .waking => 5
  | .degraded => 6
  | .failed => 7

def PlaneSt.link (p : PlaneSt) (peer : Nat) : LinkState := tget .dark p.links peer
/-- The link carries traffic. -/
def LinkState.up : LinkState → Bool
  | .inService | .degraded | .parked | .waking => true
  | _ => false

def PlaneSt.stream (p : PlaneSt) (k : Nat) : Stream := tget {} p.streams k
def PlaneSt.modStream (p : PlaneSt) (k : Nat) (f : Stream → Stream) : PlaneSt := { p with streams := tmod {} p.streams k f }
def PlaneSt.camp (p : PlaneSt) (k : Nat) : Camp := tget {} p.camps k
def PlaneSt.modCamp (p : PlaneSt) (k : Nat) (f : Camp → Camp) : PlaneSt := { p with camps := tmod {} p.camps k f }
/-- A line's key in the tables. -/
def lineKey (k b : Nat) : Nat := 16 * k + b
def PlaneSt.line (p : PlaneSt) (k b : Nat) : Line := tget {} p.lines (lineKey k b)
def PlaneSt.modLine (p : PlaneSt) (k b : Nat) (f : Line → Line) : PlaneSt :=
  { p with lines := tmod {} p.lines (lineKey k b) f }
def PlaneSt.band (p : PlaneSt) (b : Nat) : Band := tget {} p.bands b
def PlaneSt.modBand (p : PlaneSt) (b : Nat) (f : Band → Band) : PlaneSt := { p with bands := tmod {} p.bands b f }

/-! ### Control messages (R406, R407) -/

/-- A control message: TYPE, DEST, SRC, PLANE, the fields of word 0 [63:25], word 1. -/
def ctlWord (type dest src plane fields w1 : Nat) : BitVec 128 :=
  BitVec.ofNat 128 (type % 16 + dest % 1024 * 2 ^ 4 + src % 1024 * 2 ^ 14 + plane % 2 * 2 ^ 24
    + fields % 2 ^ 39 * 2 ^ 25 + w1 % 2 ^ 64 * 2 ^ 64)

def ctlType (m : BitVec 128) : Nat := (m.extractLsb' 0 4).toNat
def ctlDest (m : BitVec 128) : Nat := (m.extractLsb' 4 10).toNat
def ctlSrc (m : BitVec 128) : Nat := (m.extractLsb' 14 10).toNat
def ctlPlane (m : BitVec 128) : Plane := if m.getLsbD 24 then .y else .x
/-- Bits lo to lo + n − 1 of word 0 or, from 64 on, of word 1. -/
def ctlBits (m : BitVec 128) (lo n : Nat) : Nat := m.toNat / 2 ^ lo % 2 ^ n

/-- A message queued towards its first hop (R390, R406); one to this device stays here. -/
def State.queueCtl (s : State) (m : BitVec 128) : State :=
  match hopFrom s.hub.peer (ctlDest m) with
  | none => s
  | some (p, k) => s.modPlane p fun q => { q with ctl := tmod [] q.ctl k fun l => l ++ [m] }

/-- A message of this device. -/
def State.sendCtl (s : State) (type dest : Nat) (plane : Plane) (fields w1 : Nat) : State :=
  s.queueCtl (ctlWord type dest s.hub.peer (planeNum plane) fields w1)

/-! ### Receive windows -/

/-- A window's FUT resolves when its notices reach EXPECT, or it closes (R411, R420). -/
def State.closeWindow (s : State) (e : Nat) : State :=
  let w := s.window e
  let s := s.modWindow e fun w => { w with isOpen := false, wgen := w.wgen % 15 + 1 }
  if w.fut = 0 || s.futStale w.fut w.ctx || (s.fut (futIndex w.fut)).state != .empty then s
  else s.endFuture (futIndex w.fut) (.failed stREVOKED) 3

end Sys2Proof.Machine
end

