-- ==== Sys2Proof/Machine/AgentOps.lean ====
section
/-!
DEFINITION. Machine/AgentOps.lean: accesses of agents other than a core's queues: translation with its waits (R347, R359,
R374), bytes of memory with their poison (R21), and the local store as an engine sees it (R299, R303).
-/
namespace Sys2Proof.Machine

/-- Why an agent's access does not perform now. -/
inductive Stop where
  | wait
  | pantry (tower : Nat)
  | fail (status : Nat)
  deriving DecidableEq, Repr

/-- The walker of an access that no core issues: tower VA[18:16] (R359). -/
def agentTower (va : Nat) : Nat := bitsOf va 16 3

/-- An agent's access to n bytes: its translations, or why it stops. A page in LOGGED applies its log first (R374). -/
def State.agentXlat (s : State) (c : Nat) (wr : Bool) (t agent va n : Nat) : Except Stop (List Xlat) × State :=
  if va + n > 2 ^ 57 then (.error (.fail stNOTPRESENT), s)
  else
    match s.translateAll c wr t agent (pieces va n) with
    | (.error (.absent, _), s) => (.error (.fail stNOTPRESENT), s)
    | (.error (.readonly, _), s) => (.error (.fail stREADONLY), s)
    | (.error (.poison _, _), s) => (.error (.fail stPOISON), s)
    | (.error (.transit _, _), s) => (.error .wait, s)
    | (.error (.pantry k, _), s) => (.error (.pantry k), s)
    | (.error (.ok _, _), s) => (.error .wait, s)
    | (.ok xl, s) =>
      if xl.any fun x => s.logBlocked x.leaf then (.error .wait, xl.foldl (fun s x => s.force x.leaf) s) else (.ok xl, s)

/-- Bytes an agent reads through translations. -/
def State.readVia (s : State) (xl : List Xlat) (va n : Nat) : List Byte :=
  (sectorParts va n).flatMap fun p => s.read (physVia xl p.1) p.2
/-- Bytes an agent writes: whole sectors as such (R21). -/
def State.writeVia (s : State) (xl : List Xlat) (va : Nat) (bs : List Byte) : State :=
  (sectorParts va bs.length).foldl (fun s p => s.write (physVia xl p.1) ((bs.drop (p.1 - va)).take p.2)) s
/-- Physical sectors of a range. -/
def physSectors (xl : List Xlat) (va n : Nat) : List Nat := (sectorParts va n).map fun p => physVia xl p.1 / 32
/-- Virtual sectors of a range whose physical sector is poisoned. -/
def State.badSectors (s : State) (xl : List Xlat) (va n : Nat) : List Nat :=
  ((sectorParts va n).filter fun p => tget false s.poison (physVia xl p.1 / 32)).map fun p => p.1 / 32
/-- Sector reads of an engine raise the counters of COUNTED pages (R352). -/
def State.countVia (s : State) (xl : List Xlat) (c va n t : Nat) : State :=
  (sectorParts va n).foldl (fun s p =>
    match xl.find? fun x => x.vpage == p.1 / 65536 with
    | some x => s.countPage x.leaf c p.1 1 t
    | none => s) s

/-- The translation of a page that a read finds without effect: none when the page is absent, in transit or poisoned. -/
def State.peekXlat (s : State) (c va : Nat) : Option Xlat :=
  match s.walk c va with
  | .leaf a level e =>
    if inTransit (pteRes e) || pteRes e == resPOISONED || pteRes e == resZERO then none
    else some { vpage := va / 65536, base := s.physOf c level e (va / 65536 * 65536), leaf := a, size := level }
  | _ => none
/-- n bytes as a read would find them, if every page can be read. -/
def State.peekBytes (s : State) (c va n : Nat) : Option (List Byte) :=
  let xl := (pieces va n).map fun p => s.peekXlat c p.1
  if xl.all Option.isSome then some (s.readVia (xl.filterMap id) va n) else none

/-- The stack that is home to a physical address (R16). -/
def homeStack (pa : Nat) : Nat := pa / 65536 % 12

/-! ### The local store -/

/-- The 48 bytes of word i of a range. -/
def State.lsWord (s : State) (a : LsAddr) (p i : Nat) : BitVec 384 := tget 0 (s.pairAt p).data (a.key i)
def State.lsWordScale (s : State) (a : LsAddr) (p i : Nat) : BitVec 8 := tget 0 (s.pairAt p).scale (a.key i)
def State.putLsWord (s : State) (a : LsAddr) (p i : Nat) (v : BitVec 384) : State :=
  s.modPair p fun q => { q with data := tput 0 q.data (a.key i) v }
def State.putLsScale (s : State) (a : LsAddr) (p i : Nat) (v : BitVec 8) : State :=
  s.modPair p fun q => { q with scale := tput 0 q.scale (a.key i) v }

/-- n bytes of a range as a byte stream (R309). -/
def State.lsBytes (s : State) (a : LsAddr) (p n : Nat) : List Byte :=
  ((List.range ((n + 47) / 48)).flatMap fun i => leBytes (s.lsWord a p i).toNat 48).take n
/-- A byte stream written to a range: bytes beyond it in the last word keep their values (R309). -/
def State.putLsBytes (s : State) (a : LsAddr) (p : Nat) (bs : List Byte) : State :=
  (List.range ((bs.length + 47) / 48)).foldl (fun s i =>
    let w := (bs.drop (48 * i)).take 48
    let old := leBytes (s.lsWord a p i).toNat 48
    s.putLsWord a p i (BitVec.ofNat 384 (natOfBytes (w ++ old.drop w.length)))) s

/-- The scoreboard entry of a range of n words (R303). -/
def LsAddr.score (a : LsAddr) (op n : Nat) (writes : Bool) : SbEntry :=
  { op := op, group := a.group, banks := ((a.banks n).map fun b => 2 ^ (b % 8)).foldl (· + ·) 0, lo := a.word,
    hi := (lsPlace a.spread a.bank a.word (n - 1)).2, writes := writes }

/-- Two entries meet. -/
def SbEntry.meets (a b : SbEntry) : Bool :=
  a.group == b.group && (a.banks &&& b.banks) != 0 && decide (a.lo ≤ b.hi) && decide (b.lo ≤ a.hi)

end Sys2Proof.Machine
end

