-- ==== Sys2Proof/Machine/Engine.lean ====
section
/-!
DEFINITION. Machine/Engine.lean: the copy engine and the walkers (R308 to R312, R21, R310, R321): CPY, CHASE, GATH.
-/
namespace Sys2Proof.Machine

/-! ### Issue -/

/-- The local-store ranges of an engine instruction: address, pair, words, and whether it writes them (R303, R309). -/
def State.engRanges (s : State) (i : Instr) : List (LsAddr × Nat × Nat × Bool) :=
  let c := s.core
  let rng (isLs : Bool) (o : Opnd) (cvt : Bool) (n : Nat) (wr : Bool) : List (LsAddr × Nat × Nat × Bool) :=
    if isLs && decide (0 < n) then
      match s.lsOperand (c.src .b o) with
      | some (a, p) => [(a, p, s.copyWords cvt a p n, wr)]
      | none => []
    else []
  let v (o : Opnd) : Nat := (c.src .b o).toNat
  match i with
  | .cpy x => rng x.sls x.a x.cvt (v x.b) false ++ rng x.dls x.d x.cvt (v x.b) true
  | .chase x => rng x.dls x.d false (v x.b) true
  | .gath x =>
    rng x.sls x.b false (v x.n * (if x.isz then 8 else 4)) false
      ++ rng x.dls x.d false (v x.n * 32 * (x.gsz.toNat + 1)) true
  | .send x | .msend x => rng x.sls x.a false (v x.b) false
  | _ => []

/-- Free scoreboard entries suffice in every pair (R303). -/
def State.scoreRoom (s : State) (i : Instr) : Bool :=
  let rs := s.engRanges i
  rs.all fun r => decide (((s.pairAt r.2.1).sb.length + (rs.filter fun q => q.2.1 == r.2.1).length) ≤ 32)

/-- The entries of an operation put in the scoreboards of its ranges' pairs (R303). -/
def State.addScore (s : State) (op : Nat) (rs : List (LsAddr × Nat × Nat × Bool)) : State :=
  rs.foldl (fun s r => s.modPair r.2.1 fun q => { q with sb := q.sb ++ [r.1.score op r.2.2.1 r.2.2.2] }) s

/-- An engine instruction enters the load queue with its operands, its scoreboard entries, and what a converting copy
captures at issue (R303, R309, R319). -/
def State.issueEngine (s : State) (i : Instr) (vals : List Word) (desc : BitVec 32) : State :=
  let rs := s.engRanges i
  let cap (w : Bool) : BitVec 32 × List (BitVec 8) :=
    match rs.find? fun r => r.2.2.2 == w with
    | some (a, p, n, _) =>
      (tget 0 (s.pairAt p).tags (a.group * 8 + a.bank), (List.range n).map fun k => s.lsWordScale a p k)
    | none => (0, [])
  let k := s.seqNo
  let s := s.enqueue i true false 0 vals 0 desc .ready false []
  let s := s.setEntry s.cur k fun e =>
    { e with tagD := (cap true).1, scD := (cap true).2, tagS := (cap false).1, scS := (cap false).2 }
  s.addScore k rs

/-- CPY (R308, R309). -/
def execCpy (x : OpCpy) (s : State) : Res :=
  s.slotRun (.cpy x) fun s =>
    let v (o : Opnd) : Word := s.core.src .b o
    s.issueEngine (.cpy x) [v x.d, v x.a, v x.b, v x.c]
      (match x.fm with
        | .fd k => s.core.fdValue (k.val + 1)
        | _ => 0)

/-- CHASE (R308, R311). -/
def execChase (x : OpChase) (s : State) : Res :=
  s.slotRun (.chase x) fun s =>
    let v (o : Opnd) : Word := s.core.src .b o
    s.issueEngine (.chase x) [v x.d, v x.a, v x.b, v x.c] 0

/-- GATH (R308, R312). -/
def execGath (x : OpGath) (s : State) : Res :=
  s.slotRun (.gath x) fun s =>
    let v (o : Opnd) : Word := s.core.src .b o
    s.issueEngine (.gath x) [v x.d, v x.a, v x.b, v x.c, v x.n] 0

/-! ### From the load queue to completion -/

/-- The memory ranges an engine operation reads that are known when it leaves the load queue. -/
def engReads (i : Instr) (vals : List Word) (fmWidth : Nat) : List (Nat × Nat) :=
  let v (k : Nat) : Nat := (vals.getD k 0).toNat
  match i with
  | .cpy x => if x.sls then [] else [(v 1, if x.cvt then (v 2 * fmWidth + 7) / 8 else v 2)]
  | .chase _ => [(v 1, 32)]
  | .gath x => if x.sls then [] else [(v 2, v 4 * (if x.isz then 8 else 4))]
  | _ => []

/-- The memory-side format of a converting copy (R309). -/
def memFmt (x : OpCpy) (desc : BitVec 32) : Fmt := fmtOfTy (fun _ => desc) x.fm

/-- n bytes of a chase descriptor or of an index list as they stand now, when they can be read (R311, R312). -/
def State.engPeek (s : State) (c lin : Nat) (isLs : Bool) (w : Word) (n : Nat) : Option (List Byte) :=
  if isLs then
    (LsAddr.of w).map fun a => s.lsBytes a (if a.remote then towerOf lin * 72 + a.pair else pairOf lin) n
  else s.peekBytes c w.toNat n

/-- The address of sector j of a gather with an index list (R312). -/
def gathVa (x : OpGath) (base : Word) (list : List Byte) (j : Nat) : Nat :=
  let k := x.gsz.toNat + 1
  let iw := if x.isz then 8 else 4
  (base.toNat + (natOfBytes ((list.drop (iw * (j / k))).take iw) * k + j % k) * 32) % 2 ^ 64

/-- The records an engine operation reads through its index list or its chase descriptor, when that can be read: a gather's
sectors, the sector a chase starts at. -/
def State.engRecords (s : State) (c lin : Nat) (i : Instr) (vals : List Word) : List (Nat × Nat) :=
  let v (k : Nat) : Word := vals.getD k 0
  match i with
  | .chase _ =>
    match s.engPeek c lin false (v 1) 32 with
    | some bs => [(bitsOf (natOfBytes (bs.take 8)) 0 57, 32)]
    | none => []
  | .gath x =>
    match s.engPeek c lin x.sls (v 2) ((v 4).toNat * (if x.isz then 8 else 4)) with
    | some bs => (List.range ((v 4).toNat * (x.gsz.toNat + 1))).map fun j => (gathVa x (v 1) bs j, 32)
    | none => []
  | _ => []

/-- An engine operation leaves the load queue: a marker stands for it in the FIFO, and it pins the pages it can name (R321,
R353). -/
def State.launchEngine (s : State) (lin : Nat) (e : MqEntry) : State :=
  let c := s.ctxOf lin
  let i := (s.coreAt lin).task.getD 0
  let w := match e.instr with
    | .cpy x => (memFmt x e.desc).width
    | _ => 8
  let pages := ((engReads e.instr e.vals w ++ s.engRecords c lin e.instr e.vals).flatMap fun r =>
    (pieces r.1 r.2).map fun p => p.1 / 65536).eraseDups
  let pins := pages.filterMap fun k =>
    (s.peekXlat c (65536 * k)).bind fun x => if x.size = 0 && !(s.page x.leaf).cmd then some (x.leaf, 65536 * k) else none
  let s := pins.foldl (fun s p => s.pin p.1 c p.2) s
  let op : EngOp :=
    { id := e.seq, instr := e.instr, vals := e.vals, fpcr := e.fpcr, desc := e.desc, tagD := e.tagD, tagS := e.tagS, scD := e.scD,
      scS := e.scS, lin := lin, task := i, launch := (s.task i).launch, ctx := c, started := false,
      pins := pins.map fun p => p.1, pantry := none }
  let s := s.modPair (pairOf lin) fun p => { p with eng := p.eng ++ [op] }
  let s := s.modCore lin fun c => { c with fifo := c.fifo ++ [.marker e.seq] }
  (s.startEngines lin).dequeue lin e.seq

/-- The pair and operation of an engine number. -/
def State.engine (s : State) (id : Nat) : Option (Nat × EngOp) :=
  (tkeys s.pairs).findSome? fun p => ((s.pairAt p).eng.find? fun o => o.id == id).map fun o => (p, o)

/-- An operation leaves the engine: pins, scoreboard, future (R303, R309, R353). -/
def State.endEngine (s : State) (p : Nat) (o : EngOp) (rscope fut : Nat) (r : Fate) : State :=
  let s := o.pins.foldl State.unpin s
  let s := (s.dropScore o.id).modPair p fun q => { q with eng := q.eng.filter fun x => x.id != o.id }
  s.resolve fut o.ctx rscope 0 r

/-- The walker that serves a started chase: that of the stack home to its first record's frame (R16, R310). -/
def State.walkerOf (s : State) (o : EngOp) : Option Nat :=
  match o.instr with
  | .chase _ =>
    (s.engRecords o.ctx o.lin o.instr o.vals).head?.bind fun r => (s.peekXlat o.ctx r.1).map fun x => homeStack (x.base + r.1 % 65536)
  | _ => none
/-- A walker holds 4,096 chains: a chase waits while as many earlier ones are with its walker (R310). -/
def State.walkerRoom (s : State) (o : EngOp) : Bool :=
  match s.walkerOf o with
  | none => true
  | some w =>
    decide ((((tkeys s.pairs).flatMap fun p => (s.pairAt p).eng).filter fun x =>
      x.started && decide (x.id < o.id) && s.walkerOf x == some w).length < 4096)

/-- A synchronous access claims, in this cycle, a bank that the operation's ranges use (R275, R308). -/
def State.banksClaimed (s : State) (o : EngOp) : Bool :=
  (tkeys s.pairs).any fun p => ((s.pairAt p).sb.filter fun e => e.op == o.id).any fun e =>
    (coresOfPair p).any fun l => (s.coreAt l).claims.any fun q =>
      q.2 == s.cycle && q.1 / 8 == e.group && e.banks.testBit (q.1 % 8)

/-- An operation may go on: it has started, its walker holds it, its pantry is not empty, its banks are free, and no earlier
operation of its core has yet to write an overlapping local-store range (R310). -/
def State.engReady (s : State) (o : EngOp) : Bool :=
  o.started
    && (match o.pantry with
      | some t => (s.pantry t).frames != []
      | none => true)
    && s.walkerRoom o && !s.banksClaimed o
    && ((tkeys s.pairs).all fun p =>
      let sb := (s.pairAt p).sb
      (sb.filter fun e => e.op == o.id && e.writes).all fun e =>
        sb.all fun f => !(f.writes && decide (f.op < o.id) && e.meets f
          && (tkeys s.pairs).any fun q => (s.pairAt q).eng.any fun x => x.id == f.op && x.lin == o.lin))

/-- An operation waits: it records the pantry it waits for (R310, R359). -/
def State.engWait (s : State) (p : Nat) (o : EngOp) (t : Option Nat) : State :=
  s.modPair p fun q => { q with eng := q.eng.map fun x => if x.id = o.id then { x with pantry := t } else x }

/-- A stopped access of an engine: it waits, or its future fails. -/
def State.engStop (s : State) (p : Nat) (o : EngOp) (rscope fut : Nat) (st : Stop) : State :=
  match st with
  | .wait => s
  | .pantry t => s.engWait p o (some t)
  | .fail k => s.endEngine p o rscope fut (.failed k)

/-- Where an engine reads or writes n bytes: a local-store range, or translated memory. -/
inductive Side where
  | ls (a : LsAddr) (pair : Nat)
  | mem (xl : List Xlat) (va : Nat)
  deriving DecidableEq, Repr

/-- One side of an operation made ready (R309, R310). -/
def State.side (s : State) (o : EngOp) (isLs wr : Bool) (w : Word) (n : Nat) : Except Stop Side × State :=
  if isLs then
    match LsAddr.of w with
    | some a => (.ok (.ls a (if a.remote then towerOf o.lin * 72 + a.pair else pairOf o.lin)), s)
    | none => (.error (.fail stNOTPRESENT), s)
  else
    match s.agentXlat o.ctx wr (towerOf o.lin) 1 w.toNat n with
    | (.ok xl, s) => (.ok (.mem xl w.toNat), s)
    | (.error st, s) => (.error st, s)

def State.sideBytes (s : State) (d : Side) (n : Nat) : List Byte :=
  match d with
  | .ls a p => s.lsBytes a p n
  | .mem xl va => s.readVia xl va n
def State.putSide (s : State) (d : Side) (bs : List Byte) : State :=
  match d with
  | .ls a p => s.putLsBytes a p bs
  | .mem xl va => s.writeVia xl va bs

/-- Offsets of a byte stream that come from poisoned sectors (R21). -/
def State.badOffsets (s : State) (d : Side) (n : Nat) : List Nat :=
  match d with
  | .ls _ _ => []
  | .mem xl va =>
    let bad := s.badSectors xl va n
    if bad = [] then [] else (List.range n).filter fun k => bad.contains ((va + k) / 32)
/-- Destination sectors of poisoned offsets written poisoned (R21). -/
def State.poisonSide (s : State) (d : Side) (offs : List Nat) : State :=
  match d with
  | .ls _ _ => s
  | .mem xl va => s.poisonSectors (offs.map fun k => physVia xl (va + k) / 32).eraseDups
/-- The source sectors of a local-store fill are verified (R19). -/
def State.verifyFill (s : State) (src dst : Side) (n : Nat) (c : Nat) : State :=
  match src, dst with
  | .mem xl va, .ls _ _ => s.verify (physSectors xl va n).eraseDups 1 (some c)
  | _, _ => s
/-- A local-store fill of these sectors waits: they have been written whole in this cycle (R22). -/
def State.fillHeld (s : State) (src dst : Side) (n : Nat) : Bool :=
  match src, dst with
  | .mem xl va, .ls _ _ => s.freshSectors (physSectors xl va n)
  | _, _ => false
def State.countSide (s : State) (d : Side) (o : EngOp) (n : Nat) : State :=
  match d with
  | .ls _ _ => s
  | .mem xl va => s.countVia xl o.ctx va n (towerOf o.lin)

/-! ### CPY -/

/-- Element e of a converting copy's source (R309): code bits and the scale of its row. -/
def State.cvtFetch (s : State) (d : Side) (f : Fmt) (tag : BitVec 32) (scs : List (BitVec 8)) (bytes : Nat) (e : Nat) : Nat × Int :=
  match d with
  | .ls a p =>
    let k := lsCount f
    (((s.lsWord a p (e / k)).extractLsb' (f.width * (e % k)) f.width).toNat,
      if tagScaled tag then (scs.getD (e / k) 0).toInt else 0)
  | .mem _ _ => (bytes >>> (f.width * e) % 2 ^ f.width, 0)

/-- The tag's format, or the memory side's. -/
def sideFmt (isLs : Bool) (tag : BitVec 32) (m : Fmt) : Fmt := if isLs then (tagFmt tag).getD .raw else m

/-- A converting copy of n elements (R309): the flags it raises. -/
def State.cvtCopy (s : State) (o : EngOp) (x : OpCpy) (src dst : Side) (n : Nat) : FpFlags × State :=
  let m := memFmt x o.desc
  let fs := sideFmt x.sls o.tagS m
  let fd := sideFmt x.dls o.tagD m
  let env := FpEnv.ofFpcr o.fpcr
  let bytes := match src with
    | .mem xl va => natOfBytes (s.readVia xl va ((n * fs.width + 7) / 8))
    | .ls _ _ => 0
  let conv (e : Nat) : Nat × FpFlags :=
    let q := s.cvtFetch src fs o.tagS o.scS bytes e
    let sc := match dst with
      | .ls _ _ => if tagScaled o.tagD then (o.scD.getD (e / lsCount fd) 0).toInt else 0
      | .mem _ _ => 0
    let r := convertElem fs fd env.noDaz false q.2 sc q.1
    (r.1, r.2.1)
  let es := (List.range n).map conv
  let fl := orFlags (es.map fun r => r.2)
  let codes := es.map fun r => r.1
  let w := fd.width
  match dst with
  | .ls a p =>
    let k := lsCount fd
    (fl, (List.range ((n + k - 1) / k)).foldl (fun s i =>
      let here := (codes.drop (k * i)).take k
      let keep := (s.lsWord a p i).extractLsb' (w * here.length) (w * (k - here.length))
      s.putLsWord a p i (BitVec.ofNat 384 (packList w here + keep.toNat * 2 ^ (w * here.length)))) s)
  | .mem xl va =>
    let len := (n * w + 7) / 8
    let old := natOfBytes (s.readVia xl va len)
    let v := packList w codes + (old >>> (n * w)) * 2 ^ (n * w)
    (fl, s.writeVia xl va (leBytes v len))

/-- CPY_COMPLETE (R309). -/
def execCpyComplete (id : Nat) (s : State) : Res :=
  match s.engine id with
  | none => .next s
  | some (p, o) =>
    match o.instr with
    | .cpy x =>
      if !s.engReady o then .next s
      else
        let v (k : Nat) : Word := o.vals.getD k 0
        let n := (v 2).toNat
        let rs := (encScope x.scope).toNat
        let fut := (v 3).toNat
        let m := memFmt x o.desc
        let bytesOf (f : Fmt) : Nat := if x.cvt then (n * f.width + 7) / 8 else n
        let out := bytesOf (sideFmt x.dls o.tagD m)
        if n = 0 then .next (s.endEngine p o rs fut (.set 0))
        else
          match s.side o x.sls false (v 1) (bytesOf m) with
          | (.error st, s) => .next (s.engStop p o rs fut st)
          | (.ok src, s) =>
            match s.side o x.dls true (v 0) (bytesOf m) with
            | (.error st, s) => .next (s.engStop p o rs fut st)
            | (.ok dst, s) =>
              if s.fillHeld src dst (bytesOf m) then .next s
              else
              let s := (s.verifyFill src dst (bytesOf m) o.ctx).countSide src o (bytesOf m)
              let bad := s.badOffsets src (bytesOf m)
              let r : FpFlags × State :=
                if x.cvt then s.cvtCopy o x src dst n
                else
                  -- whole words between local-store ranges carry their scale words
                  let scales := match src with
                    | .ls a q => (List.range (n / 48)).map fun i => (s.lsWordScale a q i, i)
                    | .mem _ _ => []
                  let s := s.putSide dst (s.sideBytes src n)
                  match dst with
                  | .ls b t => ({}, scales.foldl (fun s w => s.putLsScale b t w.2 w.1) s)
                  | .mem _ _ => ({}, s)
              let s := r.2.poisonSide dst (bad.map fun k => if x.cvt then k * 8 / m.width * (sideFmt x.dls o.tagD m).width / 8 else k)
              .next (s.endEngine p o rs fut
                (if bad = [] then .set (BitVec.ofNat 64 (out + r.1.toBits.toNat * 2 ^ 48)) else .failed stPOISON))
    | _ => .next s

/-! ### CHASE -/

/-- Where a chase stands (R311): the pointer p, the record before it, records visited, bytes to deliver at the destination's start
or, under LASTONLY, the last record's sector. -/
structure Chase where
  p : Nat
  prev : Nat
  h : Nat
  out : List Byte
  last : List Byte
  /-- The stack whose walker has the chain (R16, R310). -/
  stack : Nat
  deriving DecidableEq, Repr

/-- What stops a chase before its end: a wait, a failure, a poisoned record with the bytes of the sector to deliver (R21, R311). -/
inductive ChaseStop where
  | stop (st : Stop)
  | poison (bytes : List Byte)
  deriving DecidableEq, Repr

/-- The chain followed for at most `fuel` records: how it ended (R311). `fill` says that sectors go to a local store. -/
def State.chaseLoop (s : State) (o : EngOp) (nextoff psec cap stop : Nat) (lastOnly fill : Bool) :
    Nat → Chase → Except (ChaseStop × Chase) Chase × State
  | fuel, c =>
    if c.p % 32 != 0 then (.error (.stop (.fail stNOTPRESENT), c), s)
    else
      match fuel with
      | 0 => (.ok c, s)
      | fuel + 1 =>
        if c.p = stop || decide (c.out.length + 32 > cap) then (.ok c, s)
        else
          let t := towerOf o.lin
          let a := (c.p + nextoff) / 32 * 32
          let b := c.p + 32 * psec
          match s.agentXlat o.ctx false t 1 a 32 with
          | (.error st, s) => (.error (.stop st, c), s)
          | (.ok xa, s) =>
            match s.agentXlat o.ctx false t 1 b 32 with
            | (.error st, s) => (.error (.stop st, c), s)
            | (.ok xb, s) =>
              let c := { c with stack := ((s.peekXlat o.ctx c.p).elim c.stack fun x => homeStack (x.base + c.p % 65536)) }
              if fill && s.freshSectors (physSectors xb b 32) then (.error (.stop .wait, c), s)
              else
                let s := if fill then s.verify (physSectors xb b 32) 1 (some o.ctx) else s
                let sec := s.readVia xb b 32
                if s.badSectors xa a 32 != [] || s.badSectors xb b 32 != [] then (.error (.poison sec, c), s)
                else
                  let s := (s.countVia xa o.ctx a 32 t).countVia xb o.ctx b 32 t
                  let q := natOfBytes ((s.readVia xa a 32).drop ((c.p + nextoff) % 32) |>.take 8)
                  s.chaseLoop o nextoff psec cap stop lastOnly fill fuel
                    { c with p := q, prev := c.p, h := c.h + 1, out := if lastOnly then c.out else c.out ++ sec, last := sec }

/-- Bytes delivered at the start of an engine's destination, the sector at offset `bad` poisoned; with none, nothing is accessed
(R21, R311). -/
def State.deliverSide (s : State) (o : EngOp) (isLs : Bool) (w : Word) (bs : List Byte) (bad : Option Nat) : Except Stop Unit × State :=
  if bs = [] then (.ok (), s)
  else
    match s.side o isLs true w bs.length with
    | (.error st, s) => (.error st, s)
    | (.ok dst, s) => (.ok (), (s.putSide dst bs).poisonSide dst bad.toList)

/-- CHASE_COMPLETE (R311). -/
def execChaseComplete (id : Nat) (s : State) : Res :=
  match s.engine id with
  | none => .next s
  | some (p, o) =>
    match o.instr with
    | .chase x =>
      if !s.engReady o then .next s
      else
        let v (k : Nat) : Word := o.vals.getD k 0
        let rs := (encScope x.scope).toNat
        let fut := (v 3).toNat
        let d := (v 1).toNat
        let cap := (v 2).toNat
        match s.agentXlat o.ctx true (towerOf o.lin) 1 d 32 with
        | (.error st, s) => .next (s.engStop p o rs fut st)
        | (.ok xd, s) =>
          if s.badSectors xd d 32 != [] then .next (s.endEngine p o rs fut (.failed stPOISON))
          else
            let s := s.countVia xd o.ctx d 32 (towerOf o.lin)
            let w (k : Nat) : Nat := natOfBytes ((s.readVia xd d 32).drop (8 * k) |>.take 8)
            let start := bitsOf (w 0) 0 57
            let nextoff := bitsOf (w 1) 0 12
            let rsec := bitsOf (w 1) 12 4
            let psec := bitsOf (w 1) 16 3
            let lastOnly := bitsOf (w 1) 19 1 == 1
            let hops := bitsOf (w 1) 32 32
            -- the destination receives bytes, LAST the pointer, and the future its resolution
            let fin (s : State) (bs : List Byte) (bad : Option Nat) (lastPtr : Nat) (r : Fate) : State :=
              match s.deliverSide o x.dls (v 0) bs bad with
              | (.ok _, s) => (s.writeVia xd (d + 24) (leBytes lastPtr 8)).endEngine p o rs fut r
              | (.error (.fail k), s) => (s.writeVia xd (d + 24) (leBytes lastPtr 8)).endEngine p o rs fut (.failed k)
              | (.error st, s) => s.engStop p o rs fut st
            if bitsOf (w 1) 20 12 != 0 || decide (nextoff ≥ 32 * rsec) || nextoff % 8 != 0 || decide (rsec < 1) || decide (rsec > 8)
                || decide (psec ≥ rsec) || hops = 0 then
              .next (fin s [] none start (.failed stNOTPRESENT))
            else
              match s.chaseLoop o nextoff psec cap (w 2) lastOnly x.dls hops
                  { p := start, prev := start, h := 0, out := [], last := [], stack := (s.walkerOf o).getD 0 } with
              | (.error (.stop (.fail k), c), s) => .next (fin s c.out none c.p (.failed k))
              | (.error (.stop st, _), s) => .next (s.engStop p o rs fut st)
              | (.error (.poison sec, c), s) => .next (fin s (c.out ++ sec) (some c.out.length) c.p (.failed stPOISON))
              | (.ok c, s) =>
                .next (fin s (if lastOnly then c.last else c.out) none c.p
                  (.set (BitVec.ofNat 64 (c.h + (if c.p = w 2 then 2 ^ 32 else 0)))))
    | _ => .next s

/-! ### GATH -/

/-- One sector of an item, read by the walker of its stack (R310): its bytes, and the status of its failure (R312). A sector on its way
to a local store is verified first (R19). -/
def State.gathSector (s : State) (o : EngOp) (fill : Bool) (va : Nat) : Except Stop (List Byte × Option Nat) × State :=
  match s.agentXlat o.ctx false (towerOf o.lin) 1 va 32 with
  | (.ok xl, s) =>
    if fill && s.freshSectors (physSectors xl va 32) then (.error .wait, s)
    else
      let s := if fill then s.verify (physSectors xl va 32) 1 (some o.ctx) else s
      let s := s.countVia xl o.ctx va 32 (towerOf o.lin)
      (.ok (s.readVia xl va 32, if s.badSectors xl va 32 != [] then some stPOISON else none), s)
  | (.error (.fail k), s) => (.ok (List.replicate 32 0, some k), s)
  | (.error st, s) => (.error st, s)

/-- The sectors of a gather in order. -/
def State.gathAll (s : State) (o : EngOp) (fill : Bool) : List Nat → Except Stop (List (List Byte × Option Nat)) × State
  | [] => (.ok [], s)
  | va :: rest =>
    match s.gathSector o fill va with
    | (.error st, s) => (.error st, s)
    | (.ok r, s) =>
      match s.gathAll o fill rest with
      | (.error st, s) => (.error st, s)
      | (.ok rs, s) => (.ok (r :: rs), s)

/-- GATH_COMPLETE (R312). -/
def execGathComplete (id : Nat) (s : State) : Res :=
  match s.engine id with
  | none => .next s
  | some (p, o) =>
    match o.instr with
    | .gath x =>
      if !s.engReady o then .next s
      else
        let v (k : Nat) : Word := o.vals.getD k 0
        let rs := (encScope x.scope).toNat
        let fut := (v 3).toNat
        let n := (v 4).toNat
        let k := x.gsz.toNat + 1
        let iw := if x.isz then 8 else 4
        match s.side o x.sls false (v 2) (n * iw) with
        | (.error st, s) => .next (s.engStop p o rs fut st)
        | (.ok list, s) =>
          if s.badOffsets list (n * iw) != [] then .next (s.endEngine p o rs fut (.failed stPOISON))
          else
            let s := s.countSide list o (n * iw)
            let vas := (List.range (n * k)).map (gathVa x (v 1) (s.sideBytes list (n * iw)))
            match s.side o x.dls true (v 0) (n * k * 32) with
            | (.error st, s) => .next (s.engStop p o rs fut st)
            | (.ok dst, s) =>
              match s.gathAll o x.dls vas with
              | (.error st, s) => .next (s.engStop p o rs fut st)
              | (.ok secs, s) =>
                let s := s.putSide dst (secs.flatMap fun q => q.1)
                let bad := ((secs.zip (List.range (n * k))).filter fun q => q.1.2.isSome).map fun q => 32 * q.2
                let s := s.poisonSide dst bad
                .next (s.endEngine p o rs fut
                  (match secs.findSome? fun q => q.2 with
                    | some st => .failed (if st = stPOISON then stPOISON else stNOTPRESENT)
                    | none => .set (BitVec.ofNat 64 (n * k * 32))))
    | _ => .next s

end Sys2Proof.Machine
end

