-- ==== Sys2Proof/Machine/Hyper.lean ====
section
/-!
DEFINITION. Machine/Hyper.lean: the hypervector unit (R279 to R297).
-/
namespace Sys2Proof.Machine

/-- A hypervector result: its register, and qt (R283, R36). -/
def State.hvResult (s : State) (i : Instr) (d : Opnd) (h : HyperVec) : State :=
  s.result i .b [d]
    (match d with
      | .hv n => [.hv n.val h]
      | _ => [])
    (.wide (hvToVec h) (BitVec.allOnes 32768)) {} {}

/-- A function of hypervectors A and B (R284). -/
def State.hvOp (s : State) (i : Instr) (x : OpA) (f : HyperVec → HyperVec → HyperVec) : Res :=
  s.slotRun i fun s => s.hvResult i x.d (f (s.core.hsrc x.a) (s.core.hsrc x.b))

/-- HXOR (R284). -/
def execHxor (x : OpA) (s : State) : Res := s.hvOp (.hxor x) x fun a b => a ^^^ b

/-- HLOG (R284). -/
def execHlog (x : OpA) (s : State) : Res := s.hvOp (.hlog x) x fun a b => hvLog x.sub.toNat a b

/-- HROT (R284). -/
def execHrot (x : OpA) (s : State) : Res :=
  s.slotRun (.hrot x) fun s => s.hvResult (.hrot x) x.d (hvRot (s.core.hsrc x.a) (s.core.src .b x.b))

/-- HMAJ (R287): the visible counters. -/
def execHmaj (x : OpA) (s : State) : Res :=
  s.slotRun (.hmaj x) fun s => s.hvResult (.hmaj x) x.d (hvMaj (s.core.csrc x.a) (s.core.hsrc x.b))

/-- In(A) of HBUND (R286): the latest HBUND or HCCLR in flight into the register, or the register. -/
def Core.bundIn (c : Core) (o : Opnd) : CntReg :=
  match o with
  | .hc n =>
    (c.pend.foldl (fun best p =>
      if p.chain then
        p.writes.foldl (fun best w =>
          match w with
          | .hc m v => if m = n.val then some v else best
          | _ => best) best
      else best) none).getD (c.csrc o)
  | _ => 0

/-- A counter result: qt keeps its contents (R283). -/
def State.cntResult (s : State) (i : Instr) (d : Opnd) (f : Nat → RegWrite) (n : Nat) : State :=
  s.result i .b [d]
    (match d with
      | .hc k => [f k.val]
      | _ => []) .none {} { nsat := n }

/-- HBUND (R285). -/
def execHbund (x : OpA) (s : State) : Res :=
  s.slotRun (.hbund x) fun s =>
    let r := hvBund (x.md.extractLsb' 0 4).toNat (x.md.getLsbD 4) (s.core.bundIn x.a) (s.core.hsrc x.b)
    s.cntResult (.hbund x) x.d (fun k => .hc k r.1) r.2

/-- HCCLR (R287). -/
def execHcclr (x : OpA) (s : State) : Res :=
  s.slotRun (.hcclr x) fun s => s.cntResult (.hcclr x) x.d (fun k => .hc k 0) 0

/-- HTIE (R288): qt keeps its contents (R283). -/
def execHtie (x : OpA) (s : State) : Res :=
  s.slotRun (.htie x) fun s => s.result (.htie x) .b [x.d] [.ht (hvTie (s.core.src .b x.a))] .none {} {}

/-- HDIST (R289). -/
def execHdist (x : OpA) (s : State) : Res :=
  s.slotRun (.hdist x) fun s =>
    s.scalarResult (.hdist x) .b x.d (BitVec.ofNat 64 (hvDist (s.core.hsrc x.a) (s.core.hsrc x.b))) {} {}

/-- HLD (R290). -/
def execHld (x : OpL) (s : State) : Res :=
  s.slotRun (.hld x) fun s =>
    let rows := (s.core.lsRows (.hld x)).map s.lsRow
    s.hvResult (.hld x) x.v (hvOfRows fun r => (rows.getD r MatRow.zero).data)

/-- HST (R290). -/
def execHst (x : OpL) (s : State) : Res :=
  s.slotRun (.hst x) fun s =>
    let h := s.core.hsrc x.v
    ((s.core.lsRows (.hst x)).zip (List.range 16)).foldl
      (fun s p => s.lsPut
        { key := p.1.1 * 2048 + p.1.2.1, clock := s.cycle + p.1.2.2, val := hvRow h p.2, mask := BitVec.allOnes 384,
          scale := none }) s

/-- HMOVV (R291): SUB 0 from a vector, 1 to a vector, 2 and 3 half a counter register to and from a vector. -/
def execHmovv (x : OpA) (s : State) : Res :=
  s.slotRun (.hmovv x) fun s =>
    let half := (x.md.extractLsb' 0 1).toNat
    if x.sub = 0 then s.hvResult (.hmovv x) x.d (hvOfVec (s.core.vraw .b x.a))
    else if x.sub = 1 then s.vectorResult (.hmovv x) .b x.d (vecPlain 0 (hvToVec (s.core.hsrc x.a)))
    else if x.sub = 2 then s.vectorResult (.hmovv x) .b x.d (vecPlain 0 (ctrToVec (s.core.csrc x.a) half))
    else s.cntResult (.hmovv x) x.d (fun k => .hcHalf k half (ctrOfVec 0 (s.core.vraw .b x.a) half)) 0

/-- HNEAR (R292): the search enters the load queue with the query it read; its result is interlocked (R42). -/
def execHnear (x : OpA) (s : State) : Res :=
  s.slotRun (.hnear x) fun s =>
    let c := s.core
    let (k, s) := s.nextSeq
    let dests := match x.d with
      | .sreg n => if h : n.val + 1 < 64 then [x.d, .sreg ⟨n.val + 1, h⟩] else [x.d]
      | d => [d]
    let e : MqEntry :=
      { seq := k, bseq := c.bundle.2, baddr := c.bundle.1, slot := 7, instr := .hnear x, inLoad := true, inStore := false,
        ea := (c.src .b x.b).toNat, vals := [c.src .b x.b, c.src .b x.c], vec := hvToVec (c.hsrc x.a), fpcr := c.fpcr,
        desc := 0, tagD := 0, tagS := 0, scD := [], scS := [], st := .walk, xl := [], inSet := [] }
    (s.awaitResult 7 .b dests k).onCore fun c => { c with mq := c.mq ++ [e] }

end Sys2Proof.Machine
end

