-- ==== Sys2Proof/Machine/PendingLog.lean ====
section
/-!
DEFINITION. Machine/PendingLog.lean: the pending-operation log (R365 to R377): LOG_APPEND, LOG_APPLY_COMPLETE, LOGAPPLY.
-/
namespace Sys2Proof.Machine

/-- Bits of an atomic's access (R337). -/
def MqEntry.amoBits (e : MqEntry) : Nat := 8 * e.len
/-- The FD code of an atomic. -/
def MqEntry.amoFd (e : MqEntry) : Nat := (opmOf e.instr).elim 0 fun x => x.fd.toNat

/-- The new value of an atomic on the old value m, if it writes one (R337, R338). -/
def MqEntry.amoNew (e : MqEntry) (m : Nat) : Option Nat :=
  let n := e.amoBits
  match e.instr with
  | .acas _ => if m = (e.vals.getD 0 0).toNat % 2 ^ n then some ((e.vals.getD 1 0).toNat % 2 ^ n) else none
  | _ => some (amoOp e.amoFd n m (e.vals.getD 0 0).toNat)

/-- An AMON performs at its home slice (R326): no earlier check of the sector stands in its way (R21). -/
def State.amonAtSlice (s : State) (lin : Nat) (e : MqEntry) : State :=
  let pa := physVia e.xl e.ea
  let s := s.maybeCount (e.xl.head?.elim 0 fun x => x.leaf) (s.ctxOf lin) e.ea (towerOf lin)
  let m := natOfBytes (s.read pa e.len)
  let s := match e.amoNew m with
    | some v => s.write pa (leBytes v e.len)
    | none => s
  s.dequeue lin e.seq

/-- A CHMOD that clears LOG waits for the page's log to be applied: the appends held meanwhile then perform at the slice (R376). -/
def State.clearsLog (s : State) (a : Nat) : Bool :=
  (s.page a).cmd && s.hub.pwCmd.any fun q => q.op == 3 && !pteLog q.entry

/-- The page takes no append now: one that arrives is held (R376). -/
def State.holdsAppends (s : State) (a : Nat) : Bool := pteLog (s.pteOf a) && (inTransit (pteRes (s.pteOf a)) || s.clearsLog a)

/-- The AMONs of which the controller of a page takes the next (R370, R375, R376): the append that overflowed the log, else the one
held longest, else any that now reaches it. While appends are held only new ones arrive. -/
def State.atController (s : State) (page : Nat) : List (Nat × MqEntry) :=
  let new := s.amonsAt page fun st => st == .slice
  if s.holdsAppends page then new
  else
    match s.amonsAt page fun st => st == .overflow with
    | q :: _ => [q]
    | [] =>
      let place (q : Nat × MqEntry) : Nat := match q.2.st with
        | .held n => n
        | _ => 0
      match sortBy (fun p q => decide (place p ≤ place q)) (s.amonsAt page MqState.queued) with
      | q :: _ => [q]
      | [] => new

/-- LOG_APPEND (R365, R369, R375, R376): the controller takes one of the AMONs that have reached it. -/
def execLogAppend (page : Nat) (s : State) : Res :=
  let es := s.atController page
  let (k, s) := s.draw (es.length + (if es = [] then 1 else 0))
  match es[k]? with
  | none => .next s
  | some (l, e) =>
    let c := s.ctxOf l
    let pte := s.pteOf page
    let r := pteRes pte
    if s.holdsAppends page then
      let (n, s) := s.nextSeq
      .next (s.setEntry l e.seq fun e => { e with st := .held n })
    else if pteLog pte && pteSize pte = 0 && (r = resCELLAR || r = resLOGGED)
        && s.setsTouching c e.ea e.len (fun a => a.state == .declared || a.state == .held || a.state == .dropping) = [] then
      let n := e.amoBits
      let v : Word := if n = 64 then e.vals.getD 0 0 else BitVec.ofNat 64 ((e.vals.getD 0 0).toNat % 2 ^ 32)
      match s.appendLog page c e.ea e.amoFd (n == 64) v with
      | (.taken, s) => .next (s.dequeue l e.seq)
      | (.overflow, s) => .next ((s.startApply page false).setEntry l e.seq fun e => { e with st := .overflow })
      | (.refused, s) => .next (s.amonAtSlice l e)
    else .next (s.amonAtSlice l e)

/-- LOG_APPLY_COMPLETE (R373). -/
def execLogApplyComplete (page : Nat) (s : State) : Res := .next (s.applyDone page)

/-- LOGAPPLY enters the store queue (R377). -/
def execLogapply (x : OpA) (s : State) : Res :=
  s.slotRun (.logapply x) fun s =>
    s.enqueue (.logapply x) false true 0 [s.core.src x.cl x.a, s.core.src x.cl x.c] 0 0 .ready false []

/-- LOGAPPLY at the controller (R377). -/
def State.performLogapply (s : State) (lin : Nat) (e : MqEntry) : State :=
  let c := s.ctxOf lin
  let h := (e.vals.getD 1 0).toNat % 2 ^ 32
  let done (s : State) : State := s.dequeue lin e.seq
  match s.walk c ((e.vals.getD 0 0).toNat % 2 ^ 57) with
  | .leaf a _ pte =>
    let r := pteRes pte
    let attach (s : State) : State := s.modPage a fun p =>
      { p with app := p.app.map fun q => (q.1, q.2.1, if h = 0 then q.2.2 else q.2.2 ++ [h]) }
    if r = resLOGGED then done (attach (s.startApply a false))
    else if r = resAPPLYING then done (attach s)
    else if r = resPROMOTING then
      done (if h = 0 then s else s.modPage a fun p => { p with logFuts := p.logFuts ++ [h] })
    else if r = resPOISONED then done (s.resolve h c 3 0 (.failed stPOISON))
    else done (s.resolve h c 3 0 (.set 0))
  | .format => done ((s.ctxFault c 2).resolve h c 3 0 (.set 0))
  | .poison => done ((s.ctxFault c 1).resolve h c 3 0 (.set 0))
  | .absent => done (s.resolve h c 3 0 (.set 0))

end Sys2Proof.Machine
end

