-- ==== Sys2Proof/Machine/Page.lean ====
section
/-!
DEFINITION. Machine/Page.lean: the page (R342 to R364): MIGR, PGSTAT, the page-window commands, migration steps, the pantry,
poison.
-/
namespace Sys2Proof.Machine

/-! ### MIGR and PGSTAT -/

/-- MIGR goes to the controller and enters no queue (R362). -/
def execMigr (x : OpA) (s : State) : Res :=
  s.slotRun (.migr x) fun s =>
    let c := s.core
    s.enqueue (.migr x) false false 0 [c.src x.cl x.a, c.src x.cl x.b, c.src x.cl x.c] 0 0 .slice false []

/-- MIGR at the controller (R362). -/
def State.performMigr (s : State) (lin : Nat) (e : MqEntry) (down : Bool) : State :=
  let c := s.ctxOf lin
  let va := (e.vals.getD 0 0).toNat / 2 ^ 16 * 2 ^ 16 % 2 ^ 57
  let b := (e.vals.getD 1 0).toNat
  let h := (e.vals.getD 2 0).toNat % 2 ^ 32
  let s := s.dequeue lin e.seq
  let t := bitsOf b 0 4
  let tower := if t = 8 then (match (s.coreAt lin).task with
    | some i => (s.task i).tower
    | none => towerOf lin) else t
  let fail (s : State) (st : Nat) : State := s.resolve h c 3 0 (.failed st)
  match s.walk c va with
  | .leaf a _ pte =>
    let r := pteRes pte
    if r = resZERO || r = resLARDER then fail s stNOTMOVABLE
    else if r = resPOISONED then fail s stPOISON
    else if ptePol pte = 2 || pteSize pte != 0 then fail s stPINNED
    else s.requestMig a c va (if down then 8 else tower) (bitsOf b 16 48) h 0
  | .format => fail (s.ctxFault c 2) stNOTMOVABLE
  | .poison => fail (s.ctxFault c 1) stNOTMOVABLE
  | .absent => fail s stNOTMOVABLE

/-- PGSTAT enters the load queue (R363). -/
def execPgstat (x : OpA) (s : State) : Res :=
  s.slotRun (.pgstat x) fun s =>
    s.enqueue (.pgstat x) true false 0 [s.core.src x.cl x.a] 0 0 .ready true [x.d]

/-- A walk that meets a malformed or a poisoned table faults its context (R344). -/
def State.walkFault (s : State) (c va : Nat) : State :=
  match s.walk c va with
  | .format => s.ctxFault c 2
  | .poison => s.ctxFault c 1
  | _ => s

/-- The word PGSTAT reads (R363). -/
def State.pgstatWord (s : State) (c va : Nat) : Word :=
  match s.walk c va with
  | .leaf a _ e =>
    let p := s.page a
    let r := pteRes e
    let tower := if r = resATTIC || r = resPROMOTING || r = resDEMOTING then p.tower.getD 0 else 0
    BitVec.ofNat 64
      (r + pteSize e * 2 ^ 4 + ptePol e * 2 ^ 6 + (if pteLog e then 2 ^ 8 else 0) + (if pteW e then 2 ^ 9 else 0)
        + tower * 2 ^ 10 + (if p.pins = 0 then 0 else 2 ^ 13) + p.count.toNat * 2 ^ 16 + p.log.length * 2 ^ 32)
  | _ => 0

def State.performPgstat (s : State) (lin : Nat) (e : MqEntry) (d : Opnd) : State :=
  let va := (e.vals.getD 0 0).toNat % 2 ^ 57
  (s.walkFault (s.ctxOf lin) va).deliverWord lin e d (s.pgstatWord (s.ctxOf lin) va)

/-! ### The page window (R350, R446) -/

/-- The command in progress ends with a status: 0 OK, 2 BADSTATE, 3 FULL (R446). -/
def State.pageDone (s : State) (status : Nat) : State := s.modHub fun h => { h with pwStatus := status, pwCmd := none }

/-- How a command's walk ends (R344, R350): at the entry, at one above it that is no table entry, at a malformed or a poisoned one. -/
inductive EntryWalk where
  | at_ (a : Nat)
  | stop
  | format
  | poison
  deriving DecidableEq, Repr

/-- The walk of a command to the entry at a level, from a table of a level (R344, R350). -/
def State.entryFrom (s : State) (va target : Nat) : Nat → Nat → EntryWalk
  | level, table =>
    let a := table + 8 * levelIndex level va
    if s.poisoned a 8 then .poison
    else
      let e := s.readWord a
      if pteRes e = 15 then
        if !tableOk level e then .format
        else if level = target then .at_ a
        else
          match level with
          | 0 => .stop
          | l + 1 => s.entryFrom va target l (pteTable e)
      else if pteRes e = resABSENT then
        if ptePol e = 3 || pteSize e = 3 then .format else if level = target then .at_ a else .stop
      else if !leafOk level e then .format
      else if level = target then .at_ a
      else .stop
/-- The entry a command names, or BADSTATE, with the fault of the context when the walk meets a bad table (R344, R350). -/
def State.entryAt (s : State) (c va target : Nat) : Option Nat × State :=
  if (s.ctx c).ptroot = 0 || decide (target > 3) then (none, s)
  else
    match s.entryFrom va target 3 ((s.ctx c).ptroot * 4096) with
    | .at_ a => (some a, s)
    | .stop => (none, s)
    | .format => (none, s.ctxFault c 2)
    | .poison => (none, s.ctxFault c 1)

/-- VA, ENTRY and LEVEL of the command in progress. -/
def State.pwVa (s : State) : Nat := s.hub.pwCmd.elim 0 fun q => q.va
def State.pwEntry (s : State) : Nat := s.hub.pwCmd.elim 0 fun q => q.entry
def State.pwLevel (s : State) : Nat := s.hub.pwCmd.elim 0 fun q => q.level

/-- A page command of operation `op` for a context is in progress (R446). -/
def State.pageCmd (s : State) (op c : Nat) : Bool :=
  match s.hub.pwCmd with
  | some q => q.op == op && q.ctx == c && s.hub.pwStatus == 1
  | none => false

/-- An entry a MAP may write at a level (R343, R344, R350). -/
def mapOk (level e : Nat) : Bool :=
  if pteRes e = 15 then tableOk level e
  else (pteRes e = resZERO && bitsOf e 16 41 == 0 || pteRes e = resCELLAR || pteRes e = resLARDER) && leafOk level e

/-- MAP (R350): waiters with WKIND 5 become READY when a leaf appears (R348). -/
def execMap (c : Nat) (s : State) : Res :=
  if s.pageCmd 1 c then
    match s.entryAt c s.pwVa s.pwLevel with
    | (none, s) => .next (s.pageDone 2)
    | (some a, s) =>
      if pteRes (s.readWord a) != resABSENT || !mapOk s.pwLevel s.pwEntry then .next (s.pageDone 2)
      else
        let s := s.setPte a s.pwEntry
        .next ((if pteRes s.pwEntry = 15 then s else s.pageArrived a c s.pwVa (pageBytes s.pwLevel)).pageDone 0)
  else .next s

/-- The leaf the window names, if it is one (R350). -/
def State.leafAt (s : State) (c : Nat) : Option (Nat × Nat) × State :=
  match s.entryAt c s.pwVa s.pwLevel with
  | (none, s) => (none, s)
  | (some a, s) =>
    let e := s.readWord a
    (if pteRes e != 15 && pteRes e != resABSENT then some (a, e) else none, s)

/-- Accesses translated through a leaf of context c that have not performed yet, non-temporal stores among them (R349). -/
def State.leafBusy (s : State) (a c : Nat) : Bool :=
  let e := s.pteOf a
  let base := s.physOf c 0 e 0
  s.coreList.any fun l =>
    ((s.coreAt l).mq.any fun e => e.st != .walk && e.xl.any fun x => x.leaf == a)
      || (s.coreAt l).nt.any fun n => n.bytes.any fun b => decide (base ≤ b.1) && decide (b.1 < base + leafBytes e)

/-- UNMAP (R348, R349, R376): it waits for pins, a migration, an application, held appends and accesses already translated. -/
def execUnmap (c : Nat) (s : State) : Res :=
  if s.pageCmd 2 c then
    match s.leafAt c with
    | (none, s) => .next (s.pageDone 2)
    | (some (a, e), s) =>
      let p := s.page a
      let wait (s : State) : State := s.modPageOf a c s.pwVa fun p => { p with cmd := true }
      if inTransit (pteRes e) || p.pins != 0 || p.mig.isSome || p.app.isSome || s.amonsAt a MqState.queued != []
          || s.leafBusy a c then .next (wait s)
      else if pteRes e = resLOGGED then .next ((wait s).startApply a false)
      else
        let s := p.waiting.foldl (fun s m => s.failMig a m stNOTMOVABLE) s
        .next (((s.modPage a fun _ => {}).setPte a (setBits (setBits e 0 4 resABSENT) 16 41 0)).pageDone 0)
  else .next s

/-- The entry CHMOD writes: W, LOG, LOGFP and POL of ENTRY (R350). -/
def chmodEntry (old new : Nat) : Nat := setBits old 6 5 (bitsOf new 6 5)

/-- CHMOD (R350, R376): clearing LOG applies a log in place first; a change to PINNED waits for a migration in flight. -/
def execChmod (c : Nat) (s : State) : Res :=
  if s.pageCmd 3 c then
    match s.leafAt c with
    | (none, s) => .next (s.pageDone 2)
    | (some (a, e), s) =>
      let new := chmodEntry e s.pwEntry
      let p := s.page a
      if pteRes e = resPOISONED || !leafOk s.pwLevel new then .next (s.pageDone 2)
      else if ptePol new = 2 && ptePol e != 2 && p.mig.isSome then .next (s.modPage a fun p => { p with cmd := true })
      else if !pteLog new && pteLog e && pteRes e = resLOGGED then
        .next ((s.modPage a fun p => { p with cmd := true }).startApply a false)
      else if !pteLog new && pteLog e && pteRes e = resAPPLYING && p.app.any fun q => !q.2.1 then
        .next (s.modPage a fun p => { p with cmd := true })
      else
        let s := s.setPte a new
        let s := s.modPage a fun p => { p with cmd := false, count := if ptePol new = 1 then p.count else 0 }
        .next (s.pageDone 0)
  else .next s

/-- REMAP (R350, R348): a POISONED leaf gets a new frame; its waiters become READY. -/
def execRemap (c : Nat) (s : State) : Res :=
  if s.pageCmd 4 c then
    match s.leafAt c with
    | (none, s) => .next (s.pageDone 2)
    | (some (a, e), s) =>
      let r := pteRes s.pwEntry
      let new := setBits (setBits e 0 4 r) 16 41 (bitsOf s.pwEntry 16 41)
      if pteRes e != resPOISONED || !(r = resCELLAR || r = resLARDER) || !leafOk s.pwLevel new then .next (s.pageDone 2)
      else .next (((s.setPte a new).pageArrived a c s.pwVa (leafBytes new)).pageDone 0)
  else .next s

/-- Bytes zeroed with fresh checks (R19, R359, R451). -/
def State.zeroBytes (s : State) (pa n : Nat) : State :=
  let out (k : Nat) : Bool := decide (k < pa / 32) || decide ((pa + n) / 32 ≤ k)
  { s with mem := s.mem.filter fun e => decide (e.1 < pa) || decide (pa + n ≤ e.1),
           poison := s.poison.filter fun e => out e.1, badCheck := s.badCheck.filter fun e => out e.1 }

/-- PANTRY (R359, R360): the frame is zero-filled and joins the pantry; the tower's waiters become READY. -/
def execPantry (tower frame : Nat) (s : State) : Res :=
  match s.hub.pwCmd with
  | some q =>
    if q.op = 5 && q.tower = tower && s.hub.pwStatus = 1 then
      let p := s.pantry tower
      if p.frames.length ≥ 4096 then .next (s.pageDone 3)
      else
        let f := frame / 2 ^ 16 * 2 ^ 16
        let s := s.zeroBytes f 65536
        let s := { s with pantries := tput {} s.pantries tower { p with frames := p.frames ++ [f] } }
        .next ((s.wakeAll (s.taskList.filter fun i =>
          let k := s.task i
          k.wkind == 7 && k.tower == tower && k.state == .aborted)).pageDone 0)
    else .next s
  | none => .next s

/-- ATS_INVALIDATION (R346): the host's later answers for the page, under each PASID, are its own choice; a task that waits on a page for
which the host now grants access becomes READY (notes/assumptions/91.md). -/
def execAtsInvalidation (host : Nat) (s : State) : Res :=
  let s := ((tkeys s.ctxs).map s.pasid).eraseDups.foldl (fun s p =>
    let (d, s) := s.draw 2
    s.modHub fun h => { h with atsDeny := tput false h.atsDeny (atsKey p host) (d == 1) }) s
  .next (s.wakeAll (s.taskList.filter fun i =>
    let t := s.task i
    t.wkind == 5 && t.state == .aborted && (match s.walk t.ctx t.waddr with
      | .leaf _ level e => pteRes e == resLARDER && !s.atsDenied t.ctx level e t.waddr 65536
      | _ => false)))

/-! ### Migration and poison -/

/-- MIGRATION_START (R353). -/
def execMigrationStart (page : Nat) (s : State) : Res := if s.migReady page then .next (s.startMig page) else .next s

/-- MIGRATION_COMPLETE (R348). -/
def execMigrationComplete (page : Nat) (s : State) : Res :=
  if s.res page = resPROMOTING || s.res page = resDEMOTING then .next (s.copyDone page) else .next s

/-- COUNTER_DECAY (R352): every counter halves; cold attic pages demote. -/
def execCounterDecay (s : State) : Res :=
  .next ((tkeys s.pages).foldl (fun s a =>
    let s := s.modPage a fun p => { p with count := p.count >>> 1 }
    let p := s.page a
    let e := s.pteOf a
    if ptePol e = 1 && pteRes e = resATTIC && decide (p.count.toNat < s.hub.demth) && p.waiting = [] then
      s.requestMig a p.ctx p.vaddr 8 0 0 0
    else s) s)

/-- The page whose log has a chunk at a physical address (R361, R368). -/
def State.chunkPage (s : State) (pa : Nat) : Option Nat :=
  s.hub.poolAt.bind fun base =>
    let lo := base + poolBytes + futBytes + setBytes
    if pa < lo then none else (s.chunkOwner ((pa - lo) / chunkBytes)).map fun q => q.1

/-- MEMORY_ERROR (R361): the error names the page by an address in its frame, or in a chunk of its log; an attic slot by the frame of
the page it holds. -/
def execMemoryError (pa : Nat) (s : State) : Res :=
  let s := (s.chunkPage pa).elim s fun a => s.poisonPage a (s.page a).ctx (s.page a).vaddr
  .next ((List.range 64).foldl (fun s c =>
    (s.leaves c).foldl (fun s l =>
      let e := s.pteOf l.1
      let r := pteRes e
      let live := r = resCELLAR || r = resATTIC || r = resPROMOTING || r = resDEMOTING || r = resLOGGED || r = resAPPLYING
      if live && decide (pteFrame e ≤ pa) && decide (pa < pteFrame e + leafBytes e) then s.poisonPage l.1 c l.2.2 else s) s) s)

/-- TRANSIT (R354): a freeze at translation that has reached TLIMIT × 64 cycles ends in the restartable fault. -/
def execTransit (lin : Nat) (s : State) : Res :=
  let limit := s.hub.tlimit * 64
  match (s.coreAt lin).mq.find? fun e => match e.st with
      | .transit since _ => decide (limit ≠ 0) && decide (since + limit ≤ s.cycle)
      | _ => false with
  | none =>
    match (s.coreAt lin).compl with
    | some q =>
      match q.stall with
      | some (3, since, va) =>
        if limit ≠ 0 && decide (since + limit ≤ s.cycle) && !q.committing then
          .next (s.restart lin q.bseq q.baddr (slotMask (q.ops.head?.elim 0 fun h => h.slot)) fcTRANSIT (BitVec.ofNat 64 va) 0 5 0 (va / 65536 * 65536))
        else .next s
      | _ => .next s
    | none => .next s
  | some e =>
    let va := match e.st with
      | .transit _ a => max e.ea (s.page a).vaddr
      | _ => e.ea
    .next (s.restart lin e.bseq e.baddr (slotMask e.slot) fcTRANSIT (BitVec.ofNat 64 va) 0 5 0 (va / 65536 * 65536))

end Sys2Proof.Machine
end

