-- ==== Sys2Proof/Machine/Memory.lean ====
section
/-!
DEFINITION. Machine/Memory.lean: the memory instructions (R331 to R339, R77), and the steps of the queues: translation,
performing at the head of a queue, the write-back of the FIFO's oldest line (R316 to R327, R345, R347, R293 to R296).
-/
namespace Sys2Proof.Machine

/-! ### Issue -/

/-- An access enters its queues at its effective address (R319, R331). -/
def State.enterAccess (s : State) (i : Instr) (x : OpM) (inLoad inStore : Bool) (vals : List Word) (vec : VecReg)
    (desc : BitVec 32) (awaits : Bool) : State :=
  s.enqueue i inLoad inStore (s.core.effAddr x).toNat vals vec desc .walk awaits
    (match x.v with
      | .nil => []
      | v => [v])

/-- LD (R333). -/
def execLd (x : OpM) (s : State) : Res :=
  s.slotRun (.ld x) fun s => s.enterAccess (.ld x) x true (x.ord == .acquire) [] 0 0 true
/-- LDV (R334). -/
def execLdv (x : OpM) (s : State) : Res :=
  s.slotRun (.ldv x) fun s => s.enterAccess (.ldv x) x true (x.ord == .acquire) [] 0 0 true
/-- LDT (R335): the descriptor is captured at issue. -/
def execLdt (x : OpM) (s : State) : Res :=
  s.slotRun (.ldt x) fun s =>
    s.enterAccess (.ldt x) x true (x.ord == .acquire) [] 0 (s.core.fdValue x.fd.toNat) true
/-- ST (R333). -/
def execSt (x : OpM) (s : State) : Res :=
  s.slotRun (.st x) fun s => s.enterAccess (.st x) x (x.ord == .release) true [s.core.src x.cl x.v] 0 0 false
/-- STV (R334). -/
def execStv (x : OpM) (s : State) : Res :=
  s.slotRun (.stv x) fun s => s.enterAccess (.stv x) x (x.ord == .release) true [] (s.core.vraw x.cl x.v) 0 false

/-- The elements STT converts (R335): codes, flags, counts. -/
def sttConv (env : FpEnv) (desc : BitVec 32) (v : VecReg) : List (Nat × FpFlags × FpCounts) :=
  (List.range 1024).map fun i => convertElem (.std .f32) (Fmt.ofDesc desc) env.noDaz false 0 0 (vecElem 32 v i)

/-- STT (R335): its conversions are made at issue. -/
def execStt (x : OpM) (s : State) : Res :=
  let desc := s.core.fdValue x.fd.toNat
  let v := s.core.vraw x.cl x.v
  let conv := if desc = 0 then [] else sttConv (FpEnv.ofFpcr s.core.fpcr) desc v
  let fl := orFlags (conv.map fun r => r.2.1)
  s.slotRunWith (.stt x) fl fun s =>
    let data : VecReg :=
      if desc = 0 then v else BitVec.ofNat 32768 (packList (Desc.ofBits desc).width (conv.map fun r => r.1))
    let s := s.enterAccess (.stt x) x (x.ord == .release) true [] data desc false
    if desc = 0 then s
    else s.flightOf (instrSlot (.stt x)) x.cl (1, 0) false [] [] .none fl (addCounts (conv.map fun r => r.2.2))

/-- NTST (R325). -/
def execNtst (x : OpM) (s : State) : Res :=
  s.slotRun (.ntst x) fun s => s.enterAccess (.ntst x) x false true [s.core.src x.cl x.v] 0 0 false
/-- NTSTV (R334). -/
def execNtstv (x : OpM) (s : State) : Res :=
  s.slotRun (.ntstv x) fun s => s.enterAccess (.ntstv x) x false true [] (s.core.vraw x.cl x.v) 0 false
/-- AMO (R338). -/
def execAmo (x : OpM) (s : State) : Res :=
  s.slotRun (.amo x) fun s => s.enterAccess (.amo x) x true true [s.core.src x.cl x.v] 0 0 true
/-- AMON (R338). -/
def execAmon (x : OpM) (s : State) : Res :=
  s.slotRun (.amon x) fun s => s.enterAccess (.amon x) x false true [s.core.src x.cl x.v] 0 0 false
/-- ACAS (R338): expected value in V, new value in V + 1. -/
def execAcas (x : OpM) (s : State) : Res :=
  s.slotRun (.acas x) fun s =>
    let new := match x.v with
      | .sreg n => s.core.regs.scalar x.cl (n.val + 1)
      | _ => 0
    s.enterAccess (.acas x) x true true [s.core.src x.cl x.v, new] 0 0 true

/-- MARK enters both queues (R319, R320). -/
def execMark (x : OpM) (s : State) : Res :=
  s.slotRun (.mark x) fun s => s.enqueue (.mark x) true true 0 [] 0 0 .ready false []
/-- FENCE (R339): a release fence enters the store queue, the others both. -/
def execFence (x : OpM) (s : State) : Res :=
  s.slotRun (.fence x) fun s => s.enqueue (.fence x) (x.ord != .release) true 0 [] 0 0 .ready false []
/-- NTDRAIN (R325). -/
def execNtdrain (x : OpM) (s : State) : Res :=
  s.slotRun (.ntdrain x) fun s => s.enqueue (.ntdrain x) false true 0 [] 0 0 .ready false []

/-- Entries of the load queue and of the store queue (R319). -/
def Core.loadQueue (c : Core) : List MqEntry := c.mq.filter fun e => e.inLoad
def Core.storeQueue (c : Core) : List MqEntry := c.mq.filter fun e => e.inStore
/-- Entries of each queue (R319). -/
def queueSize : Nat := 2048

/-- PREF (R336): dropped when the load queue is full. -/
def execPref (x : OpM) (s : State) : Res :=
  s.slotRun (.pref x) fun s =>
    if s.core.loadQueue.length ≥ queueSize then s
    else s.enqueue (.pref x) true false (s.core.effAddr x).toNat [] 0 0 .ready false []

/-- The M-class hint 0x7C (R77) may fetch a sector when B names a scalar; it never takes the queue's last entry. -/
def execPrefetchHint (x : OpM) (s : State) : Res :=
  s.slotRun (.prefetchHint x) fun s =>
    let (d, s) := s.draw 2
    if x.b == .nil || d = 0 || decide (s.core.loadQueue.length + 1 ≥ queueSize) then s
    else s.enqueue (.prefetchHint x) true false (s.core.effAddr x).toNat [] 0 0 .ready false []

/-! ### Translation (R345, R347, R293) -/

/-- The pages of an HNEAR's item memory from one on (R293): every page, the pages before one that is PROMOTING or grants no pin to an
UNMAP's sake (R349), or the fault of the page that ends the search. -/
inductive Pages where
  | all (xl : List Xlat)
  | waits (xl : List Xlat)
  | ends (code : Nat) (a0 a1 : Word) (kind : Nat)
  deriving DecidableEq, Repr

def State.searchPages (s : State) (c : Nat) : List Nat → Pages × State
  | [] => (.all [], s)
  | va :: rest =>
    let miss (s : State) : Pages × State := (.ends fcNOTPRESENT (BitVec.ofNat 64 va) 0 5, s.event evPAGEMISS (some c) va 1)
    match s.walk c va with
    | .absent => miss s
    | .format => miss (s.ctxFault c 2)
    | .poison => miss (s.ctxFault c 1)
    | .leaf a level e =>
      let r := pteRes e
      if r = resPOISONED then (.ends fcPOISON (BitVec.ofNat 64 (pteFrame e)) 0 0, s)
      else if r = resPROMOTING || r = resATTIC && (s.page a).cmd then (.waits [], s)
      else if r != resATTIC then (.ends fcNOTATTIC (BitVec.ofNat 64 va) (BitVec.ofNat 64 r) 0, s)
      else
        let x : Xlat := { vpage := va / 2 ^ 16, base := s.physOf c level e va, leaf := a, size := level }
        match s.searchPages c rest with
        | (.all xs, s) => (.all (x :: xs), s)
        | (.waits xs, s) => (.waits (x :: xs), s)
        | r => r

/-- Pages pinned by a search (R353). -/
def State.pinAll (s : State) (c : Nat) (xl : List Xlat) : State := xl.foldl (fun s x => s.pin x.leaf c (x.vpage * 65536)) s

/-- The cycle in which the operation of an entry issued (R39). -/
def State.issuedAt (s : State) (lin : Nat) (e : MqEntry) : Nat := ((s.coreAt lin).pend.find? fun p => p.seq == e.seq).elim s.cycle fun p => p.cyc

/-- The tower whose attic holds the page of a translation. -/
def State.atticOf (s : State) (x : Xlat) : Nat := ((s.page x.leaf).tower).getD 0
/-- The search units of an item memory (R294): a tower for each that holds part of it, with the cycles of the entries it counts, those whose
first byte it holds, 32 in a cycle. -/
def State.searchUnits (s : State) (ea n : Nat) (xl : List Xlat) : List (Nat × Nat) :=
  let firsts := (List.range n).map fun j => (xl.find? fun x => x.vpage == (ea + 768 * j) / 65536).elim 0 s.atticOf
  (sortNat (xl.map s.atticOf)).map fun t => (t, ((firsts.filter (· == t)).length + 31) / 32)

/-- A search whose pages are all translated takes its turn at the units (R294): it begins when each is free, `waited` cycles after its issue
at the earliest, and keeps that cycle and its own cycles. -/
def State.bookSearch (s : State) (lin : Nat) (e : MqEntry) (xl : List Xlat) (waited : Nat) : State :=
  let us := s.searchUnits e.ea (e.vals.getD 1 0).toNat xl
  let start := us.foldl (fun m u => max m (tget 0 s.hub.search u.1)) (s.issuedAt lin e + waited)
  let last := us.foldl (fun m u => max m u.2) 0
  ((s.modHub fun h => { h with search := us.foldl (fun q u => tput 0 q u.1 (start + u.2)) h.search }).rank 7 searchMark lin).setEntry lin e.seq
    fun e => { e with st := .ready, xl := xl, vals := e.vals.take 2 ++ [BitVec.ofNat 64 (start + 24 + last)] }

/-- The translation of a search (R293, R294, R353): each page found is pinned at once; the cycle in which it began to wait for a page goes
into its third value. -/
def State.translateSearch (s : State) (lin : Nat) (e : MqEntry) : State :=
  let c := s.ctxOf lin
  let n := (e.vals.getD 1 0).toNat
  let first := e.ea / 65536
  let pages := (List.range ((e.ea + 768 * n - 1) / 65536 - first + 1)).map fun k => (first + k) * 65536
  match s.searchPages c (pages.drop e.xl.length) with
  | (.ends code a0 a1 kind, s) =>
    if kind = 0 then s.entryFatal lin e code a0 a1
    else s.restart lin e.bseq e.baddr (slotMask e.slot) code a0 a1 kind 0 a0.toNat
  | (.waits xl, s) =>
    (s.pinAll c xl).setEntry lin e.seq fun e =>
      { e with xl := e.xl ++ xl, vals := if e.vals.length = 2 then e.vals ++ [BitVec.ofNat 64 s.cycle] else e.vals }
  | (.all xl, s) =>
    (s.pinAll c xl).bookSearch lin e (e.xl ++ xl) (if e.vals.length = 2 then 0 else s.cycle - (e.vals.getD 2 0).toNat)

/-- An AMON that its page's log would take goes on to the controller while the page moves (R354, R376). -/
def State.heldAppend (s : State) (c : Nat) (e : MqEntry) (a : Nat) : Bool :=
  (match e.instr with
    | .amon _ => true
    | _ => false) && pteLog (s.pteOf a) && pteSize (s.pteOf a) == 0
    && s.setsTouching c e.ea e.len (fun x => x.state == .declared || x.state == .held || x.state == .dropping) == []

/-- An access that acquires sets (R381). -/
def MqEntry.acquiring (e : MqEntry) : Bool := e.isLoad || e.writes

/-- The L1 TLB holds an entry as it stands (R345). -/
def Core.hasTlb (c : Core) (a pte : Nat) : Bool := c.tlb.contains (a, pte)
/-- The L1 TLB takes the entries of an access; beyond 128 a free choice leaves (R345). -/
def State.fillTlb (s : State) (lin : Nat) (xl : List Xlat) : State :=
  xl.foldl (fun s x =>
    let held := (s.coreAt lin).tlb.filter fun e => e.1 != x.leaf
    let (n, s) := if 128 ≤ held.length then s.draw held.length else (held.length, s)
    s.modCore lin fun c => { c with tlb := held.eraseIdx n ++ [(x.leaf, s.pteOf x.leaf)] }) s

/-- TRANSLATION_COMPLETE (R345, R347, R382): the fate of an access of a core. -/
def execTranslationComplete (lin seq : Nat) (s : State) : Res :=
  match s.entry lin seq with
  | none => .next s
  | some e =>
    if e.st != .walk then .next s
    else
      let c := s.ctxOf lin
      let go (s : State) (xl : List Xlat) : State :=
        let sets := e.acquiring && ((s.coreAt lin).setOpAhead e
          || s.setsTouching c e.ea e.len (fun a => a.state == .declared || a.state == .held) != [])
        s.setEntry lin seq fun e => { e with xl := xl, st := if sets then .sets [] else .ready }
      match e.instr with
      | .hnear _ => .next (s.translateSearch lin e)
      | _ =>
        match s.translateAll c e.writes (towerOf lin) 0 (pieces e.ea e.len) with
        | (.ok xl, s) => .next (go (s.fillTlb lin xl) xl)
        | (.error (.absent, va), s) =>
          .next (s.restart lin e.bseq e.baddr (slotMask e.slot) fcNOTPRESENT (BitVec.ofNat 64 va) 0 5 0
            (va / 65536 * 65536))
        | (.error (.readonly, va), s) => .next (s.entryFatal lin e fcREADONLY (BitVec.ofNat 64 va) 0)
        | (.error (.poison f, _), s) => .next (s.entryFatal lin e fcPOISON (BitVec.ofNat 64 f) 0)
        | (.error (.pantry t, va), s) =>
          .next (s.restart lin e.bseq e.baddr (slotMask e.slot) fcPANTRY (BitVec.ofNat 64 va) (BitVec.ofNat 64 t) 7 0
            (va / 65536 * 65536))
        | (.error (.transit a, va), s) =>
          if s.heldAppend c e a then
            .next (s.setEntry lin seq fun e =>
              { e with st := .ready,
                       xl := [{ vpage := va / 65536, base := pteFrame (s.pteOf a), leaf := a, size := 0 }] })
          else .next (s.setEntry lin seq fun e => { e with st := .transit s.cycle a })
        | (.error (.ok _, _), s) => .next s

/-! ### What an entry waits for (R49, R319, R322) -/

/-- Entries whose fault can still come when they perform (R49): loads, searches, and hub operations that report faults. -/
def MqEntry.faultsLate (e : MqEntry) : Bool :=
  match e.instr with
  | .ld _ | .ldv _ | .ldt _ | .hnear _ | .ftest _ | .ffree _ | .qpeek _ | .bari _ => true
  | _ => false
/-- An operation at the hub or a controller that stands in no queue. -/
def MqEntry.offQueue (e : MqEntry) : Bool := !e.inLoad && !e.inStore
/-- Two entries perform in one order. -/
def MqEntry.sharesQueue (a b : MqEntry) : Bool := (a.inLoad && b.inLoad) || (a.inStore && b.inStore) || (a.offQueue && b.offQueue)
/-- A fault check of the entry is still to come (R49). -/
def MqEntry.unchecked (e : MqEntry) : Bool :=
  match e.st with
  | .walk | .transit _ _ | .sets _ | .wounding _ => true
  | _ => false

/-- A later access of the bundle whose sets are judged against the table that this ASDECL or ASDROP leaves (R380). -/
def MqEntry.judgedAfter (e o : MqEntry) : Bool :=
  decide (e.seq < o.seq) && (match e.instr, o.st with
    | .asdecl _, .sets _ | .asdrop _, .sets _ => true
    | _, _ => false)

/-- Every slot of the entry's bundle has passed its last fault check (R49); an operation that must perform after this one
in the same queue is not waited for. -/
def Core.bundleSafe (c : Core) (e : MqEntry) : Bool :=
  (c.mq.all fun o => o.seq == e.seq || o.bseq != e.bseq ||
    !(o.unchecked && !e.judgedAfter o || o.faultsLate && !(decide (e.seq < o.seq) && o.sharesQueue e)))
  && (c.pend.all fun p => !(p.bseq == e.bseq && p.ready && trapping p.enables p.fl))

/-- The task's sends have all resolved (R324). -/
def State.sendsDone (s : State) (lin : Nat) : Bool :=
  match (s.coreAt lin).task with
  | none => true
  | some i => !((s.planeX.sends ++ s.planeY.sends).any fun d => d.task == i)

/-- The entry stands where its order lets it perform (R319, R322, R339). -/
def Core.atHead (c : Core) (e : MqEntry) (store : Bool) : Bool :=
  let l := c.loadQueue.head?.elim false fun o => o.seq == e.seq
  let q := c.storeQueue.head?.elim false fun o => o.seq == e.seq
  let earlierLoads := c.loadQueue.any fun o => decide (o.seq < e.seq) && (match o.instr with
    | .pref _ | .prefetchHint _ | .cpy _ | .chase _ | .gath _ => false
    | _ => true)
  match e.instr with
  | .fence x => if x.ord == .acquire then l && !store else if x.ord == .release then q && store && !earlierLoads else l && q
  | .amon _ => q && store && !(e.releases && earlierLoads)
  | _ => (!e.inLoad || l) && (!e.inStore || q)

/-- A release's wait at its scope (R317, R322, R324): its marker has completed and, at pod scope, the sends have resolved. -/
def State.released (s : State) (lin : Nat) (e : MqEntry) : Bool :=
  !(e.releases && wide e.scope) ||
    (e.st == .marked && (s.coreAt lin).markerDone e.seq && (e.scope != .pod || s.sendsDone lin))

/-! ### Performing -/

/-- An acquire at tower scope or wider (R317, R323). -/
def State.afterAcquire (s : State) (lin : Nat) (e : MqEntry) : State :=
  if e.acquires && wide e.scope then s.modCore lin Core.invalidate else s

/-- The value of LD and of the atomics from n bytes (R333, R338). -/
def extendSize (sz : Size) (v : Nat) : Word :=
  match sz with
  | .i8 => (BitVec.ofNat 8 v).signExtend 64
  | .i16 => (BitVec.ofNat 16 v).signExtend 64
  | .i32 => (BitVec.ofNat 32 v).signExtend 64
  | _ => BitVec.ofNat 64 v

/-- The elements LDT decodes (R335). -/
def ldtConv (env : FpEnv) (desc : BitVec 32) (bytes : Nat) : List (Nat × FpFlags × FpCounts) :=
  let w := (Desc.ofBits desc).width
  (List.range 1024).map fun i => convertElem (Fmt.ofDesc desc) (.std .f32) env false 0 0 (bytes >>> (w * i) % 2 ^ w)

/-- A vector delivered to V: its latch takes bits [63:0] (R334). -/
def State.deliverVec (s : State) (lin : Nat) (e : MqEntry) (x : OpM) (v : VecReg) (fl : FpFlags) (cnt : FpCounts) : State :=
  s.deliver lin e
    (match x.v with
      | .vreg n => [.vec x.cl n.val v (BitVec.allOnes 32768)]
      | _ => [])
    (.word (v.extractLsb' 0 64)) fl cnt

/-- The page whose pending log an access that reaches the slice must wait for (R374). -/
def State.logOf (s : State) (lin : Nat) (e : MqEntry) : Option Nat :=
  let c := s.coreAt lin
  (sectorParts e.ea e.len).findSome? fun p =>
    match e.xl.find? fun x => x.vpage == p.1 / 65536 with
    | none => none
    | some x =>
      let held := match c.task with
        | some i => (s.heldSetAt i p.1).isSome
        | none => false
      if s.logBlocked x.leaf && (e.atSlice || held || e.atomic || c.misses (physVia e.xl p.1) p.2) then some x.leaf else none

/-- The core freezes until the page has applied its log (R374, R354). -/
def State.freezeOn (s : State) (lin : Nat) (e : MqEntry) (a : Nat) : State :=
  (s.force a).setEntry lin e.seq fun e => { e with st := .transit s.cycle a }

/-- A load performs (R315, R323, R325, R383). -/
def State.performLoad (s : State) (lin : Nat) (e : MqEntry) : State :=
  match s.logOf lin e with
  | some a => s.freezeOn lin e a
  | none =>
    if !e.atSlice && s.fillFresh lin e.xl (sectorParts e.ea e.len) then s
    else
    match s.loadParts lin e e.atSlice (sectorParts e.ea e.len) with
    | (.error pa, s) => s.entryFatal lin e fcPOISON (BitVec.ofNat 64 pa) 0
    | (.ok bs, s) =>
      let s := s.afterAcquire lin e
      let n := natOfBytes bs
      match e.instr with
      | .ld x => s.deliverWord lin e x.v (extendSize x.sz n)
      | .ldt x =>
        if e.desc = 0 then s.deliverVec lin e x (BitVec.ofNat 32768 n) {} {}
        else
          let es := ldtConv (FpEnv.ofFpcr e.fpcr) e.desc n
          s.deliverVec lin e x (vecOfList 32 (es.map fun r => r.1)) (orFlags (es.map fun r => r.2.1))
            (addCounts (es.map fun r => r.2.2))
      | .ldv x => s.deliverVec lin e x (BitVec.ofNat 32768 n) {} {}
      | _ => s

/-- The bytes a store writes. -/
def MqEntry.payload (e : MqEntry) : List Byte :=
  match e.instr with
  | .st _ | .ntst _ => leBytes (e.vals.getD 0 0).toNat e.len
  | _ => leBytes e.vec.toNat e.len

/-- The parts of a store in lines of sets the task holds go to the set-store buffer: the rest, or the set without room. -/
def State.storeHeld (s : State) (lin : Nat) (e : MqEntry) (bs : List Byte) : Except Nat State × List (Nat × List Byte) :=
  let i := ((s.coreAt lin).task).getD 0
  let parts := (sectorParts e.ea e.len).map fun p => (p.1, (bs.drop (p.1 - e.ea)).take p.2)
  let held := parts.filter fun p => (s.heldSetAt i p.1).isSome
  (held.foldl (fun r p =>
    match r with
    | .ok s => s.storeSet lin p.1 p.2
    | .error k => .error k) (.ok s), parts.filter fun p => (s.heldSetAt i p.1).isNone)

/-- A store performs (R315, R316, R325, R383): it waits while the FIFO has no room for its lines. -/
def State.performStore (s : State) (lin : Nat) (e : MqEntry) : State :=
  match s.storeHeld lin e e.payload with
  | (.error id, _) => s.entryFatal lin e fcSETBUF (BitVec.ofNat 64 id) 0
  | (.ok s', rest) =>
    let c := s.coreAt lin
    if e.nontemporal then
      let phys := rest.map fun p => (physVia e.xl p.1, p.2)
      let s := s'.modCore lin fun c =>
        ({ c with l1 := c.l1.filter fun q => !(phys.any fun p => decide (p.1 ≤ q.1) && decide (q.1 < p.1 + p.2.length)) } : Core).tidyFifo
      let bytes := phys.flatMap fun p => (p.2.zip (List.range p.2.length)).map fun b => (p.1 + b.2, b.1)
      (if bytes = [] then s
       else s.modCore lin fun c => { c with nt := c.nt ++ [{ seq := e.seq, bytes := bytes }] }).dequeue lin e.seq
    else
      let lines := ((rest.map fun p => physVia e.xl p.1 / 128).eraseDups).filter fun n => !c.lineDirty n
      if c.fifoLines + lines.length > 512 then s
      else
        -- each line finds a way as its bytes come; one whose set is full of lines that wait for a log waits for that log
        let r := rest.foldl (fun (r : State × Option Nat) p =>
          if r.2.isSome then r
          else
            let n := physVia e.xl p.1 / 128
            let t := r.1.makeRoom lin n
            if (t.coreAt lin).hasWay n then (t.modCore lin fun c => c.storeL1 (physVia e.xl p.1) p.2, none) else (t, some n))
          (s'.evictSome lin, none)
        match r.2 with
        | none => (r.1.modCore lin fun c => c.dropMarker e.seq).dequeue lin e.seq
        | some n =>
          ((s.coreAt lin).l1Lines.filter fun m => m % l1Sets == n % l1Sets).foldl (fun s m => (s.logPageAt (128 * m)).elim s s.force) s

/-- An atomic on a set that the task holds (R383): the old value and the state with the new one in the set-store buffer, or the fault
it meets. -/
def State.heldAtomic (s : State) (lin : Nat) (e : MqEntry) : Except (Nat × Word) (Nat × State) :=
  let pa := physVia e.xl e.ea
  if s.slicePoison lin e.ea pa e.len true then .error (fcPOISON, BitVec.ofNat 64 (pa / 32 * 32))
  else
    let m := natOfBytes (s.sliceBytes lin e.ea pa e.len true)
    match e.amoNew m with
    | none => .ok (m, s)
    | some v =>
      match s.storeSet lin e.ea (leBytes v e.len) with
      | .error id => .error (fcSETBUF, BitVec.ofNat 64 id)
      | .ok s => .ok (m, s)

/-- An atomic performs (R326, R327, R338, R383). -/
def State.performAtomic (s : State) (lin : Nat) (e : MqEntry) : State :=
  let c := s.coreAt lin
  let i := c.task.getD 0
  let ctx := s.ctxOf lin
  let pa := physVia e.xl e.ea
  let leaf := (e.xl.head?.elim 0 fun x => x.leaf)
  let amon := match e.instr with
    | .amon _ => true
    | _ => false
  let answer (s : State) (m : Nat) : State :=
    let s := (s.modCore lin fun c => c.dropMarker e.seq).afterAcquire lin e
    match e.instr with
    | .amo x | .acas x => s.deliverWord lin e x.v (extendSize x.sz m)
    | _ => s.dequeue lin e.seq
  if (s.heldSetAt i e.ea).isSome then
    if s.logBlocked leaf then s.freezeOn lin e leaf
    else
      match s.heldAtomic lin e with
      | .error (code, a) => s.entryFatal lin e code a 0
      | .ok (m, s) => answer s m
  else
    let dirty := c.l1.any fun q => q.1 / 32 == pa / 32 && (match q.2 with
      | some b => b.dirty
      | none => false)
    let clean (s : State) : State :=
      ((s.flushSector lin (pa / 32)).modCore lin fun c => (c.dropSector (pa / 32)).tidyFifo)
    if amon then
      if dirty && s.logBlocked leaf then s.force leaf
      else
        let s := (clean s).modCore lin fun c => c.dropMarker e.seq
        if pteLog (s.pteOf leaf) && pteSize (s.pteOf leaf) = 0 then s.setEntry lin e.seq fun e => { e with st := .slice }
        else s.amonAtSlice lin e
    else if s.logBlocked leaf then s.freezeOn lin e leaf
    else
      let s := clean s
      if s.poisoned pa e.len then s.entryFatal lin e fcPOISON (BitVec.ofNat 64 (pa / 32 * 32)) 0
      else
        let s := s.maybeCount leaf ctx e.ea (towerOf lin)
        let m := natOfBytes (s.read pa e.len)
        answer (match e.amoNew m with
          | some v => s.write pa (leBytes v e.len)
          | none => s) m

/-- A prefetch (R336): bytes from `va` on, into the L1 or the home slice only. A hint that misses in the L1 TLB is
dropped, and so touches no ZERO page (R77). -/
def State.performPref (s : State) (lin : Nat) (e : MqEntry) (va n : Nat) (toL1 hint : Bool) : State :=
  let c := s.ctxOf lin
  let done (s : State) : State := s.dequeue lin e.seq
  let get (s : State) (a pa : Nat) : State :=
    (List.range (n / 32)).foldl (fun s k =>
      let q := pa / 32 + k
      if !toL1 then s.maybeCount a c va (towerOf lin)
      else if (s.coreAt lin).misses (32 * q) 32 then
        if s.freshSectors [q] then s
        else
        let s := ((s.verify [q] 0 (some c)).evictSome lin).makeRoom lin (q / 4)
        if tget false s.poison q || !(s.coreAt lin).hasWay (q / 4) then s
        else (s.maybeCount a c va (towerOf lin)).modCore lin fun k => k.fill q (s.read (32 * q) 32)
      else s) s
  if va ≥ 2 ^ 57 then done s
  else
    match s.walk c va with
    | .leaf a level pte =>
      let r := pteRes pte
      if hint && !(s.coreAt lin).hasTlb a pte then done s
      else if r = resCELLAR || r = resATTIC then done (get s a (s.physOf c level pte va))
      else if r = resLARDER then
        if s.atsDenied c level pte va n then done s
        else done (get s a (s.physOf c level pte va))
      else if r = resZERO && !hint then
        match s.firstTouch a c va (towerOf lin) with
        | none => done (s.event evPANTRYEMPTY (some c) (towerOf lin) va)
        | some s => done (get s a (s.physOf c level (s.pteOf a) va))
      else done s
    | .absent => done s
    | .format => done (if hint then s else s.ctxFault c 2)
    | .poison => done (if hint then s else s.ctxFault c 1)

/-- What a search finds wrong as it performs (R293): a page POISONED since, or a poisoned sector. -/
def State.searchFault (s : State) (e : MqEntry) : Option (Nat × Word) :=
  match e.xl.find? fun x => s.res x.leaf == resPOISONED with
  | some x => some (fcPOISON, BitVec.ofNat 64 (pteFrame (s.pteOf x.leaf)))
  | none => (s.badSectors e.xl e.ea (768 * (e.vals.getD 1 0).toNat)).head?.map fun va =>
      (fcPOISON, BitVec.ofNat 64 (physVia e.xl (32 * va)))

/-- The fault that an entry will meet as it performs (R21, R293, R383). -/
def State.lateFault (s : State) (lin : Nat) (e : MqEntry) : Option (Nat × Word) :=
  match e.instr with
  | .ld _ | .ldv _ | .ldt _ => (match s.loadParts lin e e.atSlice (sectorParts e.ea e.len) with
    | (.error pa, _) => some (fcPOISON, BitVec.ofNat 64 pa)
    | _ => none)
  | .st _ | .stv _ | .stt _ | .ntst _ | .ntstv _ => (match s.storeHeld lin e e.payload with
    | (.error id, _) => some (fcSETBUF, BitVec.ofNat 64 id)
    | _ => none)
  | .amo _ | .amon _ | .acas _ =>
    let pa := physVia e.xl e.ea
    if (s.heldSetAt ((s.coreAt lin).task.getD 0) e.ea).isSome then
      (match s.heldAtomic lin e with
        | .error f => some f
        | .ok _ => none)
    else
      match e.instr with
      | .amon _ => none
      | _ => if s.poisoned pa e.len then some (fcPOISON, BitVec.ofNat 64 (pa / 32 * 32)) else none
  | .hnear _ => s.searchFault e
  | _ => none

/-- Entries of an item memory, with the tower that counts each (R294), from memory. -/
def State.itemVec (s : State) (xl : List Xlat) (va : Nat) : HyperVec := BitVec.ofNat 6144 (natOfBytes (s.readVia xl va 768))

/-- A search performs (R292 to R296): its result is visible in the cycle that its turn at the units gave it. -/
def State.performSearch (s : State) (lin : Nat) (e : MqEntry) (x : OpA) : State :=
  match s.searchFault e with
  | some (code, a) => s.entryFatal lin e code a 0
  | none =>
    let r := nearestOf (hvOfVec e.vec) ((List.range (e.vals.getD 1 0).toNat).map fun j => s.itemVec e.xl (e.ea + 768 * j))
    let best := BitVec.ofNat 64 r.1
    let ws : List RegWrite := match x.d with
      | .sreg k => [.sreg .b k.val best, .sreg .b (k.val + 1) (BitVec.ofNat 64 r.2)]
      | _ => []
    let lc := (e.vals.getD 2 0).toNat - s.issuedAt lin e
    let s := e.xl.foldl (fun s x => s.unpin x.leaf) s
    let s := s.modCore lin fun c => { c with pend := c.pend.map fun p => if p.seq = e.seq then { p with lc := lc } else p }
    s.deliver lin e ws (.wide (best.setWidth 32768) (BitVec.allOnes 32768)) {} {}

/-- What a search does in this cycle at the latest (R294): it translates 24 cycles after its issue, and in every cycle while it waits for a
page; at the head of its queue it performs in the cycle of its result. -/
def State.searchDue (s : State) (lin : Nat) : List Instr :=
  let c := s.coreAt lin
  let isSearch (e : MqEntry) : Bool := match e.instr with
    | .hnear _ => true
    | _ => false
  let walks := c.mq.filter fun e => isSearch e && e.st == .walk && (decide (2 < e.vals.length) || decide (s.issuedAt lin e + 24 ≤ s.cycle))
  let head := c.loadQueue.head?.toList.filter fun e => isSearch e && e.st == .ready && decide ((e.vals.getD 2 0).toNat ≤ s.cycle)
  walks.map (fun e => .translationComplete lin e.seq) ++ head.map fun _ => .queuePerform lin false

/-- An entry at the head of its queues that may perform does so. -/
def State.performEntry (s : State) (lin : Nat) (e : MqEntry) : State :=
  match e.instr with
  | .ld _ | .ldv _ | .ldt _ => s.performLoad lin e
  | .hnear x => s.performSearch lin e x
  | .st _ | .stv _ | .stt _ | .ntst _ | .ntstv _ => s.performStore lin e
  | .amo _ | .amon _ | .acas _ => s.performAtomic lin e
  | .pref x => if x.sz == .sector then s.performPref lin e (e.ea / 32 * 32) 32 (x.scope == .core) false
               else s.performPref lin e (e.ea / 128 * 128) 128 (x.scope == .core) false
  | .prefetchHint _ => s.performPref lin e (e.ea / 32 * 32) 32 true true
  | .cpy _ | .chase _ | .gath _ => s.launchEngine lin e
  | .pgstat x => s.performPgstat lin e x.d
  | .logapply _ => s.performLogapply lin e
  | .asdecl _ | .asdrop _ => s.performSetOp lin e
  | .mark _ | .ntdrain _ => if (s.coreAt lin).nt = [] then s.dequeue lin e.seq else s
  | .fence x =>
    if x.ord == .plain && (s.coreAt lin).nt != [] then s
    else ((s.modCore lin fun c => c.dropMarker e.seq).afterAcquire lin e).dequeue lin e.seq
  | _ => s

/-- The entry performs whatever its bundle's other slots meet (R49): it changes nothing another agent sees. -/
def MqEntry.free (e : MqEntry) : Bool :=
  match e.instr with
  | .ld _ | .ldv _ | .ldt _ | .hnear _ | .pgstat _ | .pref _ | .prefetchHint _ | .mark _ | .ntdrain _ | .fence _ => true
  | _ => false

/-- The fault that another entry of the bundle will meet once this one has performed (R49). -/
def State.otherFault (s : State) (lin : Nat) (e : MqEntry) (t : State) : Option (MqEntry × Nat × Word) :=
  if (s.lateFault lin e).isSome then none
  else
    ((s.coreAt lin).mq.filter fun o => o.bseq == e.bseq && o.seq != e.seq && (o.st == .ready || o.st == .marked)).findSome? fun o =>
      (t.lateFault lin o).map fun f => (o, f)

/-- The entry at the head of a queue. -/
def Core.headOf (c : Core) (store : Bool) : Option MqEntry := if store then c.storeQueue.head? else c.loadQueue.head?

/-- A page of the entry moves or is poisoned since it was translated. -/
def State.moved (s : State) (lin : Nat) (e : MqEntry) : Bool :=
  e.acquiring && e.xl.any fun x =>
    let r := s.res x.leaf
    r == resPOISONED ||
      ((r == resPROMOTING || r == resDEMOTING) && !s.heldAppend (s.ctxOf lin) e x.leaf)

/-- An FTEST of an earlier bundle, an acquire when it finds a resolution, is still to perform (R154, R323). -/
def Core.acquireAhead (c : Core) (e : MqEntry) : Bool :=
  c.mq.any fun o => decide (o.bseq < e.bseq) && (match o.instr with
    | .ftest _ => true
    | _ => false)

/-- QUEUE_PERFORM (R319): the operation at the head of a queue performs, or a release places its marker (R317). -/
def execQueuePerform (lin : Nat) (store : Bool) (s : State) : Res :=
  match (s.coreAt lin).headOf store with
  | none => .next s
  | some e =>
    if !(s.coreAt lin).atHead e store || (e.st != .ready && e.st != .marked) then .next s
    else if s.moved lin e then .next (s.setEntry lin e.seq fun e => { e with st := .walk, xl := [] })
    else if !e.free && !(s.coreAt lin).bundleSafe e then .next s
    else if (s.coreAt lin).acquireAhead e then .next s
    else
      match (if e.free then none else s.otherFault lin e (s.performEntry lin e)) with
      | some (o, code, a) => .next (s.entryFatal lin o code a 0)
      | none =>
        if e.releases && wide e.scope && e.st == .ready then
          .next ((s.modCore lin fun c => { c with fifo := c.fifo ++ [.marker e.seq] }).setEntry lin e.seq fun e =>
            { e with st := .marked })
        else if s.released lin e then .next (((s.performEntry lin e).startEngines lin).tryLeave lin)
        else .next s

/-- DIRTY_LINE_WRITEBACK (R316). -/
def execDirtyLineWriteback (lin : Nat) (s : State) : Res := .next (s.writeBackOldest lin)

end Sys2Proof.Machine
end

