-- ==== Sys2Proof/Machine/Held.lean ====
section
/-!
DEFINITION. Machine/Held.lean: the operations a quiescent bundle performs in its completion step (R51, R52): issue records
them with their operand values; the completion step performs them in slot order, or defers them while a set is held (R136).
-/
namespace Sys2Proof.Machine

/-- An operation recorded at issue with its operand values (R52, R136). -/
def State.recordOp (s : State) (i : Instr) (vals : List Word) : State :=
  s.onCore fun c => { c with iss := c.iss.map fun b =>
    { b with ops := b.ops ++ [{ slot := instrSlot i, instr := i, vals := vals }] } }

/-- The completion step changed. -/
def State.modCompl (s : State) (f : Completion → Completion) : State :=
  s.onCore fun c => { c with compl := c.compl.map f }

/-- An operation of a quiescent bundle: at issue it is recorded; in the completion step it performs (R52). -/
def State.quietOp (s : State) (i : Instr) (vals : State → List Word) (perform : HeldOp → State → State) : Res :=
  match s.core.compl with
  | some q =>
    match q.ops with
    | [] => .next s
    | h :: rest => if q.performing then .next (perform h (s.modCompl fun q => { q with ops := rest })) else .next s
  | none => s.slotRun i fun s => s.recordOp i (vals s)

/-- What an operation of the completion step asks of the task's next state (R144): the first that asks decides. -/
def State.ask (s : State) (a : Ask) : State := s.modCompl fun q => if q.ask = .none then { q with ask := a } else q

/-- A failure of an operation: a fatal fault in the completion step (R49), or, among deferred operations, the record of
R137. `cls` is ECLASS: 2 a failure, 3 a trap. -/
def State.opFailed (s : State) (h : HeldOp) (cls code : Nat) (a0 a1 a2 : Word) : State :=
  match s.core.compl with
  | none => s
  | some q =>
    if q.committing then
      s.modCompl fun q =>
        match q.failed with
        | none => { q with failed := some (cls, code, a0, a1, a2, h.slot) }
        | some _ => { q with more := q.more + 1 }
    else if cls = 3 then
      s.modCompl fun q => if q.trap.isSome then q else { q with trap := some (code, a0, a1, a2, h.slot) }
    else s.fatal s.cur q.bseq q.baddr (slotMask h.slot) code a0 a1 a2

/-- The head operation cannot perform yet (R310, R347): it stands first again, under a freeze cause (R45) since a cycle, at
an address. -/
def State.retryOp (s : State) (h : HeldOp) (cause va : Nat) : State :=
  s.modCompl fun q =>
    { q with ops := h :: q.ops, performing := false,
             stall := match q.stall with
               | some (k, c, a) => if k = cause then some (k, c, a) else some (cause, s.cycle, va)
               | none => some (cause, s.cycle, va) }

/-- A restartable fault of an operation in the completion step (R140); a deferred operation fails instead (R137,
notes/assumptions/41.md). -/
def State.opRestart (s : State) (h : HeldOp) (code : Nat) (a0 a1 : Word) (kind obj addr : Nat) : State :=
  match s.core.compl with
  | none => s
  | some q =>
    if q.committing then s.opFailed h 2 code a0 a1 0
    else s.restart s.cur q.bseq q.baddr (slotMask h.slot) code a0 a1 kind obj addr

/-- A scalar of the core written in the completion step, before the snapshot (R147), with its slot's latch (R35). -/
def State.writeNow (s : State) (h : HeldOp) (d : Opnd) (v : Word) : State :=
  s.onCore fun c => { c with regs :=
    let r := c.regs
    let r := match d with
      | .sreg n => { r with sa := tput 0 r.sa n.val v }
      | _ => r
    { r with lat := tput 0 r.lat h.slot v } }

/-- Deferred operations write nothing (R136). -/
def State.isDeferred (s : State) : Bool :=
  match s.core.compl with
  | some q => q.committing
  | none => false

/-- The operands of a hub operation in slot c, which stands in no queue: the hub replies after the bundle's last fault
check (R49, R155). -/
def State.askHub (s : State) (i : Instr) (vals : List Word) (awaits : Bool) (dests : List Opnd) : State :=
  s.enqueue i false false 0 vals 0 0 .slice awaits dests

/-- An acquire at a scope by the core in focus or another (R317, R318). -/
def State.acquireAt (s : State) (lin scope : Nat) : State := if scope = 0 then s else s.modCore lin Core.invalidate

/-- The destination pair D, D + 1. -/
def pairDests (d : Opnd) : List Opnd :=
  match d with
  | .sreg n => if h : n.val + 1 < 64 then [d, .sreg ⟨n.val + 1, h⟩] else [d]
  | _ => []
/-- The writes of a value to D and of another to D + 1. -/
def pairWrites (cl : Cluster) (d : Opnd) (v w : Word) : List RegWrite :=
  match d with
  | .sreg n => [.sreg cl n.val v, .sreg cl (n.val + 1) w]
  | _ => []

end Sys2Proof.Machine
end

