-- ==== Sys2Proof/Machine/Future.lean ====
section
/-!
DEFINITION. Machine/Future.lean: the six future instructions (R149 to R156).
-/
namespace Sys2Proof.Machine

/-- The 32-bit handle a register holds. -/
def regHandle (w : Word) : Nat := w.toNat % 2 ^ 32

/-- FNEW (R155). -/
def execFnew (x : OpA) (s : State) : Res := s.slotRun (.fnew x) fun s => s.askHub (.fnew x) [] true [x.d]
/-- FTEST (R155). -/
def execFtest (x : OpA) (s : State) : Res :=
  s.slotRun (.ftest x) fun s => s.askHub (.ftest x) [s.core.src .a x.a] true (pairDests x.d)
/-- FFREE (R155). -/
def execFfree (x : OpA) (s : State) : Res :=
  s.slotRun (.ffree x) fun s => s.askHub (.ffree x) [s.core.src .a x.a] false []

/-- FNEW at the hub (R155). -/
def State.performFnew (s : State) (lin : Nat) (e : MqEntry) (x : OpA) : State :=
  let r := s.allocFuture (s.ctxOf lin)
  r.2.deliverWord lin e x.d (BitVec.ofNat 64 r.1)

/-- FTEST at the hub (R155): an acquire when it finds SET or FAILED (R154). -/
def State.performFtest (s : State) (lin : Nat) (e : MqEntry) (x : OpA) : State :=
  let h := regHandle (e.vals.getD 0 0)
  if s.futStale h (s.ctxOf lin) then s.entryFatal lin e fcSTALEFUT (BitVec.ofNat 64 h) 0
  else
    let f := s.fut (futIndex h)
    let v : Word := match f.state with
      | .set => f.value
      | .failed => f.status.zeroExtend 64
      | _ => 0
    let st : Word := match f.state with
      | .empty => 1
      | .set => 2
      | _ => 3
    let s := if f.state == .empty then s else s.acquireAt lin f.rscope
    s.deliver lin e (pairWrites .a x.d v st) (.word v) {} {}

/-- FFREE at the hub (R155, R153). -/
def State.performFfree (s : State) (lin : Nat) (e : MqEntry) : State :=
  let h := regHandle (e.vals.getD 0 0)
  if s.futStale h (s.ctxOf lin) then s.entryFatal lin e fcSTALEFUT (BitVec.ofNat 64 h) 0
  else (s.freeFuture (futIndex h)).dequeue lin e.seq

/-- FSET and FFAIL at the hub (R153, R155): RSCOPE is device. -/
def State.resolveOp (s : State) (h : HeldOp) (r : Fate) : State :=
  let f := regHandle (h.vals.getD 0 0)
  if s.futStale f s.curCtx then s.opFailed h 2 fcSTALEFUT (BitVec.ofNat 64 f) 0 0
  else if (s.fut (futIndex f)).state != .empty then s.opFailed h 2 fcFUTRESOLVED (s.freeArg fcFUTRESOLVED) 0 0
  else s.endFuture (futIndex f) r 3

def State.performFset (h : HeldOp) (s : State) : State := s.resolveOp h (.set (h.vals.getD 1 0))
def State.performFfail (h : HeldOp) (s : State) : State := s.resolveOp h (.failed ((h.vals.getD 1 0).toNat % 2 ^ 16))

/-- FWAIT (R155): it suspends the task, or acquires at RSCOPE (R154). -/
def State.performFwait (h : HeldOp) (s : State) : State :=
  let f := regHandle (h.vals.getD 0 0)
  if s.futStale f s.curCtx then s.opFailed h 2 fcSTALEFUT (BitVec.ofNat 64 f) 0 0
  else if (s.fut (futIndex f)).state == .empty then s.ask (.suspend 1 f 0)
  else s.acquireAt s.cur (s.fut (futIndex f)).rscope

/-- FSET (R155). -/
def execFset (x : OpA) (s : State) : Res :=
  s.quietOp (.fset x) (fun s => [s.core.src .a x.a, s.core.src .a x.b]) State.performFset
/-- FFAIL (R155). -/
def execFfail (x : OpA) (s : State) : Res :=
  s.quietOp (.ffail x) (fun s => [s.core.src .a x.a, s.core.src .a x.b]) State.performFfail
/-- FWAIT (R155). -/
def execFwait (x : OpA) (s : State) : Res := s.quietOp (.fwait x) (fun s => [s.core.src .a x.a]) State.performFwait

end Sys2Proof.Machine
end

