-- ==== Sys2Proof/Machine/Loop.lean ====
section
/-!
DEFINITION. Machine/Loop.lean: the loop and the branch (R173 to R197): transfers, the loop engine, SYSR and SYSW.
-/
namespace Sys2Proof.Machine

/-! ### Redirects -/

/-- What a slot-c instruction whose guard is true asks of the order of bundles (R178, R180, R186, R187). -/
def State.redirectOf (s : State) (i : Instr) : Redirect :=
  let c := s.core
  let at_ := c.bundle.1
  match i with
  | .br x => .xfer (dispTarget at_ x.disp).toNat true
  | .call x => .xfer (dispTarget at_ x.disp).toNat false
  | .bri x => .xfer (c.src .a x.a).toNat true
  | .calli x | .ret x => .xfer (c.src .a x.a).toNat false
  | .loop x =>
    let stop := (dispTarget at_ x.disp).toNat
    let fall := stop + s.bundleLen stop
    let n := (c.src .a x.a).toNat % 2 ^ 32
    let len := (c.iss.elim 1 fun b => b.len)
    if n = 0 then .zero fall
    else
      .start { start := at_ + len, stop := stop, neff := n, pass := 0,
               stages := (x.sub.extractLsb' 0 3).toNat + 1, base := (x.sub.extractLsb' 3 3).toNat, exit := x.md.toNat, drain := false }
  | .lbrk _ => .brk (c.loops.head?.elim 0 fun l => l.stop + s.bundleLen l.stop)
  | .ldrain _ => .drain
  | .tend _ => .stop
  | _ => .seq

/-- The redirect of the bundle in issue. -/
def State.setRedirect (s : State) (r : Redirect) : State :=
  s.onCore fun c => { c with iss := c.iss.map fun b => { b with redir := r } }
def State.takeRedirect (s : State) (i : Instr) : State := s.setRedirect (s.redirectOf i)

/-- A pass drained (R187, R188). -/
def Loop.drained (l : Loop) : Loop := if l.drain then l else { l with neff := min l.neff (l.pass + 1), drain := true }
/-- The loop has a pass after this one (R182). -/
def Loop.goesOn (l : Loop) : Bool := decide (l.pass + 2 < l.neff + l.stages)

/-- What follows a bundle: the next address, redirect cycles, active loops innermost first, and LSTG.PX when it changes
(R174, R179, R183 to R189). `pre`: a pre-emption request counts at this bundle (R188). -/
structure NextPc where
  pc : Nat
  redirect : Nat
  loops : List Loop
  px : Option Bool
  deriving DecidableEq, Repr

/-- The end of a pass at END, whose sequential successor is F (R183, R188). -/
def passEnd (l : Loop) (rest : List Loop) (pre : Bool) (f : Nat) : NextPc :=
  let want := pre && l.exit != 0
  let l := if want then l.drained else l
  if l.goesOn then { pc := l.start, redirect := 0, loops := { l with pass := l.pass + 1 } :: rest, px := none }
  else if want then { pc := f + l.exit - 1, redirect := 2, loops := rest, px := some true }
  else { pc := f, redirect := 0, loops := rest, px := none }

/-- Loops that a branch to t leaves end, with every loop nested in them (R179). -/
def keepLoops (loops : List Loop) (t : Nat) : List Loop :=
  (loops.reverse.takeWhile fun l => decide (l.start ≤ t) && decide (t ≤ l.stop)).reverse

def nextAfter (loops : List Loop) (at_ len : Nat) (quiet : Bool) (r : Redirect) (pre : Bool) : NextPc :=
  let plain (ls : List Loop) : NextPc :=
    match ls with
    | [] => { pc := at_ + len, redirect := 0, loops := [], px := none }
    | l :: rest =>
      if !quiet && l.stop == at_ then passEnd l rest pre (at_ + len) else { pc := at_ + len, redirect := 0, loops := ls, px := none }
  match r with
  | .xfer t ends => { pc := t, redirect := 2, loops := if ends then keepLoops loops t else loops, px := none }
  | .start l => { pc := l.start, redirect := 0, loops := l :: loops, px := some false }
  | .zero f => { pc := f, redirect := 2, loops := loops, px := none }
  | .stop => { pc := at_ + len, redirect := 0, loops := loops, px := none }
  | .brk f =>
    match loops with
    | [] => plain []
    | _ :: rest => { pc := f, redirect := 2, loops := rest, px := none }
  | .drain =>
    match loops with
    | [] => plain []
    | l :: rest => plain (l.drained :: rest)
  | .seq => plain loops

/-! ### Transfers -/

/-- BR (R178). -/
def execBr (x : OpC) (s : State) : Res := s.slotRun (.br x) fun s => s.takeRedirect (.br x)
/-- BRI (R178). -/
def execBri (x : OpC) (s : State) : Res := s.slotRun (.bri x) fun s => s.takeRedirect (.bri x)
/-- RET (R178). -/
def execRet (x : OpC) (s : State) : Res := s.slotRun (.ret x) fun s => s.takeRedirect (.ret x)

/-- The link (R178): visible at issue + 1. -/
def State.linkResult (s : State) (wbs : Bool) : State :=
  let link : Word := BitVec.ofNat 64 (s.core.bundle.1 + (s.core.iss.elim 1 fun b => b.len))
  s.flightOf 0 .a (1, 1) false (if wbs then [] else [.sreg 63]) (if wbs then [] else [.sreg .a 63 link]) (.word link) {} {}

/-- CALL (R178). -/
def execCall (x : OpC) (s : State) : Res :=
  s.slotRun (.call x) fun s => (s.takeRedirect (.call x)).linkResult x.wbs
/-- CALLI (R178). -/
def execCalli (x : OpC) (s : State) : Res :=
  s.slotRun (.calli x) fun s => (s.takeRedirect (.calli x)).linkResult x.wbs

/-- LOOP (R180 to R182). -/
def execLoop (x : OpC) (s : State) : Res := s.slotRun (.loop x) fun s => s.takeRedirect (.loop x)
/-- LBRK (R186). -/
def execLbrk (x : OpC) (s : State) : Res := s.slotRun (.lbrk x) fun s => s.takeRedirect (.lbrk x)
/-- LDRAIN (R187). -/
def execLdrain (x : OpC) (s : State) : Res := s.slotRun (.ldrain x) fun s => s.takeRedirect (.ldrain x)

/-- The C-class hint 0x7D (R77): fetching ahead changes nothing a program sees. -/
def execBranchHint (x : OpC) (s : State) : Res := s.slotRun (.branchHint x) fun s => s
/-- NOP (R76): it does nothing. -/
def execNop (slot : Fin 8) (s : State) : Res := s.slotRun (.nop slot) fun s => s

/-! ### System registers (R190 to R197) -/

/-- PEER (R194). -/
def Hub.peerWord (h : Hub) : Nat := h.seat + h.pod * 32 + (if h.lock then 1024 else 0)

/-- lp0 to lp7 (R182). -/
def lpBits (loops : List Loop) : Nat :=
  ((List.range 8).map fun k => if stagePred loops k then 2 ^ k else 0).foldl (· + ·) 0

/-- The value of a system register at issue (R191). -/
def State.sysReg (s : State) (n : Nat) : Word :=
  let c := s.core
  let i := s.curTask
  let t := s.task i
  let w (v : Nat) : Word := BitVec.ofNat 64 v
  match n with
  | 0x000 => w s.cycle
  | 0x001 => w s.tick
  | 0x002 => w (s.cur % 72 + layerOf s.cur * 2 ^ 7 + towerOf s.cur * 2 ^ 8 + s.cur * 2 ^ 11)
  | 0x003 => w s.hub.peerWord
  | 0x010 => w i
  | 0x011 => w t.age
  | 0x012 => w t.ctx
  | 0x013 => w t.launch
  | 0x014 =>
    if t.gslot = 65535 then 0
    else w (bitsOf t.gslot 0 11 + groupRank t.gslot * 2 ^ 16 + (s.group (groupKey t.gslot)).size * 2 ^ 20)
  | 0x020 => c.fpcr.zeroExtend 64
  | 0x021 => c.fpsf.toBits.zeroExtend 64
  | 0x022 => c.mxc.toWord
  | 0x030 =>
    match c.loops with
    | [] => 0
    | l :: _ => w (l.pass % 2 ^ 32 + l.neff * 2 ^ 32)
  | 0x031 =>
    w (lpBits c.loops + c.loops.length * 2 ^ 8 + (if c.loops.head?.elim false fun l => l.drain then 2 ^ 11 else 0)
      + (if c.preq.isSome then 2 ^ 12 else 0) + (if c.px then 2 ^ 13 else 0))
  | 0x040 => c.cnt.rampcyc ++ c.cnt.cwcyc
  | 0x041 => w (c.cnt.limit + c.cnt.pub * 2 ^ 16 + c.cnt.used * 2 ^ 32)
  | 0x042 => w (c.cnt.step + Config.fwStep * 2 ^ 16 + c.cnt.prev * 2 ^ 32 + c.cnt.cur * 2 ^ 48 + c.cnt.skip * 2 ^ 58)
  | 0x043 => c.cnt.memw ++ c.cnt.ilck
  | 0x050 => c.cnt.stat.zeroExtend 64
  | _ => 0

/-- SYSR (R190). -/
def execSysr (x : OpI) (s : State) : Res :=
  s.slotRun (.sysr x) fun s => s.scalarResult (.sysr x) .a x.d (s.sysReg (x.imm.extractLsb' 0 12).toNat) {} {}

/-- A system-register write at commit (R190): RO registers and fields ignored, W1C under R8. -/
def Core.sysWrite (c : Core) (n : Nat) (v : Word) : Core :=
  match n with
  | 0x020 => { c with fpcr := v.extractLsb' 0 11 }
  | 0x021 => { c with fpsf := FpFlags.ofBits (v.extractLsb' 0 6) }
  | 0x040 => { c with cnt := { c.cnt with cwcyc := v.extractLsb' 0 32, rampcyc := v.extractLsb' 32 32 } }
  | 0x041 => { c with cnt := { c.cnt with limit := min (max (v.extractLsb' 0 12).toNat 128) c.cnt.pub } }
  | 0x042 => { c with cnt := { c.cnt with step := min (max (v.extractLsb' 0 10).toNat 1) Config.fwStep } }
  | 0x043 => { c with cnt := { c.cnt with ilck := v.extractLsb' 0 32, memw := v.extractLsb' 32 32 } }
  | 0x050 => { c with cnt := { c.cnt with stat := c.cnt.stat &&& ~~~(v.extractLsb' 0 6 &&& 0x39#6) } }
  | _ => c

/-- SYSW (R190): the write performs at commit. -/
def execSysw (x : OpI) (s : State) : Res :=
  s.slotRun (.sysw x) fun s =>
    s.onCore fun c => { c with iss := c.iss.map fun b =>
      { b with sysw := b.sysw ++ [((x.imm.extractLsb' 0 12).toNat, c.src .a x.a)] } }

end Sys2Proof.Machine
end

