-- ==== Sys2Proof/Machine/Barrier.lean ====
section
/-!
DEFINITION. Machine/Barrier.lean: barriers of the three scopes (R163 to R172).
-/
namespace Sys2Proof.Machine

/-! ### Identities (R163) -/

/-- The barrier an id names: by a group's key, or by an index. -/
inductive BarRef where
  | group (key : Nat)
  | device (i : Nat)
  | pod (i : Nat)
  deriving DecidableEq, Repr

def State.bar (s : State) : BarRef → Barrier
  | .group k => (s.group k).bar
  | .device i => s.devBar i
  | .pod i => s.podBar i
def State.modBar (s : State) (r : BarRef) (f : Barrier → Barrier) : State :=
  match r with
  | .group k => s.modGroup k fun g => { g with bar := f g.bar }
  | .device i => { s with devBars := tmod {} s.devBars i f }
  | .pod i => { s with podBars := tmod {} s.podBars i f }

/-- KIND of an id. -/
def barKind (id : Nat) : Nat := bitsOf id 30 2
/-- The id a register holds. -/
def barId (w : Word) : Nat := w.toNat % 2 ^ 32
/-- The barrier that an id names for a task, bound or not. -/
def State.barNamed (s : State) (i id : Nat) : BarRef :=
  if barKind id = 0 then .group (groupKey (s.task i).gslot)
  else if barKind id = 1 then .device (id % 4096)
  else .pod (id % 256)
/-- The barrier that an id names for a task; none where its use faults with BARSTALE (R167). -/
def State.barRef (s : State) (i id : Nat) : Option BarRef :=
  let r := s.barNamed i id
  match r with
  | .group _ => if (s.task i).gslot = 65535 then none else some r
  | _ => if (s.bar r).bound && (s.bar r).ctx == (s.task i).ctx then some r else none

/-- The tasks that wait at a barrier, with id and phase (WADDR holds the phase: notes/assumptions/40.md). -/
def State.barWaiters (s : State) (r : BarRef) : List Nat :=
  s.taskList.filter fun i =>
    let t := s.task i
    t.state == .suspended && t.wkind == 3 && s.barNamed i t.wobj == r
      && (match r with
        | .group _ => t.gslot != 65535
        | _ => t.ctx == (s.bar r).ctx)

/-- The waiters whose phase has completed become READY (R166, R172). -/
def State.barWake (s : State) (r : BarRef) : State :=
  s.wakeAll ((s.barWaiters r).filter fun i => phaseDone (s.bar r).gen (s.task i).waddr)

/-! ### Arrivals (R166, R169) -/

/-- A phase of a group or device barrier completes. -/
def State.barComplete (s : State) (r : BarRef) : State :=
  (s.modBar r fun b => { b with arrived := 0, gen := b.gen + 1 }).barWake r

/-- An arrival would complete the phase while AGEN = GEN + 1: it is held (R169). -/
def Barrier.holds (b : Barrier) : Bool :=
  b.bound && !b.lost && decide (b.expect ≠ 0) && decide (b.arrived + 1 ≥ b.expect) && b.agen != b.gen

/-- An arrival at a pod barrier counts: its ARRIVE leaves when it completes the local phase (R166). -/
def State.podArrive (s : State) (i : Nat) : State × Bool :=
  let b := s.podBar i
  if b.arrived + 1 < b.expect then (s.modBar (.pod i) fun b => { b with arrived := b.arrived + 1 }, false)
  else
    let g := b.agen.toNat
    let s := s.modBar (.pod i) fun b => { b with arrived := 0, agen := b.agen + 1 }
    let own := s.hub.peer
    let others := (List.range 32).filter fun k => b.seats.getLsbD k && k != peerSeat own
    (others.foldl (fun s k => s.sendCtl 5 (k + 32 * peerPod own) .x (i + g * 2 ^ 8) 0) s, true)

/-- An ARRIVE of a seat is kept for GEN or for GEN + 1 (R169). -/
def State.noteArrive (s : State) (i : Nat) (g : BitVec 16) (seat : Nat) : State :=
  s.modBar (.pod i) fun b =>
    if g = b.gen then { b with got := b.got ||| BitVec.ofNat 32 (2 ^ seat) }
    else if g = b.gen + 1 then { b with gotNext := b.gotNext ||| BitVec.ofNat 32 (2 ^ seat) }
    else b

/-- Every seat of SEATS has arrived in the phase GEN (R166); a lost barrier's GEN stands (R170). -/
def Barrier.allIn (b : Barrier) : Bool :=
  b.bound && !b.lost && decide (b.expect ≠ 0) && (b.seats &&& ~~~b.got) == 0

/-- Held arrivals count as far as the barrier now lets them, in the order of their cores (R169): each core's completion
step keeps the generation it arrived in. Answers whether one of them completed the local phase. -/
def State.countHeld (s : State) (i : Nat) : List Nat → State × Bool
  | [] => (s, false)
  | l :: ls =>
    match (s.coreAt l).compl with
    | some q =>
      if q.heldArrival = some i && !(s.podBar i).holds then
        let g := (s.podBar i).agen
        let r := s.podArrive i
        let s := r.1.modCore l fun c => { c with compl := c.compl.map fun q => { q with heldArrival := none, arrivedGen := some g } }
        let r2 := s.countHeld i ls
        (r2.1, r.2 || r2.2)
      else s.countHeld i ls
    | none => s.countHeld i ls

/-- GEN advances when every seat has arrived (R166, R169). The device's own ARRIVE for the next phase may follow at once;
the fuel bounds the repetitions. -/
def State.podAdvance (s : State) (i : Nat) : Nat → State
  | 0 => s
  | n + 1 =>
    if (s.podBar i).allIn then
      let s := (s.modBar (.pod i) fun b => { b with gen := b.gen + 1, got := b.gotNext, gotNext := 0 }).barWake (.pod i)
      let g := (s.podBar i).agen
      let r := s.countHeld i s.coreList
      (if r.2 then r.1.noteArrive i g (peerSeat r.1.hub.peer) else r.1).podAdvance i n
    else s

/-- An ARRIVE reaches the hub (R166, R169). An unbound barrier discards it. -/
def State.arriveAt (s : State) (i : Nat) (g : BitVec 16) (seat : Nat) : State :=
  if (s.podBar i).bound then (s.noteArrive i g seat).podAdvance i (s.coreList.length + 2) else s

/-- An arrival at a barrier counts (R166): the generation arrived in. -/
def State.barArrive (s : State) (r : BarRef) : BitVec 16 × State :=
  let b := s.bar r
  match r with
  | .pod i =>
    let g := b.agen
    let q := s.podArrive i
    (g, if q.2 then q.1.arriveAt i g (peerSeat s.hub.peer) else q.1)
  | _ =>
    (b.gen, if b.arrived + 1 < b.expect then s.modBar r fun b => { b with arrived := b.arrived + 1 } else s.barComplete r)

/-- A member leaves its group (R168). -/
def State.groupLeave (s : State) (key : Nat) : State :=
  let s := s.modBar (.group key) fun b => { b with expect := b.expect - 1 }
  let b := s.bar (.group key)
  if b.expect ≠ 0 && decide (b.arrived ≥ b.expect) then s.barComplete (.group key) else s

/-- The X link to a seat of this pod enters FAILED or DARK (R170). -/
def State.seatLost (s : State) (seat : Nat) : State :=
  (tkeys s.podBars).foldl (fun s i =>
    let b := s.podBar i
    if b.bound && decide (b.expect ≠ 0) && !b.lost && b.seats.getLsbD seat then
      let s := s.modBar (.pod i) fun b => { b with lost := true, lostSeat := seat }
      let s := (s.barWaiters (.pod i)).foldl (fun s k =>
        (s.wake k).modTask k fun t => { t with recheck := some ((s.task k).wobj, (s.task k).waddr) }) s
      s.event evPODBARLOST (some b.ctx) i seat
    else s) s

/-! ### Instructions (R172) -/

/-- BARSTALE and BARLOST as faults of an operation. -/
def State.barStale (s : State) (h : HeldOp) : State := s.opFailed h 2 fcBARSTALE (s.freeArg fcBARSTALE) 0 0
def State.barLost (s : State) (h : HeldOp) (id seat : Nat) : State :=
  s.opFailed h 2 fcBARLOST (BitVec.ofNat 64 id) (BitVec.ofNat 64 seat) 0

/-- The scope of a barrier's release and acquire (R171). -/
def barScope (id : Nat) : Nat := barKind id + 2

/-- An arrival by the operation h, which writes the generation to D, or nothing when deferred (R136, R172). A held arrival
has been counted already (R169). The generation, or none after a fault. -/
def State.arriveOp (s : State) (h : HeldOp) (d : Opnd) : Option (BitVec 16) × State :=
  let id := barId (h.vals.getD 0 0)
  let fin (g : BitVec 16) (s : State) : Option (BitVec 16) × State :=
    (some g, if s.isDeferred then s else s.writeNow h d (g.zeroExtend 64))
  match s.core.compl.bind fun q => q.arrivedGen with
  | some g => fin g (s.modCompl fun q => { q with arrivedGen := none })
  | none =>
    match s.barRef s.curTask id with
    | none => (none, s.barStale h)
    | some r =>
      let b := s.bar r
      if b.lost then (none, s.barLost h id b.lostSeat)
      else if b.expect = 0 then (none, s.barStale h)
      else
        let q := s.barArrive r
        fin q.1 q.2

/-- A wait on phase g (R172): it suspends the task, or acquires (R171). -/
def State.waitOp (s : State) (h : HeldOp) (id g : Nat) : State :=
  match s.barRef s.curTask id with
  | none => s.barStale h
  | some r =>
    let b := s.bar r
    if phaseDone b.gen g then s.acquireAt s.cur (barScope id)
    else if b.lost then s.barLost h id b.lostSeat
    else s.ask (.suspend 3 id g)

def State.performBara (x : OpA) (h : HeldOp) (s : State) : State := (s.arriveOp h x.d).2
def State.performBarw (h : HeldOp) (s : State) : State :=
  s.waitOp h (barId (h.vals.getD 0 0)) ((h.vals.getD 1 0).toNat % 65536)
def State.performBarx (x : OpA) (h : HeldOp) (s : State) : State :=
  match s.arriveOp h x.d with
  | (some g, s) => s.waitOp h (barId (h.vals.getD 0 0)) g.toNat
  | (none, s) => s

/-- BARA (R172). -/
def execBara (x : OpA) (s : State) : Res := s.quietOp (.bara x) (fun s => [s.core.src .a x.a]) (State.performBara x)
/-- BARW (R172). -/
def execBarw (x : OpA) (s : State) : Res := s.quietOp (.barw x) (fun s => [s.core.src .a x.a, s.core.src .a x.b]) State.performBarw
/-- BARX (R172). -/
def execBarx (x : OpA) (s : State) : Res := s.quietOp (.barx x) (fun s => [s.core.src .a x.a]) (State.performBarx x)
/-- PBARA (R172). -/
def execPbara (x : OpA) (s : State) : Res := s.quietOp (.pbara x) (fun s => [s.core.src .a x.a]) (State.performBara x)
/-- PBARW (R172). -/
def execPbarw (x : OpA) (s : State) : Res := s.quietOp (.pbarw x) (fun s => [s.core.src .a x.a, s.core.src .a x.b]) State.performBarw
/-- BARI (R172). -/
def execBari (x : OpA) (s : State) : Res :=
  s.slotRun (.bari x) fun s => s.askHub (.bari x) [s.core.src .a x.a, s.core.src .a x.b, s.core.src .a x.c] false []

/-- The lowest seat of a mask, other than this device's, whose X link is FAILED or DARK (R170). -/
def State.downSeat (s : State) (seats : BitVec 32) : Option Nat :=
  firstBelow 32 fun k => seats.getLsbD k && k != s.hub.seat &&
    (match s.planeX.link (k + 32 * s.hub.pod) with
      | .failed | .dark => true
      | _ => false)

/-- BARI at the hub (R166, R170). -/
def State.performBari (s : State) (lin : Nat) (e : MqEntry) : State :=
  let id := barId (e.vals.getD 0 0)
  let count := (e.vals.getD 1 0).toNat
  let seats : BitVec 32 := (e.vals.getD 2 0).extractLsb' 0 32
  match s.barRef ((s.coreAt lin).task.getD 0) id with
  | none => s.entryFatal lin e fcBARSTALE (s.freeArg fcBARSTALE) 0
  | some r =>
    let b := s.bar r
    let pod := barKind id == 2
    let set (s : State) : State := s.modBar r fun b => { b with expect := count, seats := if pod then seats else 0 }
    if b.lost then
      match s.downSeat seats with
      | some k => s.entryFatal lin e fcBARLOST (BitVec.ofNat 64 id) (BitVec.ofNat 64 k)
      | none =>
        (set (s.modBar r fun b =>
          { b with lost := false, lostSeat := 0, arrived := 0, agen := b.gen, got := 0, gotNext := 0 })).dequeue lin e.seq
    else if b.expect ≠ 0 && b.arrived ≠ 0 then s.entryFatal lin e fcBARBUSY (s.freeArg fcBARBUSY) 0
    else (set s).dequeue lin e.seq

/-- A resumed waiter checks its phase again (R170): it faults, waits again, or goes on. -/
def State.recheckBar (s : State) (lin : Nat) : State :=
  match (s.coreAt lin).task with
  | none => s
  | some i =>
    match (s.task i).recheck with
    | none => s
    | some (id, g) =>
      let s := s.modTask i fun t => { t with recheck := none }
      let c := s.coreAt lin
      match s.barRef i id with
      | none => s
      | some r =>
        let b := s.bar r
        if phaseDone b.gen g then s
        else if b.lost then s.fatal lin c.bseq c.pc 1 fcBARLOST (BitVec.ofNat 64 id) (BitVec.ofNat 64 b.lostSeat) 0
        else s.startLeave lin (.suspended 3 id g) 0 c.pc c.bseq

/-! ### The fabric and the host -/

/-- ARRIVE (R166, R169). -/
def State.arriveMsg (s : State) (m : BitVec 128) : State :=
  s.arriveAt (ctlBits m 25 8) (BitVec.ofNat 16 (ctlBits m 33 16)) (peerSeat (ctlSrc m))

/-- The entry a host command names. -/
def hostBar (pod : Bool) (index : Nat) : BarRef := if pod then .pod (index % 256) else .device (index % 4096)

/-- BARRIER_BIND (R166): word 0 with BOUND 1 is written to the entry. -/
def execBarrierBind (pod : Bool) (index : Nat) (v : Word) (s : State) : Res :=
  .next (s.modBar (hostBar pod index) fun b =>
    let ctx := (v.extractLsb' 56 6).toNat
    if b.bound then { b with ctx := ctx } else { bound := true, ctx := ctx })

/-- An entry is unbound (R166). -/
def State.unbind (s : State) (r : BarRef) : State :=
  if (s.bar r).bound then
    let ws := s.barWaiters r
    (s.wakeAll ws).modBar r fun b => { b with bound := false, lost := false, lostSeat := 0, got := 0, gotNext := 0 }
  else s

/-- BARRIER_UNBIND (R166). -/
def execBarrierUnbind (pod : Bool) (index : Nat) (s : State) : Res := .next (s.unbind (hostBar pod index))

end Sys2Proof.Machine
end

