-- ==== Sys2Proof/Machine/Ring.lean ====
section
/-!
DEFINITION. Machine/Ring.lean: device queues (R108 to R113): QPUT, QGET, QPEEK, QEXPIRE.
-/
namespace Sys2Proof.Machine

/-! ### Access at the home slice -/

/-- Why a step of a ring does not perform. -/
inductive RingStop where
  | wait (va : Nat)
  | restart (code va a1 kind obj : Nat)
  | fatal (code a0 : Nat)
  deriving DecidableEq, Repr

/-- The physical address of 64 aligned bytes for a task of context c (R113); `rd`: they are read. -/
def State.ringAt (s : State) (c t va : Nat) (rd wr : Bool) : Except RingStop Nat × State :=
  if va ≥ 2 ^ 57 then (.error (.fatal fcADDRRANGE va), s)
  else
    match s.translate c va 64 wr t 0 with
    | (.ok x, s) =>
      let pa := x.base + va % 65536
      if s.logBlocked x.leaf then (.error (.wait va), s.force x.leaf)
      else
        match (sectorsOf pa 64).filter fun k => rd && tget false s.poison k with
        | k :: _ => (.error (.fatal fcPOISON (32 * k)), s)
        | [] => (.ok pa, s)
    | (.absent, s) => (.error (.restart fcNOTPRESENT va 0 5 0), s)
    | (.readonly, s) => (.error (.fatal fcREADONLY va), s)
    | (.poison f, s) => (.error (.fatal fcPOISON f), s)
    | (.transit _, s) => (.error (.wait va), s)
    | (.pantry k, s) => (.error (.restart fcPANTRY va k 7 0), s)

/-- What a stop does to an operation of the completion step. A deferred operation waits for a frame of the pantry. -/
def State.ringStop (s : State) (h : HeldOp) (r : RingStop) : State :=
  match r with
  | .wait va => s.retryOp h 3 va
  | .restart code va a1 kind obj =>
    if s.isDeferred && code = fcPANTRY then s.retryOp h 3 va
    else s.opRestart h code (BitVec.ofNat 64 va) (BitVec.ofNat 64 a1) kind obj (va / 65536 * 65536)
  | .fatal code a0 => s.opFailed h 2 code (BitVec.ofNat 64 a0) 0 0

/-! ### The descriptor (R108) -/

/-- A descriptor as read. -/
structure RingDesc where
  base : Nat
  log2cap : Nat
  head : Word
  tail : Word
  drops : BitVec 32
  ok : Bool
  deriving DecidableEq, Repr

def State.ringDesc (s : State) (pa : Nat) : RingDesc :=
  let w (k : Nat) : Nat := s.readWord (pa + 8 * k)
  { base := bitsOf (w 0) 6 51 * 64, log2cap := bitsOf (w 1) 0 5, head := BitVec.ofNat 64 (w 2), tail := BitVec.ofNat 64 (w 3),
    drops := BitVec.ofNat 32 (w 4),
    ok := bitsOf (w 0) 0 6 == 0 && bitsOf (w 0) 57 7 == 0 && bitsOf (w 1) 5 59 == 0 && decide (1 ≤ bitsOf (w 1) 0 5)
      && decide (bitsOf (w 1) 0 5 ≤ 20) && bitsOf (w 4) 32 32 == 0 && w 5 == 0 && w 6 == 0 && w 7 == 0 }

/-- Records in the ring: TAIL − HEAD of exact integers (R10), with none when HEAD is past TAIL. -/
def RingDesc.count (d : RingDesc) : Nat := d.tail.toNat - d.head.toNat
/-- Address of record i. -/
def RingDesc.record (d : RingDesc) (i : Word) : Nat := d.base + i.toNat % 2 ^ d.log2cap * 64

def State.setHead (s : State) (pa : Nat) (v : Word) : State := s.write (pa + 16) (leBytes v.toNat 8)
def State.setTail (s : State) (pa : Nat) (v : Word) : State := s.write (pa + 24) (leBytes v.toNat 8)

/-- Where a virtual address of a context lies now, if its page has a frame that holds its bytes. -/
def State.physNow (s : State) (c va : Nat) : Option Nat :=
  match s.walk c va with
  | .leaf _ level e =>
    if pteRes e = resABSENT || pteRes e = resZERO then none else some (s.physOf c level e va)
  | _ => none

/-- The tasks that wait at the ring whose descriptor lies at pa. -/
def State.ringWaiters (s : State) (pa : Nat) : List Nat :=
  s.taskList.filter fun i =>
    let t := s.task i
    t.state == .suspended && t.wkind == 4 && s.physNow t.ctx t.waddr == some pa

/-- A waiter's destination can be written now. -/
def State.destReady (s : State) (c va : Nat) : Bool :=
  match s.walk c va with
  | .leaf _ _ e => pteW e && !inTransit (pteRes e) && pteRes e != resPOISONED
  | _ => false

/-! ### QPUT, QGET, QPEEK (R110) -/

/-- QPUT with its descriptor at pd and its source at ps. -/
def State.putRecord (s : State) (h : HeldOp) (desc pd ps : Nat) : State :=
  let d := s.ringDesc pd
  let c := s.curCtx
  let t := towerOf s.cur
  let bytes := s.read ps 64
  if d.count < 2 ^ d.log2cap then
    match s.oldest (s.ringWaiters pd) with
    | some j =>
      let w := s.task j
      if s.destReady w.ctx w.qdest then
        match s.ringAt w.ctx t w.qdest false true with
        | (.ok pa, s) => (((s.write pa bytes).setHead pd (d.head + 1)).setTail pd (d.tail + 1)).wake j
        | (.error _, s) => s.retryOp h 3 w.qdest
      else s.retryOp h 3 w.qdest
    | none =>
      match s.ringAt c t (d.record d.tail) false true with
      | (.ok pa, s) => (s.write pa bytes).setTail pd (d.tail + 1)
      | (.error r, s) => s.ringStop h r
  else if s.isDeferred then
    let n := satAdd32 d.drops 1
    (s.write (pd + 32) (leBytes n.toNat 4)).event evQDROP (some c) desc n.toNat
  else s.opFailed h 3 fcQFULL (BitVec.ofNat 64 desc) d.head d.tail

def State.performQput (h : HeldOp) (s : State) : State :=
  let desc := (h.vals.getD 0 0).toNat
  match s.ringAt s.curCtx (towerOf s.cur) desc true true with
  | (.error r, s) => s.ringStop h r
  | (.ok pd, s) =>
    if !(s.ringDesc pd).ok then s.opFailed h 2 fcQDESC (BitVec.ofNat 64 desc) 0 0
    else
      match s.ringAt s.curCtx (towerOf s.cur) (h.vals.getD 1 0).toNat true false with
      | (.error r, s) => s.ringStop h r
      | (.ok ps, s) => s.putRecord h desc pd ps

/-- The limit of a QGET as a cycle: the first multiple of 64 at or after issue + n (R112). -/
def limitCycle (issue n : Nat) : Option Nat := if n = 0 then none else some ((issue + n + 63) / 64 * 64)

/-- QGET in the completion step (R110, R111); operands: descriptor, destination, limit, cycle of issue. -/
def State.performQget (h : HeldOp) (s : State) : State :=
  let desc := (h.vals.getD 0 0).toNat
  let dest := (h.vals.getD 1 0).toNat
  match s.ringAt s.curCtx (towerOf s.cur) desc true true with
  | (.error r, s) => s.ringStop h r
  | (.ok pd, s) =>
    let d := s.ringDesc pd
    if !d.ok then s.opFailed h 2 fcQDESC (BitVec.ofNat 64 desc) 0 0
    else
      match s.ringAt s.curCtx (towerOf s.cur) dest false true with
      | (.error r, s) => s.ringStop h r
      | (.ok pa, s) =>
        if d.count = 0 then
          (s.modTask s.curTask fun t =>
            { t with qdest := dest, qlimit := limitCycle (h.vals.getD 3 0).toNat (h.vals.getD 2 0).toNat,
                     qfrom := (s.core.compl.elim 0 fun q => q.baddr, s.cur) }).ask (.suspend 4 0 desc)
        else
          match s.ringAt s.curCtx (towerOf s.cur) (d.record d.head) true false with
          | (.error r, s) => s.ringStop h r
          | (.ok pr, s) =>
            (((s.write pa (s.read pr 64)).setHead pd (d.head + 1)).writeNow h .nil d.head).acquireAt s.cur 3

/-- QPUT (R110). -/
def execQput (x : OpI) (s : State) : Res :=
  s.quietOp (.qput x) (fun s => [s.core.src .a x.a, s.core.src .a x.d]) State.performQput
/-- QGET (R110). -/
def execQget (x : OpI) (s : State) : Res :=
  s.quietOp (.qget x) (fun s => [s.core.src .a x.a, s.core.src .a x.d, x.imm.zeroExtend 64, BitVec.ofNat 64 s.cycle])
    State.performQget
/-- QPEEK (R110): an access of the descriptor at its home slice, interlocked. -/
def execQpeek (x : OpI) (s : State) : Res :=
  s.slotRun (.qpeek x) fun s =>
    let va := (s.core.src .a x.a).toNat
    s.enqueue (.qpeek x) false false va [] 0 0 (if va < 2 ^ 57 then .walk else .slice) true [x.d]

/-- QPEEK at the slice. -/
def State.performQpeek (s : State) (lin : Nat) (e : MqEntry) (x : OpI) : State :=
  match s.ringAt (s.ctxOf lin) (towerOf lin) e.ea true false with
  | (.ok pd, s) =>
    let d := s.ringDesc pd
    if !d.ok then s.entryFatal lin e fcQDESC (BitVec.ofNat 64 e.ea) 0
    else s.deliverWord lin e x.d (d.tail - d.head)
  | (.error (.wait va), s) =>
    match s.walk (s.ctxOf lin) va with
    | .leaf a _ _ => s.setEntry lin e.seq fun e => { e with st := .transit s.cycle a }
    | _ => s
  | (.error (.restart code va a1 kind obj), s) =>
    s.restart lin e.bseq e.baddr (slotMask e.slot) code (BitVec.ofNat 64 va) (BitVec.ofNat 64 a1) kind obj
      (va / 65536 * 65536)
  | (.error (.fatal code a0), s) => s.entryFatal lin e code (BitVec.ofNat 64 a0) 0

/-- QEXPIRE (R112): the limit of a waiting QGET has come. -/
def execQexpire (task : Nat) (s : State) : Res :=
  let t := s.task task
  match t.qlimit with
  | none => .next s
  | some n =>
    if t.state != .suspended || t.wkind != 4 || decide (s.cycle < n) then .next s
    else
      let d := (s.physNow t.ctx t.waddr).map s.ringDesc
      let s' := s.modTask task fun t =>
        { t with state := .faulted, wkind := 0, wobj := 0, waddr := 0, qlimit := none, ecode := fcQEXPIRE, emask := 1, eclass := 3,
                 ecore := t.qfrom.2, epc := t.qfrom.1, earg0 := BitVec.ofNat 64 t.waddr,
                 earg1 := d.elim (s.freeArg fcQEXPIRE) fun d => d.head, earg2 := d.elim (s.freeArg fcQEXPIRE) fun d => d.tail }
      let s' := if t.gslot != 65535 then s'.groupFault (groupKey t.gslot) task else s'
      .next (s'.faultPolicy task false)

end Sys2Proof.Machine
end

