-- ==== Sys2Proof/Machine/HostQueue.lean ====
section
/-!
DEFINITION. Machine/HostQueue.lean: host work queues (R100 to R107): appends, commands, the queue engine and the records
that need no launch.
-/
namespace Sys2Proof.Machine

/-! ### WAITF and errors (R106, R107) -/

/-- The queue enters ERROR (R106). -/
def State.queueError (s : State) (q err : Nat) : State :=
  s.modQueue q fun x => { x with state := .error, err := err, waitf := none, stalled := false }

/-- A WAITF in progress meets its future (R106): a stale handle is BADFUTURE. A future that resolves in the cycle of a STOP counts as
satisfying the WAITF, whatever ONFAIL is (R107). -/
def State.settleWaitf (s : State) (q : Nat) : State :=
  let x := s.queue q
  match x.waitf with
  | none => s
  | some (h, onfail) =>
    if x.state == .stopped && s.rankOf 5 q != 0 && !s.futStale h x.ctx && (s.fut (futIndex h)).state != .empty then
      s.modQueue q fun x => { x with waitf := none }
    else if !(x.state == .enabled || x.state == .blocked) || !s.ctxActive x.ctx then s
    else if s.futStale h x.ctx then s.queueError q 4
    else
      let go (s : State) : State := s.modQueue q fun x => { x with state := .enabled, waitf := none }
      match (s.fut (futIndex h)).state with
      | .empty => s.modQueue q fun x => { x with state := .blocked }
      | .failed => if onfail then go s else s.queueError q 5
      | _ => go s

/-- Every WAITF in progress meets its future. -/
def State.settleQueues (s : State) : State := (tkeys s.queues).foldl State.settleWaitf s

/-! ### Appends and commands (R101 to R103, R106) -/

/-- Slots of a ring, and records in it. -/
def Queue.size (x : Queue) : Nat := 2 ^ x.log2n
def Queue.pending (x : Queue) : Nat := (x.appended - x.taken).toNat

/-- QUEUE_APPEND (R102, R103): a write of bytes at an offset of an aperture. -/
def execQueueAppend (q offset : Nat) (bytes : List Byte) (s : State) : Res :=
  let x := s.queue q
  let n := bytes.length
  if n ≠ 64 || offset % 64 ≠ 0 then
    .next ((s.modCtx x.ctx fun c => { c with qpartial := c.qpartial + 1 }).event evQPARTIAL (some x.ctx) q
      (offset % 4096 + n % 4096 * 2 ^ 16))
  else if !(x.state == .enabled || x.state == .blocked || x.state == .stopped) || !s.ctxActive x.ctx then .next s
  else if x.pending ≥ x.size then .next (s.queueError q 3)
  else
    .next ((s.write (x.rbase + x.appended.toNat % x.size * 64) bytes).modQueue q fun x =>
      { x with appended := x.appended + 1 })

/-- ENABLE (R101, R106). -/
def execEnable (q : Nat) (s : State) : Res :=
  let x := s.queue q
  let c := s.ctx x.ctx
  if x.state == .disabled then
    if x.pri > c.maxpri || (x.privq && !c.priv) || c.state != .active || x.log2n < 6 || x.log2n > 16 then
      .next (s.modQueue q fun x => { x with err := 8 })
    else .next (s.modQueue q fun x => { x with state := .enabled })
  else if x.state == .stopped then .next ((s.modQueue q fun x => { x with state := .enabled }).settleWaitf q)
  else .next s

/-- The launches a queue carried that have not ended. -/
def State.launchesOf (s : State) (q : Nat) : List Nat :=
  (tkeys s.launches).filter fun k => (s.launchOf k).state != .free && (s.launchOf k).queue == q

/-- A DRAINING queue whose launches have ended is STOPPED (R106), while its context is ACTIVE (R94). -/
def State.drainCheck (s : State) (q : Nat) : State :=
  let x := s.queue q
  if x.state == .draining && (s.launchesOf q).isEmpty && s.ctxActive x.ctx then
    (s.modQueue q fun x => { x with state := .stopped }).event evQDRAINED (some x.ctx) q 0
  else s

/-- DRAIN (R106). A WAITF in progress is kept, and taken again on a later ENABLE, as R106 has it for STOP; of DRAIN the spec does not say
(notes/assumptions/94.md). -/
def execDrain (q : Nat) (s : State) : Res :=
  match (s.queue q).state with
  | .enabled | .blocked | .stopped =>
    .next ((s.modQueue q fun x => { x with state := .draining, stalled := false }).drainCheck q)
  | _ => .next s

/-- STOP (R106); a BLOCKED queue notes the cycle (R107). -/
def execStop (q : Nat) (s : State) : Res :=
  let stop (s : State) : State := s.modQueue q fun x => { x with state := .stopped, stalled := false }
  match (s.queue q).state with
  | .enabled => .next (stop s)
  | .blocked => .next ((stop s).rank 5 q 0)
  | _ => .next s

/-- A queue is reset (R106). -/
def State.resetQueue (s : State) (q : Nat) : State :=
  if (s.queue q).state == .disabled then s
  else
    s.modQueue q fun x =>
      { x with state := .disabled, appended := 0, taken := 0, err := 0, waitf := none, stalled := false }

/-- RESET (R106). -/
def execReset (q : Nat) (s : State) : Res := .next (s.resetQueue q)

/-! ### The queue engine (R104 to R106) -/

/-- The eight words of the record at the head of a queue. -/
def State.record (s : State) (q : Nat) : List Nat :=
  let x := s.queue q
  (List.range 8).map fun k => s.readWord (x.rbase + x.taken.toNat % x.size * 64 + 8 * k)

def recKind (w : List Nat) : Nat := bitsOf (w.getD 0 0) 0 4
def recSerial (w : List Nat) : Bool := bitsOf (w.getD 0 0) 4 1 == 1
/-- The handle in word 0. -/
def recHandle (w : List Nat) : Nat := bitsOf (w.getD 0 0) 32 32

/-- The launch tick the next launch would take (R130). -/
def State.nextStick (s : State) : Nat := max (s.tick - s.hub.ageBase) (s.hub.sPrev + 1)
def maxStick : Nat := 0xFFFFFFFFFFF

/-- The queue has a record that the engine may take (R104, R122, R130, R357). -/
def State.servable (s : State) (q : Nat) : Bool :=
  let x := s.queue q
  x.state == .enabled && x.waitf.isNone && s.ctxActive x.ctx && x.appended != x.taken &&
    (let w := s.record q
     let k := recKind w
     !(recSerial w && !(s.launchesOf q).isEmpty)
       && !((k == 1 || k == 2) && (firstBelow 4096 fun n => (s.launchOf n).state == .free).isNone)
       && !(k == 5 && decide ((s.scheds.filter fun d => d.ctx == x.ctx).length ≥ 4)))

/-- The queue the engine serves (R104): the highest PRI, and within it the next number after the one served last. -/
def State.served (s : State) : Option Nat :=
  let ok := (tkeys s.queues).filter fun q => s.servable q && !(s.queue q).stalled
  let top := ok.foldl (fun m q => max m (s.queue q).pri) 0
  let at_ := ok.filter fun q => (s.queue q).pri == top
  match at_.find? fun q => decide (q ≥ tget 0 s.hub.robin top) with
  | some q => some q
  | none => at_.head?

/-- The engine may take the record of the queue now. -/
def State.canTake (s : State) (q : Nat) : Bool := s.servable q && ((s.queue q).stalled || s.served == some q)

/-- Bits a record's table leaves reserved, or a badly aligned address (R105, R106). -/
def recordOk (w : List Nat) : Bool :=
  let g (k : Nat) : Nat := w.getD k 0
  let zero (l : List Nat) : Bool := l.all fun k => g k == 0
  let addr (k a : Nat) : Bool := g k % 2 ^ a == 0 && decide (g k < 2 ^ 57)
  match recKind w with
  | 0 => g 0 / 32 == 0 && zero [1, 2, 3, 4, 5, 6, 7]
  | 1 => bitsOf (g 0) 5 3 == 0 && bitsOf (g 0) 16 16 == 0 && addr 1 12 && addr 2 6 && addr 3 6 && bitsOf (g 6) 32 32 == 0 && g 7 == 0
  | 2 => bitsOf (g 0) 5 3 == 0 && bitsOf (g 0) 16 16 == 0 && addr 1 12 && addr 2 6 && addr 3 6 && bitsOf (g 6) 32 32 == 0
    && g 7 / 32 == 0 && decide (2 ≤ g 7) && decide (g 7 ≤ 16)
  | 3 => bitsOf (g 0) 5 27 == 0 && bitsOf (g 2) 1 7 == 0 && g 2 / 2 ^ 24 == 0 && zero [3, 4, 5, 6, 7]
  | 4 => bitsOf (g 0) 5 27 == 0 && g 1 / 2 == 0 && zero [2, 3, 4, 5, 6, 7]
  | 5 => g 0 / 32 == 0 && addr 1 6 && decide (1 ≤ g 2) && decide (g 2 < 2 ^ 16) && zero [3, 4, 5, 6, 7]
  | 6 => g 0 / 32 == 0 && addr 1 12 && g 2 / 4 == 0 && zero [4, 5, 6, 7]
  | 7 => bitsOf (g 0) 5 27 == 0 && bitsOf (g 0) 40 24 == 0 && addr 1 7 && zero [2, 3, 4, 5, 6, 7]
  | _ => false

/-- The error of R106 that a record meets before its effect, in the order of that rule's rows (notes/assumptions/42.md):
0 none. -/
def State.recordError (s : State) (q : Nat) (w : List Nat) : Nat :=
  let x := s.queue q
  let k := recKind w
  let h := recHandle w
  if k ≥ 8 then 1
  else if (k = 6 || k = 7) && !x.privq then 2
  else if (k = 3 || k = 4 || ((k = 1 || k = 2) && h ≠ 0)) && s.futStale h x.ctx then 4
  else if k = 3 && (s.fut (futIndex h)).state != .empty then 4
  else if recordOk w then 0 else 6

/-- What taking a record comes to. -/
inductive Took where
  | done (s : State)
  | err (n : Nat) (s : State)
  /-- The engine waits for a page (R115). -/
  | wait (s : State)

/-- A record that the engine takes is counted (R100, R104). -/
def State.countTaken (s : State) (q : Nat) : State :=
  (s.modQueue q fun x => { x with taken := x.taken + 1, stalled := false }).modHub fun h =>
    { h with robin := tput 0 h.robin (s.queue q).pri (q + 1) }

/-- The engine takes the record at the head of a queue when its kind satisfies p (R104 to R106): it acts, or puts the
queue in ERROR, or waits. -/
def State.takeRecord (s : State) (q : Nat) (p : List Nat → Bool) (act : List Nat → State → Took) : Res :=
  let w := s.record q
  if !s.canTake q || !p w then .next s
  else
    match s.recordError q w with
    | 0 =>
      match act w s with
      | .done s' => .next (s'.countTaken q)
      | .err n s' => .next ((s'.countTaken q).queueError q n)
      | .wait s' => .next (s'.modQueue q fun x => { x with stalled := true })
    | n => .next ((s.countTaken q).queueError q n)

/-- NOP_RECORD (R105). -/
def execNopRecord (q : Nat) (s : State) : Res := s.takeRecord q (fun w => recKind w == 0) fun _ s => .done s

/-- RESERVED_RECORD (R106). -/
def execReservedRecord (q : Nat) (s : State) : Res := s.takeRecord q (fun w => decide (recKind w ≥ 8)) fun _ s => .done s

/-- SIGNAL (R105): as FSET or FFAIL does. -/
def execSignal (q : Nat) (s : State) : Res :=
  s.takeRecord q (fun w => recKind w == 3) fun w s =>
    let r : Fate := if (w.getD 2 0) % 2 = 0 then .set (BitVec.ofNat 64 (w.getD 1 0)) else .failed (bitsOf (w.getD 2 0) 8 16)
    .done (s.endFuture (futIndex (recHandle w)) r 3)

/-- WAITF (R106): the record counts as taken, and the queue then meets the future. -/
def execWaitf (q : Nat) (s : State) : Res :=
  s.takeRecord q (fun w => recKind w == 4) fun w s =>
    .done ((s.modQueue q fun x => { x with waitf := some (recHandle w, (w.getD 1 0) % 2 == 1) }).settleWaitf q)

/-! ### The hub's own accesses (R115, R125, R359) -/

/-- A first touch that n bytes at va need finds its pantry empty. -/
def State.pantryBlocks (s : State) (c va n : Nat) : Bool :=
  (pieces va n).any fun p =>
    match s.walk c p.1 with
    | .leaf _ _ e => pteRes e == resZERO && ((s.pantry (agentTower p.1)).frames).isEmpty
    | _ => false

/-- PANTRYEMPTY of a first touch that finds its pantry empty (R359). -/
def State.pantryEmpty (s : State) (c va n : Nat) : State :=
  match (pieces va n).find? fun p => s.pantryBlocks c p.1 1 with
  | some p => s.event evPANTRYEMPTY (some c) (agentTower p.1) p.1
  | none => s

/-- The hub's access to n bytes for a queue's record (R115): translations, BADADDR, or a wait. PANTRYEMPTY is raised once. -/
def State.hubReach (s : State) (q va n : Nat) (wr : Bool) : Except Took (List Xlat) × State :=
  let c := (s.queue q).ctx
  if (s.queue q).stalled && s.pantryBlocks c va n then (.error (.wait s), s)
  else
    match s.agentXlat c wr (agentTower va) 3 va n with
    | (.ok xl, s) => (.ok xl, s)
    | (.error (.fail _), s) => (.error (.err 9 s), s)
    | (.error _, s) => (.error (.wait s), s)

/-- The hub writes bytes of a context without waiting (R125; notes/assumptions/43.md): a page not present, read-only or
POISONED drops them. -/
def State.hubWrite (s : State) (c va : Nat) (bs : List Byte) : State :=
  (pieces va bs.length).foldl (fun s p =>
    let part := (bs.drop (p.1 - va)).take p.2
    let s :=
      match s.walk c p.1 with
      | .leaf a _ e =>
        let s := if pteRes e = resLOGGED then s.startApply a false else s
        if pteRes e = resLOGGED || pteRes e = resAPPLYING then s.applyDone a else s
      | _ => s
    match s.walk c p.1 with
    | .leaf _ level e =>
      if (pteRes e = resPROMOTING || pteRes e = resDEMOTING) && pteW e then s.write (s.physOf c level e p.1) part
      else
        match s.translate c p.1 p.2 true (agentTower p.1) 3 with
        | (.ok x, s) => s.write (x.base + p.1 % 65536) part
        | (_, s) => s
    | _ => (s.translate c p.1 p.2 true (agentTower p.1) 3).2) s

/-- MIGSCHED (R357). -/
def execMigsched (q : Nat) (s : State) : Res :=
  s.takeRecord q (fun w => recKind w == 5) fun w s =>
    .done { s with scheds := s.scheds ++ [{ ctx := (s.queue q).ctx, addr := w.getD 1 0, count := w.getD 2 0, index := 0, last := 0 }] }

/-- MCGROUP (R105, R416): 32 seat masks of a multicast entry. A table that cannot be reached or is poisoned ends in BADADDR, ERR 9, which
R106 gives only for LAUNCH and GLAUNCH (notes/assumptions/94.md). -/
def execMcgroup (q : Nat) (s : State) : Res :=
  s.takeRecord q (fun w => recKind w == 7) fun w s =>
    let c := (s.queue q).ctx
    let e := bitsOf (w.getD 0 0) 32 8
    match s.hubReach q (w.getD 1 0) 128 false with
    | (.error t, _) => t
    | (.ok xl, s) =>
      if (s.badSectors xl (w.getD 1 0) 128) != [] then .err 9 s
      else
        let bs := s.readVia xl (w.getD 1 0) 128
        .done (s.modCtx c fun x =>
          { x with mcast := (List.range 32).foldl (fun t p =>
              tput 0 t (32 * e + p) (BitVec.ofNat 32 (natOfBytes ((bs.drop (4 * p)).take 4)))) x.mcast })

end Sys2Proof.Machine
end

