-- ==== Sys2Proof/Machine/Kernel.lean ====
section
/-!
DEFINITION. Machine/Kernel.lean: images, launches, walkers, handlers and the status block (R114 to R125, R157, R158).
-/
namespace Sys2Proof.Machine

/-! ### The image header (R114 to R117) -/

/-- The loop levels in force (R117): extent and kind of each level in use. -/
def headerLevels (w : List Nat) (ext : List Nat) : List (Nat × Nat) :=
  ((List.range 4).map fun n =>
    let l := w.getD (16 + n) 0
    let e := ext.getD n 0
    (if e = 0 then l % 2 ^ 32 else e, bitsOf l 32 2)).takeWhile fun l => l.2 != 0

/-- Descriptor k + 1 of a header's words: the reserved bits stay 0 (R115, R201). -/
def headerDesc (g : Nat → Nat) (k : Nat) : BitVec 32 :=
  BitVec.ofNat 32 (bitsOf (g (7 + k / 2)) (32 * (k % 2)) 32) &&& 0x01FFFF7F#32

/-- The checks of R115, R116 and R117 on the 32 words of a header, with the record's extents. -/
def headerOk (w : List Nat) (ext : List Nat) : Bool :=
  let g (k : Nat) : Nat := w.getD k 0
  let kind (n : Nat) : Nat := bitsOf (g (16 + n)) 32 2
  let contiguous := (List.range 3).all fun n => kind n != 0 || kind (n + 1) == 0
  let extents := (List.range 4).all fun n => kind n == 0 || g (16 + n) % 2 ^ 32 != 0
  let fdOk (k : Nat) : Bool := descOk (headerDesc g k)
  let winOk (k : Nat) : Bool :=
    let off := g (20 + k) % 2 ^ 32
    let len := g (20 + k) / 2 ^ 32
    off % 128 == 0 && len % 128 == 0 && decide (128 ≤ len) && decide (off + len ≤ bitsOf (g 2) 32 32)
  let nwin := bitsOf (g 4) 8 4
  bitsOf (g 0) 0 32 == 0x4B585331 && bitsOf (g 0) 32 16 == 1
    && decide (bitsOf (g 3) 0 32 * 8 < bitsOf (g 1) 32 32) && bitsOf (g 1) 0 32 % 8 == 0
    && decide (bitsOf (g 5) 0 2 < 2) && !(bitsOf (g 5) 0 2 == 1 && bitsOf (g 5) 12 45 == 0)
    && ((List.range 10).all fdOk) && decide (nwin ≤ 12) && contiguous && extents
    && decide (((headerLevels w ext).map fun l => l.1).foldl (· * ·) 1 ≤ 2 ^ 48)
    && (List.range nwin).all winOk

/-- The image a header at `base` describes (R114). -/
def imageOfHeader (base : Nat) (w : List Nat) (ext : List Nat) : Image :=
  let g (k : Nat) : Nat := w.getD k 0
  { text := base + bitsOf (g 1) 0 32, words := bitsOf (g 1) 32 32 / 8, entry := bitsOf (g 3) 0 32, lsuse := bitsOf (g 4) 0 1 == 1,
    persist := bitsOf (g 4) 1 1 == 1, fpol := bitsOf (g 5) 0 2, handler := bitsOf (g 5) 12 45 * 4096,
    fpcr := BitVec.ofNat 11 (g 6),
    fds := (List.range 10).foldl (fun t k => tput 0 t (k + 1) (headerDesc g k)) [],
    lat := (List.range 26).foldl (fun t k => tput 0 t k (bitsOf (g (12 + k / 8)) (8 * (k % 8)) 8)) [],
    levels := headerLevels w ext }

def wordsOfBytes : List Byte → Nat → List Nat
  | _, 0 => []
  | bs, n + 1 => natOfBytes (bs.take 8) :: wordsOfBytes (bs.drop 8) n

/-! ### Iterations (R118) -/

/-- Chains of a loop nest: T levels count once. -/
def headCount : List (Nat × Nat) → Nat
  | [] => 1
  | (e, k) :: r => (if k = 1 then 1 else e) * headCount r
/-- The index tuple of chain head n in lexicographic order. -/
def headTuple : List (Nat × Nat) → Nat → List Nat
  | [], _ => []
  | (e, k) :: r, n => (if k = 1 then 0 else n / headCount r % e) :: headTuple r n
/-- The kind whose coordinates choose the tower: D, or C without a D level. -/
def spreadKind (ls : List (Nat × Nat)) : Nat := if ls.any fun l => l.2 == 3 then 3 else 2

/-- The first head from `lo` on, within the levels ls, whose coordinates of kind sp make the linear index congruent to `idx` modulo nT when
those of the levels outside make it `a`. The residues of a level's index repeat after nT values. -/
def firstHead (sp idx nT : Nat) : List (Nat × Nat) → Nat → Nat → Option Nat
  | [], a, lo => if lo = 0 && a % nT = idx then some 0 else none
  | (e, k) :: r, a, lo =>
    if k = 1 then firstHead sp idx nT r a lo
    else
      (List.range (nT + 1)).findSome? fun d =>
        let i := lo / headCount r + d
        if i < e then
          (firstHead sp idx nT r (if k = sp then a * e + i else a) (if d = 0 then lo % headCount r else 0)).map fun h => i * headCount r + h
        else none

/-- The next chain head of the selected tower `idx` of nT from n on (R118). -/
def nextHead (ls : List (Nat × Nat)) (idx nT n : Nat) : Option Nat := firstHead (spreadKind ls) idx nT ls 0 n

/-- The first iteration of the inner levels of a chain. -/
def zeroT : List (Nat × Nat) → List Nat → List Nat
  | (_, k) :: r, i :: t => (if k = 1 then 0 else i) :: zeroT r t
  | _, _ => []
/-- The successor of a chain member (R118): its T indices advance lexicographically. -/
def nextT : List (Nat × Nat) → List Nat → Option (List Nat)
  | (e, k) :: r, i :: t =>
    match nextT r t with
    | some t' => some (i :: t')
    | none => if k = 1 && i + 1 < e then some ((i + 1) :: zeroT r t) else none
  | _, _ => none

/-- Bits of a tower mask, ascending; 0 selects all (R105). -/
def towersOf (mask : Nat) : List Nat :=
  (List.range 8).filter fun t => mask % 256 == 0 || mask / 2 ^ t % 2 == 1

/-! ### The status block (R125) -/

def LState.code : LState → Nat
  | .walking => 1
  | .draining => 2
  | .quiet => 3
  | .complete => 4
  | .faulted => 5
  | _ => 0

/-- Words 1 to 3, and words 4 to 7. -/
def Launch.taskWords (l : Launch) : List Word := [l.fpsf.toBits.zeroExtend 64, l.mxc.toWord, BitVec.ofNat 64 l.tasks]
def Launch.faultWords (l : Launch) : List Word :=
  [BitVec.ofNat 64 (l.fcode % 2 ^ 16 + l.faults * 2 ^ 16), BitVec.ofNat 64 l.fpc, BitVec.ofNat 64 (l.fmask + l.fcore * 2 ^ 8),
   l.ltag.zeroExtend 64]

/-- A write of the status block would take a first touch that finds its pantry empty, and waits for a frame (R359). -/
def State.statusBlocked (s : State) (slot : Nat) : Bool :=
  let l := s.launchOf slot
  s.pantryBlocks l.ctx l.status 64

/-- The status block's owed words are written (R125): words 1 to 3 after a commit; STATE and words 4 to 7 when the state
changed. -/
def State.flushStatus (s : State) (slot : Nat) : State :=
  let l := s.launchOf slot
  if !l.owedTasks && !l.owedState then s
  else if s.statusBlocked slot then
    if l.statusWaits then s else (s.pantryEmpty l.ctx l.status 64).modLaunch slot fun l => { l with statusWaits := true }
  else
  let s := if l.owedTasks then s.hubWrite l.ctx (l.status + 8) (bytesOfWords l.taskWords) else s
  let s :=
    if l.owedState then
      (s.hubWrite l.ctx l.status [BitVec.ofNat 8 l.state.code]).hubWrite l.ctx (l.status + 32) (bytesOfWords l.faultWords)
    else s
  s.modLaunch slot fun l => { l with owedTasks := false, owedState := false, statusWaits := false }
/-- Every launch's. -/
def State.flushAll (s : State) : State := (tkeys s.launches).foldl State.flushStatus s

/-! ### Taking a launch (R105, R115, R122, R130) -/

/-- LAUNCH and GLAUNCH: the image is read and checked, the status block zeroed, the launch created in LOADED. -/
def State.takeLaunch (s : State) (q : Nat) (w : List Nat) (gsize : Nat) : Took :=
  if s.nextStick > maxStick then .wait s
  else
    let g (k : Nat) : Nat := w.getD k 0
    let c := (s.queue q).ctx
    match s.hubReach q (g 1) 256 false with
    | (.error t, _) => t
    | (.ok xl, s) =>
      if s.badSectors xl (g 1) 256 != [] then .err 9 s
      else
        let hdr := wordsOfBytes (s.readVia xl (g 1) 256) 32
        let ext := [bitsOf (g 4) 0 32, bitsOf (g 4) 32 32, bitsOf (g 5) 0 32, bitsOf (g 5) 32 32]
        let img := imageOfHeader (g 1) hdr ext
        if !headerOk hdr ext || (gsize != 0 && (img.persist || img.levels.any fun l => l.2 == 1)) then .err 6 s
        else
          match s.hubReach q (g 3) 64 true with
          | (.error t, _) => t
          | (.ok sx, s) =>
            match firstBelow 4096 fun n => (s.launchOf n).state == .free with
            | none => .wait s
            | some slot =>
              let s := s.writeVia sx (g 3) (List.replicate 64 0)
              let stick := s.nextStick
              let s := s.modHub fun h => { h with sPrev := stick }
              .done (s.modLaunch slot fun l =>
                { ({} : Launch) with
                  state := .loaded, gen := l.gen, queue := q, ctx := c, pri := (s.queue q).pri, donef := recHandle w,
                  towers := bitsOf (g 0) 8 8, arg := g 2, status := g 3, ltag := BitVec.ofNat 32 (g 6), gsize := gsize, img := img,
                  stick := stick })

/-- LAUNCH (R115). -/
def execLaunch (q : Nat) (s : State) : Res := s.takeRecord q (fun w => recKind w == 1) fun w s => s.takeLaunch q w 0
/-- GLAUNCH (R157). -/
def execGlaunch (q : Nat) (s : State) : Res :=
  s.takeRecord q (fun w => recKind w == 2) fun w s => s.takeLaunch q w (w.getD 7 0)

/-- AGE_REBASE (R130): with every task FREE the held launch record is taken with S = 1. -/
def execAgeRebase (s : State) : Res :=
  if !s.taskList.isEmpty || s.nextStick ≤ maxStick then .next s
  else
    let held (q : Nat) : Bool := s.canTake q && (recKind (s.record q) == 1 || recKind (s.record q) == 2)
    match (tkeys s.queues).find? held with
    | none => .next s
    | some q =>
      let s := s.modHub fun h => { h with ageBase := s.tick, sPrev := 0 }
      s.takeRecord q (fun _ => true) fun w s => s.takeLaunch q w (if recKind w = 2 then w.getD 7 0 else 0)

/-! ### Walkers (R119, R122) -/

/-- Launches a tower's walker holds: from their acceptance until QUIET or the end of their abort drain, whether or not the walker has heads
left. The spec does not say when a walker stops holding a launch (notes/assumptions/92.md). -/
def State.walkerHolds (s : State) (t : Nat) : List Nat :=
  (tkeys s.launches).filter fun k =>
    let l := s.launchOf k
    (l.state == .walking || l.state == .draining) && l.walkers.any fun w => w.tower == t

/-- LAUNCH_ACCEPT (R122): the selected walkers accept in one step, once each of them has room and the context is ACTIVE
(notes/assumptions/92.md). -/
def execLaunchAccept (slot : Nat) (s : State) : Res :=
  let l := s.launchOf slot
  let ts := towersOf l.towers
  if l.state != .loaded || !s.ctxActive l.ctx || !(ts.all fun t => decide ((s.walkerHolds t).length < 16)) then .next s
  else
    let s' := s.modLaunch slot fun l =>
      { l with state := .walking, owedState := true,
               walkers := ts.map fun t => { tower := t, order := tget 0 s.hub.accepts t, next := 0, succ := [] } }
    .next ((s'.modHub fun h =>
      { h with accepts := ts.foldl (fun a t => tput 0 a t (tget 0 a t + 1)) h.accepts }).flushStatus slot)

/-- The next chain head a walker creates. -/
def Launch.headAt (l : Launch) (w : Walker) : Option Nat :=
  let ts := towersOf l.towers
  nextHead l.img.levels ((ts.takeWhile fun t => t != w.tower).length) ts.length w.next

/-- The last chain head is created: DRAINING (R122). -/
def State.walkSettle (s : State) (slot : Nat) : State :=
  let l := s.launchOf slot
  if l.state == .walking && l.walkers.all fun w => (l.headAt w).isNone then
    s.modLaunch slot fun l => { l with state := .draining, owedState := true }
  else s

/-- READY tasks of a launch in a tower. -/
def State.readyIn (s : State) (slot t : Nat) : Nat :=
  (s.taskList.filter fun i =>
    let k := s.task i
    k.state == .ready && k.launch == s.handleOf slot && k.tower == t).length

/-- A walker task's record (R119, R120, R130). -/
def State.walkerTask (s : State) (slot t : Nat) (iter : List Nat) (bound : Option Nat) (gslot : Nat) : Task :=
  let l := s.launchOf slot
  { state := .ready, ctx := l.ctx, pc := l.img.entry, age := l.stick * 2 ^ 20 + slot, launch := s.handleOf slot, gslot := gslot,
    sa := (List.range 4).foldl (fun r n => tput 0 r (n + 1) (BitVec.ofNat 64 (iter.getD n 0))) (tput 0 [] 0 (BitVec.ofNat 64 l.arg)),
    tower := t, bound := bound, iter := iter }

/-- The walker changed. -/
def State.modWalker (s : State) (slot t : Nat) (f : Walker → Walker) : State :=
  s.modLaunch slot fun l => { l with walkers := l.walkers.map fun w => if w.tower = t then f w else w }

/-- POOLHOLD once in a launch (R127). -/
def State.poolHold (s : State) (slot : Nat) : State :=
  let l := s.launchOf slot
  if l.held then s
  else (s.modLaunch slot fun l => { l with held := true }).event evPOOLHOLD (some l.ctx) (s.handleOf slot) 0

/-- Heads of a walker from its next one on, at most n. -/
def headRun (l : Launch) (w : Walker) : Nat → List Nat
  | 0 => []
  | n + 1 =>
    match l.headAt w with
    | none => []
    | some h => h :: headRun l { w with next := h + 1 } n

/-- The members of a group are created (R157, R158). -/
def State.createGroup (s : State) (slot t key : Nat) : List (Nat × Nat) → State
  | [] => s
  | (h, rank) :: rest =>
    match s.freeEntry 64 with
    | none => s
    | some i =>
      let iter := headTuple (s.launchOf slot).img.levels h
      let gslot := key % 256 + t * 2 ^ 8 + rank * 2 ^ 11
      let s := s.modTask i fun _ => s.walkerTask slot t iter none gslot
      (s.modGroup key fun g => { g with members := g.members ++ [(i, rank)] }).createGroup slot t key rest

/-- One choice of a walker (R119): a chain successor or the next head of a launch; none when its creation is held. -/
def State.tryCreate (s : State) (t slot : Nat) (chain : Bool) : Option State × State :=
  let l := s.launchOf slot
  match l.walkers.find? fun w => w.tower == t with
  | none => (none, s)
  | some w =>
    if s.readyIn slot t ≥ 256 then (none, s)
    else if chain then
      match w.succ with
      | [] => (none, s)
      | x :: rest =>
        match s.freeEntry 64 with
        | none => (none, s.poolHold slot)
        | some i =>
          (some ((s.modTask i fun _ => s.walkerTask slot t x.iter x.bound 65535).modWalker slot t fun w => { w with succ := rest }), s)
    else if l.gsize = 0 then
      match l.headAt w, s.freeEntry 64 with
      | none, _ => (none, s)
      | some _, none => (none, s.poolHold slot)
      | some h, some i =>
        (some (((s.modTask i fun _ => s.walkerTask slot t (headTuple l.img.levels h) none 65535).modWalker slot t fun w =>
          { w with next := h + 1 }).walkSettle slot), s)
    else
      let run := headRun l w l.gsize
      match run.getLast? with
      | none => (none, s)
      | some last =>
        if (s.freeEntry (64 + run.length - 1)).isNone then (none, s.poolHold slot)
        else
          match firstBelow 256 fun k => (s.group (256 * t + k)).state == .none with
          | none => (none, s)
          | some k =>
            let key := 256 * t + k
            let s1 := s.modGroup key fun _ =>
              { state := .requested, launch := s.handleOf slot, age := l.stick * 2 ^ 20 + slot, size := run.length }
            let s1 := s1.createGroup slot t key (run.zip (List.range run.length))
            (some ((s1.modWalker slot t fun w => { w with next := last + 1 }).walkSettle slot), s)

/-- The choices of a walker in the order of R119: successors by their commits, heads by priority and acceptance. -/
def State.walkerChoices (s : State) (t : Nat) : List (Nat × Bool) :=
  let mine := (s.walkerHolds t).filter fun k => !(s.launchOf k).abort && s.ctxActive (s.launchOf k).ctx
  let wk (k : Nat) : Walker := ((s.launchOf k).walkers.find? fun w => w.tower == t).getD { tower := t, order := 0, next := 0, succ := [] }
  let first (k : Nat) : Nat := ((wk k).succ.head?).elim 0 fun x => x.order
  let chains := sortBy (fun a b => decide (first a ≤ first b)) (mine.filter fun k => !(wk k).succ.isEmpty)
  let heads := sortBy (fun a b =>
    let la := s.launchOf a
    let lb := s.launchOf b
    decide (la.pri > lb.pri) || (la.pri == lb.pri && decide ((wk a).order ≤ (wk b).order)))
    (mine.filter fun k => ((s.launchOf k).headAt (wk k)).isSome)
  chains.map (fun k => (k, true)) ++ heads.map (fun k => (k, false))

def State.createFirst (s : State) (t : Nat) : List (Nat × Bool) → State
  | [] => s
  | (k, chain) :: rest =>
    match s.tryCreate t k chain with
    | (some s', _) => s'.modHub fun h => { h with walkAt := tput 0 h.walkAt t (s.cycle + 2) }
    | (none, s') => s'.createFirst t rest

/-- WALKER_CREATE (R119): one creation every 2 cycles. -/
def execWalkerCreate (tower : Nat) (s : State) : Res :=
  if s.cycle < tget 0 s.hub.walkAt tower then .next s
  else .next ((s.createFirst tower (s.walkerChoices tower)).flushAll)

/-! ### Commits and ends (R122 to R125) -/

/-- Tasks of a launch in the pool. -/
def State.tasksOf (s : State) (slot : Nat) : List Nat :=
  s.taskList.filter fun i => (s.task i).launch == s.handleOf slot && (s.task i).state != .free

/-- Every task has committed: QUIET (R122). -/
def State.quietCheck (s : State) (slot : Nat) : State :=
  let l := s.launchOf slot
  if l.state == .draining && !l.abort && (s.tasksOf slot).isEmpty && l.walkers.all (fun w => w.succ.isEmpty) && l.failures.isEmpty then
    s.modLaunch slot fun l => { l with state := .quiet, walkers := [], owedState := true }
  else s

/-- A task's commit counts in the status block (R125, R138, R145). -/
def State.countCommit (s : State) (slot : Nat) (fl : FpFlags) (mxc : Mxc) : State :=
  s.modLaunch slot fun l =>
    { l with fpsf := l.fpsf.or fl, mxc := l.mxc.add mxc.counts, tasks := l.tasks + 1, owedTasks := true }

/-- The successor of a committed chain member is owed by its walker (R119). In a PERSIST launch it is bound to the core `lin` of the commit,
or of the fault under HDISP 1; which core ran a member that moved between cores the spec leaves open (notes/assumptions/92.md). -/
def State.chainNext (s : State) (i lin : Nat) : State :=
  let t := s.task i
  let slot := slotOfHandle t.launch
  let l := s.launchOf slot
  if t.h || t.iter = [] || l.abort then s
  else
    match nextT l.img.levels t.iter with
    | none => s
    | some iter =>
      let (k, s) := s.nextSeq
      s.modWalker slot t.tower fun w =>
        { w with succ := w.succ ++ [{ order := k, iter := iter, bound := if l.img.persist then some lin else none }] }

/-- A member has left its group: an empty group is done (R162). -/
def State.memberGone (s : State) (i : Nat) : State :=
  let t := s.task i
  if t.gslot = 65535 then s
  else
    let key := groupKey t.gslot
    let s := (s.modTask i fun t => { t with gslot := 65535 }).groupLeave key
    let ms := (s.group key).members.filter fun m => m.1 != i
    if ms = [] then s.modGroup key fun _ => {}
    else
      (s.modGroup key fun g =>
        { g with members := ms, cores := g.cores.filter fun c => ms.any fun m => m.2 == c.1 }).groupSettle key

/-- Outstanding engine operations and sends of a launch (R124). -/
def State.launchWork (s : State) (slot : Nat) : Bool :=
  let h := s.handleOf slot
  ((tkeys s.pairs).any fun p => (s.pairAt p).eng.any fun o => o.launch == h)
    || (s.planeX.sends ++ s.planeY.sends).any fun d => d.launch == h

/-- The launch ends (R122, R125, R450): status block, DONEF, LAUNCHEND, and the slot is free. -/
def State.endLaunch (s : State) (slot : Nat) (st : LState) : State :=
  let h := s.handleOf slot
  let s := (s.modLaunch slot fun l => { l with state := st, owedState := true, owedTasks := true }).flushStatus slot
  let l := s.launchOf slot
  let r : Fate := if st == .complete then .set (BitVec.ofNat 64 l.tasks) else .failed l.fcode
  let s := s.resolve l.donef l.ctx 3 0 r
  let s := s.event evLAUNCHEND (some l.ctx) h (l.ltag.toNat + st.code * 2 ^ 32 + l.fcode % 2 ^ 16 * 2 ^ 36)
  (s.modLaunch slot fun l => { ({} : Launch) with gen := (l.gen + 1) % 2 ^ 20 }).drainCheck l.queue

/-- The end of a launch, once its status block can be written (R125, R359). -/
def State.tryEnd (s : State) (slot : Nat) (st : LState) : State :=
  if s.statusBlocked slot then (s.modLaunch slot fun l => { l with owedState := true }).flushStatus slot else s.endLaunch slot st

/-- LAUNCH_COMPLETE (R124). -/
def execLaunchComplete (slot : Nat) (s : State) : Res :=
  if (s.launchOf slot).state == .quiet && !s.launchWork slot then .next (s.tryEnd slot .complete) else .next s

/-- LAUNCH_ABORT_DRAIN_COMPLETE (R122). -/
def execLaunchAbortDrainComplete (slot : Nat) (s : State) : Res :=
  let l := s.launchOf slot
  if l.state == .draining && l.abort && (s.tasksOf slot).isEmpty && !s.launchWork slot then .next (s.tryEnd slot .faulted)
  else .next s

/-- A launch aborts with a code of its own: RETIRED, CTXGONE or HANDLERFAULT (R122, R123), also when it aborts already. -/
def State.abortWith (s : State) (slot code : Nat) : State :=
  let l := s.launchOf slot
  if l.state == .free || l.state == .complete || l.state == .faulted then s
  else (s.modLaunch slot fun l => l.ends code).abortLaunch slot

/-! ### Handlers (R123, R127, R137) -/

/-- The tasks whose fault a launch's handler must see: FAULTED ones, and committed ones with a recorded failure. -/
def State.faultsOf (s : State) (slot : Nat) : List Nat :=
  (s.tasksOf slot).filter fun i =>
    !(s.task i).h && ((s.task i).state == .faulted || (s.launchOf slot).failures.contains i)

/-- The handler's image, read and checked at its first fault (R115): none while a page is waited for. -/
def State.handlerImage (s : State) (slot : Nat) : Option (Option Image) × State :=
  let l := s.launchOf slot
  match l.himg with
  | some m => (some (some m), s)
  | none =>
    let va := l.img.handler
    if s.pantryBlocks l.ctx va 256 then (none, s.pantryEmpty l.ctx va 256)
    else
      match s.agentXlat l.ctx false (agentTower va) 3 va 256 with
      | (.error (.fail _), s) => (some none, s)
      | (.error _, s) => (none, s)
      | (.ok xl, s) =>
        if s.badSectors xl va 256 != [] then (some none, s)
        else
          let hdr := wordsOfBytes (s.readVia xl va 256) 32
          if headerOk hdr [] then
            let m := imageOfHeader va hdr []
            (some (some m), s.modLaunch slot fun l => { l with himg := some m })
          else (some none, s)

/-- Bytes of a pool entry (R126). -/
def entryBytes : Nat := 128

/-- HANDLER_START (R123, R127). -/
def execHandlerStart (slot : Nat) (s : State) : Res :=
  let l := s.launchOf slot
  if l.img.fpol ≠ 1 || l.abort || l.handling.isSome || !(l.state == .walking || l.state == .draining) || !s.ctxActive l.ctx then
    .next s
  else
    match s.oldest (s.faultsOf slot) with
    | none => .next s
    | some i =>
      match s.handlerImage slot with
      | (none, s) => .next s
      | (some none, s) => .next ((s.abortWith slot fcHANDLERFAULT).flushStatus slot)
      | (some (some m), s) =>
        match s.freeEntry 0 with
        | none => .next s
        | some k =>
          let sa := tput 0 (tput 0 (tput 0 [] 0 (BitVec.ofNat 64 l.status)) 1 (BitVec.ofNat 64 (s.hub.poolAt.getD 0 + entryBytes * i))) 2
            (BitVec.ofNat 64 (s.handleOf slot))
          let t : Task :=
            { state := .ready, ctx := l.ctx, h := true, pc := m.entry, age := l.stick * 2 ^ 20 + 0x1000 + slot, launch := s.handleOf slot,
              sa := sa, tower := (s.task i).tower }
          .next ((s.modTask k fun _ => t).modLaunch slot fun l => { l with handling := some (k, i) })

/-- The faulted task counts as committed (R123, HDISP 1). -/
def State.dispose1 (s : State) (slot i : Nat) : State :=
  let t := s.task i
  let s := s.countCommit slot t.fpsnap t.mxcacc
  let s := s.chainNext i t.ecore
  let s := s.memberGone i
  s.freeTask i

/-- A FAULTED group whose faulted member is disposed of is REQUESTED again (R162). -/
def State.groupRequeue (s : State) (key : Nat) : State :=
  let g := s.group key
  if g.state == .faulted && g.members.all fun m => (s.task m.1).state != .running then
    let s := g.members.foldl (fun s m => s.modTask m.1 fun t => { t with bound := none }) s
    s.modGroup key fun g => { g with state := .requested, pitch := none, cores := [], reserved := [] }
  else if g.state == .faulted then s.modGroup key fun g => { g with state := .draining }
  else s

/-- HDISP as it stands in the status block. -/
def State.hdisp (s : State) (slot : Nat) : Nat :=
  let l := s.launchOf slot
  match s.walk l.ctx l.status with
  | .leaf _ level e => bitsOf (s.readWord (s.physOf l.ctx level e l.status)) 16 2
  | _ => 0

/-- The hub acts on HDISP at the handler's TEND (R123, R137). -/
def State.dispose (s : State) (slot : Nat) : State :=
  let l := s.launchOf slot
  match l.handling with
  | none => s
  | some (_, i) =>
    let d := s.hdisp slot
    let s := s.modLaunch slot fun l => { l with handling := none }
    let key := groupKey (s.task i).gslot
    let grouped := (s.task i).gslot != 65535
    -- a member keeps the core of a pitch that its group has been placed on since
    if l.abort then s
    else if d = 0 || d = 3 then s.abortLaunch slot
    else if l.failures.contains i then
      (s.modLaunch slot fun l => { l with failures := l.failures.filter fun j => j != i }).freeTask i
    else
      let s := if d = 1 then s.dispose1 slot i else s.modTask i fun t => { t with state := .ready }
      if grouped then s.groupRequeue key else s

end Sys2Proof.Machine
end

