-- ==== Sys2Proof/Machine/Fec.lean ====
section
/-!
DEFINITION. Machine/Fec.lean: the line code of a codeword (R398): the field GF(2^9), Reed–Solomon encoding and the correction of up to 8
symbols.
-/
namespace Sys2Proof.Machine

/-! ### GF(2^9) -/

/-- A field element times α, modulo x^9 + x^4 + 1. -/
def gfAlpha (a : Nat) : Nat := if a < 256 then 2 * a else (2 * a) ^^^ 0x211
/-- The sum of `acc` and the product of a with the low n bits of b. -/
def gfMulAcc : Nat → Nat → Nat → Nat → Nat
  | 0, _, _, acc => acc
  | n + 1, a, b, acc => gfMulAcc n (gfAlpha a) (b / 2) (if b % 2 = 1 then acc ^^^ a else acc)
def gfMul (a b : Nat) : Nat := gfMulAcc 9 a b 0
/-- α^n. -/
def gfPow : Nat → Nat
  | 0 => 1
  | n + 1 => gfAlpha (gfPow n)
/-- The product of a^2, a^4, … a^(2^n). -/
def gfSquares : Nat → Nat → Nat
  | 0, _ => 1
  | n + 1, a => let b := gfMul a a; gfMul b (gfSquares n b)
/-- The inverse of a nonzero element: a^510. -/
def gfInv (a : Nat) : Nat := gfSquares 8 a

/-- The value at x of a polynomial given by its coefficients from the highest degree down. -/
def gfEval (p : List Nat) (x : Nat) : Nat := p.foldl (fun acc c => gfMul acc x ^^^ c) 0
def gfScale (c : Nat) (p : List Nat) : List Nat := p.map (gfMul c)
/-- The sum of two polynomials given from degree 0 up. -/
def gfAdd : List Nat → List Nat → List Nat
  | [], q => q
  | p, [] => p
  | a :: p, b :: q => (a ^^^ b) :: gfAdd p q

/-! ### Encoding -/

/-- g(x), the product of (x − α^i) for i from 0 to 15, from the highest degree down. -/
def fecGenerator : List Nat :=
  (List.range 16).foldl (fun p i => List.zipWith (· ^^^ ·) (p ++ [0]) (0 :: gfScale (gfPow i) p)) [1]

/-- The remainder so far, after one more data symbol: (r·x + d·x^16) mod g. -/
def fecStep (tail : List Nat) (r : List Nat) (d : Nat) : List Nat :=
  let f := d ^^^ r.headD 0
  List.zipWith (· ^^^ ·) (r.drop 1 ++ [0]) (gfScale f tail)

/-- The 16 parity symbols of 256 data symbols, the coefficient of x^15 first. -/
def fecParity (data : List Nat) : List Nat := data.foldl (fecStep (fecGenerator.drop 1)) (List.replicate 16 0)

/-- The symbols of line bits: symbol j is bits 9j to 9j + 8. -/
def fecSymbols (bits n : Nat) : List Nat := (List.range n).map fun j => bits >>> (9 * j) % 512
def fecBits (syms : List Nat) : Nat := syms.foldr (fun a b => a + 512 * b) 0

/-- The codeword of two flits, or of 18 control messages: 2,304 data bits and the parity. -/
def fecEncode (data : BitVec 2304) : BitVec 2448 :=
  BitVec.ofNat 2448 (data.toNat + fecBits (fecParity (fecSymbols data.toNat 256)) * 2 ^ 2304)

/-! ### Decoding -/

/-- The 16 syndromes of a received word. -/
def fecSyndromes (word : List Nat) : List Nat := (List.range 16).map fun i => gfEval word (gfPow i)

/-- The state of the search for the error locator: the locator and the last one before its length changed, from degree 0 up, that length,
the steps since, the discrepancy then. -/
structure FecSearch where
  loc : List Nat
  prev : List Nat
  len : Nat
  shift : Nat
  disc : Nat
  deriving DecidableEq, Repr

/-- One step of the search (Berlekamp and Massey): `syn` the syndromes up to the n-th, latest first. -/
def FecSearch.step (q : FecSearch) (n : Nat) (syn : List Nat) : FecSearch :=
  let d := (List.zipWith gfMul q.loc syn).foldl (· ^^^ ·) 0
  if d = 0 then { q with shift := q.shift + 1 }
  else
    let loc := gfAdd q.loc (List.replicate q.shift 0 ++ gfScale (gfMul d (gfInv q.disc)) q.prev)
    if 2 * q.len ≤ n then { loc := loc, prev := q.loc, len := n + 1 - q.len, shift := 1, disc := d }
    else { q with loc := loc, shift := q.shift + 1 }

/-- The locator of the errors, from degree 0 up, and how many they are. -/
def fecLocator (syn : List Nat) : List Nat × Nat :=
  let q := (List.range syn.length).foldl (fun q n => q.step n (syn.take (n + 1)).reverse)
    ({ loc := [1], prev := [1], len := 0, shift := 1, disc := 1 } : FecSearch)
  (q.loc, q.len)

/-- The correction of symbol i of 272 (Forney): 0 unless the locator has a root at the inverse y of its place. The locator's odd terms are y
times its derivative. -/
def fecFix (loc omega : List Nat) (i : Nat) : Nat :=
  let y := gfPow (240 + i)
  if gfEval loc.reverse y ≠ 0 then 0
  else
    let odd := (List.range loc.length).map fun k => if k % 2 = 1 then loc.getD k 0 else 0
    gfMul (gfEval omega.reverse y) (gfInv (gfEval odd.reverse y))

/-- A received codeword: its data symbols as bits, and the number of symbols corrected; none when it is not within 8 symbols of a
codeword. -/
def fecDecode (cw : BitVec 2448) : Option (BitVec 2304 × Nat) :=
  let word := fecSymbols cw.toNat 272
  let syn := fecSyndromes word
  if syn.all (· == 0) then some (cw.setWidth 2304, 0)
  else
    let (loc, n) := fecLocator syn
    let omega := (List.range 16).map fun k => ((List.range (k + 1)).map fun j => gfMul (loc.getD j 0) (syn.getD (k - j) 0)).foldl (· ^^^ ·) 0
    let fixed := List.zipWith (· ^^^ ·) word ((List.range 272).map (fecFix loc omega))
    let wrong := (List.zipWith (fun a b => if a = b then 0 else 1) word fixed).foldl (· + ·) 0
    if n ≤ 8 && wrong = n && (fecSyndromes fixed).all (· == 0) then some (BitVec.ofNat 2304 (fecBits (fixed.take 256)), n) else none

end Sys2Proof.Machine
end

