-- ==== Sys2Proof/Machine/Task.lean ====
section
/-!
DEFINITION. Machine/Task.lean: TEND, YIELD, TSPAWN and TRAP (R145 to R148). The commit that TEND starts is in
Machine/Commit.lean.
-/
namespace Sys2Proof.Machine

/-- TEND (R145): no bundle follows, and the completion step ends the task. -/
def execTend (x : OpC) (s : State) : Res :=
  match s.core.compl with
  | some _ => s.quietOp (.tend x) (fun _ => []) fun _ s => s.ask .tend
  | none => s.slotRun (.tend x) fun s => (s.recordOp (.tend x) []).setRedirect .stop

/-- YIELD (R146). -/
def execYield (x : OpC) (s : State) : Res := s.quietOp (.yield x) (fun _ => []) fun _ s => s.ask .yield

/-- A trap (R142, R148): code 0x80 + n. -/
def State.performTrap (n : Nat) (h : HeldOp) (s : State) : State :=
  s.opFailed h 3 (0x80 + n) (h.vals.getD 0 0) (h.vals.getD 1 0) 0

/-- TRAP (R148). -/
def execTrap (x : OpI) (s : State) : Res :=
  s.quietOp (.trap x) (fun s => [s.core.src .a x.a, s.core.src .a x.d]) (State.performTrap x.imm.toNat)

/-- The age of a spawned task (R130). -/
def spawnAge (age lin count : Nat) : Nat := age / 2 ^ 20 * 2 ^ 20 + 0x80000 + lin * 256 + count % 256

/-- TSPAWN in the completion step (R147); operands: A, B, C and the creator's sa1 to sa4. -/
def State.performTspawn (x : OpA) (h : HeldOp) (s : State) : State :=
  let v (k : Nat) : Word := h.vals.getD k 0
  match s.freeEntry 64 with
  | none => if s.isDeferred then s.opFailed h 2 fcPOOLFULL (v 0) 0 0 else s.writeNow h x.d (BitVec.allOnes 64)
  | some i =>
    let p := s.task s.curTask
    let tower := bitsOf (v 2).toNat 0 4
    let child : Task :=
      { state := .ready, ctx := p.ctx, h := p.h, pc := (v 0).toNat, age := spawnAge p.age s.cur s.core.spawn, launch := p.launch,
        sa := (List.range 4).foldl (fun t k => tput 0 t (k + 1) (v (3 + k))) (tput 0 [] 0 (v 1)),
        tower := if tower = 8 then towerOf s.cur else tower }
    let s := (s.modTask i fun _ => child).onCore fun c => { c with spawn := (c.spawn + 1) % 256 }
    if s.isDeferred then s else s.writeNow h x.d (BitVec.ofNat 64 i)

/-- TSPAWN (R147). -/
def execTspawn (x : OpA) (s : State) : Res :=
  s.quietOp (.tspawn x)
    (fun s => [s.core.src .a x.a, s.core.src .a x.b, s.core.src .a x.c, s.core.regs.scalar .a 1, s.core.regs.scalar .a 2,
      s.core.regs.scalar .a 3, s.core.regs.scalar .a 4])
    (State.performTspawn x)

end Sys2Proof.Machine
end

