-- ==== Sys2Proof/Machine/Link.lean ====
section
/-!
DEFINITION. Machine/Link.lean: the fabric's data path (R389 to R421): SEND and MSEND, flits, camps, credit,
acknowledgement, notices, windows, LSTAT.
-/
namespace Sys2Proof.Machine

/-! ### Flits and their checks (R18, R399) -/

/-- One bit of the CRC of R18. -/
def crcStep (c : BitVec 16) (b : Bool) : BitVec 16 :=
  let d := c <<< 1
  if c.msb != b then d ^^^ 0x1021#16 else d
/-- The check value of a sector's bytes: CRC-16, polynomial 0x1021, initial value 0xFFFF (R18). -/
def crc16 (bs : List Byte) : BitVec 16 :=
  bs.foldl (fun c b => (List.range 8).foldl (fun c k => crcStep c (b.getLsbD (7 - k))) c) 0xFFFF#16

/-- CHK: the four sector checks of a payload (R399). -/
def chkOf (bs : List Byte) : BitVec 64 :=
  BitVec.ofNat 64 (((List.range 4).map fun n => (crc16 ((bs.drop (32 * n)).take 32)).toNat * 2 ^ (16 * n)).foldl (· + ·) 0)

/-- A flit's 1,152 bits read as R399 lays them out, with the tag of its send. -/
def Flit.ofBits (b : BitVec 1152) (tag : Nat) : Flit :=
  { tag := tag, dest := (b.extractLsb' 0 10).toNat, src := (b.extractLsb' 10 10).toNat, poison := b.extractLsb' 20 4,
    win := (b.extractLsb' 24 8).toNat, wgen := (b.extractLsb' 32 4).toNat, offset := (b.extractLsb' 36 20).toNat,
    seq := (b.extractLsb' 56 8).toNat, chk := b.extractLsb' 64 64, data := b.extractLsb' 128 1024 }
/-- The bits of a flit. -/
def Flit.toBits (f : Flit) : BitVec 1152 :=
  f.data ++ f.chk ++ BitVec.ofNat 8 f.seq ++ BitVec.ofNat 20 f.offset ++ BitVec.ofNat 4 f.wgen ++ BitVec.ofNat 8 f.win ++ f.poison
    ++ BitVec.ofNat 10 f.src ++ BitVec.ofNat 10 f.dest
/-- Payload bytes. -/
def Flit.bytes (f : Flit) : List Byte := leBytes f.data.toNat 128
/-- Every payload sector whose POISON bit is 0 matches its carried check (R400). -/
def Flit.checks (f : Flit) : Bool :=
  (List.range 4).all fun n => f.poison.getLsbD n || crc16 ((f.bytes.drop (32 * n)).take 32) == f.chk.extractLsb' (16 * n) 16

/-! ### Streams (R401, R403) -/

/-- The shadow free-pitch count (R403). -/
def Stream.shadow (t : Stream) : Nat := 8192 - (t.sent + 2 ^ 24 - t.freed) % 2 ^ 24
/-- The link towards a residue has failed (R433). -/
def State.hopFailed (s : State) (p : Plane) (k : Nat) : Bool := (s.plane p).link (neighbour s.hub.peer p k) == .failed
/-- Data flits queued on a plane and not yet emitted (R436). -/
def PlaneSt.queued (p : PlaneSt) : Nat := (p.streams.map fun e => e.2.retr.length + e.2.relay.length + e.2.loc.length).foldl (· + ·) 0

/-- The next flit a stream emits: retransmitted, relayed, local (R401). -/
def Stream.next (t : Stream) : Option (QFlit × Stream) :=
  match t.retr, t.relay, t.loc with
  | q :: r, _, _ => some (q, { t with retr := r })
  | [], q :: r, _ => some (q, { t with relay := r })
  | [], [], q :: r => some (q, { t with loc := r })
  | [], [], [] => none

/-- At most n flits leave a stream while its shadow is not 0, in emission order. -/
def Stream.take (t : Stream) : Nat → List QFlit × Stream
  | 0 => ([], t)
  | n + 1 =>
    if t.shadow = 0 then ([], t)
    else
      match t.next with
      | none => ([], t)
      | some (q, t) =>
        let r := ({ t with sent := (t.sent + 1) % 2 ^ 24 }).take n
        (q :: r.1, r.2)

/-! ### Sends (R413 to R418) -/

/-- The plane whose engine a send uses (R415). -/
def sendPlane (own : Nat) (multi : Bool) (target : Word) : Plane :=
  if multi then .x else (hopFrom own (bitsOf target.toNat 0 10)).elim .x fun h => h.1

/-- Sends an engine holds (R415). -/
def engineSize : Nat := 2048

/-- The engine of a send has room. -/
def State.sendRoom (s : State) (multi : Bool) (target : Word) : Bool :=
  decide ((s.plane (sendPlane s.hub.peer multi target)).sends.length < engineSize)

/-- The send with an id, and its engine. -/
def State.send (s : State) (id : Nat) : Option (Plane × Send) :=
  match s.planeX.sends.find? fun d => d.id == id with
  | some d => some (.x, d)
  | none => (s.planeY.sends.find? fun d => d.id == id).map fun d => (.y, d)
def State.modSend (s : State) (p : Plane) (id : Nat) (f : Send → Send) : State :=
  s.modPlane p fun q => { q with sends := q.sends.map fun d => if d.id = id then f d else d }

/-- A send leaves its engine: its pins go, and its future resolves with RSCOPE pod (R353, R415). -/
def State.endSend (s : State) (p : Plane) (d : Send) (r : Fate) : State :=
  let s := (d.pins.getD []).foldl State.unpin s
  ((s.dropScore d.id).modPlane p fun q => { q with sends := q.sends.filter fun x => x.id != d.id }).resolve d.fut d.ctx 4 0 r

/-- The members of a multicast entry less the sender (R416): peer ids, ascending. -/
def State.multicast (s : State) (c e : Nat) : List Nat :=
  (List.range 1024).filter fun p =>
    p != s.hub.peer && (tget (0 : BitVec 32) (s.ctx c).mcast (32 * e + p / 32)).getLsbD (p % 32)

/-- Why a copy is not sent: NOROUTE, or LINKFAIL over a failed link (R415, R416, R433). -/
def State.noHop (s : State) (p : Plane) (k : Nat) : Option Nat :=
  if !(s.plane p).routed k then some stNOROUTE else if s.hopFailed p k then some stLINKFAIL else none

/-- The copies of a send: destination and the members it serves. -/
def State.copiesOf (s : State) (multi : Bool) (members : List Nat) : List (Nat × List Nat) :=
  let own := s.hub.peer
  if !multi then members.map fun m => (m, [m])
  else
    (List.range 32).flatMap fun pod =>
      let ms := members.filter fun m => peerPod m == pod
      if pod = peerPod own then ms.map fun m => (m, [m])
      else if ms = [] then [] else [(peerSeat own + 32 * pod, ms)]

/-- SEND and MSEND perform (R415, R416): operands target, source, length, future, status block. -/
def State.startSend (s : State) (multi sls : Bool) (h : HeldOp) : State :=
  let v (k : Nat) : Word := h.vals.getD k 0
  let own := s.hub.peer
  let t := (v 0).toNat
  let ctx := s.curCtx
  let members := if multi then s.multicast ctx (bitsOf t 0 8) else [bitsOf t 0 10]
  let tried := (s.copiesOf multi members).map fun c =>
    match hopFrom own c.1 with
    | none => (c, Plane.x, 0, some stNOROUTE)
    | some (p, k) => (c, p, k, s.noHop p k)
  let bad := tried.flatMap fun r => match r.2.2.2 with
    | some st => r.1.2.map fun m => (m, st)
    | none => []
  let p := sendPlane own multi (v 0)
  let d : Send :=
    { id := s.seqNo, multi := multi, num := 0, vals := h.vals, sls := sls, lin := s.cur, ctx := ctx, task := s.curTask,
      launch := (s.task s.curTask).launch, fut := regHandle (v 3), len := (v 2).toNat, win := bitsOf t 10 8,
      wgen := if multi then 0 else bitsOf t 18 4, offset := bitsOf t 32 32 / 128, read := false, payload := [],
      copies := (tried.filter fun r => r.2.2.2 == none).map fun r =>
        { plane := r.2.1, residue := r.2.2.1, dest := r.1.1, left := (v 2).toNat / 128, notice := false, queued := false },
      masks := if multi then ((List.range 32).map fun q => (q, tget 0 (s.ctx ctx).mcast (32 * bitsOf t 0 8 + q))) else [],
      members := members.map fun m => (m, (bad.find? fun b => b.1 == m).map fun b => b.2), failed := none }
  let d := { d with marked := !sls && d.copies != [] }
  let s := { s with seqNo := s.seqNo + 1 }
  match multi, bad with
  | false, (_, st) :: _ => s.resolve d.fut ctx 4 0 (.failed st)
  | _, _ =>
    let s := s.modPlane p fun q => { q with sends := q.sends ++ [d] }
    if sls then
      match s.lsOperand (v 1) with
      | some (a, k) => s.modPair k fun q => { q with sb := q.sb ++ [a.score d.id ((d.len + 47) / 48) false] }
      | none => s
    else if d.marked then (s.modCore s.cur fun c => { c with fifo := c.fifo ++ [.marker d.id] }).startEngines s.cur
    else s

def State.performSend (x : OpSend) (h : HeldOp) (s : State) : State := s.startSend false x.sls h
def State.performMsend (x : OpSend) (h : HeldOp) (s : State) : State := s.startSend true x.sls h

/-- The operands of a send at issue (R413, R414). -/
def State.sendVals (s : State) (x : OpSend) : List Word :=
  [s.core.src .b x.d, s.core.src .b x.a, s.core.src .b x.b, s.core.src .b x.c, s.core.src .b x.e]
/-- SEND (R415). -/
def execSend (x : OpSend) (s : State) : Res := s.quietOp (.send x) (fun s => s.sendVals x) (State.performSend x)
/-- MSEND (R416). -/
def execMsend (x : OpSend) (s : State) : Res := s.quietOp (.msend x) (fun s => s.sendVals x) (State.performMsend x)

/-- A flit put into a stream (R401): `loc` or relayed. -/
def State.queueFlit (s : State) (p : Plane) (k : Nat) (relayed : Bool) (q : QFlit) : State :=
  s.modPlane p fun x => x.modStream k fun t =>
    if relayed then { t with relay := t.relay ++ [q] } else { t with loc := t.loc ++ [q] }

/-- The seat mask an MSEND sends to the fan-out device of a pod. -/
def Send.maskOf (d : Send) (pod : Nat) : BitVec 32 := ((d.masks.find? fun m => m.1 == pod).elim 0 fun m => m.2)

/-- A send's tag: SENDID, and the plane whose counter numbers it (R407). -/
def sendTag (num plane : Nat) : Nat := num + plane * 2 ^ 16

/-- The copies of a send whose flits may be queued now are queued (R401, R417): MCFAN goes before a Y copy of an MSEND, one fan-out is in
flight to a device, and no copy passes one of an earlier send on its stream. -/
def State.queueCopies (s : State) (p : Plane) (id : Nat) : State :=
  match (s.plane p).sends.find? fun d => d.id == id with
  | none => s
  | some d =>
    let own := s.hub.peer
    let blocked (c : Copy) : Bool :=
      d.multi && c.plane == .y &&
        s.planeX.sends.any fun o => o.multi && decide (o.id < d.id) && o.copies.any fun x => x.dest == c.dest && x.plane == .y && !x.notice
    let passes (c : Copy) : Bool :=
      (s.planeX.sends ++ s.planeY.sends).any fun o => decide (o.id < d.id) && o.failed.isNone &&
        o.copies.any fun x => !x.queued && x.plane == c.plane && x.residue == c.residue
    let go := d.copies.filter fun c => !c.queued && !blocked c && !passes c
    let s := go.foldl (fun s c =>
      let s :=
        if d.multi && c.plane == .y then
          s.sendCtl 8 c.dest .x (d.num + d.win * 2 ^ 16) (d.maskOf (peerPod c.dest)).toNat
        else s
      (d.payload.zip (List.range d.payload.length)).foldl (fun s f =>
        s.queueFlit c.plane c.residue false
          { flit := { tag := sendTag d.num (planeNum p), dest := c.dest, src := own, poison := f.1.1, win := d.win, wgen := d.wgen, offset := d.offset + f.2,
                      seq := f.2 % 256, chk := f.1.2.1, data := f.1.2.2 },
            send := some d.id, pitch := none }) s) s
    s.modSend p id fun d =>
      let cs := d.copies.map fun c => if go.any fun g => g.dest == c.dest && g.plane == c.plane then { c with queued := true } else c
      { d with copies := cs, payload := if cs.all fun c => c.queued then [] else d.payload }

/-- The copies that wait on an earlier send are tried again, in the order in which the sends performed (R401). -/
def State.queueAll (s : State) : State :=
  let ids (p : Plane) : List (Nat × Plane) := (s.plane p).sends.map fun d => (d.id, p)
  (sortBy (fun (a b : Nat × Plane) => decide (a.1 ≤ b.1)) (ids .x ++ ids .y)).foldl (fun s e => s.queueCopies e.2 e.1) s

/-- A source's bytes as flits carry them (R399, R415): poison bits, checks, payload. -/
def flitParts (bs : List Byte) (bad : Nat → Bool) : Nat → Nat → List (BitVec 4 × BitVec 64 × BitVec 1024)
  | _, 0 => []
  | k, n + 1 =>
    let b := bs.take 128
    (BitVec.ofNat 4 (((List.range 4).map fun j => if bad (4 * k + j) then 2 ^ j else 0).foldl (· + ·) 0), chkOf b,
      BitVec.ofNat 1024 (natOfBytes b)) :: flitParts (bs.drop 128) bad (k + 1) n

/-- The status block of an MSEND (R416). -/
def Send.block (d : Send) : List Byte :=
  let neg := if d.failed.isSome then [] else d.members.filter fun m => m.2 != some 0
  let pos := if d.failed.isSome then 0 else (d.members.filter fun m => m.2 == some 0).length
  let word (q : Nat) : Nat := ((neg.filter fun m => m.1 / 32 == q).map fun m => 2 ^ (m.1 % 32)).foldl (· + ·) 0
  ((List.range 32).flatMap fun q => leBytes (word q) 4) ++ leBytes pos 2 ++ leBytes neg.length 2
    ++ (match neg with
        | m :: _ => leBytes m.1 2 ++ leBytes (m.2.getD 0) 2
        | [] => leBytes 0x3FF 2 ++ leBytes 0 2)
    ++ List.replicate 120 0

/-- An MSEND whose members have all answered writes its block and resolves (R416); it waits for the block's page. -/
def State.finishMsend (s : State) (p : Plane) (d : Send) : State :=
  let va := (d.vals.getD 4 0).toNat
  if d.blocked && s.pantryBlocks d.ctx va 256 then s
  else
    match s.agentXlat d.ctx true (towerOf d.lin) 1 va 256 with
    | (.error (.fail st), s) => s.endSend p d (.failed st)
    | (.error (.pantry _), s) => s.modSend p d.id fun d => { d with blocked := true }
    | (.error .wait, s) => s
    | (.ok xl, s) =>
      let neg := d.members.any fun m => m.2 != some 0
      let r : Fate :=
        match d.failed with
        | some st => .failed st
        | none => if neg then .failed stMCNEG else .set (BitVec.ofNat 64 d.members.length)
      (s.writeVia xl va d.block).endSend p d r

/-- Every member has answered. -/
def Send.answered (d : Send) : Bool := d.failed.isSome || d.members.all fun m => m.2.isSome

/-- A send whose answers are complete ends; an MSEND's block may have to wait. -/
def State.checkSend (s : State) (p : Plane) (id : Nat) : State :=
  match (s.plane p).sends.find? fun d => d.id == id with
  | none => s
  | some d => if d.multi && d.answered then s.finishMsend p d else s

/-- SENDs that performed earlier on a stream of this one and are still to be read (R401). -/
def State.readBefore (s : State) (d : Send) : Bool :=
  (s.planeX.sends ++ s.planeY.sends).any fun o =>
    !o.read && o.failed.isNone && decide (o.id < d.id) && o.copies.any fun c => d.copies.any fun e => c.plane == e.plane && c.residue == e.residue

/-- The source fails (R415, R416). -/
def State.failSend (s : State) (p : Plane) (d : Send) (st : Nat) : State :=
  if d.multi then (s.modSend p d.id fun d => { d with failed := some st, copies := [] }).checkSend p d.id
  else s.endSend p d (.failed st)

/-- The source has been read: the send takes its number and its flits are queued. -/
def State.sourceRead (s : State) (p : Plane) (d : Send) (bs : List Byte) (bad : Nat → Bool) : State :=
  let num := (s.plane p).nextNum
  let s := (d.pins.getD []).foldl State.unpin s
  let s := (s.dropScore d.id).modPlane p fun q => { q with nextNum := q.nextNum + 1 }
  let s := s.modSend p d.id fun d => { d with read := true, pins := none, num := num.toNat, payload := flitParts bs bad 0 (d.len / 128) }
  (s.queueCopies p d.id).checkSend p d.id

/-- The pages of a translated source are pinned (R353). -/
def State.pinSource (s : State) (p : Plane) (d : Send) (xl : List Xlat) : State :=
  let pages := (xl.filter fun x => x.size == 0).eraseDups
  (pages.foldl (fun s x => s.pin x.leaf d.ctx (65536 * x.vpage)) s).modSend p d.id fun d => { d with pins := some (pages.map fun x => x.leaf) }

/-- SEND_SOURCE_READ (R415): the source is translated and its pages pinned, or it fails the send; then it is read, in a cycle that has
written none of its sectors (R22); or a finished MSEND writes its block. -/
def execSendSourceRead (id : Nat) (s : State) : Res :=
  match s.send id with
  | none => .next s
  | some (p, d) =>
    if d.read || d.failed.isSome then .next (s.checkSend p id)
    else if d.marked || s.readBefore d then .next s
    else if d.copies = [] then .next (s.sourceRead p { d with len := 0 } [] fun _ => false)
    else if d.sls then
      match LsAddr.of (d.vals.getD 1 0) with
      | none => .next s
      | some a =>
        let k := if a.remote then towerOf d.lin * 72 + a.pair else pairOf d.lin
        .next (s.sourceRead p d (s.lsBytes a k d.len) fun _ => false)
    else
      let va := (d.vals.getD 1 0).toNat
      match s.agentXlat d.ctx false (towerOf d.lin) 1 va d.len with
      | (.error (.fail st), s) => .next (s.failSend p d st)
      | (.error _, s) => .next s
      | (.ok xl, s) =>
        if d.pins.isNone then .next (s.pinSource p d xl)
        else if s.freshSectors (physSectors xl va d.len) then .next s
        else
        let s := (s.countVia xl d.ctx va d.len (towerOf d.lin)).verify (physSectors xl va d.len) 3 (some d.ctx)
        let bad := s.badSectors xl va d.len
        .next (s.sourceRead p d (s.readVia xl va d.len) fun j => bad.contains (va / 32 + j))

/-! ### Camps (R402, R405, R409, R417) -/

/-- Pitches with nothing left to do are freed (R402). -/
def State.freePitches (s : State) (p : Plane) (k : Nat) : State :=
  s.modPlane p fun x => x.modCamp k fun c =>
    let gone := c.pitches.filter fun q => !q.write && q.copies == 0 && !q.fanWait
    { c with pitches := c.pitches.filter fun q => q.write || q.copies != 0 || q.fanWait, freed := (c.freed + gone.length) % 2 ^ 24 }

def State.modPitch (s : State) (p : Plane) (k seq : Nat) (f : Pitch → Pitch) : State :=
  s.modPlane p fun x => x.modCamp k fun c => { c with pitches := c.pitches.map fun q => if q.seq = seq then f q else q }

/-- A flit a relay drops for a failed link (R433). -/
def State.noteLost (s : State) (f : Flit) : State :=
  let m := (f.src, f.tag, f.dest)
  if s.planeX.lost.contains m then s else s.modPlane .x fun x => { x with lost := x.lost ++ [m] }

/-- A copy of a camped flit goes onward to its DEST (R405, R417), or is dropped over a failed link. -/
def State.onward (s : State) (p : Plane) (k seq : Nat) (f : Flit) : State :=
  match hopFrom s.hub.peer f.dest with
  | none => s
  | some (op, ok) =>
    if s.hopFailed op ok then s.noteLost f
    else
      (s.queueFlit op ok true { flit := f, send := none, pitch := some seq }).modPitch p k seq fun q => { q with copies := q.copies + 1 }

/-- A multicast flit whose seat mask is known is written here, and copied to the pod's other members (R417). -/
def State.fanOut (s : State) (p : Plane) (k seq : Nat) (f : Flit) (mask : BitVec 32) : State :=
  let own := s.hub.peer
  let s := s.modPitch p k seq fun q => { q with fanWait := false, write := mask.getLsbD (peerSeat own) }
  ((List.range 32).filter fun j => mask.getLsbD j && j != peerSeat own).foldl (fun s j =>
    s.onward p k seq { f with dest := j + 32 * peerPod own }) s

/-- A flit that passes R400 takes a pitch (R402). -/
def State.campFlit (s : State) (p : Plane) (k : Nat) (f : Flit) : State :=
  let (seq, s) := s.nextSeq
  let mine := f.dest == s.hub.peer
  let fan := mine && p == .y && f.wgen == 0
  let s := s.modPlane p fun x => x.modCamp k fun c =>
    { c with pitches := c.pitches ++ [{ seq := seq, flit := f, write := mine && !fan, copies := 0, fanWait := fan }] }
  let s :=
    if fan then
      match (s.planeX.fans.find? fun e => e.src == f.src) with
      | some e => s.fanOut p k seq f e.mask
      | none => s
    else if mine then s
    else s.onward p k seq f
  s.freePitches p k

/-- The detector lane that listens to a line in the slot of this tick (R395). -/
def State.listener (s : State) (p : Plane) (k b : Nat) : Option Nat :=
  match (s.plane p).active with
  | none => none
  | some t => ((t.lit (s.tick % t.period) true).find? fun q => q.1 == k && q.2.1 == b).map fun q => q.2.2

/-- Codewords of a lane in the buckets from HISTTH.BUCKET on, in this window of 1,024 ticks (R439). -/
def PlaneSt.highCount (q : PlaneSt) (lane : Nat) : Nat :=
  ((q.high.filter fun e => e.1 / 10 == lane && decide (q.histBucket ≤ e.1 % 10)).map fun e => e.2).foldl (· + ·) 0
/-- LANEHEALTH, once per lane and window (R439). -/
def State.laneHealth (s : State) (p : Plane) (lane : Nat) : State :=
  let q := s.plane p
  let n := q.highCount lane
  if n > q.histLimit && !q.healthRaised.contains lane then
    (s.modPlane p fun q => { q with healthRaised := q.healthRaised ++ [lane] }).event evLANEHEALTH none (planeNum p)
      (lane + n % 2 ^ 32 * 2 ^ 32)
  else s

/-- A codeword counts on its lane (R438, R439): sym corrected symbols, 9 or more uncorrectable. -/
def State.countCodeword (s : State) (p : Plane) (lane sym : Nat) : State :=
  let j := min sym 9
  let key := 10 * lane + j
  let s := s.modPlane p fun q =>
    { q with live := tput 0 q.live key (satAdd32 (tget 0 q.live key) 1), high := tput 0 q.high key (tget 0 q.high key + 1) }
  let s := if j = 9 then s.event evLANEUNC none (planeNum p) lane else s
  s.laneHealth p lane

/-- The flit at a position of a codeword's data: 2c in the low half, 2c + 1 in the high (R398). -/
def flitAt (data : BitVec 2304) (pos : Nat) : BitVec 1152 := data.extractLsb' (1152 * (pos % 2)) 1152

/-- FLIT_RECEIVE (R398, R400): the flit at a position of a listened line in this slot, in its codeword as received; `tag` names its send. -/
def execFlitReceive (plane : Plane) (residue band : Nat) (pos : Nat) (cw : BitVec 2448) (tag : Nat) (s : State) : Res :=
  match s.listener plane residue band with
  | none => .next s
  | some lane =>
    if !s.hub.lock || pos ≥ 32 then .next s
    else
      let key := lineKey residue band
      let old := tget none (s.plane plane).rx key
      let rx : RxSlot := match old with
        | some r => if r.tick = s.tick then r else { tick := s.tick, good := 0, cws := [] }
        | none => { tick := s.tick, good := 0, cws := [] }
      let fresh := !rx.cws.contains (pos / 2)
      let got := fecDecode cw
      let fl := Flit.ofBits (flitAt (got.elim 0 fun d => d.1) pos) tag
      let room := ((s.plane plane).camp residue).pitches.length < 8192
      let ok := got.isSome && fl.checks && room
      let rx := { rx with cws := if fresh then rx.cws ++ [pos / 2] else rx.cws,
                          good := if ok then rx.good ||| BitVec.ofNat 32 (2 ^ pos) else rx.good }
      let s := s.modPlane plane fun q => { q with rx := tput none q.rx key (some rx) }
      let s := if fresh then s.countCodeword plane lane (got.elim 9 fun d => d.2) else s
      .next (if ok then s.campFlit plane residue fl else s)

/-- The send of a flit is marked with its first status (R409). -/
def State.mark (s : State) (f : Flit) (st : Nat) : State :=
  if s.planeX.marks.any fun m => m.1 == f.src && m.2.1 == f.tag then s
  else s.modPlane .x fun x => { x with marks := x.marks ++ [(f.src, f.tag, st)] }

/-- The page of a window's address is not writable, which R409 asks before whether it is POISONED. -/
def State.windowReadOnly (s : State) (c va : Nat) : Bool :=
  match s.walk c va with
  | .leaf _ _ e => !pteW e
  | _ => false

/-- The window check of R409 before translation: the status of the first row that fails. -/
def Window.refuses (w : Window) (f : Flit) : Option Nat :=
  if !w.isOpen || (f.wgen != 0 && f.wgen != w.wgen) then some stREVOKED
  else if f.src &&& w.pmask != w.peer &&& w.pmask then some stDENIED
  else if 128 * (f.offset + 1) > w.len then some stWINRANGE
  else none

/-- FLIT_WRITE (R409): the first flit of a camp that is to be written here. -/
def execFlitWrite (plane : Plane) (residue : Nat) (s : State) : Res :=
  let c := (s.plane plane).camp residue
  match c.pitches.find? fun q => q.write || q.fanWait with
  | none => .next s
  | some q =>
    if q.fanWait then .next s
    else
      let f := q.flit
      let w := s.window f.win
      let finish (s : State) : State :=
        ((s.modPitch plane residue q.seq fun q => { q with write := false }).modPlane plane fun x =>
          x.modCamp residue fun c => { c with blocked := false }).freePitches plane residue
      match w.refuses f with
      | some st => .next (finish (s.mark f st))
      | none =>
        let va := w.base + 128 * f.offset
        if c.blocked && s.pantryBlocks w.ctx va 128 then .next s
        else
          match s.agentXlat w.ctx true (agentTower va) 2 va 128 with
          | (.error (.fail st), s) =>
            .next (finish (s.mark f (if st = stPOISON && s.windowReadOnly w.ctx va then stREADONLY else st)))
          | (.error (.pantry _), s) => .next (s.modPlane plane fun x => x.modCamp residue fun c => { c with blocked := true })
          | (.error .wait, s) => .next s
          | (.ok xl, s) =>
            let s := s.writeVia xl va f.bytes
            .next (finish (s.poisonSectors (((List.range 4).filter fun n => f.poison.getLsbD n).map fun n => physVia xl va / 32 + n)))

/-! ### Control messages (R403 to R405, R407, R410, R415, R417) -/

/-- A message of a TYPE: this device acts when it is its DEST, and relays it onward otherwise (R405). -/
def State.ctlIn (s : State) (m : CtlMsg) (type : Nat) (act : State → State) : Res :=
  if ctlType m.bits ≠ type then .next s
  else if ctlDest m.bits = s.hub.peer then .next (act s)
  else .next (s.queueCtl m.bits)

/-- IDLE (R406): a loopback check. -/
def execIdle (m : CtlMsg) (s : State) : Res := s.ctlIn m 0 fun s => s
/-- RESERVED_MESSAGE (R407): it is discarded. -/
def execReservedMessage (_m : CtlMsg) (s : State) : Res := .next s

/-- CREDIT (R403). -/
def execCredit (m : CtlMsg) (s : State) : Res :=
  s.ctlIn m 1 fun s => s.modPlane (ctlPlane m.bits) fun q => q.modStream (ctlBits m.bits 25 5) fun t => { t with freed := ctlBits m.bits 64 24 }

/-- A flit is acknowledged at its first hop (R402, R415). -/
def State.ackFlit (s : State) (q : QFlit) : State :=
  match q.pitch with
  | some seq =>
    [Plane.x, Plane.y].foldl (fun s p =>
      (tkeys (s.plane p).camps).foldl (fun s k =>
        if ((s.plane p).camp k).pitches.any fun x => x.seq == seq then
          (s.modPitch p k seq fun x => { x with copies := x.copies - 1 }).freePitches p k
        else s) s) s
  | none =>
    match q.send with
    | none => s
    | some id =>
      match s.send id with
      | none => s
      | some (p, _) =>
        s.modSend p id fun d => { d with copies := d.copies.map fun c =>
          if c.dest = q.flit.dest then { c with left := c.left - 1 } else c }

/-- NOTICEs of copies whose flits are all acknowledged leave, and later fan-outs begin (R415, R417). -/
def State.sendNotices (s : State) : State :=
  let s := [Plane.x, Plane.y].foldl (fun s p =>
    (s.plane p).sends.foldl (fun s d =>
      (d.copies.filter fun c => c.queued && c.left == 0 && !c.notice).foldl (fun s c =>
        (s.sendCtl 3 c.dest p (d.win + d.wgen * 2 ^ 8 + d.num * 2 ^ 12) (d.len / 128)).modSend p d.id fun d =>
          { d with copies := d.copies.map fun x => if x.dest = c.dest then { x with notice := true } else x }) s) s) s
  s.queueAll

/-- Flits of one line and slot are queued for retransmission (R404, R429). -/
def Stream.requeue (t : Stream) (u : Unacked) (keep : Nat → Bool) : Stream :=
  { t with retr := t.retr ++ (u.items.filter fun i => keep i.1).map fun i => i.2,
           unacked := t.unacked.filter fun v => !(v.tick == u.tick && v.band == u.band) }

/-- ACK (R404): good flits are done, the others are queued for retransmission; a slot that has timed out has no entry. -/
def execAck (m : CtlMsg) (s : State) : Res :=
  s.ctlIn m 2 fun s =>
    let p := ctlPlane m.bits
    let k := ctlBits m.bits 25 5
    let b := ctlBits m.bits 30 4
    let good : BitVec 32 := BitVec.ofNat 32 (ctlBits m.bits 64 32)
    if neighbour s.hub.peer p k ≠ ctlSrc m.bits then s
    else
      match ((s.plane p).stream k).unacked.find? fun u => u.band == b && u.tick % 65536 == ctlBits m.bits 34 16 with
      | none => s
      | some u =>
        let s := s.modPlane p fun q => (q.modStream k fun t => t.requeue u fun n => !good.getLsbD n).modLine k b fun l =>
          { l with unheard := 0, raised := false }
        ((u.items.filter fun i => good.getLsbD i.1).foldl (fun s i => s.ackFlit i.2) s).sendNotices

/-- ACK_TIMEOUT (R404, R395): `slot` is the tick of the slot; its flits are queued again and the line may be UNHEARD. -/
def execAckTimeout (plane : Plane) (residue slot : Nat) (s : State) : Res :=
  let us := ((s.plane plane).stream residue).unacked.filter fun u => u.tick == slot && decide (slot + 12 ≤ s.tick + 1)
  .next (us.foldl (fun s u =>
    let s := s.modPlane plane fun q => q.modStream residue fun t => t.requeue u fun _ => true
    let q := s.plane plane
    let l := q.line residue u.band
    let k := q.active.elim 0 fun t => (t.entriesOf residue u.band).length
    let n := l.unheard + 1
    let hit := n ≥ 4 * max k 1 && !l.raised
    let s := s.modPlane plane fun q => q.modLine residue u.band fun l => { l with unheard := n, raised := l.raised || hit }
    if hit then s.event evUNHEARD none (planeNum plane) (residue + u.band * 2 ^ 5) else s) s)

/-- NOTICE (R405, R410, R417): kept until it may be applied or go onward; at a fan-out device one more for each other member. -/
def execNotice (m : CtlMsg) (s : State) : Res :=
  if ctlType m.bits ≠ 3 then .next s
  else
    let own := s.hub.peer
    let n : Notice :=
      { seq := s.seqNo, src := ctlSrc m.bits, dest := ctlDest m.bits, win := ctlBits m.bits 25 8, wgen := ctlBits m.bits 33 4,
        num := ctlBits m.bits 37 16, plane := planeNum (ctlPlane m.bits), flits := ctlBits m.bits 64 24, fan := false }
    let s := { s with seqNo := s.seqNo + 1 }
    let add (s : State) (ns : List Notice) : State := s.modPlane .x fun q => { q with notices := q.notices ++ ns }
    match (if n.dest = own && n.wgen = 0 then s.planeX.fans.find? fun e => e.src == n.src && e.num == n.num else none) with
    | none => .next (add s [n])
    | some e =>
      let seats := (List.range 32).filter fun j => e.mask.getLsbD j
      .next (add s (seats.map fun j => if j = peerSeat own then n else { n with dest := j + 32 * peerPod own, fan := true }))

/-- Every earlier flit of the NOTICE's source that this device still writes, or passes onward, is done (R405, R410, R417),
and no earlier NOTICE of the source to the same destination waits. -/
def State.noticeReady (s : State) (n : Notice) : Bool :=
  let own := s.hub.peer
  let busy (q : Pitch) : Bool :=
    q.flit.src == n.src && decide (q.seq < n.seq) && (q.fanWait || (if n.dest = own then q.write else q.copies != 0))
  !((s.planeX.camps ++ s.planeY.camps).any fun c => c.2.pitches.any busy)
    && !(s.planeX.notices.any fun o => o.src == n.src && o.dest == n.dest && decide (o.seq < n.seq))

/-- A NOTICE applied to its window (R410, R411): NOTICES, the future, DONE. -/
def State.applyNotice (s : State) (n : Notice) : State :=
  let w := s.window n.win
  let is (m : Nat × Nat × Nat) : Bool := m.1 == n.src && m.2.1 == sendTag n.num n.plane
  let first := (s.planeX.marks.find? is).map fun m => m.2.2
  let s := s.modPlane .x fun x => { x with marks := x.marks.filter fun m => !is m }
  let ok := w.isOpen && (n.wgen == 0 || n.wgen == w.wgen)
  let count := min (w.notices + 1) 4095
  let s :=
    if ok then
      let s := s.modWindow n.win fun w => { w with notices := count }
      if w.notices < max w.expect 1 && count = max w.expect 1 then
        s.resolve w.fut w.ctx 3 1 (.set (BitVec.ofNat 64 (count + n.src * 2 ^ 16)))
      else s
    else s
  let st := match first with
    | some st => st
    | none => if ok then 0 else stREVOKED
  s.sendCtl 4 n.src (planeOf n.plane) (n.num + st * 2 ^ 16) 0

/-- A NOTICE passed onward (R405, R417), or answered for flits dropped on the way (R433). -/
def State.passNotice (s : State) (n : Notice) : State :=
  let m := (n.src, sendTag n.num n.plane, n.dest)
  if s.planeX.lost.contains m then
    (s.modPlane .x fun x => { x with lost := x.lost.filter fun l => l != m }).queueCtl
      (ctlWord 4 n.src n.dest n.plane (n.num + stLINKFAIL * 2 ^ 16) 0)
  else s.queueCtl (ctlWord 3 n.dest n.src n.plane (n.win + n.wgen * 2 ^ 8 + n.num * 2 ^ 12) n.flits)

/-- NOTICE_APPLY (R410): the kept NOTICE with an index. A fan-out closes when its NOTICEs have left (R417). -/
def execNoticeApply (plane : Plane) (index : Nat) (s : State) : Res :=
  match (s.plane plane).notices[index]? with
  | none => .next s
  | some n =>
    if !s.noticeReady n then .next s
    else
      let s := s.modPlane plane fun q => { q with notices := q.notices.eraseIdx index }
      let s := if n.dest = s.hub.peer then s.applyNotice n else s.passNotice n
      let left := s.planeX.notices.any fun o => o.src == n.src && o.num == n.num
      .next (if left || n.wgen != 0 then s
        else s.modPlane .x fun q => { q with fans := q.fans.filter fun e => !(e.src == n.src && e.num == n.num) })

/-- DONE (R415, R416): it resolves a SEND, or answers for a member of an MSEND. -/
def execDone (m : CtlMsg) (s : State) : Res :=
  s.ctlIn m 4 fun s =>
    let p := ctlPlane m.bits
    let num := ctlBits m.bits 25 16
    let st := ctlBits m.bits 41 16
    match (s.plane p).sends.find? fun d => d.read && d.num == num && d.members.any fun r => r.1 == ctlSrc m.bits && r.2.isNone with
    | none => s
    | some d =>
      if d.multi then
        (s.modSend p d.id fun d => { d with members := d.members.map fun r => if r.1 = ctlSrc m.bits then (r.1, some st) else r }).checkSend p d.id
      else s.endSend p d (if st = 0 then .set (BitVec.ofNat 64 d.len) else .failed st)

/-- MCFAN (R417): the flits of its source that wait are fanned out. -/
def execMcfan (m : CtlMsg) (s : State) : Res :=
  s.ctlIn m 8 fun s =>
    let mask : BitVec 32 := BitVec.ofNat 32 (ctlBits m.bits 64 32)
    let src := ctlSrc m.bits
    let s := s.modPlane .x fun q =>
      { q with fans := (q.fans.filter fun e => e.src != src) ++ [{ src := src, num := ctlBits m.bits 25 16, win := ctlBits m.bits 41 8, mask := mask }] }
    (tkeys s.planeY.camps).foldl (fun s k =>
      ((s.planeY.camp k).pitches.filter fun q => q.fanWait && q.flit.src == src).foldl (fun s q => s.fanOut .y k q.seq q.flit mask) s
        |>.freePitches .y k) s

/-- ARRIVE (R166, R169). -/
def execArrive (m : CtlMsg) (s : State) : Res := s.ctlIn m 5 fun s => s.arriveMsg m.bits

/-! ### Windows and LSTAT (R419 to R421) -/

/-- WOPEN's effect (R419): the handle, or all ones. -/
def State.openWindow (s : State) (c : Nat) (a b cc : Word) : Word × State :=
  let base := a.toNat
  let len := bitsOf b.toNat 0 28
  let peer := bitsOf cc.toNat 32 10
  let pmask := bitsOf cc.toNat 42 10
  let handle (s : State) (e : Nat) : Word := BitVec.ofNat 64 (e + (s.window e).wgen * 2 ^ 8)
  let same (e : Nat) : Bool :=
    let w := s.window e
    w.isOpen && w.ctx == c && w.base == base && w.len == len && w.peer == peer && w.pmask == pmask
  match firstBelow 256 same with
  | some e => (handle s e, s)
  | none =>
    let e := if bitsOf cc.toNat 60 1 = 1 then some (bitsOf cc.toNat 52 8) else firstBelow 256 fun e => !(s.window e).isOpen
    match e with
    | none => (BitVec.allOnes 64, s)
    | some e =>
      if (s.window e).isOpen then (BitVec.allOnes 64, s)
      else
        let s := s.modWindow e fun w =>
          { w with isOpen := true, ctx := c, base := base, len := len, peer := peer, pmask := pmask, expect := bitsOf b.toNat 28 12,
                   fut := bitsOf cc.toNat 0 32, notices := 0 }
        (handle s e, s)

/-- An operation of the fabric die with its operands (R49): it performs once its bundle has passed its last fault check, and its result is
visible 8 cycles after issue whatever the header; until it has performed, that cycle is not reached (notes/assumptions/96.md). -/
def State.askFabric (s : State) (i : Instr) (vals : List Word) (d : Opnd) : State :=
  let k := s.seqNo
  (s.enqueue i false false 0 vals 0 0 .slice false []).onCore fun c =>
    { c with pend := c.pend ++ [
        { seq := k, baddr := c.bundle.1, bseq := c.bundle.2, slot := 7, ic := c.ic, cyc := s.cycle, lh := 8, lc := 8, ready := false,
          chain := false, locked := false, dests := [d], cl := .b, writes := [], latch := .none, fl := {}, cnt := {},
          enables := (FpEnv.ofFpcr c.fpcr).enables }] }

/-- WOPEN (R419). -/
def execWopen (x : OpA) (s : State) : Res :=
  s.slotRun (.wopen x) fun s => s.askFabric (.wopen x) [s.core.src .b x.a, s.core.src .b x.b, s.core.src .b x.c] x.d
/-- WOPEN at the fabric die. -/
def State.performWopen (s : State) (lin : Nat) (e : MqEntry) (x : OpA) : State :=
  let r := s.openWindow (s.ctxOf lin) (e.vals.getD 0 0) (e.vals.getD 1 0) (e.vals.getD 2 0)
  r.2.deliverWord lin e x.d r.1

/-- WCLOSE (R420). -/
def execWclose (x : OpA) (s : State) : Res :=
  s.slotRun (.wclose x) fun s => s.askFabric (.wclose x) [s.core.src .b x.a] x.d
/-- WCLOSE at the fabric die. -/
def State.performWclose (s : State) (lin : Nat) (e : MqEntry) (x : OpA) : State :=
  let h := (e.vals.getD 0 0).toNat
  let k := h % 256
  let w := s.window k
  if w.isOpen && w.ctx == s.ctxOf lin && w.wgen == bitsOf h 8 4 then (s.closeWindow k).deliverWord lin e x.d (BitVec.ofNat 64 w.notices)
  else s.deliverWord lin e x.d 0

/-- Word 0 of a window entry (R408). -/
def Window.word0 (w : Window) : Nat :=
  (if w.isOpen then 1 else 0) + w.wgen * 2 + w.ctx * 2 ^ 5 + w.peer * 2 ^ 11 + w.pmask * 2 ^ 21 + w.expect * 2 ^ 32 + w.notices * 2 ^ 44

/-- LSTAT's result for a task of context c (R421). -/
def State.lstat (s : State) (c kind a : Nat) : Nat :=
  let own := s.hub.peer
  match kind with
  | 0 =>
    let peer := bitsOf a 0 10
    let asked := planeOf (bitsOf a 10 1)
    match hopFrom own peer with
    | none => ((s.plane asked).link peer).code
    | some (p, k) =>
      let relay := neighbour own p k != peer
      let q := s.plane (if relay then p else asked)
      let hop := if relay then neighbour own p k else peer
      let wide := if relay || p == asked then q.active.elim 0 fun t => t.widest k else 0
      (q.link hop).code + wide * 2 ^ 3 + (if relay then 2 ^ 7 else 0)
  | 1 => let w := s.window (a % 256); if w.ctx = c then w.word0 else 0
  | 2 =>
    let t := (s.plane (planeOf (bitsOf a 5 1))).stream (bitsOf a 0 5)
    let out := (t.unacked.map fun u => u.items.length).foldl (· + ·) 0
    t.shadow + min (t.retr.length + t.relay.length + t.loc.length) 65535 * 2 ^ 16 + min out 65535 * 2 ^ 32
  | _ =>
    let q := s.plane (planeOf (bitsOf a 0 1))
    let sb := if q.standby.isSome then 2 ^ 50 else 0
    match q.active with
    | none => sb
    | some t => t.id.toNat + s.tick % t.period * 2 ^ 32 + (t.period - 1) * 2 ^ 41 + sb

/-- LSTAT (R421). -/
def execLstat (x : OpA) (s : State) : Res :=
  s.slotRun (.lstat x) fun s => s.askFabric (.lstat x) [s.core.src .b x.a] x.d
/-- LSTAT at the fabric die. -/
def State.performLstat (s : State) (lin : Nat) (e : MqEntry) (x : OpA) : State :=
  s.deliverWord lin e x.d (BitVec.ofNat 64 (s.lstat (s.ctxOf lin) x.sub.toNat (e.vals.getD 0 0).toNat))

end Sys2Proof.Machine
end

