-- ==== Sys2Proof/Machine/Context.lean ====
section
/-!
DEFINITION. Machine/Context.lean: context commands, quiescing, teardown (R91 to R98), and the retirement of a pair (R29).
-/
namespace Sys2Proof.Machine

def cerrOK := 0
def cerrBADSTATE := 1
def cerrBADROOT := 2

def State.setCerr (s : State) (c n : Nat) : State := s.modCtx c fun x => { x with cerr := n }

/-- A command of a context (R93): in the states that list it, it acts; elsewhere CERR becomes BADSTATE. -/
def State.ctxCmd (s : State) (c : Nat) (ok : CtxState → Bool) (act : State → State) : Res :=
  if ok (s.ctx c).state then .next (act (s.setCerr c cerrOK)) else .next (s.setCerr c cerrBADSTATE)

/-- BUILD (R93). -/
def execBuild (c : Nat) (s : State) : Res :=
  s.ctxCmd c (· == .free) fun s =>
    s.modCtx c fun x =>
      { x with state := .building, ptroot := 0, respol := 0, logfp := false, maxpri := 0, priv := false, slip := 0, mcast := [] }

/-- ACTIVATE (R92, R93). -/
def execActivate (c : Nat) (s : State) : Res :=
  s.ctxCmd c (· == .building) fun s =>
    if (s.ctx c).respol = 3 then s.setCerr c cerrBADSTATE
    else if (s.ctx c).ptroot = 0 then s.setCerr c cerrBADROOT
    else s.modCtx c fun x => { x with state := .active }

/-- QUIESCE (R94). -/
def execQuiesce (c : Nat) (s : State) : Res :=
  s.ctxCmd c (· == .active) fun s =>
    ((s.modCtx c fun x => { x with state := .quiescing, drained := false, held := false }).quiesceTasks c).rank 4 c 0

/-- RESUME (R93): the queues are in the states they held. -/
def execResume (c : Nat) (s : State) : Res :=
  s.ctxCmd c (· == .suspended) fun s =>
    let s := (s.modCtx c fun x => { x with state := .active }).settleQueues
    (tkeys s.queues).foldl State.drainCheck s

/-- A pair's local store is zeroed and its tags are reset (R98): it takes 2,048 cycles. -/
def State.zeroPair (s : State) (p : Nat) : State :=
  s.modPair p fun q => { q with data := [], scale := [], tags := [], zeroUntil := s.cycle + 2048 }

/-- Teardown begins (R96). The context's launches end in FAULTED with CTXGONE; TEARDOWN_COMPLETE frees its futures last. -/
def State.startTeardown (s : State) (c : Nat) : State :=
  let s := s.modCtx c fun x => { x with state := .destroyed, held := false, mcast := [] }
  let s := ((tkeys s.windows).filter fun e => (s.window e).isOpen && (s.window e).ctx == c).foldl State.closeWindow s
  let s := ((tkeys s.queues).filter fun q => (s.queue q).ctx == c).foldl State.resetQueue s
  let s := ((tkeys s.launches).filter fun k => (s.launchOf k).ctx == c).foldl (fun s k => s.abortWith k 0xF2) s
  let s := (s.taskList.filter fun i => (s.task i).ctx == c && (s.task i).state != .running).foldl
    (fun s i => (s.clearNext i).freeTask i) s
  let s := ((tkeys s.devBars).filter fun i => (s.devBar i).bound && (s.devBar i).ctx == c).foldl (fun s i => s.unbind (.device i)) s
  let s := ((tkeys s.podBars).filter fun i => (s.podBar i).bound && (s.podBar i).ctx == c).foldl (fun s i => s.unbind (.pod i)) s
  let s := ((tkeys s.sets).filter fun k => k / 4096 == c && (s.aset k).state != .free).foldl (fun s k => s.modSet k ASet.freed) s
  let s := { s with scheds := s.scheds.filter fun d => d.ctx != c }
  let s := ((tkeys s.pages).filter fun a => (s.page a).ctx == c).foldl (fun s a =>
    (s.setLogFree (s.hub.logFree + (s.page a).chunks.length)).modPage a fun _ => {}) s
  ((tkeys s.pairs).filter fun p => (s.pairAt p).ownerCtx == some c).foldl (fun s p =>
    (s.zeroPair p).modPair p fun q => { q with owner := none }) s

/-- DESTROY (R93): held in FAULTED until the drain completes. -/
def execDestroy (c : Nat) (s : State) : Res :=
  s.ctxCmd c (fun st => st == .building || st == .suspended || st == .faulted) fun s =>
    if (s.ctx c).state == .faulted && !(s.ctx c).drained then s.modCtx c fun x => { x with held := true }
    else s.startTeardown c

/-- The drain of a context is complete (R94): no task RUNNING, no engine operation or send of its tasks outstanding. -/
def State.ctxIdle (s : State) (c : Nat) : Bool :=
  !(s.runningCores.any fun l => (s.coreAt l).task.elim false fun i => (s.task i).ctx == c)
    && !((tkeys s.pairs).any fun p => (s.pairAt p).eng.any fun o => o.ctx == c)
    && !((s.planeX.sends ++ s.planeY.sends).any fun d => d.ctx == c)

/-- CTX_DRAIN_COMPLETE (R93, R94). -/
def execCtxDrainComplete (c : Nat) (s : State) : Res :=
  let x := s.ctx c
  if x.drained || !s.ctxIdle c then .next s
  else if x.state == .quiescing then
    .next ((s.modCtx c fun x => { x with state := .suspended, drained := true }).event evCTXQUIET (some c) 0 0)
  else if x.state == .faulted then
    let s := s.modCtx c fun x => { x with drained := true }
    .next (if x.held then s.startTeardown c else s)
  else .next s

/-- Teardown can end: no launch of the context is left, and no local store of it is being zeroed. -/
def State.tornDown (s : State) (c : Nat) : Bool :=
  !((tkeys s.launches).any fun k => (s.launchOf k).state != .free && (s.launchOf k).ctx == c)
    && (tkeys s.pairs).all fun p => !((s.pairAt p).ownerCtx == some c && decide (s.cycle < (s.pairAt p).zeroUntil))

/-- TEARDOWN_COMPLETE (R96). -/
def execTeardownComplete (c : Nat) (s : State) : Res :=
  if (s.ctx c).state == .destroyed && s.tornDown c then
    let s := ((tkeys s.futs).filter fun i => (s.fut i).state != .free && (s.fut i).ctx == c).foldl State.freeFuture s
    let s := (tkeys s.pairs).foldl (fun s p => s.modPair p fun q => if q.ownerCtx = some c then { q with ownerCtx := none } else q) s
    .next ((s.modCtx c fun x => { x with state := .free, drained := false, held := false }).event evCTXFREE (some c) 0 0)
  else .next s

/-- HOSTFAULT (R444, R93). -/
def execHostfault (v : Word) (s : State) : Res := .next (s.ctxFault (v.extractLsb' 0 6).toNat 3)

/-! ### Retirement of a pair (R29) -/

/-- PAIR_RETIREMENT (R29): requests to the cores, collective pre-emption of groups, RETIRED for a persistent launch. -/
def execPairRetirement (pair : Nat) (s : State) : Res :=
  if (s.pairAt pair).service != .inService || decide (pair ≥ 576) then .next s
  else
    let s := s.modPair pair fun q => { q with service := .retiring }
    let s := ((tkeys s.groups).filter fun k => (s.pitch k).contains pair).foldl (fun s k =>
      if (s.group k).state == .running then s.groupPreempt k
      else if (s.group k).state == .placed then
        s.modGroup k fun g => { g with state := .requested, pitch := none, cores := [], reserved := [] }
      else s) s
    let s := (coresOfPair pair).foldl (fun s l => if (s.coreAt l).task.isSome then s.modCore l fun c => c.request s.cycle .plain else s) s
    .next (match (s.pairAt pair).owner with
      | some h =>
        let k := slotOfHandle h
        if s.handleOf k = h && (s.launchOf k).img.persist then s.abortWith k 0xF0 else s
      | none => s)

/-- A retiring pair that has drained is zeroed and stays dark (R29). -/
def State.settlePairs (s : State) : State :=
  (tkeys s.pairs).foldl (fun s p =>
    let q := s.pairAt p
    if q.service == .retiring && (coresOfPair p).all (fun l => (s.coreAt l).task.isNone) && q.eng = [] && q.sb = [] then
      s.modPair p fun _ => { service := .dark }
    else s) s

end Sys2Proof.Machine
end

