-- ==== Sys2Proof/Machine/LinkFaults.lean ====
section
/-!
DEFINITION. Machine/LinkFaults.lean: link life and faults (R422 to R441): policy, link and line states, calibration, drift
and repair, lanterns, parking and waking, slot tables from the host.
-/
namespace Sys2Proof.Machine

/-! ### Policy (R422) -/

def FabPol.ofWord (w : Nat) : FabPol :=
  { subst := bitsOf w 0 1 == 1, lantern := bitsOf w 1 1 == 1, autopark := bitsOf w 2 1 == 1,
    parkmask := BitVec.ofNat 8 (bitsOf w 3 8), parkidle := bitsOf w 11 16, wakeq := bitsOf w 27 16, margin := bitsOf w 43 8,
    driftth := bitsOf w 51 8 }
def FabPol.toWord (p : FabPol) : Nat :=
  (if p.subst then 1 else 0) + (if p.lantern then 2 else 0) + (if p.autopark then 4 else 0) + p.parkmask.toNat * 2 ^ 3
    + p.parkidle * 2 ^ 11 + p.wakeq * 2 ^ 27 + p.margin * 2 ^ 43 + p.driftth * 2 ^ 51

/-! ### Remaps and snapshots (R440) -/

/-- A requested snapshot is taken: it copies the counters and LIVEGEN as they stand. -/
def PlaneSt.takeSnap (q : PlaneSt) : PlaneSt :=
  if q.snapReq then { q with snapReq := false, snaps := q.live, snapLive := q.livegen, snapgen := q.snapgen + 1 } else q
/-- A remap at a peg raises LIVEGEN, after any snapshot requested. -/
def PlaneSt.remap (q : PlaneSt) : PlaneSt := { q.takeSnap with livegen := q.takeSnap.livegen + 1 }

/-! ### Links and lines (R424, R428, R433) -/

/-- The active table lights a line. -/
def PlaneSt.lightsLine (q : PlaneSt) (k b : Nat) : Bool :=
  q.active.elim false fun t => t.codes.any fun c => c.1 / 128 % 2 == 0 && codeLit c.2 && codeResidue c.2 == k && codeBand c.2 == b

/-- States of a line that keep its link from failing. -/
def LineState.alive : LineState → Bool
  | .lit | .substituted | .retuning | .parked | .waking => true
  | _ => false
def LineState.carries : LineState → Bool
  | .lit | .substituted => true
  | _ => false

/-- A link's state after its lines have become `ls` (R424); `left`: one of them has left LIT other than by parking. -/
def linkAfter (old : LinkState) (ls : List LineState) (left : Bool) : LinkState :=
  match old with
  | .dark | .calibrating | .trained | .failed => old
  | _ =>
    if !ls.any LineState.alive then .failed
    else
      let degrade := left && ls.any LineState.carries
      match old with
      | .parked => if ls.any (· == .waking) then .waking else .parked
      | .waking => if degrade then .degraded else if ls.any (· == .lit) then .inService else .waking
      | .degraded =>
        if ls.all (· == .parked) then .parked
        else if ls.all fun l => l == .lit || l == .parked then .inService else .degraded
      | _ => if degrade then .degraded else if ls.all (· == .parked) then .parked else old

/-- The states of this device's lines of a residue. -/
def PlaneSt.linesOf (q : PlaneSt) (k : Nat) : List LineState :=
  (q.lines.filter fun e => e.1 / 16 == k && e.2.state != .dark).map fun e => e.2.state

/-- The flits a stream holds are dropped (R433): of a relayed one its original sender learns through a DONE. -/
def State.dropStream (s : State) (p : Plane) (k : Nat) : State :=
  let t := (s.plane p).stream k
  let all := t.retr ++ t.relay ++ t.loc ++ t.unacked.flatMap fun u => u.items.map fun i => i.2
  let s := s.modPlane p fun q => q.modStream k fun t => { t with retr := [], relay := [], loc := [], unacked := [] }
  (all.filter fun q => q.pitch.isSome).foldl (fun s q => (s.noteLost q.flit).ackFlit q) s

/-- Sends over a hop that is gone fail with LINKFAIL; the members of an MSEND reached through it count as negative (R433). -/
def State.failSends (s : State) (hit : Copy → Bool) : State :=
  [Plane.x, Plane.y].foldl (fun s p =>
    (s.plane p).sends.foldl (fun s d =>
      let hs := d.copies.filter hit
      if hs = [] then s
      else if !d.multi then s.endSend p d (.failed stLINKFAIL)
      else
        let reached (m : Nat) : Bool := hs.any fun c => c.dest == m || (c.plane == .y && peerPod c.dest == peerPod m)
        let s := s.modSend p d.id fun d =>
          { d with copies := d.copies.filter fun c => !hit c,
                   members := d.members.map fun m => if m.2.isNone && reached m.1 then (m.1, some stLINKFAIL) else m }
        if d.read then s.checkSend p d.id else s) s) s

def State.setLink (s : State) (p : Plane) (peer : Nat) (l : LinkState) : State :=
  s.modPlane p fun q => { q with links := tput .dark q.links peer l }

/-- A link enters FAILED (R433, R170). -/
def State.failHop (s : State) (p : Plane) (k : Nat) : State :=
  let peer := neighbour s.hub.peer p k
  let s := (((s.setLink p peer .failed).dropStream p k).failSends fun c => c.plane == p && c.residue == k).sendNotices
  if p = .x then s.seatLost (peerSeat peer) else s

/-- The link of a residue follows its lines (R424). -/
def State.relink (s : State) (p : Plane) (k : Nat) (left : Bool) : State :=
  let peer := neighbour s.hub.peer p k
  let old := (s.plane p).link peer
  let new := linkAfter old ((s.plane p).linesOf k) left
  if new = old then s
  else
    match new with
    | .failed => s.failHop p k
    | .degraded => (s.setLink p peer new).event evLINKDEGR none (planeNum p) peer
    | _ => s.setLink p peer new

/-- Unacknowledged flits of a line are queued for retransmission at once (R429). -/
def State.requeueLine (s : State) (p : Plane) (k b : Nat) : State :=
  (((s.plane p).stream k).unacked.filter fun u => u.band == b).foldl (fun s u =>
    s.modPlane p fun q => q.modStream k fun t => t.requeue u fun _ => true) s

def State.setLine (s : State) (p : Plane) (k b : Nat) (l : LineState) : State :=
  s.modPlane p fun q => q.modLine k b fun x => { x with state := l }

/-- A line leaves LIT other than by parking, for a state (R428, R429). -/
def State.leaveLit (s : State) (p : Plane) (k b : Nat) (l : LineState) : State :=
  ((s.setLine p k b l).requeueLine p k b).relink p k true

/-- A line enters FAILED (R428). -/
def State.failLine (s : State) (p : Plane) (k b : Nat) : State :=
  ((s.modPlane p fun q => { q with repS := q.repS.filter fun r => !(r.residue == k && r.band == b) }).leaveLit p k b .failed).event
    evLINEFAIL none (planeNum p) (k + b * 2 ^ 5)

/-- A TRAINED link whose lines the active table lights enters IN_SERVICE: both counts of its stream, and the count of pitches freed for the
peer's, are 0 (R403, R424). -/
def State.enterService (s : State) (p : Plane) (k : Nat) : State :=
  let peer := neighbour s.hub.peer p k
  if (s.plane p).link peer == .trained && (s.plane p).routed k then
    (s.setLink p peer .inService).modPlane p fun q =>
      (q.modStream k fun t => { t with sent := 0, freed := 0 }).modCamp (residueFrom s.hub.peer p peer) fun c => { c with freed := 0 }
  else s

/-- Lines that a switch of tables no longer lights have no state (R428); a LIT one's unacknowledged flits are queued again (R429). -/
def State.darkenLines (s : State) (p : Plane) : State :=
  (tkeys (s.plane p).lines).foldl (fun s key =>
    let k := key / 16
    let b := key % 16
    if (s.plane p).lightsLine k b then s
    else
      let s := if ((s.plane p).line k b).state == .lit then s.requeueLine p k b else s
      s.modPlane p fun q => q.modLine k b fun x => { x with state := .dark, drifts := 0, aborts := 0 }) s

/-- A line without a state that the active table lights over a link in service, and whose power is set, is LIT; one whose power the
lantern cannot reach is FAILED (R425). -/
def State.lightLines (s : State) (p : Plane) : State :=
  let own := s.hub.peer
  s.modPlane p fun q =>
    (List.range 320).foldl (fun q n =>
      let k := n / 10
      let b := n % 10
      let l := q.line k b
      if k != 0 && b != 8 && q.lightsLine k b && l.state == .dark && (q.link (neighbour own p k)).up && l.power.isSome then
        q.modLine k b fun x => { x with state := if x.beyond then .failed else .lit, drifts := 0, unheard := 0, raised := false }
      else q) q

/-! ### REPAIR messages (R431) -/

def phPREP := 0
def phREADY := 1
def phCOMMIT := 2
def phABORT := 3
def phPARK := 4
def phWAKE := 5
def phPROBE := 6

/-- A REPAIR message sent. -/
def State.sendRepair (s : State) (p : Plane) (dest phase k b id dlane switch entry : Nat) : State :=
  s.sendCtl 7 dest p (phase + k * 2 ^ 3 + b * 2 ^ 8 + id % 2 ^ 16 * 2 ^ 12 + dlane % 128 * 2 ^ 28) (switch % 2 ^ 48 + entry * 2 ^ 48)

/-- The fields of a REPAIR message. -/
structure RepairMsg where
  plane : Plane
  src : Nat
  residue : Nat
  band : Nat
  id : Nat
  dlane : Nat
  switch : Nat
  entry : Nat
  deriving DecidableEq, Repr
def RepairMsg.of (m : BitVec 128) : RepairMsg :=
  { plane := ctlPlane m, src := ctlSrc m, residue := ctlBits m 28 5, band := ctlBits m 33 4, id := ctlBits m 37 16,
    dlane := ctlBits m 53 7, switch := ctlBits m 64 48, entry := ctlBits m 112 9 }

/-- A REPAIR message of a phase. -/
def State.repairIn (s : State) (m : CtlMsg) (phase : Nat) (act : RepairMsg → State → State) : Res :=
  if ctlBits m.bits 25 3 ≠ phase then .next s else s.ctlIn m 7 fun s => act (RepairMsg.of m.bits) s

/-! ### Drift and repair (R428 to R432) -/

/-- S starts a repair of a drifting line (R430). -/
def State.startRepair (s : State) (p : Plane) (k b switch : Nat) : State :=
  let id := (s.plane p).nextRepair
  let s := s.modPlane p fun q =>
    { q with nextRepair := q.nextRepair + 1,
             repS := (q.repS.filter fun r => !(r.residue == k && r.band == b)) ++ [{ id := id.toNat, residue := k, band := b, switch := switch, commits := [] }] }
  s.sendRepair p (neighbour s.hub.peer p k) phPREP k b id.toNat 0 switch 0

/-- A DRIFTING line without a repair: one starts, or the line fails (R428). -/
def State.driftNext (s : State) (p : Plane) (k b switch : Nat) : State :=
  let q := s.plane p
  if q.pol.subst && b != 9 && !q.lightsLine k 9 then s.startRepair p k b switch else s.failLine p k b

/-- A repair of S is aborted (R428, R432): a second abort fails the line. -/
def State.abortRepair (s : State) (p : Plane) (r : RepairS) (after : Nat) : State :=
  let s := s.modPlane p fun q =>
    { (q.modLine r.residue r.band fun l => { l with aborts := l.aborts + 1 }) with
      repS := q.repS.filter fun x => x.id != r.id }
  if ((s.plane p).line r.residue r.band).aborts ≥ 2 then s.failLine p r.residue r.band
  else s.driftNext p r.residue r.band (max (s.tick + 24) (after + 1))

/-- WAVELENGTH_CHECK (R428): a LIT line against its locker. When it drifts, its modulation stops at a flit boundary: flits placed
on it in this slot and not yet sent stay here (R464). -/
def execWavelengthCheck (line : LineId) (err : Int) (s : State) : Res :=
  let p := line.plane
  let k := line.residue
  let b := line.band
  let l := (s.plane p).line k b
  if l.state != .lit then .next s
  else if err.natAbs ≤ (s.plane p).pol.driftth then .next (s.modPlane p fun q => q.modLine k b fun l => { l with drifts := 0 })
  else if l.drifts = 0 then .next (s.modPlane p fun q => q.modLine k b fun l => { l with drifts := 1 })
  else
    let (stop, s) := s.draw 33
    let s := { s with outbox := s.outbox.filter fun o =>
      match o with
      | .flit fp fk fb pos _ => !(fp == p && fk == k && fb == b && decide (pos ≥ stop))
      | _ => true }
    let s := s.modPlane p fun q => q.modLine k b fun l => { l with drifts := 0, aborts := 0 }
    let s := s.event evDRIFT none (planeNum p) (k + b * 2 ^ 5 + min err.natAbs 65535 * 2 ^ 16)
    .next ((s.leaveLit p k b .drifting).driftNext p k b (s.tick + 24))

/-- V's choice of a detector lane in an entry that listens to the line (R430): a dark lane (any of them), or a lane given up. -/
def State.pickLane (s : State) (p : Plane) (t : SlotTable) (e : Nat) : Pick × State :=
  let dark := (List.range 128).filter fun l => !codeLit (t.detCode e l)
  if dark != [] then
    let (n, s) := s.draw dark.length
    ({ entry := e, lane := dark.getD n 0, giver := none, ready := true }, s)
  else
    let ls := t.lit e true
    let width (k : Nat) : Nat := (ls.filter fun q => q.1 == k).length
    let top := ls.foldl (fun m q => max m (width q.1)) 0
    let better (x y : Nat × Nat × Nat) : Bool := decide (y.2.1 < x.2.1) || (x.2.1 == y.2.1 && decide (x.2.2 ≤ y.2.2))
    match sortBy better (ls.filter fun q => width q.1 == top) with
    | q :: _ => ({ entry := e, lane := q.2.2, giver := some (sourceOf s.hub.peer p q.1, q.1, q.2.1), ready := false }, s)
    | [] => ({ entry := e, lane := 0, giver := none, ready := true }, s)

/-- V holds every READY: COMMITs to S and to each D (R430). -/
def State.commitRepair (s : State) (p : Plane) (v : RepairV) : State :=
  if v.picks.all fun x => x.ready then
    let s := s.modPlane p fun q => { q with repV := some { v with committed := true } }
    let s := v.picks.foldl (fun s x => s.sendRepair p v.sender phCOMMIT v.residue v.band v.id x.lane v.switch x.entry) s
    v.picks.foldl (fun s x =>
      match x.giver with
      | some (d, k, b) => s.sendRepair p d phCOMMIT k b v.id 0 v.switch x.entry
      | none => s) s
  else s.modPlane p fun q => { q with repV := some v }

/-- A PREP reaches V (R430, R432). -/
def State.prepV (s : State) (m : RepairMsg) : State :=
  match (s.plane m.plane).repV with
  | some v => s.sendRepair m.plane m.src phABORT m.residue m.band m.id 0 v.switch 0
  | none =>
    let t := ((s.plane m.plane).active).getD { period := 1, id := 0, codes := [] }
    let es := (List.range t.period).filter fun e => (t.lit e true).any fun q => q.1 == m.residue && q.2.1 == m.band
    let r := es.foldl (fun (r : List Pick × State) e => let x := r.2.pickLane m.plane t e; (r.1 ++ [x.1], x.2)) ([], s)
    let s := r.1.foldl (fun s x =>
      match x.giver with
      | some (d, k, b) => s.sendRepair m.plane d phPREP k b m.id 0 m.switch x.entry
      | none => s) r.2
    s.commitRepair m.plane
      { sender := m.src, id := m.id, residue := m.residue, band := m.band, switch := m.switch, picks := r.1, committed := false }

/-- A PREP names a line that this device lights towards its sender, which is then a V that gives it up (R430); on residue 16,
where either device may light the line, one this device's table lights. -/
def State.isGiver (s : State) (m : RepairMsg) : Bool :=
  let own := s.hub.peer
  neighbour own m.plane m.residue == m.src
    && (sourceOf own m.plane m.residue != m.src || (s.plane m.plane).lightsLine m.residue m.band)

/-- PREP (R430). -/
def execPrep (m : CtlMsg) (s : State) : Res :=
  s.repairIn m phPREP fun m s =>
    if s.isGiver m then
      let s := s.modPlane m.plane fun q =>
        { q with repD := q.repD ++ [{ receiver := m.src, id := m.id, residue := m.residue, band := m.band, switch := m.switch, entry := m.entry, committed := false }] }
      s.sendRepair m.plane m.src phREADY m.residue m.band m.id 0 m.switch m.entry
    else s.prepV m

/-- READY (R430). -/
def execReady (m : CtlMsg) (s : State) : Res :=
  s.repairIn m phREADY fun m s =>
    match (s.plane m.plane).repV with
    | some v =>
      if v.id ≠ m.id || v.committed then s
      else
        s.commitRepair m.plane
          { v with picks := v.picks.map fun x =>
              if x.entry = m.entry && x.giver.elim false (fun g => g.1 == m.src) then { x with ready := true } else x }
    | none => s

/-- COMMIT (R430): to a D, or to S. -/
def execCommit (m : CtlMsg) (s : State) : Res :=
  s.repairIn m phCOMMIT fun m s =>
    let d (r : RepairD) : Bool :=
      r.receiver == m.src && r.id == m.id && r.entry == m.entry && r.residue == m.residue && r.band == m.band
    let q := s.plane m.plane
    if q.repD.any d then
      s.modPlane m.plane fun q => { q with repD := q.repD.map fun r => if d r then { r with committed := true } else r }
    else if neighbour s.hub.peer m.plane m.residue = m.src then
      s.modPlane m.plane fun q =>
        { q with repS := q.repS.map fun r =>
            if r.id = m.id && r.residue = m.residue && r.band = m.band then { r with commits := r.commits ++ [(m.entry, m.dlane)] } else r }
    else s

/-- ABORT (R432). -/
def execAbort (m : CtlMsg) (s : State) : Res :=
  s.repairIn m phABORT fun m s =>
    let s := s.modPlane m.plane fun q => { q with repD := q.repD.filter fun r => !(r.receiver == m.src && r.id == m.id) }
    match (s.plane m.plane).repS.find? fun r => r.id == m.id && r.residue == m.residue && r.band == m.band with
    | some r => if neighbour s.hub.peer m.plane m.residue = m.src then s.abortRepair m.plane r m.switch else s
    | none => s

/-- V lacks a READY four ticks before SWITCH: it aborts the repair (R432). -/
def State.repairLapse (s : State) (p : Plane) (id : Nat) : State :=
  match (s.plane p).repV with
  | some v =>
    if v.id = id && !v.committed && v.switch ≤ s.tick + 5 then
      let ds := (v.picks.filterMap fun x => x.giver).eraseDups
      let s := s.modPlane p fun q => { q with repV := none }
      let s := s.sendRepair p v.sender phABORT v.residue v.band v.id 0 v.switch 0
      ds.foldl (fun s d => s.sendRepair p d.1 phABORT d.2.1 d.2.2 v.id 0 v.switch 0) s
    else s
  | none => s

/-- REPAIR_READY_DEADLINE (R432). -/
def execRepairReadyDeadline (id : Nat) (s : State) : Res := .next ((s.repairLapse .x id).repairLapse .y id)

/-- One lane code of the active table patched; SUBSTITUTED (R432, R469). -/
def State.patch (s : State) (p : Plane) (role id e : Nat) (det : Bool) (lane : Nat) (code : BitVec 16) : State :=
  let key := 256 * e + (if det then 128 else 0) + lane
  let was := (s.plane p).active.elim 0 fun t => tget 0 t.codes key
  let s := s.modPlane p fun q => { q with active := q.active.map fun t => { t with codes := tput 0 t.codes key code } }
  s.event evSUBSTITUTED none (planeNum p + role * 2 + e * 2 ^ 8 + lane * 2 ^ 24) (was.toNat + code.toNat * 2 ^ 16 + id * 2 ^ 32)

/-- The lit code of a line. -/
def litCode (k b : Nat) : BitVec 16 := BitVec.ofNat 16 (0x8000 + b * 2 ^ 5 + k)

/-- Modulator lanes that light a line in an entry. -/
def PlaneSt.modLanes (q : PlaneSt) (e k b : Nat) : List Nat :=
  q.active.elim [] fun t => ((t.lit e false).filter fun x => x.1 == k && x.2.1 == b).map fun x => x.2.2

/-- S patches the entries its COMMITs name: band 9 carries the line's traffic (R428, R430). -/
def State.switchS (s : State) (p : Plane) (r : RepairS) : State :=
  let s := s.modPlane p fun q => { q with repS := q.repS.filter fun x => x.id != r.id }
  if ((s.plane p).line r.residue r.band).state != .drifting then s
  else
    let s := (r.commits.map fun c => c.1).eraseDups.foldl (fun s e =>
      ((s.plane p).modLanes e r.residue r.band).foldl (fun s l => s.patch p 0 r.id e false l (litCode r.residue 9)) s) s
    ((s.setLine p r.residue r.band .substituted).setLine p r.residue 9 .lit).relink p r.residue true

/-- V listens on the lanes it chose (R430). -/
def State.switchV (s : State) (p : Plane) (v : RepairV) : State :=
  let s := s.modPlane p fun q => { q with repV := none }
  if !v.committed then s else v.picks.foldl (fun s x => s.patch p 1 v.id x.entry true x.lane (litCode v.residue 9)) s

/-- D stops lighting the line it gives up, unless it is PARKED (R430, R432). -/
def State.switchD (s : State) (p : Plane) (d : RepairD) : State :=
  let s := s.modPlane p fun q => { q with repD := q.repD.filter fun x => x != d }
  if !d.committed || ((s.plane p).line d.residue d.band).state == .parked then s
  else
    let s := ((s.plane p).modLanes d.entry d.residue d.band).foldl (fun s l =>
      s.patch p 2 d.id d.entry false l ((s.plane p).active.elim 0 fun t => t.modCode d.entry l &&& 0x7FFF#16)) s
    if (s.plane p).lightsLine d.residue d.band then s
    else ((s.requeueLine p d.residue d.band).setLine p d.residue d.band .dark).relink p d.residue false

/-- At the peg of SWITCH every part this device has in a repair of a plane (R430). -/
def State.repairAt (s : State) (p : Plane) (id : Nat) : State :=
  let t := s.tick + 1
  let q := s.plane p
  let rs := q.repS.filter fun r => r.id == id && decide (r.switch ≤ t) && r.commits != []
  let ds := q.repD.filter fun d => d.id == id && decide (d.switch ≤ t)
  let vs := q.repV.toList.filter fun v => v.id == id && decide (v.switch ≤ t)
  if rs = [] && ds = [] && vs = [] then s
  else
    let s := s.modPlane p PlaneSt.remap
    let s := rs.foldl (fun s r => s.switchS p r) s
    let s := vs.foldl (fun s v => s.switchV p v) s
    ds.foldl (fun s d => s.switchD p d) s

/-- REPAIR_SWITCH (R430). -/
def execRepairSwitch (id : Nat) (s : State) : Res := .next ((s.repairAt .x id).repairAt .y id)

/-! ### Power, retuning, lanterns (R427, R428, R434) -/

/-- What the receiving peer's window of 1,024 slots of 16 codewords calls for (R427), from how many codewords it had, how many fell in
buckets 5 to 8 or were uncorrectable, and how many in buckets 3 and 4: a change of power in 0.1 dB. -/
def trimOf (n high mid : Nat) : Int := if 10 ^ 4 * high > n then 1 else if high + mid = 0 then -1 else 0

/-- The power of one LIT line follows its peer's counts, which are free values (R427). -/
def State.trimLine (s : State) (p : Plane) (key : Nat) : State :=
  let l := tget {} (s.plane p).lines key
  if l.state != .lit then s
  else
    let (n, s) := s.draw 16385
    let (high, s) := s.draw (n + 1)
    let (mid, s) := s.draw (n + 1 - high)
    let v := l.power.getD 0 + trimOf n high mid
    if v > Config.lanternLimit then s.event evPOWERMAX none (planeNum p) (key / 16 + key % 16 * 2 ^ 5)
    else s.modPlane p fun q => { q with lines := tmod {} q.lines key fun l => { l with power := some (max v l.floor) } }

/-- POWER_TRIM (R427): of every LIT line. -/
def execPowerTrim (s : State) : Res :=
  .next ([Plane.x, Plane.y].foldl (fun s p => (tkeys (s.plane p).lines).foldl (fun s key => s.trimLine p key) s) s)

/-- THERMAL_RETUNE (R428). -/
def execThermalRetune (line : LineId) (s : State) : Res :=
  let p := line.plane
  if ((s.plane p).line line.residue line.band).state != .lit then .next s
  else
    let s := s.modPlane p fun q => q.modLine line.residue line.band fun l => { l with since := s.tick, lantern := false }
    .next (s.leaveLit p line.residue line.band .retuning)

/-- RETUNE_RELOCK (R428): at a peg within 8 slots. -/
def execRetuneRelock (line : LineId) (s : State) : Res :=
  let p := line.plane
  let l := (s.plane p).line line.residue line.band
  if l.state == .retuning && !l.lantern && s.tick + 1 ≤ l.since + 8 then
    .next (((s.modPlane p PlaneSt.remap).setLine p line.residue line.band .lit).relink p line.residue false)
  else .next s

/-- RETUNE_TIMEOUT (R428). -/
def execRetuneTimeout (line : LineId) (s : State) : Res :=
  let l := (s.plane line.plane).line line.residue line.band
  if l.state == .retuning && !l.lantern && l.since + 8 ≤ s.tick + 1 then .next (s.failLine line.plane line.residue line.band) else .next s

/-- Without a working lantern every link of the plane fails (R434). -/
def State.lanternGone (s : State) (p : Plane) : State :=
  let s := s.modPlane p fun q => { q with takeover := none, lanternLost := true }
  let own := s.hub.peer
  let s := (List.range 32).foldl (fun s k =>
    let l := (s.plane p).link (neighbour own p k)
    if k = 0 || l == .dark || l == .failed then s else s.failHop p k) s
  s.event evLANTERNLOST none (planeNum p) 0

/-- A LIT line loses its lantern, and retunes to the standby (R434). -/
def State.loseLantern (s : State) (p : Plane) (key : Nat) : State :=
  if (tget {} (s.plane p).lines key).state != .lit then s
  else
    (s.modPlane p fun q => { q with lines := tmod {} q.lines key fun l => { l with lantern := true, since := s.tick } }).leaveLit
      p (key / 16) (key % 16) .retuning

/-- A line that waited for the standby is LIT again (R434). -/
def State.regainLantern (s : State) (p : Plane) (key : Nat) : State :=
  let l := tget {} (s.plane p).lines key
  if l.state == .retuning && l.lantern then
    (s.modPlane p fun q => { q with lines := tmod {} q.lines key fun l => { l with lantern := false, state := .lit } }).relink p (key / 16) false
  else s

/-- LANTERN_FAULT (R434). -/
def execLanternFault (plane : Plane) (s : State) : Res :=
  let q := s.plane plane
  if q.lanternLost then .next s
  else if !q.pol.lantern || q.onStandby then .next (s.lanternGone plane)
  else
    let s := s.modPlane plane fun q => { q with takeover := some (s.tick + 125) }
    .next ((tkeys q.lines).foldl (fun s key => s.loseLantern plane key) s)

/-- LANTERN_TAKEOVER_COMPLETE (R434): the standby works, or fails too. -/
def execLanternTakeoverComplete (plane : Plane) (s : State) : Res :=
  if (s.plane plane).takeover.isNone then .next s
  else
    let (n, s) := s.draw 2
    if n = 1 then .next (s.lanternGone plane)
    else
      let s := s.modPlane plane fun q => { q with takeover := none, onStandby := true }
      .next ((tkeys (s.plane plane).lines).foldl (fun s key => s.regainLantern plane key) s)

/-! ### Parking and waking (R435, R436) -/

/-- Residues whose line of a band is in a state. -/
def PlaneSt.bandLines (q : PlaneSt) (b : Nat) (l : LineState) : List Nat :=
  (q.lines.filter fun e => e.1 % 16 == b && e.2.state == l).map fun e => e.1 / 16

/-- A band starts parking (R435). -/
def State.startPark (s : State) (p : Plane) (b : Nat) (auto : Bool) : State :=
  let q := s.plane p
  let x := q.band b
  let ks := q.bandLines b .lit
  if ks = [] || x.parkAt.isSome || x.wakeAt.isSome then s
  else
    let at_ := s.tick + 8
    let s := s.modPlane p fun q => q.modBand b fun x => { x with parkAt := some at_, auto := auto }
    ks.foldl (fun s k => s.sendRepair p (neighbour s.hub.peer p k) phPARK k b 0 0 at_ 0) s

/-- AUTOPARK_IDLE (R435). -/
def execAutoparkIdle (plane : Plane) (band : Nat) (s : State) : Res :=
  let q := s.plane plane
  let x := q.band band
  if q.pol.autopark && band < 8 && q.pol.parkidle ≤ s.tick - max x.lastFlit x.lastWake then .next (s.startPark plane band true)
  else .next s

/-- PARK_SWITCH (R435). -/
def execParkSwitch (plane : Plane) (band : Nat) (s : State) : Res :=
  match ((s.plane plane).band band).parkAt with
  | none => .next s
  | some t =>
    if s.tick + 1 < t then .next s
    else
      let ks := (s.plane plane).bandLines band .lit
      let s := s.modPlane plane fun q => q.remap.modBand band fun x => { x with parkAt := none, parked := true }
      .next (ks.foldl (fun s k => (s.setLine plane k band .parked).relink plane k false) s)

/-- Queued data flits exceed WAKEQ while a band is parked by AUTOPARK (R436). -/
def PlaneSt.wakeDue (q : PlaneSt) : Bool :=
  decide (q.pol.wakeq < q.queued) && q.bands.any fun e => e.2.parked && e.2.auto

/-- A parked band wakes: each of its lines is WAKING, and its receiver is told (R436). -/
def State.wakeBand (s : State) (p : Plane) (b : Nat) : State :=
  let at_ := s.tick + 7
  let ks := (s.plane p).bandLines b .parked
  let s := s.modPlane p fun q => q.modBand b fun x => { x with parked := false, auto := false, wakeAt := some at_ }
  ks.foldl (fun s k =>
    ((s.setLine p k b .waking).relink p k false).sendRepair p (neighbour s.hub.peer p k) phWAKE k b 0 0 at_ 0) s

/-- A waking line has relocked, or fails (R436). -/
def State.wakeLine (s : State) (p : Plane) (k b : Nat) : State :=
  let (n, s) := s.draw 2
  if n = 0 then (s.setLine p k b .lit).relink p k false else s.failLine p k b

/-- WAKE_START (R436). -/
def execWakeStart (plane : Plane) (s : State) : Res :=
  if !(s.plane plane).wakeDue then .next s
  else
    let bs := ((s.plane plane).bands.filter fun e => e.2.parked && e.2.auto).map fun e => e.1
    .next (bs.foldl (fun s b => s.wakeBand plane b) s)

/-- WAKE_SWITCH (R436): each line has relocked or fails. -/
def execWakeSwitch (plane : Plane) (band : Nat) (s : State) : Res :=
  match ((s.plane plane).band band).wakeAt with
  | none => .next s
  | some t =>
    if s.tick + 1 < t then .next s
    else
      let ks := (s.plane plane).bandLines band .waking
      let s := s.modPlane plane fun q => q.remap.modBand band fun x => { x with wakeAt := none, lastWake := t }
      .next (ks.foldl (fun s k => s.wakeLine plane k band) s)

/-- PARK (R435) and WAKE (R436) at a receiver: it expects no flits on a parked line; no state changes. -/
def execPark (m : CtlMsg) (s : State) : Res := s.repairIn m phPARK fun _ s => s
def execWake (m : CtlMsg) (s : State) : Res := s.repairIn m phWAKE fun _ s => s

/-! ### Bring-up (R423 to R426) -/

/-- FABID's fields (R426). -/
def Hub.fabPeer (h : Hub) : Nat := (h.fabid.extractLsb' 0 10).toNat
def Hub.isRoot (h : Hub) : Bool := h.fabid.getLsbD 10

/-- Every link of both planes is DARK. -/
def State.allDark (s : State) : Bool := s.planeX.links = [] && s.planeY.links = []

/-- Residues of next hops. -/
def hopResidues : List Nat := (List.range 31).map (· + 1)

/-- The device locks (R194, R426): PEER takes FABID's values, and TICKSYNCs fall due. -/
def State.lockPeg (s : State) : State :=
  let f := s.hub.fabPeer
  let s := s.modHub fun h => { h with lock := true, seat := f % 32, pod := f / 32 }
  [Plane.x, Plane.y].foldl (fun s p => s.modPlane p fun q => { q with locking := false, syncDue := hopResidues }) s

/-- BRINGUP (R425, R426): every DARK link of the plane goes to CALIBRATING; the root locks to its own clock. A device whose
links were all DARK locks anew. -/
def execBringup (plane : Plane) (s : State) : Res :=
  let fresh := s.allDark
  let s := s.modHub fun h => { h with lock := h.lock && !fresh }
  let s := if s.hub.isRoot && !s.hub.lock then s.lockPeg else s
  let own := s.hub.fabPeer
  let go := hopResidues.filter fun k => (s.plane plane).link (neighbour own plane k) == .dark
  let s := go.foldl (fun s k =>
    let peer := neighbour own plane k
    (s.setLink plane peer .calibrating).modPlane plane fun q => { q with calib := tput none q.calib peer (some s.tick) }) s
  .next (s.modPlane plane fun q =>
    { q with locking := !s.hub.lock, ctlLit := true, syncDue := if s.hub.lock then sortNat (q.syncDue ++ go) else q.syncDue })

/-- TICKSYNC (R426): an unlocked device that has been brought up locks, taking TICK; its slots then open where the peg recovered
from the message's light falls. -/
def execTicksync (m : CtlMsg) (s : State) : Res :=
  if ctlType m.bits ≠ 6 then .next s
  else if s.hub.lock then s.ctlIn m 6 fun s => s
  else if (s.plane m.plane).locking && ctlDest m.bits = s.hub.fabPeer then
    let (ph, s) := s.draw 680
    .next { s.lockPeg with tick := ctlBits m.bits 64 64 - 1, phase := ph }
  else .next s

/-- TICKSYNC_SEND (R426): TICKSYNC falls due to every next hop. -/
def execTicksyncSend (s : State) : Res :=
  if !s.hub.lock then .next s
  else .next ([Plane.x, Plane.y].foldl (fun s p => s.modPlane p fun q => { q with syncDue := hopResidues }) s)

/-- The lines calibration measures towards a residue. -/
def calBands : List Nat := [0, 1, 2, 3, 4, 5, 6, 7, 9]

/-- Every line towards a calibrating peer has been measured (R425). -/
def State.measured (s : State) (p : Plane) (k : Nat) : Bool :=
  calBands.all fun b => ((s.plane p).line k b).power.isSome

/-- PROBE (R425): the peer's report sets the line's power, or shows that the lantern cannot reach it. -/
def execProbe (m : CtlMsg) (s : State) : Res :=
  s.repairIn m phPROBE fun m s =>
    let p := m.plane
    let got : Int := (BitVec.ofNat 7 m.dlane).toInt
    let need := Config.sensitivity + (Config.probePower - got) + ((s.plane p).pol.margin : Int)
    if neighbour s.hub.peer p m.residue ≠ m.src || (s.plane p).link m.src != .calibrating || !calBands.contains m.band then s
    else
      let s := s.modPlane p fun q => q.modLine m.residue m.band fun l =>
        if need > Config.lanternLimit then
          { l with state := .failed, beyond := true, power := some Config.lanternLimit, floor := Config.lanternLimit }
        else { l with power := some need, floor := need }
      if s.measured p m.residue then s.plan [.calibrationComplete p m.src] else s

/-- CALIBRATION_COMPLETE (R424). -/
def execCalibrationComplete (plane : Plane) (peer : Nat) (s : State) : Res :=
  let k := residueTo s.hub.peer plane peer
  if (s.plane plane).link peer == .calibrating && s.hub.lock && s.measured plane k then
    let s := (s.setLink plane peer .trained).modPlane plane fun q => { q with calib := tput none q.calib peer none }
    let s := (s.modHub fun h => { h with lock := true }).enterService plane k
    .next ((s.lightLines plane).relink plane k false)
  else .next s

/-- Ticks in 200 ms (R425). -/
def calibLimit : Nat := 500000

/-- CALIBRATION_TIMEOUT (R424, R425). -/
def execCalibrationTimeout (plane : Plane) (peer : Nat) (s : State) : Res :=
  match tget none (s.plane plane).calib peer with
  | none => .next s
  | some t =>
    if (s.plane plane).link peer == .calibrating && t + calibLimit ≤ s.tick + 1 then
      let s := s.modPlane plane fun q => { q with calib := tput none q.calib peer none }
      .next ((s.failHop plane (residueTo s.hub.fabPeer plane peer)).event evLINKDOWN none (planeNum plane) peer)
    else .next s

/-- PLANE_RESET (R423): every line dark, every link DARK, sends over the plane fail. -/
def execPlaneReset (plane : Plane) (s : State) : Res :=
  let was := tkeys (s.plane plane).links
  let s := s.modPlane plane fun q => { q with links := [], lines := [], ctlLit := false, bands := [], calib := [], locking := false, syncDue := [],
                                              repS := [], repV := none, repD := [], takeover := none }
  let s := (tkeys (s.plane plane).streams).foldl (fun s k => s.dropStream plane k) s
  let s := (s.failSends fun c => c.plane == plane).sendNotices
  .next (if plane = .x then was.foldl (fun s peer => s.seatLost (peerSeat peer)) s else s)

/-- SNAP (R440). -/
def execSnap (plane : Plane) (s : State) : Res := .next (s.modPlane plane fun q => { q with snapReq := true })

/-- A SUBSTITUTED or FAILED line relocks (R428). -/
def State.restoreLine (s : State) (line : LineId) : State :=
  let p := line.plane
  let l := (s.plane p).line line.residue line.band
  if l.state == .substituted || l.state == .failed then
    let s := s.modPlane p fun q => q.modLine line.residue line.band fun l => { l with state := .lit, drifts := 0, aborts := 0, unheard := 0, raised := false }
    s.relink p line.residue false
  else s

/-- RESTORE (R428). -/
def execRestore (line : LineId) (s : State) : Res := .next (s.restoreLine line)

/-- FABID_WRITE (R426). -/
def execFabidWrite (v : Word) (s : State) : Res :=
  if s.allDark then .next (s.modHub fun h => { h with fabid := v.extractLsb' 0 11 }) else .next s

/-! ### Slot tables from the host (R393, R394, R437) -/

/-- The lane codes of an image, from the bytes after its header. -/
def codesOf : List Byte → Nat → Tbl (BitVec 16)
  | a :: b :: r, k =>
    let c : BitVec 16 := b ++ a
    if c = 0 then codesOf r (k + 1) else (k, c) :: codesOf r (k + 1)
  | _, _ => []

/-- One side of an entry obeys R394. -/
def sideOk (l : List (Nat × Nat × Nat)) : Bool :=
  (l.all fun q => q.1 != 0 && q.2.1 != 8 && decide (q.2.1 ≤ 9))
    && (l.map fun q => (q.1, q.2.1)).eraseDups.length == l.length
def SlotTable.ok (t : SlotTable) : Bool := (List.range t.period).all fun e => sideOk (t.lit e false) && sideOk (t.lit e true)

/-- PM1 of an image header gives the image's bytes (R393). -/
def imageBytes (w0 : Nat) : Nat := 64 + 512 * (bitsOf w0 32 9 + 1)

/-- The table of an image, unless R394 refuses it. -/
def tableOf (bs : List Byte) : Option SlotTable :=
  let w0 := natOfBytes (bs.take 8)
  let t : SlotTable :=
    { period := bitsOf w0 32 9 + 1, id := BitVec.ofNat 32 (natOfBytes ((bs.drop 8).take 4)), codes := codesOf (bs.drop 64) 0 }
  if w0 % 2 ^ 32 = 0x53544254 && t.ok then some t else none

def recPlane (w : List Nat) : Plane := planeOf (w.getD 2 0)
def recMode (w : List Nat) : Nat := bitsOf (w.getD 2 0) 1 1

/-- SLOTTAB_LOAD (R437). -/
def execSlottabLoad (q : Nat) (s : State) : Res :=
  s.takeRecord q (fun w => recKind w == 6 && recMode w == 0) fun w s =>
    let va := w.getD 1 0
    match s.hubReach q va 64 false with
    | (.error t, _) => t
    | (.ok xl, s) =>
      let n := imageBytes (natOfBytes (s.readVia xl va 8))
      match s.hubReach q va n false with
      | (.error t, _) => t
      | (.ok xl, s) =>
        if s.badSectors xl va n != [] then .err 9 s
        else
          match tableOf (s.readVia xl va n) with
          | none => .err 7 s
          | some t => .done (s.modPlane (recPlane w) fun q => { q with loading := some t })

/-- SLOTTAB_LOAD_READY (R437). -/
def execSlottabLoadReady (plane : Plane) (s : State) : Res :=
  .next (s.modPlane plane fun q =>
    match q.loading with
    | some t => { q with standby := some t, loading := none }
    | none => q)

/-- SLOTTAB_SWITCH (R437). -/
def execSlottabSwitch (q : Nat) (s : State) : Res :=
  s.takeRecord q (fun w => recKind w == 6 && recMode w == 1) fun w s =>
    if (s.plane (recPlane w)).standby.isNone || w.getD 3 0 < s.tick + 2 then .err 7 s
    else .done (s.modPlane (recPlane w) fun q => { q with switchAt := some (w.getD 3 0) })

/-- TABLE_SWITCH_TICK (R437): the tables change places; a repair due at the same peg is discarded (R432), and a line still
DRIFTING begins anew. -/
def execTableSwitchTick (plane : Plane) (s : State) : Res :=
  match (s.plane plane).switchAt with
  | none => .next s
  | some t =>
    if s.tick + 1 < t then .next s
    else
      let due (n : Nat) : Bool := decide (n ≤ s.tick + 1)
      let cut := (s.plane plane).repS.filter fun r => due r.switch
      let s := s.modPlane plane fun q =>
        { q.remap with
          active := q.standby, standby := q.active, switchAt := none,
          lines := q.lines.map fun e => (e.1, { e.2 with unheard := 0, raised := false }),
          repS := q.repS.filter fun r => !due r.switch, repD := q.repD.filter fun r => !due r.switch,
          repV := q.repV.filter fun r => !due r.switch }
      let s := hopResidues.foldl (fun s k => s.enterService plane k) s
      let s := (s.darkenLines plane).lightLines plane
      let s := cut.foldl (fun s r =>
        if ((s.plane plane).line r.residue r.band).state == .drifting then s.driftNext plane r.residue r.band (s.tick + 25) else s) s
      .next (hopResidues.foldl (fun s k => s.relink plane k false) s)

/-! ### The peg (R396, R401, R403, R404, R406) -/

/-- Codewords of a slot that light brought to a lane and that no FLIT_RECEIVE stands for: how many symbols of each were corrected is a
free value (R397, R438). -/
def State.hearCodewords (s : State) (p : Plane) (lane n : Nat) : State :=
  (List.range n).foldl (fun s _ =>
    let (sym, s) := s.draw 10
    s.countCodeword p lane sym) s

/-- ACKs for the lines listened to in the slot that ends, on which light arrived (R404), with its other codewords. -/
def State.endSlot (s : State) (p : Plane) : State :=
  match (s.plane p).active with
  | none => s
  | some t =>
    (t.lit (s.tick % t.period) true).foldl (fun s q =>
      let key := lineKey q.1 q.2.1
      let close (s : State) (good : BitVec 32) (heard : Nat) : State :=
        (s.hearCodewords p q.2.2 (16 - heard)).sendCtl 2 (sourceOf s.hub.peer p q.1) p (q.1 + q.2.1 * 2 ^ 5 + s.tick % 2 ^ 16 * 2 ^ 9) good.toNat
      match tget none (s.plane p).rx key with
      | some r =>
        let s := s.modPlane p fun x => { x with rx := tput none x.rx key none }
        if r.tick = s.tick then close s r.good r.cws.length else s
      | none =>
        let (n, s) := s.draw 2
        if n = 1 then close s 0 0 else s) s

/-- The flits of a residue's stream leave on its LIT lines (R401). -/
def State.emitFlits (s : State) (p : Plane) (k : Nat) (bands : List Nat) : State :=
  let w := bands.length
  let r := ((s.plane p).stream k).take (32 * w)
  let items := r.1.zip (List.range r.1.length)
  let place (n : Nat) : Nat × Nat := (bands.getD (n % w) 0, n / w)
  let used (b : Nat) : List (Nat × QFlit) :=
    (items.filter fun i => (place i.2).1 == b).map fun i => ((place i.2).2, i.1)
  let t := { r.2 with unacked := r.2.unacked ++ bands.map fun b => { tick := s.tick, band := b, items := used b } }
  let s := s.modPlane p fun q => q.modStream k fun _ => t
  let s := (bands.filter fun b => used b != []).foldl (fun s b =>
    s.modPlane p fun q => q.modBand b fun x => { x with lastFlit := s.tick }) s
  { s with outbox := s.outbox ++ items.map fun i => .flit p k (place i.2).1 (place i.2).2 i.1.flit }

/-- The control messages of one lane (R403, R406, R426): TICKSYNC when due, the queue in its order, CREDIT; at most 288. -/
def State.emitCtl (s : State) (p : Plane) (k : Nat) : State :=
  let own := s.hub.peer
  let peer := neighbour own p k
  let q := s.plane p
  let sync := if q.syncDue.contains k then [ctlWord 6 peer own (planeNum p) 0 (s.tick + 1)] else []
  let queue := tget [] q.ctl k
  let room := 288 - sync.length
  let kin := residueFrom own p peer
  let credit :=
    if queue.length < room then [ctlWord 1 peer own (planeNum p) kin (q.camp kin).freed] else []
  let s := s.modPlane p fun q => { q with syncDue := q.syncDue.filter (· != k), ctl := tput [] q.ctl k (queue.drop room) }
  { s with outbox := s.outbox ++ (sync ++ queue.take room ++ credit).map fun m => .ctl p k m }

/-- Probe light on the next line of the plane in turn whose link calibrates (R425). -/
def State.emitProbe (s : State) (p : Plane) : State :=
  let n := s.tick % 279
  let k := 1 + n / 9
  let b := calBands.getD (n % 9) 0
  if (s.plane p).link (neighbour s.hub.peer p k) == .calibrating && ((s.plane p).line k b).power.isNone then s.emit (.probe p k b) else s

/-- A neighbour's light at probe power may arrive on some line; its power is reported (R425). -/
def State.reportProbe (s : State) (p : Plane) : State :=
  let (n, s) := s.draw 2
  if n = 0 then s
  else
    let (k, s) := s.draw 31
    let (b, s) := s.draw 9
    let (pw, s) := s.draw 128
    s.sendRepair p (sourceOf s.hub.peer p (k + 1)) phPROBE (k + 1) (calBands.getD b 0) 0 pw 0 0

/-- The control band of the slot that ends, at one detector lane of a plane (R406, R438): light may have arrived on it, with 16 codewords. -/
def State.hearControl (s : State) (p : Plane) (c : Nat) : State :=
  let (n, s) := s.draw 2
  if n = 0 then s else s.hearCodewords p (128 + c) 16

/-- One plane at the peg that has opened the slot of s.tick. -/
def State.pegPlane (s : State) (p : Plane) : State :=
  let s := s.modPlane p fun q =>
    let q := { q.takeSnap with pol := q.polNext.getD q.pol, polNext := none }
    if s.tick % 1024 = 0 then { q with high := [], healthRaised := [] } else q
  let s := (List.range 8).foldl (fun s b => if (s.plane p).pol.parkmask.getLsbD b then s.startPark p b false else s) s
  if !s.hub.lock || !(s.plane p).ctlLit || (s.plane p).takeover.isSome || (s.plane p).lanternLost then s
  else
    let s :=
      match (s.plane p).active with
      | none => s
      | some t =>
        let own := s.hub.peer
        hopResidues.foldl (fun s k =>
          let q := s.plane p
          let bands := (t.stripe (s.tick % t.period) k).filter fun b => (q.line k b).state == LineState.lit
          if bands = [] || !(q.link (neighbour own p k)).up then s else s.emitFlits p k bands) s
    let s := ((List.range 8).map fun c => 8 * (s.tick % 4) + c).foldl (fun s k =>
      if k = 0 then
        let m := ctlWord 0 s.hub.peer s.hub.peer (planeNum p) 0 0
        s.emit (.ctl p 0 m)
      else s.emitCtl p k) s
    (s.emitProbe p).reportProbe p

/-- RESCTL's fields (R352). -/
def Hub.setRes (h : Hub) (w : Word) : Hub :=
  let n := w.toNat
  { h with promth := bitsOf n 0 16, demth := bitsOf n 16 16, decay := bitsOf n 32 4, lead := bitsOf n 36 12, tlimit := bitsOf n 48 16,
           resNext := none }

/-- PEG (R396): the slot of TICK ends and the next opens. -/
def execPeg (s : State) : Res :=
  let s := if s.hub.lock then [Plane.x, Plane.y].foldl (fun s p => (List.range 8).foldl (fun s c => s.hearControl p c) (s.endSlot p)) s else s
  let s := { s with tick := s.tick + 1, phase := 0 }
  let s := s.modHub fun h => h.resNext.elim h h.setRes
  .next ((s.pegPlane .x).pegPlane .y)

end Sys2Proof.Machine
end

