-- ==== Sys2Proof/Machine/Manage.lean ====
section
/-!
DEFINITION. Machine/Manage.lean: host link and housekeeping (R442 to R456, R469): register reads and writes, host accesses to
device memory, the future window, modes, boot and reset, temperature, the management port.
-/
namespace Sys2Proof.Machine

/-! ### Power modes (R23 to R26, R452) -/

/-- The published current limit of a mode and profile (R24). -/
def publishedLimit (cap profile : Nat) : Nat :=
  match cap, profile with
  | 0, _ => 2048
  | 1, 0 => 2048
  | 1, 1 => 1792
  | 1, _ => 1536
  | _, 0 => 1664
  | _, 1 => 1408
  | _, _ => 1152

/-- MODE (R452); a field reads as last written (R8). -/
def Hub.modeWord (h : Hub) : Nat :=
  let m := h.pendMode.getD (h.cap, h.profile)
  m.1 + m.2 * 4 + (if h.pendMode.isSome then 16 else 0)

/-- MODE_WRITE (R452): a reserved value is ignored; MODECHG tells the mode accepted and the mode before. -/
def execModeWrite (v : Word) (s : State) : Res :=
  let cap := (v.extractLsb' 0 2).toNat
  let profile := (v.extractLsb' 2 2).toNat
  if cap = 3 || profile = 3 then .next s
  else .next ((s.modHub fun h => { h with pendMode := some (cap, profile) }).event evMODECHG none (cap + profile * 4) (s.hub.cap + s.hub.profile * 4))

/-! ### Boot and reset (R451) -/

/-- The device after a reset: every part at its reset value but firmware staging and the host link; what arrives later still
arrives, that many cycles from now. -/
def State.rebooted (s : State) : State :=
  { State.reset with
    hub := { State.reset.hub with staging := s.hub.staging },
    inputs := s.inputs.map fun i => (i.1 - s.cycle, i.2),
    fresh := s.fresh, outbox := s.outbox }

/-- WARM_RESET (R444, R451). -/
def execWarmReset (s : State) : Res := .next s.rebooted
/-- POWER_ON_RESET (R451). -/
def execPowerOnReset (s : State) : Res := .next s.rebooted

/-- The boot ROM goes on (R451, R126, R368): it verifies the staged image, and the firmware of a good image reserves its pools. -/
def State.bootStep (s : State) : State :=
  match s.hub.boot with
  | .rom => s.modHub fun h => { h with boot := .verify }
  | .verify =>
    let n := Config.bootCheck s.hub.staging
    if n = 0 then
      s.modHub fun h => { h with boot := .running, poolAt := some Config.poolBase, logFree := Config.logPoolChunks }
    else s.modHub fun h => { h with boot := .recovery, bootFail := n % 256 }
  | _ => s

def Boot.code : Boot → Nat
  | .rom => 0
  | .verify => 1
  | .running => 2
  | .recovery => 3

/-! ### Temperature (R454 to R456) -/

def Hub.thermWord (h : Hub) : Nat :=
  (if h.throten then 1 else 0) + (if h.tripen then 2 else 0) + h.throt.toNat * 2 ^ 2 + h.trip.toNat * 2 ^ 14 + h.guard * 2 ^ 26
def Hub.setTherm (h : Hub) (v : Word) : Hub :=
  { h with throten := v.getLsbD 0, tripen := v.getLsbD 1, throt := v.extractLsb' 2 12, trip := v.extractLsb' 14 12,
           guard := (v.extractLsb' 26 8).toNat }

def Tile.word (t : Tile) : Nat := t.temp.toNat + (if t.model then 2 ^ 12 else 0) + (if t.failed then 2 ^ 13 else 0)

/-- The plausibility check a reading fails (R455), in the order of the codes of R469. `mean`: of the neighbours' readings. -/
def Tile.implausible (t : Tile) (r m mean : Int) : Option Nat :=
  if r < -160 || r > 1200 then some 0
  else if t.run > 0 && (r - t.reading.toInt).natAbs > 40 then some 1
  else if t.run + 1 ≥ 64 && r = t.reading.toInt then some 2
  else if (r - m).natAbs > 120 && (r - mean).natAbs > 120 then some 3
  else none

/-- One tile's sample: sensor reading r and model value m, in 0.125 degrees. -/
def State.sampleTile (s : State) (n : Nat) (r m mean : Int) : State :=
  let t := tget {} s.hub.tiles n
  let bad := t.implausible r m mean
  let failed := t.failed || bad.isSome
  let temp : Int := if failed then m + s.hub.guard else Config.thermalEstimate r m
  let run := if t.run > 0 && r = t.reading.toInt then min (t.run + 1) 64 else 1
  let t' : Tile := { temp := BitVec.ofInt 12 temp, model := failed, failed := failed, reading := BitVec.ofInt 12 r, run := run }
  let s := s.modHub fun h => { h with tiles := tput {} h.tiles n t' }
  match t.failed, bad with
  | false, some k => s.event evSENSORFAIL none n (k + (BitVec.ofInt 12 r).toNat * 2 ^ 16)
  | _, _ => s

/-- The hottest of some tiles, the lowest number on a tie, with its temperature. -/
def Hub.hottest (h : Hub) (l : List Nat) : Nat × Int :=
  l.foldl (fun b n =>
    let x := (tget {} h.tiles n).temp.toInt
    if x > b.2 then (n, x) else b) (0, -4096)

/-- A tower's throttle step at a sample (R456, R450). -/
def State.throttleTower (s : State) (t : Nat) : State :=
  let h := s.hub
  let hot := h.hottest ((List.range 48).map (· + 48 * t))
  let old := tget 0 h.throttle t
  let new := if hot.2 > h.throt.toInt then min (old + 1) 4 else if hot.2 < h.throt.toInt - 40 then old - 1 else old
  if !h.throten || new = old then s
  else (s.modHub fun h => { h with throttle := tput 0 h.throttle t new }).event evTHROTTLE none t (new + old * 2 ^ 8 + hot.1 * 2 ^ 16)

/-- THERMAL_SAMPLE (R455, R456): `sensors` gives each tile's sensor reading and model value. A trip comes before any throttle
step. -/
def execThermalSample (sensors : List (Int × Int)) (s : State) : Res :=
  let at_ (n : Nat) : Int × Int := sensors.getD n (0, 0)
  let reads := (List.range 384).map fun n => (at_ n).1
  let s := (List.range 384).foldl (fun s n => s.sampleTile n (at_ n).1 (at_ n).2 (Config.neighbourMean n reads)) s
  let hot := s.hub.hottest (List.range 384)
  if s.hub.tripen && decide (hot.2 > s.hub.trip.toInt) then
    .next ((s.event evTHERMTRIP none hot.1 (tget {} s.hub.tiles hot.1).temp.toNat).modHub fun h => { h with tripped := true })
  else .next ((List.range 8).foldl State.throttleTower s)

/-! ### The future window (R445): an entry's event of its cycle (R153) -/

/-- The host reads a word of the control space. -/
def State.reply (s : State) (w : Nat) : State := s.emit (.read (leBytes w 8) false)

/-- FUTURE_ALLOC (R445): a handle, or 0. -/
def execFutureAlloc (c : Nat) (s : State) : Res :=
  let r := s.allocFuture (c % 64)
  .next ((r.2.reply r.1).rank 2 (futIndex r.1) 0)

/-- FUTURE_FREE (R445). -/
def execFutureFree (v : Word) (s : State) : Res :=
  let h := v.toNat % 2 ^ 32
  let c := (s.fut (futIndex h)).ctx
  let s := s.rank 2 (futIndex h) 0
  if s.futStale h c then .next (s.event evFUTLATE (some c) h 2) else .next (s.freeFuture (futIndex h))

/-- FUTURE_SIGNAL (R445): with the value written before. -/
def execFutureSignal (v : Word) (s : State) : Res :=
  let h := v.toNat % 2 ^ 32
  let f := s.fut (futIndex h)
  let s := s.rank 2 (futIndex h) 0
  if s.futStale h f.ctx || f.state != .empty then .next (s.event evFUTLATE (some f.ctx) h 2)
  else .next (s.endFuture (futIndex h) (.set s.hub.fwValue) 3)

/-! ### The host's accesses to memory (R19 to R22, R374, R442) -/

/-- Where a HostAcc names BAR 4 and not device memory (notes/assumptions/53.md). -/
def bar4Base : Nat := 2 ^ 61

/-- A LOGGED page, or one whose log is being applied, that holds some of the bytes is applied first (R374). -/
def State.forceLogs (s : State) (pa n : Nat) : State :=
  (tkeys s.pages).foldl (fun s a =>
    let e := s.pteOf a
    if (pteRes e = resLOGGED || pteRes e = resAPPLYING) && decide (pteFrame e < pa + n) && decide (pa < pteFrame e + 65536) then
      (if pteRes e = resLOGGED then s.startApply a false else s).applyDone a
    else s) s

/-- HOST_ACCESS (R21): device memory by its physical address, or the windows of BAR 4. In RECOVERY only BAR 4 responds (R451). -/
def execHostAccess (a : HostAcc) (s : State) : Res :=
  if bar4Base ≤ a.addr then
    let off := a.addr - bar4Base
    match a.bytes with
    | some bs =>
      .next (s.modHub fun h => { h with staging := (bs.zip (List.range bs.length)).foldl (fun t b =>
        if off + b.2 < 0x800000 then tput 0 t (off + b.2) b.1 else t) h.staging })
    | none =>
      let byte (n : Nat) : Byte := if n < 0x800000 then tget 0 s.hub.staging n else Config.freeByte (s.fresh + n)
      .next ({ s with fresh := s.fresh + 1 }.emit (.read ((List.range a.len).map fun k => byte (off + k)) false))
  else
    let n := match a.bytes with
      | some bs => bs.length
      | none => a.len
    if s.hub.boot == .recovery || a.addr + n > Config.cellarBytes then .next s
    else
      let s := s.forceLogs a.addr n
      match a.bytes with
      | some bs => .next (s.write a.addr bs)
      | none =>
        let s := s.verify (sectorsOf a.addr n) 2 none
        .next (s.emit (.read (s.read a.addr n) (s.poisoned a.addr n)))

/-- MANAGEMENT_REQUEST (R453): the protocols' answers stand outside the spec. -/
def execManagementRequest (bytes : List Byte) (s : State) : Res := .next (s.emit (.reply (Config.managementReply bytes)))

/-! ### The control space (R443, R444) -/

def CtxState.code : CtxState → Nat
  | .free => 0
  | .building => 1
  | .active => 2
  | .quiescing => 3
  | .suspended => 4
  | .faulted => 5
  | .destroyed => 6
def QState.code : QState → Nat
  | .disabled => 0
  | .enabled => 1
  | .blocked => 2
  | .draining => 3
  | .stopped => 4
  | .error => 5
/-- A context descriptor's words (R91). -/
def Ctx.word (x : Ctx) (w : Nat) : Nat :=
  match w with
  | 0 => x.state.code + x.status * 2 ^ 8 + x.cerr * 2 ^ 16
  | 1 => x.ptroot * 2 ^ 12
  | 2 => x.respol + (if x.logfp then 4 else 0) + x.maxpri * 8 + (if x.priv then 32 else 0)
  | _ => x.slip.toNat
/-- A queue control block's words (R100). -/
def Queue.word (q : Queue) (w : Nat) : Nat :=
  match w with
  | 0 => q.state.code + q.pri * 2 ^ 8 + q.ctx * 2 ^ 10 + (if q.privq then 2 ^ 16 else 0) + q.err * 2 ^ 20
  | 1 => q.log2n + q.rbase
  | 2 => q.appended.toNat + q.taken.toNat * 2 ^ 32
  | _ => 0
/-- A barrier entry's words (R164). -/
def Barrier.word (b : Barrier) (w : Nat) : Nat :=
  match w with
  | 0 => b.expect + b.arrived * 2 ^ 20 + b.gen.toNat * 2 ^ 40 + b.ctx * 2 ^ 56 + (if b.bound then 2 ^ 62 else 0)
  | _ => b.seats.toNat + b.agen.toNat * 2 ^ 32 + (if b.lost then 2 ^ 48 else 0)
/-- A window entry's words (R408). -/
def Window.word (x : Window) (w : Nat) : Nat :=
  match w with
  | 0 => x.word0
  | 1 => x.base
  | 2 => x.len
  | _ => x.fut
/-- The registers of a plane (R443). -/
def PlaneSt.regRead (q : PlaneSt) (off : Nat) : Nat :=
  if off = 0 then (q.polNext.getD q.pol).toWord
  else if off = 0x10 then q.histBucket + q.histLimit * 16
  else if off = 0x18 then q.snapgen.toNat
  else if 0x1000 ≤ off ∧ off < 0x1000 + 80 * 136 then
    (tget 0 q.live ((off - 0x1000) / 8)).toNat + q.livegen.toNat * 2 ^ 32
  else if 0x4000 ≤ off ∧ off < 0x4000 + 80 * 136 then
    (tget 0 q.snaps ((off - 0x4000) / 8)).toNat + q.snapLive.toNat * 2 ^ 32
  else 0

/-- EVCTL (R447). -/
def Hub.evctl (h : Hub) : Nat := h.evlog2n + (if h.even then 16 else 0) + h.lost.toNat * 2 ^ 32

/-- A device register (R444, R453). -/
def Hub.devReg (h : Hub) (off : Nat) : Nat :=
  match off with
  | 0x00 => 0x5890 + Config.stepping.toNat * 2 ^ 16
  | 0x08 => h.boot.code + h.bootFail * 2 ^ 8
  | 0x10 => h.modeWord
  | 0x18 => h.pasidBase.toNat
  | 0x28 => h.evbase
  | 0x30 => h.evctl
  | 0x38 => h.evhead.toNat
  | 0x40 => h.evtail.toNat
  | 0x48 => h.thermWord
  | 0x58 => h.fabid.toNat
  | _ => if 0x1000 ≤ off ∧ off < 0x1000 + 8 * 384 then (tget {} h.tiles ((off - 0x1000) / 8)).word else 0

def Hub.resWord (h : Hub) : Nat :=
  match h.resNext with
  | some w => w.toNat
  | none => h.promth + h.demth * 2 ^ 16 + h.decay * 2 ^ 32 + h.lead * 2 ^ 36 + h.tlimit * 2 ^ 48

/-- The value a host read of the control space returns (R443); the read that allocates a future has a row of its own. -/
def State.regRead (s : State) (off : Nat) : Nat :=
  let h := s.hub
  if off % 8 ≠ 0 then 0
  else if h.boot == .recovery then (if off = 0 || off = 8 then h.devReg off else 0)
  else if off < 0x10000 then h.devReg off
  else if off < 0x10000 + 32 * 64 then (s.ctx ((off - 0x10000) / 32)).word (off / 8 % 4)
  else if 0x20000 ≤ off ∧ off < 0x20000 + 32 * 1024 then (s.queue ((off - 0x20000) / 32)).word (off / 8 % 4)
  else if 0x30000 ≤ off ∧ off < 0x30000 + 32 * 256 then (s.window ((off - 0x30000) / 32)).word (off / 8 % 4)
  else if 0x40000 ≤ off ∧ off < 0x50000 then (s.devBar ((off - 0x40000) / 16)).word (off / 8 % 2)
  else if 0x50000 ≤ off ∧ off < 0x50000 + 16 * 256 then (s.podBar ((off - 0x50000) / 16)).word (off / 8 % 2)
  else if 0x60000 ≤ off ∧ off < 0x70000 then s.planeX.regRead (off - 0x60000)
  else if 0x70000 ≤ off ∧ off < 0x80000 then s.planeY.regRead (off - 0x70000)
  else if off = 0x80000 then h.resWord
  else if off = 0x80008 then h.logFree + h.logLow * 2 ^ 32
  else if 0x80010 ≤ off ∧ off < 0x80050 then
    let p := s.pantry ((off - 0x80010) / 8)
    p.frames.length + p.low * 2 ^ 16
  else if off = 0x80050 then Config.logPoolChunks
  else if off = 0x100000 then h.pwVa.toNat
  else if off = 0x100008 then h.pwEntry.toNat
  else if off = 0x100010 then h.pwLevel.toNat
  else if off = 0x100020 then h.pwStatus
  else if 0x1000000 ≤ off ∧ off < 0x2000000 then s.futWord ((off - 0x1000000) / 16) (off / 8 % 2)
  else if 0x2000000 ≤ off ∧ off < 0x2800000 then
    s.setWord ((off - 0x2000000) / 0x20000 * 4096 + (off - 0x2000000) % 0x20000 / 32) (off / 8 % 4)
  else 0

/-- A write to a context descriptor (R91 to R93). -/
def State.ctxWrite (s : State) (c w : Nat) (v : Word) : Res :=
  match w with
  | 0 =>
    match (v.extractLsb' 4 4).toNat with
    | 1 => execBuild c s
    | 2 => execActivate c s
    | 3 => execQuiesce c s
    | 4 => execResume c s
    | 5 => execDestroy c s
    | _ => .next s
  | 1 =>
    if (s.ctx c).state == .building then .next (s.modCtx c fun x => { x with ptroot := (v.extractLsb' 12 45).toNat })
    else .next (s.setCerr c cerrBADSTATE)
  | 2 =>
    if (s.ctx c).state == .building then
      .next (s.modCtx c fun x =>
        { x with respol := (v.extractLsb' 0 2).toNat, logfp := v.getLsbD 2, maxpri := (v.extractLsb' 3 2).toNat, priv := v.getLsbD 5 })
    else .next (s.setCerr c cerrBADSTATE)
  | _ => .next s

/-- A write to a queue control block (R100, R101): the fields, and then the command. -/
def State.queueWrite (s : State) (q w : Nat) (v : Word) : Res :=
  let off := (s.queue q).state == .disabled
  match w with
  | 0 =>
    let s := if off then
        s.modQueue q fun x =>
          { x with pri := (v.extractLsb' 8 2).toNat, ctx := (v.extractLsb' 10 6).toNat, privq := v.getLsbD 16 }
      else s
    match (v.extractLsb' 4 3).toNat with
    | 1 => execEnable q s
    | 2 => execDrain q s
    | 3 => execStop q s
    | 4 => execReset q s
    | _ => .next s
  | 1 =>
    .next (if off then s.modQueue q fun x => { x with log2n := (v.extractLsb' 0 5).toNat, rbase := (v.extractLsb' 12 45).toNat * 4096 }
      else s)
  | _ => .next s

/-- A write to the registers of a plane (R422, R423, R439). -/
def State.planeWrite (s : State) (p : Plane) (off : Nat) (v : Word) : Res :=
  match off with
  | 0x00 => .next (s.modPlane p fun q => { q with polNext := some (FabPol.ofWord v.toNat) })
  | 0x08 =>
    match (v.extractLsb' 0 4).toNat with
    | 1 => execBringup p s
    | 2 => execPlaneReset p s
    | 3 => execSnap p s
    | 4 =>
      let k := (v.extractLsb' 14 5).toNat
      if neighbour s.hub.peer p k = (v.extractLsb' 4 10).toNat then
        .next (calBands.foldl (fun s b => s.restoreLine { plane := p, residue := k, band := b }) s)
      else .next s
    | _ => .next s
  | 0x10 =>
    let s := s.modPlane p fun q => { q with histBucket := (v.extractLsb' 0 4).toNat, histLimit := (v.extractLsb' 4 32).toNat }
    .next (((tkeys (s.plane p).high).map (· / 10)).eraseDups.foldl (fun s lane => s.laneHealth p lane) s)
  | _ => .next s

/-- A write to a device register (R444). -/
def State.devWrite (s : State) (off : Nat) (v : Word) : Res :=
  match off with
  | 0x10 => execModeWrite v s
  | 0x18 => .next (s.modHub fun h => { h with pasidBase := v.extractLsb' 0 20 })
  | 0x20 => execHostfault v s
  | 0x28 => .next (s.modHub fun h => { h with evbase := (v.extractLsb' 12 45).toNat * 4096 })
  | 0x30 =>
    .next (s.modHub fun h =>
      { h with evlog2n := min (v.extractLsb' 0 4).toNat 10, even := v.getLsbD 4, lost := h.lost &&& ~~~(v.extractLsb' 32 32) })
  | 0x38 => .next (s.modHub fun h => { h with evhead := v.extractLsb' 0 32 })
  | 0x48 => .next (s.modHub fun h => h.setTherm v)
  | 0x50 => if v.getLsbD 0 then execWarmReset s else .next s
  | 0x58 => execFabidWrite v s
  | _ => .next s

/-- PGCMD (R446): one command at a time; an operation R350 does not list ends with BADSTATE. -/
def State.pgcmd (s : State) (v : Word) : State :=
  if s.hub.pwStatus = 1 then s
  else
    let op := (v.extractLsb' 0 3).toNat
    if op = 0 || op > 5 then s.modHub fun h => { h with pwStatus := 2 }
    else
      let c : PageCmd :=
        { op := op, ctx := (v.extractLsb' 8 6).toNat, tower := (v.extractLsb' 16 3).toNat, va := s.hub.pwVa.toNat,
          entry := s.hub.pwEntry.toNat, level := s.hub.pwLevel.toNat }
      s.modHub fun h => { h with pwStatus := 1, pwCmd := some c }

/-- A write to the page window or the future window (R445, R446). -/
def State.windowWrite (s : State) (off : Nat) (v : Word) : Res :=
  match off with
  | 0x100000 => .next (s.modHub fun h => { h with pwVa := v })
  | 0x100008 => .next (s.modHub fun h => { h with pwEntry := v })
  | 0x100010 => .next (s.modHub fun h => { h with pwLevel := v })
  | 0x100018 => .next (s.pgcmd v)
  | 0x200800 => execFutureFree v s
  | 0x200808 => execFutureSignal v s
  | 0x200810 => .next (s.modHub fun h => { h with fwValue := v })
  | _ => .next s

/-- A write to word 0 of a barrier entry (R164, R166): bound, or unbound, with CTX stored either way (R8). -/
def State.barrierWrite (s : State) (pod : Bool) (index : Nat) (v : Word) : Res :=
  if v.getLsbD 62 then execBarrierBind pod index v s
  else
    let r := hostBar pod index
    .next ((s.unbind r).modBar r fun b => { b with ctx := (v.extractLsb' 56 6).toNat })

/-- REGISTER_WRITE (R8, R443): a write to any register of the control space; a register with a row of its own acts as that
row does. -/
def execRegisterWrite (off : Nat) (v : Word) (s : State) : Res :=
  if off % 8 ≠ 0 then .next s
  else if s.hub.boot == .recovery then (if off = 0x50 then s.devWrite off v else .next s)
  else if off < 0x10000 then s.devWrite off v
  else if off < 0x10000 + 32 * 64 then s.ctxWrite ((off - 0x10000) / 32) (off / 8 % 4) v
  else if 0x20000 ≤ off ∧ off < 0x20000 + 32 * 1024 then s.queueWrite ((off - 0x20000) / 32) (off / 8 % 4) v
  else if 0x40000 ≤ off ∧ off < 0x50000 then
    if off / 8 % 2 = 1 then .next s else s.barrierWrite false ((off - 0x40000) / 16) v
  else if 0x50000 ≤ off ∧ off < 0x50000 + 16 * 256 then
    if off / 8 % 2 = 1 then .next s else s.barrierWrite true ((off - 0x50000) / 16) v
  else if 0x60000 ≤ off ∧ off < 0x70000 then s.planeWrite .x (off - 0x60000) v
  else if 0x70000 ≤ off ∧ off < 0x80000 then s.planeWrite .y (off - 0x70000) v
  else if off = 0x80000 then .next (s.modHub fun h => { h with resNext := some v })
  else if off = 0x80008 then
    -- a LOW written above FREE finds it below LOW (R368)
    let low := (v.extractLsb' 32 24).toNat
    let below := decide (s.hub.logFree < low) && !decide (s.hub.logFree < s.hub.logLow)
    let s := s.modHub fun h => { h with logLow := low }
    .next (if below then s.event evLOGPOOLLOW none s.hub.logFree 0 else s)
  else if 0x80010 ≤ off ∧ off < 0x80050 then
    -- a LOW written above COUNT finds it below LOW (R360)
    let t := (off - 0x80010) / 8
    let low := (v.extractLsb' 16 13).toNat
    let n := (s.pantry t).frames.length
    let below := decide (n < low) && !decide (n < (s.pantry t).low)
    let s := { s with pantries := tput {} s.pantries t { s.pantry t with low := low } }
    .next (if below then s.event evPANTRYLOW none t n else s)
  else s.windowWrite off v

end Sys2Proof.Machine
end

