-- ==== Sys2Proof/Machine/Issue.lean ====
section
/-!
DEFINITION. Machine/Issue.lean: the issue of a bundle (R38, R42 to R45, R48, R54 to R57): what freezes the core, the checks, and
the step that hands the slots to their instructions; and the close of the issue cycle (R173 to R190).
-/
namespace Sys2Proof.Machine

/-! ### Operands and interlocks (R42) -/

/-- The operands a slot instruction names, each with its cluster: R42 treats reads and writes alike. -/
def instrOpnds (i : Instr) : List (Cluster × Opnd) :=
  match slotForm i with
  | none => []
  | some (_, _, f) =>
    match f with
    | .a x =>
      let src : Cluster := match i with
        | .xcl _ | .xcp _ => if x.cl = .a then .b else .a
        | _ => x.cl
      let own (l : List Opnd) : List (Cluster × Opnd) := l.map fun o => (x.cl, o)
      (src, x.a) :: own [x.d, x.b, x.c] ++
        (match i with
          | .ftest _ | .hnear _ => own (pairDests x.d)
          | .tspawn _ => own [.sreg 1, .sreg 2, .sreg 3, .sreg 4]
          | _ => [])
    | .i x => [(x.cl, x.d), (x.cl, x.a)]
    | .m x =>
      [(x.cl, x.v), (x.cl, x.b)] ++
        (match i with
          | .acas _ => (pairDests x.v).map fun o => (x.cl, o)
          | _ => [])
    | .l x => [(x.cl, x.v), (x.cl, x.x)]
    | .c x =>
      (.a, x.a) ::
        (match i with
          | .call _ | .calli _ => if x.wbs then [] else [(.a, .sreg 63)]
          | _ => [])
    | .mma x => [(.b, x.d), (.b, x.x), (.b, x.m), (.b, .sl x.l)]
    | .cpy x => [x.d, x.a, x.b, x.c].map fun o => (.b, o)
    | .chase x => [x.d, x.a, x.b, x.c].map fun o => (.b, o)
    | .gath x => [x.d, x.a, x.b, x.c, x.n].map fun o => (.b, o)
    | .send x => [x.d, x.a, x.b, x.c, x.e].map fun o => (.b, o)
    | _ => []

/-- The result is interlocked now: its instruction is, or its header latency has passed and its own has not (R42). -/
def Core.interlocks (c : Core) (p : Pending) : Bool := p.locked || (decide (p.lh < p.lc) && decide (p.ic + p.lh ≤ c.ic))

/-- An operand names a destination or the latch of a pending result. -/
def Pending.meets (p : Pending) (cl : Cluster) (o : Opnd) : Bool :=
  match o with
  | .latch n => latchSlot cl n.val == p.slot && (!p.ready || p.latch != .none)
  | .nil | .imm _ => false
  | o => p.cl == cl && p.dests.contains o

/-- The guard's predicate is the destination of an interlocked result (R34, R42). -/
def Core.guardHeld (c : Core) (i : Instr) : Bool :=
  let cg := instrGuard i
  match cg.2.sel with
  | .pred n => c.pend.any fun p => c.interlocks p && p.meets cg.1 (.pred n)
  | _ => false

/-- The result of an instruction goes to its slot's latch (R35, R37, R267, R283). -/
def latches (i : Instr) : Bool :=
  match slotForm i with
  | none => false
  | some (_, _, f) =>
    match f with
    | .a x =>
      !(aSpec i x.sub x.md (encTy x.ty)).d.isEmpty &&
        (match i with
          | .hbund _ | .hcclr _ | .htie _ => false
          | .hmovv x => x.sub != 3
          | _ => true)
    | .i _ => !(iSpec i).d.isEmpty && !(iSpec i).dSrc
    | .m _ => (mSpec i).vDst || (mSpec i).vBoth
    | .l x => (lSpec i x.sub x.md x.spread).vDst
    | .c _ => (cSpec i).linkWbs
    | .mma _ => true
    | _ => false

/-- A result in flight that the unit passes along to an instruction: a step's to a step into the same quarter (R272), an HBUND's
or HCCLR's to an HBUND (R286). -/
def Pending.passes (p : Pending) (i : Instr) : Bool :=
  p.chain &&
    (match i with
      | .mma x | .mmaz x => p.writes.any fun w => match w with
        | .vec _ n _ mask => vecNumber x.d == some n && mask == quarterMask x.q.toNat
        | _ => false
      | .hbund _ => p.writes.any fun w => match w with
        | .hc _ _ => true
        | _ => false
      | _ => false)

/-- An instruction reads, or writes, the destination or the latch of an interlocked result (R42). -/
def Core.opndHeld (c : Core) (i : Instr) : Bool :=
  c.pend.any fun p =>
    c.interlocks p && !p.passes i &&
      ((instrOpnds i).any (fun o => p.meets o.1 o.2) || (latches i && p.slot == instrSlot i && (!p.ready || p.latch != .none)))

/-! ### Freeze causes of one slot (R43, R45, R303, R319) -/

/-- The unit is occupied: cause 1, or cause 5 by a dummy MMA (R43, R57). -/
def State.unitHeld (s : State) (i : Instr) : Option Nat :=
  match unitOf i (instrSlot i) with
  | none => none
  | some (u, _) =>
    if tget 0 s.core.busy u > s.cycle then some 1
    else if u = 20 && decide (s.core.cnt.dummyUntil > s.cycle) then some 5
    else none

/-- The queues an instruction enters: load, store (R319). -/
def queuesOf (i : Instr) : Bool × Bool :=
  match i with
  | .ld x | .ldv x | .ldt x => (true, x.ord == .acquire)
  | .st x | .stv x | .stt x => (x.ord == .release, true)
  | .ntst _ | .ntstv _ | .amon _ | .ntdrain _ | .logapply _ => (false, true)
  | .amo _ | .acas _ | .mark _ | .asdecl _ | .asdrop _ => (true, true)
  | .fence x => (x.ord != .release, true)
  | .cpy _ | .chase _ | .gath _ | .hnear _ | .pgstat _ | .pref _ => (true, false)
  | _ => (false, false)

def isEngine (i : Instr) : Bool :=
  match i with
  | .cpy _ | .chase _ | .gath _ => true
  | _ => false

/-- Operations a pair's copy engine holds or is about to take (64 at most). -/
def State.engineLoad (s : State) (p : Nat) : Nat :=
  (s.pairAt p).eng.length + ((coresOfPair p).map fun l => ((s.coreAt l).mq.filter fun e => isEngine e.instr).length).foldl (· + ·) 0

def isPref : Instr → Bool
  | .pref _ => true
  | _ => false

/-- Cause 2 (R45): a copy in flight, a full scoreboard, engine or queue; PREF is dropped instead (R336). `l` and `q` entries of
this bundle go before. -/
def State.memHeld (s : State) (i : Instr) (l q : Nat) : Bool :=
  s.scoreHit i
    || (isEngine i && (!s.scoreRoom i || decide (64 ≤ s.engineLoad (pairOf s.cur))))
    || ((queuesOf i).1 && !isPref i && decide (queueSize ≤ s.core.loadQueue.length + l))
    || ((queuesOf i).2 && decide (queueSize ≤ s.core.storeQueue.length + q))

/-! ### What the checks of one slot find (R48, R51, R78) -/

/-- A slot as decoded: its number, word, and instruction or fate. -/
abbrev SlotIn := Fin 8 × Word × Except DecodeError Instr

/-- FD1 to FD10 hold what the program writes; every other type names one format (R69, R205). -/
def tunedTy : Ty → Bool
  | .fd k => decide (k.val < 10)
  | _ => false

/-- The encoding checks that need the bundle or the core: made whatever the guard says (R34, R51, R78, R181, R264, R298). -/
def State.fixedFault (s : State) (quiet : Bool) (len : Nat) (i : Instr) : Option IssueFault :=
  match i with
  | .loop x =>
    faultIf quiet (some (fcILLINST, 0, 0)) <|
    faultIf (decide (x.disp.toInt < len)) badOpnd <|
    faultIf (decide ((x.sub.extractLsb' 3 3).toNat + (x.sub.extractLsb' 0 3).toNat + 1 > 8)) badOpnd none
  | .lsld x | .lsst x | .lsldv x | .lsstv x | .slld x | .hld x | .hst x | .bfmt x =>
    faultIf (!ownsGroup s.cur x.grp.toNat) badOpnd none
  | .mma x | .mmaz x =>
    faultIf (!tunedTy x.fa && !tunedTy x.fb && !s.core.mmaPairOk x) badOpnd <|
    faultIf (!ownsGroup s.cur x.grp.toNat) badOpnd none
  | _ => faultIf (!quiet && (irrevocable i || suspending i)) (some (fcILLINST, 0, 0)) none

/-- A word with an illegal operand is an illegal instruction too where its OP may not stand in such a bundle (R51, R78, R181, R50). -/
def opIllegal (quiet : Bool) (n : Fin 8) (w : Word) : Bool :=
  match (opForm (slotCls n.val) (fOp w).toNat).bind (ofForm (slotCls n.val) (fOp w).toNat) with
  | some (.loop _) => quiet
  | some i => !quiet && (irrevocable i || suspending i)
  | none => false

/-- The flags the conversions of a store raise at issue (R335, R307). -/
def State.issueFlags (s : State) (i : Instr) : FpFlags :=
  match i with
  | .stt x =>
    let desc := s.core.fdValue x.fd.toNat
    if desc = 0 then {}
    else orFlags ((sttConv (FpEnv.ofFpcr s.core.fpcr) desc (s.core.vraw x.cl x.v)).map fun r => r.2.1)
  | .lsstv x => orFlags ((s.lsstvConv x).map fun r => r.2.2.1)
  | _ => {}

/-- A bank clock that a slot claims and that an earlier slot or bundle claims (R275). Of two slots of one bundle the later one
raises the fault (notes/assumptions/90.md). -/
def bankConflict (held new : List (Nat × Nat)) : Option (Nat × Nat) := new.find? fun c => held.contains c

/-- What the slots of a bundle have shown so far. -/
structure Checked where
  /-- The lowest freeze cause met. -/
  stall : Option Nat := none
  /-- Faults by slot. -/
  faults : List (Nat × IssueFault) := []
  claims : List (Nat × Nat) := []
  weight : Nat := 0
  steps : Nat := 0
  loads : Nat := 0
  stores : Nat := 0
  /-- Irrevocable operations met, while a set is held. -/
  defers : Nat := 0
  deriving DecidableEq, Repr

def Checked.stalls (k : Checked) (cause : Nat) : Checked :=
  { k with stall := some (match k.stall with
    | some c => min c cause
    | none => cause) }
def Checked.fault (k : Checked) (slot : Nat) (f : IssueFault) : Checked := { k with faults := k.faults ++ [(slot, f)] }

/-- The width of the operands of a step; 0 of another instruction. -/
def Core.stepWidth (c : Core) (i : Instr) : Nat :=
  match i with
  | .mma x | .mmaz x => (c.fmt x.fa).width
  | _ => 0

/-- The word a fault on an encoding carries (R139). -/
def wordFault (w : Word) (f : IssueFault) : IssueFault :=
  if f.1 = fcILLINST || f.1 = fcILLOPND then (f.1, w, 0) else f

/-- The fault of a guarded-on slot on its values and on the sets its task holds (R48, R51, R136). -/
def State.valueFault (s : State) (quiet held : Bool) (w : Word) (i : Instr) (k : Checked) : Option IssueFault :=
  ((s.slotFault quiet (s.issueFlags i) i).map (wordFault w)).or <|
    faultIf (held && setwaiting i) (some (fcSETWAIT, (fOp w).zeroExtend 64, 0)) <|
    faultIf (held && irrevocable i && decide (64 < s.core.defer.length + k.defers + 1)) (some (fcDEFERBUF, 0, 0)) none

/-- The freeze causes of a guarded-on slot: an occupied unit, and the memory causes where nothing else is wrong (R43, R45). -/
def State.stallsOf (s : State) (i : Instr) (sound : Bool) (k : Checked) : Checked :=
  let k := (s.unitHeld i).elim k k.stalls
  if sound && s.memHeld i k.loads k.stores then k.stalls 2 else k

/-- A guarded-on slot (R48). Where an operand is not there yet, nothing else is judged; otherwise every cause and every check is:
the occupied unit, the values, the queues, the banks; and what the slot adds to its bundle. -/
def State.checkOn (s : State) (quiet held : Bool) (n : Nat) (w : Word) (i : Instr) (k : Checked) : Checked :=
  let c := s.core
  if c.opndHeld i then k.stalls 1
  else
    let bad := s.valueFault quiet held w i k
    let k := s.stallsOf i bad.isNone k
    let claims := if bad.isNone then c.claimsOf i s.cycle else []
    let clash : Option IssueFault := (bankConflict (k.claims ++ c.claims) claims).map fun b =>
      (fcBANKCONFLICT, BitVec.ofNat 64 (b.1 / 8), BitVec.ofNat 64 (b.1 % 8))
    let k := (bad.or clash).elim k (k.fault n)
    { k with
      claims := k.claims ++ claims, weight := k.weight + weightOf i (c.stepWidth i),
      steps := k.steps + (if latClass i = some 20 then 1 else 0),
      loads := k.loads + (if (queuesOf i).1 then 1 else 0), stores := k.stores + (if (queuesOf i).2 then 1 else 0),
      defers := k.defers + (if held && irrevocable i then 1 else 0) }

/-- One slot (R34, R48). -/
def State.checkSlot (s : State) (quiet held : Bool) (len : Nat) (k : Checked) (x : SlotIn) : Checked :=
  let n := x.1.val
  match x.2.2 with
  | .error .illOpnd => k.fault n (if opIllegal quiet x.1 x.2.1 then fcILLINST else fcILLOPND, x.2.1, 0)
  | .error _ => k.fault n (fcILLINST, x.2.1, 0)
  | .ok i =>
    match s.fixedFault quiet len i with
    | some f => k.fault n (wordFault x.2.1 f)
    | none =>
      let cg := instrGuard i
      if s.core.guardHeld i then k.stalls 1
      else if s.core.guard cg.1 cg.2 then s.checkOn quiet held n x.2.1 i k
      else k

/-- A result of the fabric die is due whose operation has not performed (R49, R419; notes/assumptions/96.md). -/
def Core.fabricLate (c : Core) : Bool := c.pend.any fun p => !p.ready && !p.locked && decide (p.ic + p.lh ≤ c.ic)

/-- The entries of the queues that hold their core still (R345, R354, R375, R382), and a late result. -/
def Core.memFrozen (c : Core) : Bool :=
  c.fabricLate || c.mq.any fun e => match e.st with
    | .transit _ _ | .sets _ | .wounding _ | .overflow => true
    | _ => false

/-- The fault that is recorded, and the mask (R50). -/
def Checked.chosen (k : Checked) : Option (IssueFault × Nat) :=
  let of (code : Nat) : Option IssueFault := (k.faults.find? fun f => f.2.1 == code).map fun f => f.2
  let mask := (k.faults.map fun f => slotMask f.1).foldl (· + ·) 0
  ((((of fcILLINST).or (of fcILLOPND)).or (of fcBANKCONFLICT)).or (k.faults.head?.map fun f => f.2)).map fun f => (f, mask)

/-! ### Freezes and counters (R45, R46, R59, R60) -/

/-- One frozen cycle counted against a cause. -/
def Counters.freeze (n : Counters) (cause : Nat) : Counters :=
  match cause with
  | 1 => { n with ilck := satAdd32 n.ilck 1 }
  | 2 | 3 => { n with memw := satAdd32 n.memw 1 }
  | 4 => { n with cwcyc := satAdd32 n.cwcyc 1, stat := n.stat ||| 0x08#6 }
  | 5 => { n with rampcyc := satAdd32 n.rampcyc 1, stat := n.stat ||| 0x10#6 }
  | _ => n
def State.freeze (s : State) (cause : Nat) : State := s.onCore fun c => { c with frozen := true, cnt := c.cnt.freeze cause }

/-- The limit in force (R25, R456). -/
def State.currentLimit (s : State) : Nat :=
  let c := s.core.cnt
  min c.limit (c.pub * (8 - tget 0 s.hub.inForce (towerOf s.cur)) / 8)

/-! ### BUNDLE_ISSUE -/

/-- A pre-emption request that counts at an END bundle issued now (R188). -/
def State.requested (s : State) : Bool := s.core.preq.elim false fun k => decide (k < s.cycle)

/-- The redirect of slot c (R174). -/
def State.bundleRedirect (s : State) (is : List Instr) : Redirect :=
  match is.head? with
  | some i =>
    let cg := instrGuard i
    if instrSlot i = 0 && s.core.guard cg.1 cg.2 then s.redirectOf i else .seq
  | none => .seq

/-- The bundle in issue, before its slots act. -/
def State.openIssue (s : State) (b : RawBundle) : State :=
  s.onCore fun c =>
    { c with iss := some { baddr := c.pc, bseq := c.bseq + 1, len := b.len, wait := b.wait, quiet := b.quiet, redir := .seq, sysw := [],
                           ops := [], lsw := [] } }

/-- The bundle issues (R48): its weight, its claims, its slots. -/
def State.startIssue (s : State) (k : Checked) (is : List Instr) : State :=
  { s.onCore fun c =>
      { c with bseq := c.bseq + 1, claims := (c.claims.filter fun x => decide (s.cycle ≤ x.2)) ++ k.claims,
               cnt := { c.cnt with used := c.cnt.used + k.weight } } with
    slots := is }

/-- An issue attempt (R44, R45, R48, R55, R57, R173): what holds the bundle freezes the core; a bundle that nothing holds is
judged in that cycle (R44, R275), and issues or faults. -/
def State.tryIssue (s : State) (b : RawBundle) : State :=
  let ins : List SlotIn := b.slotWords.map fun x => (x.1, x.2, decodeSlot x.1 x.2)
  let c := s.core
  let held := c.task.elim false fun i => !(s.heldSets i).isEmpty
  let s1 := s.openIssue b
  let k := ins.foldl (s1.checkSlot b.quiet held b.len) {}
  let k := if c.memFrozen then k.stalls 3 else k
  let k := if c.cnt.used + k.weight > s.currentLimit then k.stalls 4 else k
  let k := if k.steps ≠ 0 && decide (c.cnt.cur + k.steps > c.cnt.prev + c.cnt.step) then k.stalls 5 else k
  let is := ins.filterMap fun x => match x.2.2 with
    | .ok i => some i
    | .error _ => none
  match k.stall, k.chosen with
  | some n, _ => s.freeze n
  | none, some (f, mask) => s.fatal s.cur (c.bseq + 1) c.pc mask f.1 f.2.1 f.2.2 0
  | none, none =>
    let r := s1.bundleRedirect is
    let next := nextAfter c.loops c.pc b.len b.quiet r s.requested
    if r != .stop && decide (next.pc ≥ s.image.words) then
      s.fatal s.cur (c.bseq + 1) c.pc 0 fcBADTARGET (BitVec.ofNat 64 next.pc) 0 0
    else s1.startIssue k is

/-- Words from a code address on. -/
def State.fetchWords (s : State) (k : Nat) : Nat → Option (List Word)
  | 0 => some []
  | n + 1 =>
    match s.fetchWord k, s.fetchWords (k + 1) n with
    | some w, some ws => some (w :: ws)
    | _, _ => none

/-- The bundle at the pc of the core in focus (R61, R173). -/
def State.fetch (s : State) : Option RawBundle :=
  match s.fetchWord s.core.pc with
  | none => none
  | some h => (s.fetchWords (s.core.pc + 1) (spmCount h)).map fun ws => { header := h, words := ws }

/-- What stands for a bundle that the fetch unit cannot supply. -/
def noBundle : RawBundle := { header := 1, words := [] }

/-- The fetch meets a page in transit, or one that applies its log: cause 3 of R45, until the bundle takes TRANSIT (R354). -/
def State.fetchTransit (s : State) (page va : Nat) : State :=
  let c := s.core
  let since := c.fetchWait.elim s.cycle fun w => if w.1 = page then w.2 else s.cycle
  let limit := s.hub.tlimit * 64
  if limit ≠ 0 && decide (since + limit ≤ s.cycle) then
    s.restart s.cur (c.bseq + 1) c.pc 0 fcTRANSIT (BitVec.ofNat 64 va) 0 5 0 (va / 65536 * 65536)
  else (s.onCore fun c => { c with fetchWait := some (page, since) }).freeze 3

/-- The fetch of the words from the pc on, after an instruction-cache or TLB miss, translates through the tables and reads the slice
(R175, R347, R352): the core is held, or its task aborts. -/
def State.fetchFrom (s : State) (k : Nat) : Nat → State
  | 0 => s
  | n + 1 =>
    let va := s.image.text + 8 * k
    let c := s.core
    let lin := s.cur
    match s.translate s.curCtx va 8 false (towerOf lin) 0 with
    | (.ok x, s) =>
      let pa := x.base + va % 65536
      if s.logBlocked x.leaf then (s.force x.leaf).fetchTransit x.leaf va
      else if s.poisoned pa 8 then s.fatal lin (c.bseq + 1) c.pc 0 fcPOISON (BitVec.ofNat 64 (pa / 32 * 32)) 0 0
      else (s.maybeCount x.leaf s.curCtx va (towerOf lin)).fetchFrom (k + 1) n
    | (.transit a, s) => s.fetchTransit a va
    | (.readonly, s) => s
    | (.absent, s) => s.restart lin (c.bseq + 1) c.pc 0 fcNOTPRESENT (BitVec.ofNat 64 va) 0 5 0 (va / 65536 * 65536)
    | (.pantry t, s) => s.restart lin (c.bseq + 1) c.pc 0 fcPANTRY (BitVec.ofNat 64 va) (BitVec.ofNat 64 t) 7 0 (va / 65536 * 65536)
    | (.poison f, s) => s.fatal lin (c.bseq + 1) c.pc 0 fcPOISON (BitVec.ofNat 64 f) 0 0

/-- A fetch of words that has not been supplied (R175): the core is held in this cycle. -/
def State.fetchHold (s : State) (k n : Nat) : State :=
  let s := s.fetchFrom k n
  if s.core.leave.isSome || s.core.task.isNone then s else s.onCore fun c => { c with frozen := true }

/-- The fetch of the bundle at the pc has not been supplied. -/
def State.fetchMiss (s : State) : State := s.fetchHold s.core.pc (1 + (s.fetchWord s.core.pc).elim 0 spmCount)

/-- A core may try to issue: a task runs whose first cycle has come, nothing holds the step, and its issue cycle is reached
(R38, R135, R174). -/
def State.canIssue (s : State) : Bool :=
  let c := s.core
  c.task.isSome && c.iss.isNone && c.compl.isNone && c.leave.isNone && decide (c.startAt ≤ s.cycle) && decide (c.nextIc ≤ c.ic)

/-- The END whose header decides what follows a bundle: LOOP with a count of 0 or an exit, and LBRK, name its F (R180, R181, R186). -/
def State.endNeeded (s : State) (b : RawBundle) : Option Nat :=
  let c := s.core
  match b.slotWords.head? with
  | none => none
  | some (n, w) =>
    let on (g : Guard) (a : Option Nat) : Option Nat :=
      if n = 0 && c.guard .a g then a.filter fun k => decide (k < s.image.words) && (s.fetchWord k).isNone else none
    match decodeSlot n w with
    | .ok (.loop x) =>
      on x.g (if x.md ≠ 0 || (c.src .a x.a).toNat % 2 ^ 32 = 0 then some (dispTarget c.pc x.disp).toNat else none)
    | .ok (.lbrk x) => on x.g (c.loops.head?.map fun l => l.stop)
    | _ => none

/-- BUNDLE_ISSUE (R48): the bundle fetched at the core's pc issues, freezes, or faults; words that are no bundle stand for a fetch
that has not been supplied. -/
def execBundleIssue (lin : Nat) (b : RawBundle) (s : State) : Res :=
  let s := s.focus lin
  if s.canIssue then
    let s := s.recheckBar lin
    if !s.canIssue then .next s
    else if b.words.length == spmCount b.header then
      match s.endNeeded b with
      | none => .next (s.tryIssue b)
      | some k => .next (s.fetchHold k 1)
    else .next s.fetchMiss
  else .next s

/-! ### The close of the issue cycle -/

/-- The local-store writes of the bundle, in the order of their clocks (R304). -/
def Pair.store (p : Pair) (w : LsWrite) : Pair :=
  { p with data := tput 0 p.data w.key ((tget 0 p.data w.key &&& ~~~w.mask) ||| (w.val &&& w.mask)),
           scale := match w.scale with
             | some v => tput 0 p.scale w.key v
             | none => p.scale }

/-- The completion step of a bundle with Q = 1 begins (R52). -/
def Issue.completion (b : Issue) (next cyc : Nat) : Completion :=
  { baddr := b.baddr, bseq := b.bseq, cyc := cyc, next := next, ops := b.ops, performing := false, committing := false, heldArrival := none,
    arrivedGen := none, stall := none, ask := .none, trap := none, failed := none, more := 0 }

/-- Every slot has acted: local-store and system-register writes, the loop engine, the next bundle (R174, R183, R188, R190). Local-store
writes perform at issue, also of a bundle with a slot that will fault after issue (R49, R304; notes/assumptions/98.md). -/
def State.closeIssue (s : State) : State :=
  match s.core.iss with
  | none => s
  | some b =>
    let next := nextAfter s.core.loops b.baddr b.len b.quiet b.redir s.requested
    let s := s.modPair (pairOf s.cur) fun p => (sortBy (fun a b => decide (a.clock ≤ b.clock)) b.lsw).foldl Pair.store p
    s.onCore fun c =>
      let c := b.sysw.foldl (fun c w => c.sysWrite w.1 w.2) c
      { c with iss := none, pc := next.pc, loops := next.loops, px := next.px.getD c.px, nextIc := c.ic + 1 + b.wait + next.redirect,
               compl := if b.quiet then some (b.completion next.pc s.cycle) else none }

end Sys2Proof.Machine
end

