-- ==== Sys2Proof/Machine/Visible.lean ====
section
/-!
DEFINITION. Machine/Visible.lean: results that become visible (R35 to R47, R217, R218), the current and ramp windows, and dummy
MMAs (R55 to R58, R26, R456).
-/
namespace Sys2Proof.Machine

/-! ### Visibility -/

/-- The enabled bits of a value put over an old one. -/
def mergeBits {w : Nat} (old new mask : BitVec w) : BitVec w := (old &&& ~~~mask) ||| (new &&& mask)

/-- The mask of one half of a counter register (R291): 3,072 counters of 8 bits. -/
def halfMask (half : Nat) : CntReg := BitVec.ofNat _ ((2 ^ 24576 - 1) * 2 ^ (24576 * half))

/-- A register write performed (R35, R252, R267, R291). -/
def Regs.put (r : Regs) (w : RegWrite) : Regs :=
  match w with
  | .sreg .a n v => { r with sa := tput 0 r.sa n v }
  | .sreg .b n v => { r with sb := tput 0 r.sb n v }
  | .pred .a n v => { r with pa := tput false r.pa n v }
  | .pred .b n v => { r with pb := tput false r.pb n v }
  | .vec .a n v mask => { r with va := tmod 0 r.va n fun old => mergeBits old v mask }
  | .vec .b n v mask => { r with vb := tmod 0 r.vb n fun old => mergeBits old v mask }
  | .sl n cols v =>
    { r with sl := tmod [] r.sl n fun old =>
        (List.range cols).foldl (fun t k => tput MatRow.zero t k (tget MatRow.zero v k)) old }
  | .hv n v => { r with hv := tput 0 r.hv n v }
  | .hc n v => { r with hc := tput 0 r.hc n v }
  | .hcHalf n half v => { r with hc := tmod 0 r.hc n fun old => mergeBits old v (halfMask half) }
  | .ht v => { r with ht := v }
  | .fd n v => { r with fd := tput 0 r.fd n v }

/-- A latch written (R35, R36): a narrower result fills the low bits and zeroes the rest. -/
def Regs.putLatch (r : Regs) (slot : Nat) (l : LatchWrite) : Regs :=
  match l with
  | .none => r
  | .word v =>
    if slot < 5 then { r with lat := tput 0 r.lat slot v } else { r with latv := tput 0 r.latv slot (v.setWidth 32768) }
  | .wide v mask =>
    if slot < 5 then { r with lat := tput 0 r.lat slot (v.extractLsb' 0 64) }
    else { r with latv := tmod 0 r.latv slot fun old => mergeBits old v mask }

/-- Two writes meet in a register, or in a container of a vector register (R47). -/
def RegWrite.meets (a b : RegWrite) : Bool :=
  match a, b with
  | .sreg c n _, .sreg d m _ => c == d && n == m
  | .pred c n _, .pred d m _ => c == d && n == m
  | .vec c n _ x, .vec d m _ y => c == d && n == m && x &&& y != 0
  | .sl n _ _, .sl m _ _ => n == m
  | .hv n _, .hv m _ => n == m
  | .hc n _, .hc m _ => n == m
  | .hc n _, .hcHalf m _ _ => n == m
  | .hcHalf n _ _, .hc m _ => n == m
  | .hcHalf n _ _, .hcHalf m _ _ => n == m
  | .ht _, .ht _ => true
  | .fd n _, .fd m _ => n == m
  | _, _ => false

/-- Two results that become visible in one cycle collide (R47). -/
def Pending.collides (p q : Pending) : Bool :=
  (p.slot == q.slot && p.latch != .none && q.latch != .none) || p.writes.any fun a => q.writes.any fun b => a.meets b

/-- Some pair of a list collides. -/
def anyCollision : List Pending → Bool
  | [] => false
  | p :: ps => (ps.any fun q => p.collides q) || anyCollision ps

/-- The result is visible in this cycle (R39). -/
def Pending.due (p : Pending) (ic cyc : Nat) : Bool := p.ready && decide (p.ic + p.lh ≤ ic) && decide (p.cyc + p.lc ≤ cyc)

/-- The result raises an enabled flag (R218). -/
def Pending.traps (p : Pending) : Bool := trapping p.enables p.fl

/-- A result takes effect: registers, latch, and the flags and counts that this cycle adds (R217). -/
def Core.show (c : Core) (p : Pending) : Core :=
  { c with regs := (p.writes.foldl Regs.put c.regs).putLatch p.slot p.latch, dueFl := c.dueFl.or p.fl, dueCnt := c.dueCnt.add p.cnt }

/-- The results due in this cycle, the prevailing ones last (R47): by slot, then by bundle. -/
def Core.dueResults (c : Core) (cyc : Nat) : List Pending :=
  sortBy (fun p q => decide (p.slot < q.slot) || (p.slot == q.slot && decide (p.bseq ≤ q.bseq))) (c.pend.filter fun p => p.due c.ic cyc)

/-- The number of the oldest bundle that traps in this cycle. -/
def firstTrap (l : List Pending) : Option Nat :=
  l.foldl (fun m p => if p.traps then some (m.elim p.bseq fun k => min k p.bseq) else m) none

/-- The counter register a write goes to. -/
def RegWrite.counter : RegWrite → Option Nat
  | .hc n _ | .hcHalf n _ _ => some n
  | _ => none

/-- Of the results of one cycle, in order, the last into a counter register prevails for the whole of it (R283, R291). -/
def settleCounters : List Pending → List Pending
  | [] => []
  | p :: ps =>
    { p with writes := p.writes.filter fun w => w.counter.all fun n => !(ps.any fun q => q.writes.any fun v => v.counter == some n) } ::
      settleCounters ps

/-- RESULT_VISIBLE (R39, R47, R217, R218). -/
def execResultVisible (lin : Nat) (s : State) : Res :=
  let c := s.coreAt lin
  let due := c.dueResults s.cycle
  let cut := firstTrap due
  let live := due.filter fun p => cut.elim true fun k => decide (p.bseq < k)
  let c' := (settleCounters live).foldl Core.show { c with pend := c.pend.filter fun p => !p.due c.ic s.cycle }
  let c' := if anyCollision live then { c' with cnt := { c'.cnt with stat := c'.cnt.stat ||| 1#6 } } else c'
  let s := s.setCore lin c'
  match cut with
  | none => .next s
  | some k =>
    let ts := due.filter fun p => p.traps && p.bseq == k
    let fl := orFlags (ts.map fun p => p.fl)
    .next (s.fatal lin k ((ts.head?).elim 0 fun p => p.baddr) ((sortNat (ts.map fun p => p.slot)).map slotMask |>.foldl (· + ·) 0)
      fcFPTRAP (fl.toBits.zeroExtend 64) 0 0)

/-! ### Windows (R55 to R58) -/

/-- A mode change and the throttle steps take effect at the window boundary (R26, R456). -/
def Hub.atBoundary (h : Hub) : Hub :=
  match h.pendMode with
  | some m => { h with cap := m.1, profile := m.2, pendMode := none, inForce := h.throttle }
  | none => { h with inForce := h.throttle }

/-- CURRENT_WINDOW_BOUNDARY (R55, R56, R26). -/
def execCurrentWindowBoundary (lin : Nat) (s : State) : Res :=
  if s.cycle % 64 ≠ 0 then .next s
  else
    let s := s.modHub Hub.atBoundary
    let pub := publishedLimit s.hub.cap s.hub.profile
    .next (s.modCore lin fun c => { c with cnt := { c.cnt with used := 0, pub := pub, limit := min c.cnt.limit pub } })

/-- RAMP_WINDOW_BOUNDARY (R57, R58). -/
def execRampWindowBoundary (lin : Nat) (s : State) : Res :=
  if s.cycle % 1024 ≠ 0 then .next s
  else .next (s.modCore lin fun c => { c with cnt := { c.cnt with prev := min c.cnt.cur 512, cur := 0 } })

/-- The limiter asks for a dummy MMA in this cycle (R57). -/
def Core.dummyDue (c : Core) (cyc : Nat) : Bool :=
  decide (2 * ((c.cnt.prev : Int) - c.cnt.step - c.cnt.cur) ≥ 1024 - (cyc % 1024 : Nat))
    && decide (tget 0 c.busy 20 ≤ cyc) && decide (c.cnt.dummyUntil ≤ cyc)

/-- DUMMY_MMA (R57, R58): issued, or skipped when it would break R55. -/
def execDummyMma (lin : Nat) (s : State) : Res :=
  let s := s.focus lin
  if !s.core.dummyDue s.cycle then .next s
  else if s.core.cnt.used + 40 > s.currentLimit then
    .next (s.onCore fun c => { c with cnt := { c.cnt with skip := min (c.cnt.skip + 1) 63 } })
  else
    .next (s.onCore fun c => { c with cnt :=
      { c.cnt with dummyUntil := s.cycle + 2, cur := c.cnt.cur + 1, used := c.cnt.used + 40, stat := c.cnt.stat ||| 0x20#6 } })

end Sys2Proof.Machine
end

