-- ==== Sys2Proof/Machine/Commit.lean ====
section
/-!
DEFINITION. Machine/Commit.lean: the operations of a completion step by their instruction (R52), and TEND's commit step (R136, R137,
R145, R383, R384).
-/
namespace Sys2Proof.Machine

/-- An irrevocable or suspending operation performs (R52, R136). -/
def performHeld (h : HeldOp) (s : State) : State :=
  match h.instr with
  | .fset _ => State.performFset h s
  | .ffail _ => State.performFfail h s
  | .bara x | .pbara x => State.performBara x h s
  | .qput _ => State.performQput h s
  | .tspawn x => State.performTspawn x h s
  | .trap x => State.performTrap x.imm.toNat h s
  | .send x => State.performSend x h s
  | .msend x => State.performMsend x h s
  | _ => s

/-! ### Set stores (R383, R384) -/

/-- The lines' pages can take their bytes now: a page that moves or applies its log holds the commit, a page in LOGGED applies
it first (R374), a ZERO page is touched (R359). -/
def State.linesReady (s : State) (c t : Nat) : List Nat → Bool × State
  | [] => (true, s)
  | n :: rest =>
    match s.walk c (128 * n) with
    | .leaf a _ e =>
      if s.logBlocked a then (false, s.force a)
      else if inTransit (pteRes e) then (false, s)
      else if pteRes e = resZERO then
        match s.firstTouch a c (128 * n) t with
        | none => (false, s)
        | some s => s.linesReady c t rest
      else s.linesReady c t rest
    | _ => s.linesReady c t rest

/-- Bytes written at their physical addresses: a sector of which every byte is given is written whole (R21). -/
def State.writeParts (s : State) (bs : List (Nat × Byte)) : State :=
  ((bs.map fun b => b.1 / 32).eraseDups).foldl (fun s q =>
    let part := bs.filter fun b => b.1 / 32 == q
    if part.length = 32 then s.write (32 * q) (part.map fun b => b.2) else part.foldl (fun s b => s.write b.1 [b.2]) s) s

/-- The buffered bytes of a line, in ascending order of address. -/
def Core.setBytes (c : Core) (n : Nat) : List (Nat × Byte) :=
  c.setBuf.filterMap fun e => if e.1 / 128 = n then e.2.map fun b => (e.1, b) else none

/-- The set-store buffer is committed (R384): none while it must wait. A line whose page has gone, or is POISONED, drops its bytes
(notes/assumptions/45.md). -/
def State.commitSets (s : State) : Bool × State :=
  let c := s.curCtx
  let lines := s.core.setLines
  match s.linesReady c (towerOf s.cur) lines with
  | (false, s) => (false, s)
  | (true, s) =>
    let s := lines.foldl (fun s n =>
      match s.physNow c (128 * n) with
      | none => s
      | some pa => s.writeParts ((s.core.setBytes n).map fun b => (pa + b.1 % 128, b.2))) s
    (true, s.onCore fun k => { k with setBuf := [] })

/-! ### TEND (R145) -/

/-- Engine operations of a task that have no future and have not resolved (R145). -/
def State.futureless (s : State) (i : Nat) : Bool :=
  (tkeys s.pairs).any fun p => (s.pairAt p).eng.any fun o => o.task == i && regHandle (o.vals.getD 3 0) == 0

/-- An operation finds no room in its engine or scoreboard (R303, R415). -/
def State.sendHeld (s : State) (h : HeldOp) : Bool :=
  let full (multi sls : Bool) : Bool :=
    !s.sendRoom multi (h.vals.getD 0 0) ||
      (sls && (match s.lsOperand (h.vals.getD 1 0) with
        | some (_, p) => decide (32 ≤ (s.pairAt p).sb.length)
        | none => false))
  match h.instr with
  | .send x => full false x.sls
  | .msend x => full true x.sls
  | _ => false

/-- A deferred arrival at pod scope waits for the sends deferred before it (R324). -/
def State.podReleaseHeld (s : State) (h : HeldOp) : Bool :=
  match h.instr with
  | .pbara _ => !s.sendsDone s.cur
  | _ => false

/-- The pod barrier that holds an arrival (R169). -/
def State.arrivalHeld (s : State) (h : HeldOp) : Option Nat :=
  match h.instr with
  | .pbara _ | .barx _ | .bara _ =>
    if (s.core.compl.bind fun q => q.arrivedGen).isSome then none
    else
      match s.barRef s.curTask (barId (h.vals.getD 0 0)) with
      | some (.pod i) => if (s.podBar i).holds then some i else none
      | _ => none
  | _ => none

/-- The record of the first failure of a deferred operation, and the count of the others (R137). -/
def State.deliverFailure (s : State) (i : Nat) (q : Completion) : State :=
  match q.failed with
  | none => s.freeTask i
  | some (cls, code, a0, a1, a2, slot) =>
    let s := s.modTask i fun t =>
      { t with state := .done, ecode := code, emask := slotMask slot, eclass := cls, ecore := s.cur, epc := q.baddr,
               earg0 := a0, earg1 := a1, earg2 := a2 }
    let launch := slotOfHandle (s.task i).launch
    let s := s.modLaunch launch fun l => { l with faults := min (l.faults + q.more) (2 ^ 48 - 1) }
    let s := s.faultPolicy i true
    if (s.launchOf launch).failures.contains i then s else s.freeTask i

/-- The last steps of TEND (R145): sets released, the record written back (R138), the status block, the chain's successor, HDISP, the task's end. -/
def State.finishTend (s : State) : State :=
  match s.core.task, s.core.compl with
  | some i, some q =>
    let lin := s.cur
    let sn := s.core.snap
    let t := s.task i
    let slot := slotOfHandle t.launch
    let s := ((s.releaseAll i).clearNext i).modTask i fun t => t.writeBack sn
    let s := s.countCommit slot sn.fl (s.task i).mxcacc
    let s := s.chainNext i lin
    let s := match (s.launchOf slot).handling with
      | some (k, _) => if k = i then s.dispose slot else s
      | none => s
    let s := ((s.setCore lin s.core.idle).coreFreed lin).memberGone i
    let s := (s.deliverFailure i q).quietCheck slot
    (if (s.launchOf slot).abort then s.abortSweep slot else s).flushAll
  | _, _ => s

/-- One step of TEND's commit (R136, R145): it waits for engine operations without a future and for the task's memory effects
(R318); it commits the set stores; the deferred operations perform one by one. -/
def State.tendStep (s : State) : State :=
  match s.core.compl with
  | none => s
  | some q =>
    if !q.committing then
      if s.futureless s.curTask || !s.core.drained then s
      else
        match s.commitSets with
        | (false, s) => s
        | (true, s) => s.modCompl fun q => { q with committing := true, ops := s.core.defer }
    else
      match q.ops with
      | [] => s.finishTend
      | h :: rest =>
        if s.sendHeld h || s.podReleaseHeld h then s
        else
          match s.arrivalHeld h with
          | some k => s.modCompl fun q => { q with heldArrival := some k }
          | none => performHeld h (s.modCompl fun q => { q with ops := rest, heldArrival := none })

end Sys2Proof.Machine
end

