-- ==== Sys2Proof/Machine/Bundle.lean ====
section
/-!
DEFINITION. Machine/Bundle.lean: the completion step of a quiescent bundle (R51, R52, R144), operations that stand in no queue, and
what settles after every step.
-/
namespace Sys2Proof.Machine

/-! ### What holds the step (R45, R52) -/

/-- The operation releases: everything before it must have performed (R154, R171, R111, R166). -/
def releasing (i : Instr) : Bool :=
  match i with
  | .fset _ | .ffail _ | .qput _ | .bara _ | .barx _ | .pbara _ => true
  | _ => false

/-- A release waits for the queues and the FIFO, PBARA for the sends also (R171, R322, R324). A non-temporal store that has left the
queue is outside it unless an NTDRAIN gathers it, which itself waits in the queue until the store has performed (R325). QGET waits for
all of them, as its suspension does (R110, R318). -/
def State.releaseHeld (s : State) (h : HeldOp) : Bool :=
  let c := s.core
  let lines := c.fifoLines != 0
  match h.instr with
  | .qget _ => !c.drained
  | .pbara _ => !c.mq.isEmpty || lines || !s.sendsDone s.cur
  | i => releasing i && (!c.mq.isEmpty || lines)

/-- The freeze cause that holds the step before its operations perform (R45, R52). -/
def State.complHold (s : State) (q : Completion) : Option Nat :=
  let c := s.core
  if !c.pend.isEmpty then some 1
  else if c.memFrozen then some 3
  else if c.mq.any fun e => e.unchecked || e.faultsLate then some 1
  else if q.ops.any s.releaseHeld then some 1
  else if q.ops.any s.sendHeld then some 2
  else none

/-- The freeze cause under which a core in its completion step stands (R45). -/
def State.complCause (s : State) (q : Completion) : Option Nat :=
  if q.heldArrival.isSome then some 1
  else
    match q.stall with
    | some (k, _, _) => some k
    | none => if q.ask == .tend || q.committing then none else s.complHold q

/-! ### The step -/

/-- Operations under a held set: SETWAIT and DEFERBUF of a bundle that acquired the set itself (R51), else the irrevocable ones
are deferred (R136); those of TEND's bundle go before the earlier ones (R145). -/
def State.deferOps (s : State) (q : Completion) : State :=
  let waits := q.ops.filter fun h => setwaiting h.instr
  let late := q.ops.filter fun h => irrevocable h.instr
  let beyond := (late.zip (List.range late.length)).filter fun x => decide (64 < s.core.defer.length + x.2 + 1)
  let mask (l : List HeldOp) : Nat := (l.map fun h => slotMask h.slot).foldl (· + ·) 0
  match waits, beyond with
  | h :: _, _ =>
    s.fatal s.cur q.bseq q.baddr (mask waits) fcSETWAIT ((slotForm h.instr).elim 0 fun f => BitVec.ofNat 64 f.2.1) 0 0
  | [], _ :: _ => s.fatal s.cur q.bseq q.baddr (mask (beyond.map fun x => x.1)) fcDEFERBUF 0 0 0
  | [], [] =>
    let ends := q.ops.any fun h => match h.instr with
      | .tend _ => true
      | _ => false
    s.onCore fun c =>
      { c with defer := if ends then late ++ c.defer else c.defer ++ late,
               compl := c.compl.map fun q => { q with ops := q.ops.filter fun h => !irrevocable h.instr } }

/-- The operations perform, in slot order (R52). -/
def State.startOps (s : State) : State :=
  match s.core.compl with
  | none => s
  | some q =>
    { s.modCompl fun q => { q with performing := true, stall := none, heldArrival := none } with
      slots := q.ops.map fun h => h.instr }

/-- QUIESCENT_COMPLETION (R52). -/
def execQuiescentCompletion (lin : Nat) (s : State) : Res :=
  let s := s.focus lin
  match s.core.compl with
  | none => .next s
  | some q =>
    if q.performing then .next s
    else if q.ask == .tend then .next s.tendStep
    else if (s.complHold q).isSome then .next s
    else
      -- under a held set every arrival is deferred to TEND's commit, where it is held (R136, R169)
      if !(s.heldSets s.curTask).isEmpty then .next (s.deferOps q).startOps
      else
        match q.ops.findSome? s.arrivalHeld with
        | some i => .next (s.modCompl fun q => { q with heldArrival := some i })
        | none => .next s.startOps

/-- The snapshot of R52 and R138. -/
def Core.capture (c : Core) (next : Nat) : Snapshot :=
  { next := next, sa := (List.range 5).foldl (fun t k => tput 0 t k (tget 0 c.regs.sa k)) [], fl := c.fpsf.or c.dueFl,
    mxc := c.mxc.add c.dueCnt }

/-- Every operation has performed: the snapshot, and what follows it (R52, R144, R185, R386). -/
def State.finishCompl (s : State) (q : Completion) : State :=
  let lin := s.cur
  let i := s.curTask
  let s := s.onCore fun c => { c with snap := c.capture q.next, loops := [] }
  let s := s.clearNext i
  match q.ask with
  | .tend => s.modCompl fun q => { q with performing := false }
  | .yield => s.startLeave lin .ready 0 0 (q.bseq + 1)
  | .suspend kind obj addr => s.startLeave lin (.suspended kind obj addr) 0 0 (q.bseq + 1)
  | .none =>
    match q.trap with
    | some (code, a0, a1, a2, slot) => s.trapTaken lin q.baddr (slotMask slot) code a0 a1 a2
    | none =>
      if s.core.preq.isSome && (s.heldSets i).isEmpty then s.startLeave lin .ready 0 0 (q.bseq + 1)
      else s.onCore fun c => { c with compl := none }

/-! ### Operations that stand in no queue (R155, R110, R166, R362, R419) -/

/-- An operation of the hub, a controller or the fabric die that may perform now: the first of its core, its bundle past its last fault check
(R49). -/
def Core.hubEntry (c : Core) : Option MqEntry :=
  match (c.mq.filter fun e => e.offQueue).head? with
  | some e => if (e.st == .slice || e.st == .ready) && c.bundleSafe e then some e else none
  | none => none

/-- It performs. -/
def State.performHub (s : State) (lin : Nat) (e : MqEntry) : State :=
  match e.instr with
  | .fnew x => s.performFnew lin e x
  | .ftest x => s.performFtest lin e x
  | .ffree _ => s.performFfree lin e
  | .bari _ => s.performBari lin e
  | .migr x => s.performMigr lin e (x.sub.toNat == 1)
  | .qpeek x => s.performQpeek lin e x
  | .wopen x => s.performWopen lin e x
  | .wclose x => s.performWclose lin e x
  | .lstat x => s.performLstat lin e x
  | _ => s

/-- It performs unless another slot of its bundle will then fault (R49). -/
def State.runHub (s : State) (lin : Nat) (e : MqEntry) : State :=
  let t := s.performHub lin e
  if (t.coreAt lin).leave.isSome || (t.coreAt lin).task.isNone then t
  else
    match s.otherFault lin e t with
    | some (o, code, a) => s.entryFatal lin o code a 0
    | none => t

/-! ### After every step -/

/-- The bundle or the completion step of the core in focus goes on once its slots have acted. -/
def State.settleCore (s : State) : State :=
  if s.slots != [] then s
  else
    let s := if s.core.iss.isSome then s.closeIssue else s
    match s.core.compl with
    | some q => if q.performing && q.ops.isEmpty && !q.committing then s.finishCompl q else s
    | none => s

/-- What follows every step at once: the bundle's close, WAITFs (R107), status blocks (R125), retiring pairs (R29). -/
def State.settle (s : State) : State := (s.settleCore.settleQueues.flushAll).settlePairs

end Sys2Proof.Machine
end

