-- ==== Sys2Proof/Machine/Desc.lean ====
section
/-!
DEFINITION. Machine/Desc.lean: FDSET and FDGET (R224, R225).
-/
namespace Sys2Proof.Machine

/-- FDSET (R224): bits [7] and [31:25] are cleared; the value is visible as an SALU result. -/
def execFdset (x : OpA) (s : State) : Res :=
  s.slotRun (.fdset x) fun s =>
    let v := (s.core.src .b x.a).extractLsb' 0 32 &&& 0x01FFFF7F#32
    s.result (.fdset x) .b [] [.fd x.md.toNat v] .none {} {}

/-- FDGET (R225): visible 2 cycles after issue; a reader before then freezes. -/
def execFdget (x : OpA) (s : State) : Res :=
  s.slotRun (.fdget x) fun s =>
    let v : Word := (s.core.fdValue (x.md.extractLsb' 0 4).toNat).zeroExtend 64
    s.flightOf 7 .b (2, 0) false [x.d] (destWrites .b x.d v) (.word v) {} {}

end Sys2Proof.Machine
end

