-- ==== Sys2Proof/Machine/Matrix.lean ====
section
/-!
DEFINITION. Machine/Matrix.lean: the matrix unit (R264 to R278): SLLD, MMA, MMAZ.
-/
namespace Sys2Proof.Machine

/-- SLLD (R267): columns 0 to N of the latch. -/
def execSlld (x : OpL) (s : State) : Res :=
  s.slotRun (.slld x) fun s =>
    let rows := (s.core.lsRows (.slld x)).map s.lsRow
    let latch : StatLatch := (rows.zip (List.range 16)).foldl (fun t p => tput MatRow.zero t p.2 p.1) []
    s.result (.slld x) .b [x.v]
      (match x.v with
        | .sl n => [.sl n.val (x.n.toNat + 1) latch]
        | _ => []) .none {} {}

/-- The value of the latest step in flight that writes quarter q of vb n (R272). -/
def Core.chainVec (c : Core) (n q : Nat) : Option VecReg :=
  c.pend.foldl (fun best p =>
    if p.chain then
      p.writes.foldl (fun best w =>
        match w with
        | .vec .b m v mask => if m = n ∧ mask = quarterMask q then some v else best
        | _ => best) best
    else best) none

/-- AccIn(D, Q) (R272): element (r, c) of the quarter. -/
def Core.accIn (c : Core) (d : Opnd) (q : Nat) : Nat → Nat → Nat :=
  match d with
  | .vreg n =>
    let v := (c.chainVec n.val q).getD (c.regs.vector .b n.val)
    fun r col => vecCont v r (16 * q + col)
  | _ => fun _ _ => 0

/-- The mask word of a step (R270). -/
def Core.stepMask (c : Core) (m : Opnd) : MmaMask :=
  match m with
  | .nil => MmaMask.full
  | o => MmaMask.ofWord (c.src .b o)

/-- One step (R271): `z` for MMAZ. -/
def State.matStep (s : State) (i : Instr) (x : OpMma) (z : Bool) : State :=
  let c := s.core
  let q := x.q.toNat
  let rows := (c.lsRows i).map s.lsRow
  let latch := tget ([] : StatLatch) c.regs.sl x.l.val
  let out := mmaStep z (FpEnv.ofFpcr c.fpcr).cn (c.fmt x.fa) (c.fmt x.fb) (c.stepMask x.m) (c.accIn x.d q)
    (fun r => rows.getD r MatRow.zero) (fun k => tget MatRow.zero latch k)
  s.result i .b [x.d]
    (match x.d with
      | .vreg n => [.vec .b n.val (quarterVec q out.codes) (quarterMask q)]
      | _ => [])
    (.wide (quarterVec 0 out.codes) (BitVec.allOnes 32768)) out.fl out.cnt

/-- The ramp limiter counts every step that issues (R57, R277). -/
def State.countStep (s : State) : State := s.onCore fun c => { c with cnt := { c.cnt with cur := c.cnt.cur + 1 } }

/-- MMA (R271). -/
def execMma (x : OpMma) (s : State) : Res := s.slotRun (.mma x) fun s => (s.matStep (.mma x) x false).countStep

/-- MMAZ (R271). -/
def execMmaz (x : OpMma) (s : State) : Res := s.slotRun (.mmaz x) fun s => (s.matStep (.mmaz x) x true).countStep

end Sys2Proof.Machine
end

