-- ==== Sys2Proof/Machine/Scalar.lean ====
section
/-!
DEFINITION. Machine/Scalar.lean: the S class (R226 to R249): integer, logic, bit-field, compare, select, crossing and
floating-point instructions.
-/
namespace Sys2Proof.Machine

/-- Signedness and width of an integer type (R198). -/
def intShape : Ty → Bool × Nat
  | .i64 => (true, 64)
  | .n64 => (false, 64)
  | .i32 => (true, 32)
  | .n32 => (false, 32)
  | .i16 => (true, 16)
  | .n16 => (false, 16)
  | .i8 => (true, 8)
  | .n8 => (false, 8)
  | _ => (true, 64)

/-- The value of an integer instruction: the n-bit result extended by the signedness of its type (R228). -/
def Core.intValue (c : Core) (x : OpA) (sg : Bool) (f : Nat → Word → Word → Word → Int) : Word :=
  let n := (intShape x.ty).2
  extendTo64 sg n (f n (c.src x.cl x.a) (c.src x.cl x.b) (c.src x.cl x.c))

/-- An integer instruction: reads at issue, one scalar result, no flag (R228, R230). -/
def State.intOp (s : State) (i : Instr) (x : OpA) (sg : Bool) (f : Nat → Word → Word → Word → Int) : Res :=
  s.slotRun i fun s => s.scalarResult i x.cl x.d (s.core.intValue x sg f) {} {}

/-- A 64-bit operation on the three sources. -/
def State.wordOp (s : State) (i : Instr) (x : OpA) (f : Word → Word → Word → Word) : Res :=
  s.slotRun i fun s =>
    s.scalarResult i x.cl x.d (f (s.core.src x.cl x.a) (s.core.src x.cl x.b) (s.core.src x.cl x.c)) {} {}

/-- A form-I operation on A and the immediate (R237). -/
def State.immOp (s : State) (i : Instr) (x : OpI) (f : Word → BitVec 32 → Word) : Res :=
  s.slotRun i fun s => s.scalarResult i x.cl x.d (f (s.core.src x.cl x.a) x.imm) {} {}

/-- ADD (R231). -/
def execAdd (x : OpA) (s : State) : Res := s.intOp (.add x) x (intShape x.ty).1 fun n a b _ => aluAdd n a b

/-- SUB (R231). -/
def execSub (x : OpA) (s : State) : Res := s.intOp (.sub x) x (intShape x.ty).1 fun n a b _ => aluSub n a b

/-- MUL (R231). -/
def execMul (x : OpA) (s : State) : Res := s.intOp (.mul x) x (intShape x.ty).1 fun n a b _ => aluMul n a b

/-- MULH (R231). -/
def execMulh (x : OpA) (s : State) : Res := s.intOp (.mulh x) x true fun n a b _ => aluMulHigh true n a b

/-- MULHN (R231). -/
def execMulhn (x : OpA) (s : State) : Res := s.intOp (.mulhn x) x false fun n a b _ => aluMulHigh false n a b

/-- DIV (R231). -/
def execDiv (x : OpA) (s : State) : Res := s.intOp (.div x) x true fun n a b _ => aluDiv true n a b

/-- DIVN (R231). -/
def execDivn (x : OpA) (s : State) : Res := s.intOp (.divn x) x false fun n a b _ => aluDiv false n a b

/-- REM (R231). -/
def execRem (x : OpA) (s : State) : Res := s.intOp (.rem x) x true fun n a b _ => aluRem true n a b

/-- REMN (R231). -/
def execRemn (x : OpA) (s : State) : Res := s.intOp (.remn x) x false fun n a b _ => aluRem false n a b

/-- MIN (R231). -/
def execMin (x : OpA) (s : State) : Res := s.intOp (.min x) x true fun n a b _ => aluMin true n a b

/-- MAX (R231). -/
def execMax (x : OpA) (s : State) : Res := s.intOp (.max x) x true fun n a b _ => aluMax true n a b

/-- MINN (R231). -/
def execMinn (x : OpA) (s : State) : Res := s.intOp (.minn x) x false fun n a b _ => aluMin false n a b

/-- MAXN (R231). -/
def execMaxn (x : OpA) (s : State) : Res := s.intOp (.maxn x) x false fun n a b _ => aluMax false n a b

/-- ABS (R231). -/
def execAbs (x : OpA) (s : State) : Res := s.intOp (.abs x) x (intShape x.ty).1 fun n a _ _ => aluAbs n a

/-- MAD (R231). -/
def execMad (x : OpA) (s : State) : Res := s.intOp (.mad x) x (intShape x.ty).1 fun n a b c => aluMad n a b c

/-- AND (R232). -/
def execAnd (x : OpA) (s : State) : Res := s.intOp (.and x) x (intShape x.ty).1 fun n a b _ => aluAnd n a b

/-- OR (R232). -/
def execOr (x : OpA) (s : State) : Res := s.intOp (.or x) x (intShape x.ty).1 fun n a b _ => aluOr n a b

/-- XOR (R232). -/
def execXor (x : OpA) (s : State) : Res := s.intOp (.xor x) x (intShape x.ty).1 fun n a b _ => aluXor n a b

/-- ANDN (R232). -/
def execAndn (x : OpA) (s : State) : Res := s.intOp (.andn x) x (intShape x.ty).1 fun n a b _ => aluAndn n a b

/-- ORN (R232). -/
def execOrn (x : OpA) (s : State) : Res := s.intOp (.orn x) x (intShape x.ty).1 fun n a b _ => aluOrn n a b

/-- SHL (R232). -/
def execShl (x : OpA) (s : State) : Res := s.intOp (.shl x) x (intShape x.ty).1 fun n a b _ => aluShl n a b

/-- SHR (R232). -/
def execShr (x : OpA) (s : State) : Res := s.intOp (.shr x) x (intShape x.ty).1 fun n a b _ => aluShr n a b

/-- SAR (R232). -/
def execSar (x : OpA) (s : State) : Res := s.intOp (.sar x) x (intShape x.ty).1 fun n a b _ => aluSar n a b

/-- ROL (R232). -/
def execRol (x : OpA) (s : State) : Res := s.intOp (.rol x) x (intShape x.ty).1 fun n a b _ => aluRol n a b

/-- CLZ (R232). -/
def execClz (x : OpA) (s : State) : Res := s.intOp (.clz x) x false fun n a _ _ => (aluClz n a : Nat)

/-- CTZ (R232). -/
def execCtz (x : OpA) (s : State) : Res := s.intOp (.ctz x) x false fun n a _ _ => (aluCtz n a : Nat)

/-- POPC (R232). -/
def execPopc (x : OpA) (s : State) : Res := s.intOp (.popc x) x false fun n a _ _ => (aluPopc n a : Nat)

/-- BFX (R233). -/
def execBfx (x : OpA) (s : State) : Res := s.wordOp (.bfx x) x fun a b c => aluBfx (intShape x.ty).1 a b c

/-- BFI (R234). -/
def execBfi (x : OpA) (s : State) : Res := s.wordOp (.bfi x) x fun a b c => aluBfi x.md.toNat a b c

/-- SEXT (R235). -/
def execSext (x : OpA) (s : State) : Res := s.wordOp (.sext x) x fun a b _ => aluSext a b

/-- LEA (R236). -/
def execLea (x : OpA) (s : State) : Res := s.wordOp (.lea x) x fun a b c => aluLea (x.md.extractLsb' 0 3).toNat a b c

/-- SEL (R241). -/
def execSel (x : OpA) (s : State) : Res := s.wordOp (.sel x) x fun a b c => if c != 0 then a else b

/-- CMP (R238). -/
def execCmp (x : OpA) (s : State) : Res := s.wordOp (.cmp x) x fun a b _ => boolWord (intCond x.sub.toNat (intShape x.ty).2 a b)

/-- PLOG (R240). -/
def execPlog (x : OpA) (s : State) : Res := s.wordOp (.plog x) x fun a b _ => boolWord (plogOp x.sub.toNat (a != 0) (b != 0))

/-- ADDI (R237). -/
def execAddi (x : OpI) (s : State) : Res := s.immOp (.addi x) x fun a imm => a + imm.signExtend 64

/-- MOVI (R237). -/
def execMovi (x : OpI) (s : State) : Res := s.immOp (.movi x) x fun _ imm => imm.signExtend 64

/-- MOVH (R237). -/
def execMovh (x : OpI) (s : State) : Res := s.immOp (.movh x) x fun a imm => imm ++ a.extractLsb' 0 32

/-- CMPI (R239). -/
def execCmpi (x : OpI) (s : State) : Res := s.immOp (.cmpi x) x fun a imm => boolWord (immCond x.isub.toNat a imm)

/-- The other cluster (R242). -/
def Cluster.other : Cluster → Cluster
  | .a => .b
  | .b => .a

/-- XCL (R242). -/
def execXcl (x : OpA) (s : State) : Res :=
  s.slotRun (.xcl x) fun s => s.scalarResult (.xcl x) x.cl x.d (s.core.src (Cluster.other x.cl) x.a) {} {}
/-- XCP (R242). -/
def execXcp (x : OpA) (s : State) : Res :=
  s.slotRun (.xcp x) fun s => s.scalarResult (.xcp x) x.cl x.d (s.core.src (Cluster.other x.cl) x.a) {} {}

/-! ### Floating point (R243) -/

/-- The environment an instruction captures at issue (R212). -/
def Core.env (c : Core) : FpEnv := FpEnv.ofFpcr c.fpcr

/-- A floating-point instruction on codes of its type: the result code fills the low bits of D (R243). -/
def State.fpOp (s : State) (i : Instr) (x : OpA) (uses : Nat)
    (f : StdFmt → FpEnv → Nat → Nat → Nat → Nat × FpFlags) : Res :=
  s.slotRun i fun s =>
    let c := s.core
    let t := stdOf x.ty
    let a := c.fsrc x.cl t x.a
    let b := c.fsrc x.cl t x.b
    let d := c.fsrc x.cl t x.c
    let r := f t c.env a b d
    let cnt := fpCounts (([a, b, d].take uses).map fun v => t.decode c.env.daz v)
    s.scalarResult i x.cl x.d (BitVec.ofNat 64 r.1) r.2 cnt

/-- FADD (R244). -/
def execFadd (x : OpA) (s : State) : Res := s.fpOp (.fadd x) x 2 fun t e a b _ => fpAdd t e (t.decode e.daz a) (t.decode e.daz b)

/-- FSUB (R244). -/
def execFsub (x : OpA) (s : State) : Res := s.fpOp (.fsub x) x 2 fun t e a b _ => fpSub t e (t.decode e.daz a) (t.decode e.daz b)

/-- FMUL (R244). -/
def execFmul (x : OpA) (s : State) : Res := s.fpOp (.fmul x) x 2 fun t e a b _ => fpMul t e (t.decode e.daz a) (t.decode e.daz b)

/-- FMA (R244). -/
def execFma (x : OpA) (s : State) : Res := s.fpOp (.fma x) x 3 fun t e a b c => fpFma t e (t.decode e.daz a) (t.decode e.daz b) (t.decode e.daz c)

/-- FDIV (R244). -/
def execFdiv (x : OpA) (s : State) : Res := s.fpOp (.fdiv x) x 2 fun t e a b _ => fpDiv t e (t.decode e.daz a) (t.decode e.daz b)

/-- FSQRT (R244). -/
def execFsqrt (x : OpA) (s : State) : Res := s.fpOp (.fsqrt x) x 1 fun t e a _ _ => fpSqrt t e (t.decode e.daz a)

/-- FMIN (R245). -/
def execFmin (x : OpA) (s : State) : Res := s.fpOp (.fmin x) x 2 fun t e a b _ => fpMinMax t e false (t.decode e.daz a) (t.decode e.daz b) a b

/-- FMAX (R245). -/
def execFmax (x : OpA) (s : State) : Res := s.fpOp (.fmax x) x 2 fun t e a b _ => fpMinMax t e true (t.decode e.daz a) (t.decode e.daz b) a b

/-- FCMP (R246). -/
def execFcmp (x : OpA) (s : State) : Res := s.fpOp (.fcmp x) x 2 fun t e a b _ =>
  let r := fpCompare x.sub.toNat (t.decode e.daz a) (t.decode e.daz b)
  ((if r.1 then 1 else 0), r.2)

/-- FCLASS (R248): ignores DAZ, raises nothing. -/
def execFclass (x : OpA) (s : State) : Res :=
  s.slotRun (.fclass x) fun s =>
    let c := s.core
    let v : Nat :=
      match x.ty with
      | .fd k =>
        let d := c.fdValue (k.val + 1)
        if d = 0 then 0 else fpClassNarrow (Desc.ofBits d) (c.src x.cl x.a).toNat
      | t => fpClassStd (stdOf t) (c.fsrc x.cl (stdOf t) x.a)
    s.scalarResult (.fclass x) x.cl x.d (BitVec.ofNat 64 v) {} {}

/-- FSGN (R249). -/
def execFsgn (x : OpA) (s : State) : Res :=
  s.slotRun (.fsgn x) fun s =>
    let c := s.core
    let t := stdOf x.ty
    s.scalarResult (.fsgn x) x.cl x.d
      (BitVec.ofNat 64 (fsgn t x.sub.toNat (c.fsrc x.cl t x.a) (c.fsrc x.cl t x.b))) {} {}

/-- A scalar source read as a type for conversion (R243, R247). -/
def Core.cvtSrc (c : Core) (cl : Cluster) (t : Fmt) (o : Opnd) : Nat :=
  match t with
  | .std f => c.fsrc cl f o
  | _ => (c.src cl o).toNat % 2 ^ t.width

/-- A converted code as the 64-bit value of D (R228, R247). -/
def cvtWord (t : Fmt) (code : Nat) : Word :=
  match t with
  | .int sg n => extendTo64 sg n code
  | _ => BitVec.ofNat 64 code

/-- FCVT (R247): SUB 0 and 2 convert, SUB 1 rounds to integral. A descriptor of value 0 makes a raw copy of the
destination's width (R210). -/
def execFcvt (x : OpA) (s : State) : Res :=
  s.slotRun (.fcvt x) fun s =>
    let c := s.core
    if x.sub = 1 then
      let t := stdOf x.ty
      let v := t.decode c.env.daz (c.fsrc x.cl t x.a)
      let r := fpRint t c.env v
      s.scalarResult (.fcvt x) x.cl x.d (BitVec.ofNat 64 r.1) r.2 (fpCounts [v])
    else
      let dst := c.fmt x.ty
      let src := match decTy (x.md.extractLsb' 0 5) with
        | some t => c.fmt t
        | none => .raw
      let r := convertElem src dst c.env (x.sub == 2) 0 0 (c.cvtSrc x.cl src x.a)
      s.scalarResult (.fcvt x) x.cl x.d (cvtWord dst r.1) r.2.1 r.2.2

end Sys2Proof.Machine
end

