-- ==== Sys2Proof/Machine/Schedule.lean ====
section
/-!
DEFINITION. Machine/Schedule.lean: the tower schedulers (R133 to R135, R143), the start of a task on a core (R33, R97, R98, R318),
groups (R157 to R162, R471), requests on their way (R470), and migration schedules (R357).
-/
namespace Sys2Proof.Machine

/-! ### Who may run where (R133, R161) -/

def towerCores (t : Nat) : List Nat := (List.range 144).map (· + 144 * t)

/-- A core that runs no task, in a pair in service (R29, R134). -/
def State.idleCore (s : State) (lin : Nat) : Bool := (s.coreAt lin).task.isNone && (s.pairAt (pairOf lin)).service == .inService

/-- The tasks RUNNING or bound on a pair. -/
def State.pairUsers (s : State) (p : Nat) : List Nat :=
  s.taskList.filter fun i =>
    ((s.task i).bound.elim false fun l => pairOf l == p) || (coresOfPair p).any fun l => (s.coreAt l).task == some i

/-- The local store of a pair may belong to a launch, by handle: it does, or its owner has no task there (R133). -/
def State.storeFree (s : State) (p h : Nat) : Bool :=
  match (s.pairAt p).owner with
  | none => true
  | some o => o == h || (s.pairUsers p).all fun i => (s.task i).launch != o

/-- The group that reserves a core, or that holds it in its pitch (R162, R471). -/
def State.reservedBy (s : State) (lin : Nat) : Option Nat :=
  (tkeys s.groups).find? fun k =>
    let g := s.group k
    k / 256 == towerOf lin && g.state != .none && (g.reserved.contains lin || g.cores.any fun c => c.2 == lin)

/-- A READY task that the scheduler may pick on its own for a core (R133, R134, R158, R162). A handler task is judged by the LSUSE of the
handler's image, the image it runs, where R133 says only 'a launch with LSUSE = 1' (notes/assumptions/95.md). -/
def State.mayRun (s : State) (lin i : Nat) : Bool :=
  let t := s.task i
  let key := groupKey t.gslot
  t.state == .ready && s.ctxActive t.ctx && t.tower == towerOf lin && (match t.bound with
      | none => true
      | some l => l == lin)
    && (if t.gslot = 65535 then (s.reservedBy lin).isNone else (s.group key).state == .running && t.bound == some lin)
    && (!(s.imageOf i).lsuse || s.storeFree (pairOf lin) t.launch)

/-! ### A task starts on a core -/

/-- The scope an engine operation's future resolves at. -/
def engScope (i : Instr) : Nat :=
  match i with
  | .cpy x => (encScope x.scope).toNat
  | .chase x => (encScope x.scope).toNat
  | .gath x => (encScope x.scope).toNat
  | _ => 0

/-- The old owner's engine writes to a pair's local store are discarded (R98): in the engines, and in the load queues. -/
def State.revokeWrites (s : State) (p h : Nat) : State :=
  let ids := ((s.pairAt p).sb.filter fun e => e.writes).map fun e => e.op
  let s := ((tkeys s.pairs).flatMap fun k => ((s.pairAt k).eng.filter fun o => ids.contains o.id && o.launch == h).map fun o => (k, o)).foldl
    (fun s x => s.endEngine x.1 x.2 (engScope x.2.instr) (x.2.vals.getD 3 0).toNat (.failed stREVOKED)) s
  (s.coreList.flatMap fun l => ((s.coreAt l).mq.filter fun e => isEngine e.instr && ids.contains e.seq).map fun e => (l, e)).foldl
    (fun s x =>
      if ((s.coreAt x.1).task.elim false fun i => (s.task i).launch == h) then
        ((s.resolve (x.2.vals.getD 3 0).toNat (s.ctxOf x.1) (engScope x.2.instr) 0 (.failed stREVOKED)).dropScore x.2.seq).dequeue x.1 x.2.seq
      else s) s

/-- A launch takes a pair's local store for a context (R98). -/
def State.takeStore (s : State) (p h c : Nat) : State :=
  if (s.pairAt p).owner = some h then s
  else
    let s := match (s.pairAt p).owner with
      | some o => s.revokeWrites p o
      | none => s
    let s := if (s.pairAt p).ownerCtx.elim false fun k => k != c then s.zeroPair p else s
    s.modPair p fun q => { q with owner := some h, ownerCtx := some c }

/-- STAT at a start (R60, R121). -/
def State.startStat (s : State) (i : Nat) : BitVec 6 :=
  let img := s.imageOf i
  let byte (k : Nat) : Nat := tget 0 img.lat k
  let some_ (p : Nat → Nat → Bool) : Bool := (List.range 26).any fun k => byte k != 0 && p (byte k) (nativeLatency.getD k 1)
  (if some_ fun a b => decide (a < b) then 2 else 0) ||| (if some_ fun a b => decide (b < a) then 4 else 0)

/-- The counters of R46 and R56 to R60 at a start. -/
def Counters.started (n : Counters) (pub : Nat) (stat : BitVec 6) : Counters :=
  { n with limit := pub, pub := pub, step := Config.fwStep, skip := 0, cwcyc := 0, rampcyc := 0, ilck := 0, memw := 0, stat := stat }

/-- A task starts or resumes on an idle core (R33, R97, R131, R318): its first bundle issues at cycle `first`. Nothing of the L1 is
dirty when a task has left, so the acquire leaves the L1 empty; the L1 TLB stays between two tasks of one context. -/
def State.startTask (s : State) (lin i first : Nat) : State :=
  let t := s.task i
  let img := s.imageOf i
  let stat := s.startStat i
  let pub := publishedLimit s.hub.cap s.hub.profile
  (s.modTask i fun t => { t with state := .running }).modCore lin fun c =>
    { c.idle with
      regs := { sa := t.sa, fd := img.fds }, fpcr := img.fpcr, fpsf := t.fpsnap, mxc := {}, pc := t.pc, loops := [], px := false,
      nextIc := c.ic, cnt := c.cnt.started pub stat, task := some i, startAt := first, lastCtx := some t.ctx,
      tlb := if c.lastCtx == some t.ctx then c.tlb else [],
      snap := { next := t.pc, sa := t.sa, fl := t.fpsnap, mxc := {} }, l1 := [] }

/-- The read of a record adds its latency to the 32 cycles of R135 (R472). -/
def State.firstCycle (s : State) : Nat × State := (s.cycle + 32 + Config.choice s.fresh, { s with fresh := s.fresh + 1 })

/-- The picked task starts (R134, R135). -/
def State.startPicked (s : State) (lin i : Nat) : State :=
  let p := pairOf lin
  let s := if (s.imageOf i).lsuse then s.takeStore p (s.task i).launch (s.task i).ctx else s
  let wait := if (s.imageOf i).lsuse then (s.pairAt p).zeroUntil else 0
  let (first, s) := s.firstCycle
  s.startTask lin i (max first wait)

/-! ### Groups (R160 to R162, R471) -/

def State.groupImage (s : State) (key : Nat) : Image := (s.groupLaunch key).img
def State.groupCtx (s : State) (key : Nat) : Nat := (s.groupLaunch key).ctx

/-- The core a member would use on a pair, when the pair is eligible (R161). -/
def State.pairCore (s : State) (key p : Nat) : Option Nat :=
  if (s.pairAt p).service != .inService
      || ((s.groupImage key).lsuse && !((s.pairUsers p).all fun i => (s.task i).launch == (s.group key).launch)) then none
  else (coresOfPair p).find? fun l => s.idleCore l && (match s.reservedBy l with
    | none => true
    | some k => k == key)

/-- The start with the fewest ineligible pairs, the lowest of them. -/
def State.bestPitch (s : State) (key : Nat) : Nat → Nat → Option (Nat × Nat) → Option (Nat × Nat)
  | _, 0, best => best
  | start, n + 1, best =>
    let bad := ((s.pitchFrom key start).filter fun p => (s.pairCore key p).isNone).length
    s.bestPitch key (start + 1) n (match best with
      | none => some (bad, start)
      | some b => if bad < b.1 then some (bad, start) else some b)

/-- A waiting group is placed (R161, R162): each member on a core of the pair at its rank's position; with LSUSE every pair of the pitch is
taken. Its barrier is created at its first placement (R164). -/
def State.placeGroup (s : State) (key start : Nat) : State :=
  let g := s.group key
  let ps := s.pitchFrom key start
  let cs := g.members.filterMap fun m => (ps[m.2]?.bind (s.pairCore key)).map fun l => (m.2, l)
  let s := s.lapse key []
  let s := s.modGroup key fun g =>
    { g with state := .placed, pitch := some start, cores := cs, reserved := [],
             bar := if g.bar.expect = 0 then { expect := g.members.length } else g.bar }
  let s := g.members.foldl (fun s m => s.modTask m.1 fun t => { t with bound := (cs.find? fun c => c.1 == m.2).map fun c => c.2 }) s
  if (s.groupImage key).lsuse then ps.foldl (fun s p => s.takeStore p g.launch (s.groupCtx key)) s else s

/-- What a waiting group reserves on one pair, and the cores whose tasks it asks to yield (R471). -/
def State.reserveOn (s : State) (key p : Nat) : List Nat × List Nat :=
  let mine (l : Nat) : Bool := match s.reservedBy l with
    | none => true
    | some k => k == key
  if (s.pairAt p).service != .inService then ([], [])
  else
    let cores := (coresOfPair p).filter mine
    let busy := cores.filter fun l => (s.coreAt l).task.isSome
    let idle := cores.filter fun l => (s.coreAt l).task.isNone
    if (s.groupImage key).lsuse && busy.any (s.foreign key) then (cores, busy.filter (s.foreign key))
    else
      match (idle.find? fun l => (s.group key).reserved.contains l).or idle.head? with
      | some l => ([l], [])
      | none => (cores, busy)

/-- A reservation asks the task of a core to yield, when its priority is lower; a group yields as a whole (R143, R162, R471). -/
def State.askFor (s : State) (key l : Nat) : State :=
  match (s.coreAt l).task with
  | none => s
  | some i =>
    if s.prio (s.task i).launch ≥ s.prio (s.group key).launch then s
    else if (s.task i).gslot ≠ 65535 then s.groupPreempt (groupKey (s.task i).gslot)
    else s.modCore l fun c => c.request s.cycle (.group key)

/-- The pick check of a waiting group (R162, R471). -/
def State.checkGroup (s : State) (key : Nat) : State :=
  let g := s.group key
  if g.state != .waiting || !s.ctxActive (s.groupCtx key) then s
  else
    match s.bestPitch key 0 (73 - (s.groupLaunch key).gsize) none with
    | none => s
    | some (0, start) => s.placeGroup key start
    | some (_, start) =>
      let rs := (s.pitchFrom key start).map (s.reserveOn key)
      let asks := rs.flatMap fun r => r.2
      let s := s.modGroup key fun g => { g with pitch := some start, reserved := rs.flatMap fun r => r.1 }
      asks.foldl (fun s l => s.askFor key l) (s.lapse key asks)

/-- The waiting groups of a tower, in the order of R134: priority, then age. -/
def State.waitingGroups (s : State) (t : Nat) : List Nat :=
  sortBy (fun a b =>
    let pa := s.prio (s.group a).launch
    let pb := s.prio (s.group b).launch
    decide (pa > pb) || (pa == pb && decide ((s.group a).age ≤ (s.group b).age)))
    ((tkeys s.groups).filter fun k => k / 256 == t && (s.group k).state == .waiting)

/-- GROUP_START (R162): the records have arrived; every member that is READY issues its first bundle in one cycle. -/
def execGroupStart (tower slot : Nat) (s : State) : Res :=
  let key := 256 * tower + slot
  let g := s.group key
  if g.state != .placed || !s.ctxActive (s.groupCtx key) || !(g.cores.all fun c => (s.coreAt c.2).task.isNone) then .next s
  else
    let zero := if (s.groupImage key).lsuse then (s.pitch key).map fun p => (s.pairAt p).zeroUntil else []
    let first := zero.foldl max (s.cycle + 32)
    let s := g.members.foldl (fun s m =>
      match (s.task m.1).bound with
      | some l => if (s.task m.1).state == .ready then s.startTask l m.1 first else s
      | none => s) s
    .next (s.modGroup key fun g => { g with state := .running, startAt := first })

/-! ### The pick (R134, R135) -/

/-- A candidate of a pick. -/
inductive Cand where
  | task (i : Nat)
  | group (key : Nat)
  deriving DecidableEq, Repr

/-- Its priority, and its age with a pool index. -/
def State.candPri (s : State) : Cand → Nat
  | .task i => s.prio (s.task i).launch
  | .group k => s.prio (s.group k).launch
def State.candAge (s : State) : Cand → Nat × Nat
  | .task i => ((s.task i).age, i)
  | .group k => ((s.group k).age, ((s.group k).members.map fun m => m.1).foldl min noTask)

def olderCand (a b : Nat × Nat) : Bool := decide (a.1 < b.1) || (a.1 == b.1 && decide (a.2 < b.2))

/-- The candidates of an idle core. -/
def State.cands (s : State) (lin : Nat) : List Cand :=
  ((s.taskList.filter fun i => s.mayRun lin i).map .task) ++
    (if (s.reservedBy lin).isNone then
      ((tkeys s.groups).filter fun k => k / 256 == towerOf lin && (s.group k).state == .requested && s.ctxActive (s.groupCtx k)).map .group
     else [])

/-- The oldest of some candidates. -/
def State.oldestCand (s : State) : List Cand → Option Cand
  | [] => none
  | c :: cs =>
    match s.oldestCand cs with
    | none => some c
    | some d => if olderCand (s.candAge d) (s.candAge c) then some d else some c

/-- The pick of an idle core, the n-th of its tower (R134). -/
def State.pickOf (s : State) (lin n : Nat) : Option Cand :=
  let cs := s.cands lin
  if n % 64 = 0 then s.oldestCand cs
  else
    let p := (cs.map s.candPri).foldl max 0
    s.oldestCand (cs.filter fun c => s.candPri c == p)

/-- The scheduler's pick in this cycle: the lowest idle core that has a candidate. R135 says so of cores that became idle in one cycle; of
others the order is the model's choice (notes/assumptions/95.md). -/
def State.nextPick (s : State) (t : Nat) : Option (Nat × Cand) :=
  (towerCores t).findSome? fun l =>
    if s.idleCore l then (s.pickOf l (tget 0 s.hub.picks t + 1)).map fun c => (l, c) else none

def State.performPick (s : State) (t lin : Nat) (c : Cand) : State :=
  let s := s.modHub fun h => { h with picks := tput 0 h.picks t (tget 0 h.picks t + 1), pickAt := tput 0 h.pickAt t (s.cycle + 1) }
  match c with
  | .task i => s.startPicked lin i
  | .group k => (s.modGroup k fun g => { g with state := .waiting }).checkGroup k

/-! ### Scheduler requests (R143) -/

/-- The running task of a tower that is asked to yield for a waiting one of priority p: the lowest priority, the youngest. -/
def State.yieldVictim (s : State) (t p : Nat) : Option (Nat × Nat) :=
  let vs := (s.runningCores.filter fun l => towerOf l == t && (s.coreAt l).leave.isNone).filterMap fun l =>
    (s.coreAt l).task.bind fun i =>
      let k := s.task i
      if s.prio k.launch < p && (k.gslot == 65535 || (s.group (groupKey k.gslot)).state == .running) then some (l, i) else none
  let lo := (vs.map fun v => s.prio (s.task v.2).launch).foldl min 255
  vs.foldl (fun m v =>
    if s.prio (s.task v.2).launch ≠ lo then m
    else
      match m with
      | none => some v
      | some w => if s.older w.2 v.2 then some v else some w) none

/-- A request for the sake of a waiting task. -/
def State.requestFor (s : State) (i l v : Nat) : State :=
  if (s.task v).gslot = 65535 then s.modCore l fun c => c.request s.cycle (.task i)
  else
    let key := groupKey (s.task v).gslot
    let s := s.groupPreempt key
    s.runningCores.foldl (fun s k =>
      if ((s.coreAt k).task.elim false fun j => (s.group key).members.any fun m => m.1 == j) then
        s.modCore k fun c => c.request s.cycle (.task i)
      else s) s

/-- The READY tasks of a tower that no idle core may run each ask for one (R143). -/
def State.starve (s : State) (t : Nat) : State :=
  let ws := s.taskList.filter fun i =>
    let k := s.task i
    k.state == .ready && k.tower == t && k.gslot == 65535 && s.ctxActive k.ctx
      && !((towerCores t).any fun l => s.idleCore l && s.mayRun l i)
  (sortBy (fun a b =>
      let pa := s.prio (s.task a).launch
      let pb := s.prio (s.task b).launch
      decide (pa > pb) || (pa == pb && s.older a b)) ws).foldl (fun s i =>
    if s.runningCores.any fun l => (s.coreAt l).preqBy.contains (.task i) then s
    else
      match s.yieldVictim t (s.prio (s.task i).launch) with
      | none => s
      | some (l, v) => s.requestFor i l v) s

/-- TASK_PICK (R134, R135, R143, R162, R471): the checks of the waiting groups, one pick in a cycle, the requests of starving
tasks. -/
def execTaskPick (tower : Nat) (s : State) : Res :=
  if tower ≥ 8 || decide (s.cycle < tget 0 s.hub.pickAt tower) then .next s
  else
    let s := (s.waitingGroups tower).foldl State.checkGroup s
    let s := match s.nextPick tower with
      | some (l, c) => s.performPick tower l c
      | none => s
    .next (s.starve tower)

/-- A tower has something to pick or check. -/
def State.pickWork (s : State) (t : Nat) : Bool :=
  (s.taskList.any fun i => (s.task i).state == .ready && (s.task i).tower == t) ||
    (tkeys s.groups).any fun k => k / 256 == t && ((s.group k).state == .requested || (s.group k).state == .waiting)

/-! ### Requests on their way (R470) -/

/-- PREEMPT_ARRIVAL (R143, R470): no earlier than the cycle after the decision. -/
def execPreemptArrival (lin : Nat) (s : State) : Res :=
  match (s.coreAt lin).preqIn with
  | none => .next s
  | some k => if s.cycle ≤ k then .next s else .next (s.modCore lin fun c => { c with preqIn := none, preq := some s.cycle })

/-! ### Migration schedules (R357) -/

/-- Schedule number `index` of a context, with its place in the list. -/
def State.schedOf (s : State) (c index : Nat) : Option (Nat × Sched) :=
  (((List.range s.scheds.length).zip s.scheds).filter fun d => d.2.ctx == c)[index]?

/-- The schedule in one place changed, or ended with SCHEDDONE. -/
def State.setSched (s : State) (k : Nat) (d : Sched) : State :=
  if d.index ≥ d.count then ({ s with scheds := s.scheds.eraseIdx k } : State).event evSCHEDDONE (some d.ctx) d.addr d.count
  else { s with scheds := s.scheds.set k d }

/-- An entry handled as a MIGR without a future (R357, R362): its failure raises MIGFAIL. -/
def State.scheduledMigr (s : State) (c va target deadline : Nat) : State :=
  let fail (s : State) (st : Nat) : State := s.event evMIGFAIL (some c) va st
  match s.walk c va with
  | .leaf a _ pte =>
    let r := pteRes pte
    if r = resZERO || r = resLARDER then fail s stNOTMOVABLE
    else if r = resPOISONED then fail s stPOISON
    else if ptePol pte = 2 || pteSize pte != 0 then fail s stPINNED
    else s.requestMig a c va target deadline 0 1
  | .format => fail (s.ctxFault c 2) stNOTMOVABLE
  | .poison => fail (s.ctxFault c 1) stNOTMOVABLE
  | .absent => fail s stNOTMOVABLE

/-- The physical address of a schedule's next entry; none while its page moves or the pantry is empty. -/
def State.schedEntry (s : State) (d : Sched) : Except Stop Nat × State :=
  let va := d.addr + 16 * d.index
  if s.pantryBlocks d.ctx va 16 then (.error .wait, s.pantryEmpty d.ctx va 16)
  else
    match s.agentXlat d.ctx false (agentTower va) 3 va 16 with
    | (.error st, s) => (.error st, s)
    | (.ok xl, s) => (if s.badSectors xl va 16 = [] then .ok (physVia xl va) else .error (.fail stPOISON), s)

/-- SCHEDULE_ENTRY (R357): the next entry of a schedule is due LEAD ticks before its deadline, or with its predecessor; the entry
after it is looked at at once. -/
def execScheduleEntry (c index : Nat) (s : State) : Res :=
  match s.schedOf c index with
  | none => .next s
  | some (k, d) =>
    if d.index ≥ d.count then .next (s.setSched k d)
    else
      match s.schedEntry d with
      | (.error (.fail st), s) =>
        .next (((s.event evMIGFAIL (some c) (d.addr + 16 * d.index) st).setSched k { d with index := d.index + 1 }).plan [.scheduleEntry c index])
      | (.error _, s) => .next s
      | (.ok pa, s) =>
        let w0 := s.readWord pa
        let dl := bitsOf (s.readWord (pa + 8)) 0 48
        if dl != 0 && decide (d.last ≤ dl) && decide (s.tick + s.hub.lead < dl) then .next s
        else
          let target := if bitsOf w0 0 1 = 1 then 8 else bitsOf w0 57 3
          .next (((s.scheduledMigr c (bitsOf w0 16 41 * 2 ^ 16) target dl).setSched k { d with index := d.index + 1, last := dl }).plan
            [.scheduleEntry c index])

end Sys2Proof.Machine
end

