-- ==== Sys2Proof/Machine/Tick.lean ====
section
/-!
DEFINITION. Machine/Tick.lean: what happens between the instructions (R38, R192, R396, R472): the steps whose time the spec leaves
open, each chosen by a free value, and the advance of the clock with the steps that fall due in the new cycle.
-/
namespace Sys2Proof.Machine

/-! ### Steps whose time is open (R472) -/

/-- A step that may happen in this cycle: a row of the opcode table, the arrival of a non-temporal store at its slice (R325), an
operation of the hub that stands in no queue, the boot ROM's next step, an upset of a byte of memory (R20). -/
inductive Event where
  | run (i : Instr)
  | ntArrive (lin k : Nat)
  | hub (lin : Nat) (e : MqEntry)
  | boot
  | upset

def onIf {α : Type} (c : Bool) (l : List α) : List α := if c then l else []

/-- A completion step that waits for nobody: nothing to perform but a trap or a yield (R52). -/
def Completion.plain (q : Completion) : Bool :=
  q.ask == .none && q.ops.all fun h => match h.instr with
    | .trap _ | .yield _ => true
    | _ => false

/-- Of one entry of a core's queues. -/
def entryEvents (lin : Nat) (e : MqEntry) : List Event :=
  match e.st with
  | .walk => [.run (.translationComplete lin e.seq)]
  | .sets _ => [.run (.setRequest lin e.seq)]
  | _ => []

/-- Of one core that runs a task. -/
def State.coreEvents (s : State) (lin : Nat) : List Event :=
  let c := s.coreAt lin
  c.mq.flatMap (entryEvents lin)
    ++ onIf (c.headOf false).isSome [.run (.queuePerform lin false)]
    ++ onIf (c.headOf true).isSome [.run (.queuePerform lin true)]
    ++ onIf (c.fifoLines != 0 || c.idleMarkers != []) [.run (.dirtyLineWriteback lin)]
    ++ ((List.range c.nt.length).filter (ntFree c.nt)).map (fun k => .ntArrive lin k)
    ++ onIf (c.woundIn.any fun w => decide (w.1 < s.cycle)) [.run (.woundArrival lin)]
    ++ onIf (c.preqIn.any fun k => decide (k < s.cycle)) [.run (.preemptArrival lin)]
    ++ onIf (c.compl.any fun q => !q.performing && !q.plain) [.run (.quiescentCompletion lin)]
    ++ (c.hubEntry.toList.map fun e => .hub lin e)

/-- Of one page. -/
def State.pageEvents (s : State) (a : Nat) : List Event :=
  let p := s.page a
  onIf (s.migReady a) [.run (.migrationStart a)]
    ++ onIf (p.mig.isSome && (s.res a == resPROMOTING || s.res a == resDEMOTING)) [.run (.migrationComplete a)]
    ++ onIf (s.atController a != []) [.run (.logAppend a)]
    ++ onIf p.app.isSome [.run (.logApplyComplete a)]

/-- The pages that a controller has a record of, and those with an AMON at their controller (R365). -/
def State.pageKeys (s : State) : List Nat :=
  sortNat (tkeys s.pages ++ s.coreList.flatMap fun l =>
    ((s.coreAt l).mq.filter fun e => (e.st == .slice || e.st.queued) && e.atomic).flatMap fun e => e.xl.map fun x => x.leaf)

/-- The completion of an engine operation. -/
def engineEvent (o : EngOp) : List Event :=
  match o.instr with
  | .cpy _ => [.run (.cpyComplete o.id)]
  | .chase _ => [.run (.chaseComplete o.id)]
  | .gath _ => [.run (.gathComplete o.id)]
  | _ => []

/-- Of one plane. -/
def State.planeEvents (s : State) (p : Plane) : List Event :=
  let q := s.plane p
  ((q.sends.filter fun d => !d.read || d.failed.isSome || (d.multi && d.answered)).map fun d => .run (.sendSourceRead d.id))
    ++ ((q.camps.filter fun c => c.2.pitches.any fun x => x.write).map fun c => .run (.flitWrite p c.1))
    ++ (((List.range q.notices.length).zip q.notices).filter fun n => s.noticeReady n.2).map (fun n => .run (.noticeApply p n.1))
    ++ onIf q.loading.isSome [.run (.slottabLoadReady p)]
    ++ onIf s.hub.lock
        ((tkeys q.calib).filter (fun k => s.measured p (residueTo s.hub.peer p k)) |>.map fun k => .run (.calibrationComplete p k))

/-- Of one launch. -/
def State.launchEvents (s : State) (slot : Nat) : List Event :=
  let l := s.launchOf slot
  onIf (l.state == .loaded) [.run (.launchAccept slot)]
    ++ onIf (l.state == .quiet) [.run (.launchComplete slot)]
    ++ onIf (l.state == .draining && l.abort) [.run (.launchAbortDrainComplete slot)]
    ++ onIf (l.img.fpol == 1 && l.handling.isNone && s.faultsOf slot != []) [.run (.handlerStart slot)]

/-- The step that takes the record at the head of a queue (R105). -/
def recordStep (q : Nat) (w : List Nat) : Instr :=
  match recKind w with
  | 0 => .nopRecord q
  | 1 => .launch q
  | 2 => .glaunch q
  | 3 => .signal q
  | 4 => .waitf q
  | 5 => .migsched q
  | 6 => if recMode w = 0 then .slottabLoad q else .slottabSwitch q
  | 7 => .mcgroup q
  | _ => .reservedRecord q

/-- Of the queues (R104, R130). -/
def State.queueEvents (s : State) : List Event :=
  let go := (tkeys s.queues).filter s.canTake
  go.map (fun q => .run (recordStep q (s.record q)))
    ++ onIf (go != [] && s.taskList == [] && decide (maxStick < s.nextStick)) [.run .ageRebase]

/-- Of the contexts (R96). -/
def State.ctxEvents (s : State) : List Event :=
  (tkeys s.ctxs).flatMap fun c => onIf ((s.ctx c).state == .destroyed) [.run (.teardownComplete c)]
/-- A context whose drain is complete in this cycle (R93, R94). -/
def State.drainDue (s : State) : Option Nat :=
  (tkeys s.ctxs).find? fun c =>
    let x := s.ctx c
    (x.state == .quiescing || x.state == .faulted) && !x.drained && s.ctxIdle c

/-- Of the page window (R446). -/
def State.windowEvents (s : State) : List Event :=
  match s.hub.pwCmd with
  | none => []
  | some q =>
    match q.op with
    | 1 => [.run (.map q.ctx)]
    | 2 => [.run (.unmap q.ctx)]
    | 3 => [.run (.chmod q.ctx)]
    | 4 => [.run (.remap q.ctx)]
    | _ => [.run (.pantry q.tower q.entry)]

/-- Every step that may happen now. -/
def State.events (s : State) : List Event :=
  s.runningCores.flatMap s.coreEvents
    ++ s.pageKeys.flatMap s.pageEvents
    ++ ((tkeys s.pairs).flatMap fun p => ((s.pairAt p).eng.filter s.engReady).flatMap engineEvent)
    ++ s.planeEvents .x ++ s.planeEvents .y
    ++ (tkeys s.launches).flatMap s.launchEvents
    ++ s.queueEvents ++ s.ctxEvents ++ s.windowEvents
    ++ ((tkeys s.groups).filter (fun k => (s.group k).state == .placed)).map (fun k => .run (.groupStart (k / 256) (k % 256)))
    ++ onIf (s.hub.boot == .rom || s.hub.boot == .verify) [.boot]
    ++ [.upset]

/-- A byte of device memory changes by itself (R18 to R20): its sector's check no longer matches, which the next verification of
the sector finds. -/
def State.upset (s : State) : State :=
  let (a, s) := s.draw larderBase
  let (v, s) := s.draw 256
  if tget 0 s.mem a = BitVec.ofNat 8 v then s
  else { s with mem := tput 0 s.mem a (BitVec.ofNat 8 v), badCheck := tput false s.badCheck (a / 32) true }

/-- The chosen step happens: a row of the table as the next instruction, another at once. -/
def State.happen (s : State) : Event → State
  | .run i => { s with agenda := [i] }
  | .ntArrive lin k => s.ntArrive lin k
  | .hub lin e => s.runHub lin e
  | .boot => s.bootStep
  | .upset => s.upset

/-! ### The order of what performs in one cycle (R153, R166, R349, R387) -/

/-- The future a handle names, as an object whose events are ordered. -/
def futObj (h : Nat) : List (Nat × Nat × Nat) := if h % 2 ^ 32 = 0 then [] else [(2, futIndex (h % 2 ^ 32), 0)]

/-- Rank of a request for a set, in age order (R387). -/
def State.requestRank (s : State) (i : Nat) : Nat := 2 + (s.task i).age * 2 ^ 24 + i
/-- Rank of an ASDECL, the last of a cycle (R387). -/
def lastRank : Nat := 2 ^ 128

/-- The barrier an id names for a task, ranked by its core (R166). -/
def State.barObj (s : State) (lin i id : Nat) : List (Nat × Nat × Nat) :=
  match s.barRef i id with
  | some (.device k) => [(7, k, lin)]
  | some (.pod k) => [(7, 4096 + k, lin)]
  | some (.group k) => [(7, 8192 + k, lin)]
  | none => []

/-- A window as an object: its closes come before flits and NOTICEs of the same cycle (R412). -/
def windowMark (e : Nat) : Nat := 2 ^ 40 + e

/-- Objects of an operation of a completion step of a core's task. -/
def State.heldObjects (s : State) (lin i : Nat) (h : HeldOp) : List (Nat × Nat × Nat) :=
  match h.instr with
  | .fset _ | .ffail _ => futObj (h.vals.getD 0 0).toNat
  | .bara _ | .barx _ | .pbara _ => s.barObj lin i (barId (h.vals.getD 0 0))
  | _ => []

/-- The objects on which a step performs an event, each with its kind (1 a page, 2 a future, 3 a set, 7 a barrier, a window or the search units) and the event's rank among those of
one cycle. -/
def State.objects (s : State) : Event → List (Nat × Nat × Nat)
  | .run (.logAppend a) => [(1, a, 4)]
  | .run (.logApplyComplete a) => (1, a, 4) :: ((s.page a).app.elim [] fun q => q.2.2).flatMap futObj
  | .run (.migrationStart a) => [(1, a, 6)]
  | .run (.migrationComplete a) => (1, a, 6) :: ((s.page a).mig.elim [] fun m => m.futs).flatMap futObj
  | .run (.map c) => ((s.entryAt c s.pwVa s.pwLevel).1).toList.map fun a => (1, a, 1)
  | .run (.unmap c) => ((s.entryAt c s.pwVa s.pwLevel).1).toList.map fun a => (1, a, 1)
  | .run (.chmod c) => ((s.entryAt c s.pwVa s.pwLevel).1).toList.map fun a => (1, a, 1)
  | .run (.remap c) => ((s.entryAt c s.pwVa s.pwLevel).1).toList.map fun a => (1, a, 1)
  | .run (.cpyComplete id) | .run (.chaseComplete id) | .run (.gathComplete id) =>
    (s.engine id).elim [] fun q => futObj (q.2.vals.getD 3 0).toNat
  | .run (.noticeApply p n) => (((s.plane p).notices[n]?).elim [] fun m => (7, windowMark m.win, 1) :: futObj (s.window m.win).fut)
  | .run (.flitWrite p k) =>
    (((s.plane p).camp k).pitches.find? fun q => q.write || q.fanWait).elim [] fun q => [(7, windowMark q.flit.win, 1)]
  | .run (.teardownComplete c) => ((List.range 256).filter fun e => (s.window e).ctx == c).map fun e => (7, windowMark e, 0)
  | .run (.signal q) => futObj (recHandle (s.record q))
  | .run (.launchComplete k) => futObj (s.launchOf k).donef
  | .hub lin e =>
    match e.instr with
    | .fnew _ => futObj (s.allocFuture (s.ctxOf lin)).1
    | .ffree _ => futObj (e.vals.getD 0 0).toNat
    | .bari _ => s.barObj lin ((s.coreAt lin).task.getD 0) (barId (e.vals.getD 0 0))
    | .wclose _ => [(7, windowMark ((e.vals.getD 0 0).toNat % 256), 0)]
    | _ => []
  | .run (.quiescentCompletion lin) =>
    match (s.coreAt lin).compl, (s.coreAt lin).task with
    | some q, some i =>
      if q.ask == .tend then
        (if q.committing then
          (match q.ops with
            | [] => (s.heldSets i).map fun k => (3, k, 0)
            | h :: _ => s.heldObjects lin i h)
         else [])
      else if (s.heldSets i).isEmpty then (q.ops.flatMap (s.heldObjects lin i)).eraseDups
      else []
    | _, _ => []
  | .run (.translationComplete lin seq) =>
    (s.entry lin seq).elim [] fun e => match e.instr with
      | .hnear _ => [(7, searchMark, lin)]
      | _ => []
  | .run (.woundArrival lin) => ((s.coreAt lin).task.elim [] fun i => (s.heldSets i).map fun k => (3, k, 0))
  | .run (.setRequest lin seq) =>
    match s.entry lin seq, (s.coreAt lin).task with
    | some e, some i => ((s.wanted i (s.ctxOf lin) e).head?).toList.map fun x => (3, s.ctxOf lin * 4096 + x, s.requestRank i)
    | _, _ => []
  | .run (.queuePerform lin store) =>
    match (s.coreAt lin).headOf store with
    | some e =>
      let key (id : Nat) : Nat := s.ctxOf lin * 4096 + id % 4096
      match e.instr with
      | .asdrop _ => [(3, key (e.vals.getD 0 0).toNat, 1)]
      | .asdecl _ =>
        let w := (s.declare (s.ctxOf lin) (e.vals.getD 0 0).toNat ((e.vals.getD 1 0).toNat / 128)).1.toNat
        if w < 2 ^ 32 then [(3, key w, lastRank)] else []
      | _ => []
    | none => []
  | _ => []

/-- A page and a future take one event in a cycle, in the order of their ranks, which the time of each event's arrival leaves open; a set,
a barrier, a window and the search units take those of one cycle by rising rank. -/
def State.mayNow (s : State) (e : Event) : Bool :=
  (s.objects e).all fun o => if o.1 = 3 || o.1 = 7 then decide (s.rankOf o.1 o.2.1 ≤ o.2.2 + 1) else s.rankOf o.1 o.2.1 == 0

/-- The step's events stand for this cycle. -/
def State.note (s : State) (e : Event) : State := (s.objects e).foldl (fun s o => s.rank o.1 o.2.1 o.2.2) s

/-! ### The close of a cycle (R38, R44 to R46, R217) -/

/-- The cycle of a running core ends: flags and counts of the cycle join FPSF and MXC; a frozen cycle is counted, another advances
the issue count. The cycles of a completion step count as issue cycles, and put the next bundle off (notes/assumptions/12.md). -/
def State.closeCore (s : State) (lin : Nat) : State :=
  let s := s.focus lin
  let c := { s.core with fpsf := s.core.fpsf.or s.core.dueFl, mxc := s.core.mxc.add s.core.dueCnt, dueFl := {}, dueCnt := {}, frozen := false }
  let count (k : Option Nat) : Counters := k.elim c.cnt c.cnt.freeze
  { s with core :=
      if c.leave.isSome then c
      else
        match c.compl with
        | some q =>
          if q.cyc < s.cycle then { c with ic := c.ic + 1, nextIc := c.nextIc + 1, cnt := count (s.complCause q) } else { c with ic := c.ic + 1 }
        | none =>
          if s.core.frozen then c
          else if c.memFrozen then { c with cnt := count (some 3) }
          else { c with ic := c.ic + 1 } }

/-! ### The steps of a peg (R396) -/

/-- A list of steps drawn one by one. -/
def State.drawEach {α : Type} (s : State) (l : List α) (f : State → α → List Instr × State) : List Instr × State :=
  l.foldl (fun r a =>
    let x := f r.2 a
    (r.1 ++ x.1, x.2)) ([], s)

/-- A lock error or a sensor reading: any integer. -/
def State.drawInt (s : State) : Int × State :=
  let n := Config.choice s.fresh
  (if n % 2 = 0 then (n / 2 : Nat) else -((n / 2 + 1 : Nat) : Int), { s with fresh := s.fresh + 1 })

def lineOf (p : Plane) (key : Nat) : LineId := { plane := p, residue := key / 16, band := key % 16 }

/-- Lines whose retune ends at the peg of tick t: relocked or not within 8 slots, then timed out (R428). -/
def State.retunes (s : State) (p : Plane) (t : Nat) : List Instr × State :=
  s.drawEach ((s.plane p).lines.filter fun e => e.2.state == .retuning && !e.2.lantern) fun s e =>
    let (n, s) := s.draw 2
    let late := decide (e.2.since + 8 ≤ t)
    if late && (n = 1 || decide (e.2.since + 8 < t)) then ([.retuneTimeout (lineOf p e.1)], s)
    else if n = 0 then ([.retuneRelock (lineOf p e.1)], s)
    else ([], s)

/-- The standby lantern has taken over by the tick drawn, the latest at its deadline (R434). -/
def State.takeovers (s : State) (p : Plane) (t : Nat) : List Instr × State :=
  match (s.plane p).takeover with
  | none => ([], s)
  | some k =>
    let (n, s) := s.draw 2
    (if n = 0 || decide (k ≤ t) then [.lanternTakeoverComplete p] else [], s)

/-- The ids of repairs whose SWITCH is t (R430). -/
def PlaneSt.switching (q : PlaneSt) (t : Nat) : List Nat :=
  ((q.repS.filter fun r => decide (r.switch ≤ t)).map fun r => r.id)
    ++ ((q.repD.filter fun r => decide (r.switch ≤ t)).map fun r => r.id)
    ++ ((q.repV.toList.filter fun r => decide (r.switch ≤ t)).map fun r => r.id)

/-- What falls due on one plane at the peg that opens tick t, before the slot opens. -/
def State.planePeg (s : State) (p : Plane) (t : Nat) : List Instr × State :=
  let q := s.plane p
  let fixed : List Instr :=
    onIf (q.switchAt.any fun k => decide (k ≤ t)) [.tableSwitchTick p]
      ++ (sortNat (q.switching t)).map Instr.repairSwitch
      ++ (q.bands.filter fun e => e.2.parkAt.any fun k => decide (k ≤ t)).map (fun e => .parkSwitch p e.1)
      ++ (q.bands.filter fun e => e.2.wakeAt.any fun k => decide (k ≤ t)).map (fun e => .wakeSwitch p e.1)
      ++ ((tkeys q.calib).filter fun k => (tget none q.calib k).any fun n => decide (n + calibLimit ≤ t)).map (fun k => .calibrationTimeout p k)
      ++ (q.repV.toList.filter fun v => !v.committed && decide (v.switch ≤ t + 4)).map (fun v => .repairReadyDeadline v.id)
      ++ (q.streams.flatMap fun e =>
          ((e.2.unacked.filter fun u => decide (u.tick + 12 ≤ t)).map fun u => u.tick).eraseDups.map fun n => .ackTimeout p e.1 n)
  let (a, s) := s.retunes p t
  let (b, s) := s.takeovers p t
  (fixed ++ a ++ b, s)

/-- The locker checks of a plane's lines at tick t (R428): a check finds whether its line is lit. -/
def State.checks (s : State) (p : Plane) (t : Nat) : List Instr × State :=
  s.drawEach ((s.plane p).lines.filter fun e => t % 16 == (e.1 / 16 + 2 * (e.1 % 16)) % 16) fun s e =>
    let (v, s) := s.drawInt
    ([.wavelengthCheck (lineOf p e.1) v], s)

/-- The readings of every tile, with its model's values (R455). -/
def State.readings : Nat → State → List (Int × Int) × State
  | 0, s => ([], s)
  | n + 1, s =>
    let (a, s) := s.drawInt
    let (b, s) := s.drawInt
    let (l, s) := State.readings n s
    ((a, b) :: l, s)

/-- Ticks between thermal samples: 100 microseconds (R455). -/
def sampleTicks : Nat := 250

/-- The sample due at tick t. -/
def State.sample (s : State) (t : Nat) : List Instr × State :=
  if t % sampleTicks = 0 then
    let (l, s) := State.readings 384 s
    ([.thermalSample l], s)
  else ([], s)

/-- What falls due once the slot of tick t has opened. -/
def State.afterPeg (s : State) (t : Nat) : List Instr :=
  onIf (t % 1024 == 0) [.powerTrim]
    ++ ([Plane.x, Plane.y].flatMap fun p =>
        let q := s.plane p
        onIf (q.polNext.getD q.pol).autopark ((List.range 8).map fun b => .autoparkIdle p b))
    ++ onIf (t % 2 ^ (s.hub.resNext.elim s.hub.decay fun w => (w.extractLsb' 32 4).toNat) == 0) [.counterDecay]
    ++ (s.scheds.map fun d => d.ctx).eraseDups.flatMap fun c =>
        (List.range (s.scheds.filter fun d => d.ctx == c).length).map fun k => .scheduleEntry c k

/-- Everything due at the peg that opens the next tick, in order. -/
def State.pegPlan (s : State) : List Instr × State :=
  let t := s.tick + 1
  let (x, s) := s.planePeg .x t
  let (y, s) := s.planePeg .y t
  let (cx, s) := s.checks .x t
  let (cy, s) := s.checks .y t
  let (th, s) := s.sample t
  (x ++ y ++ onIf (t % 1024 == 0) [.ticksyncSend] ++ [.peg] ++ cx ++ cy ++ s.afterPeg t ++ th, s)

/-! ### The advance of the clock -/

/-- In RECOVERY only resets, BAR 4 and the control space are answered (R451). -/
def answers (b : Boot) (i : Instr) : Bool :=
  b != .recovery ||
    (match i with
      | .warmReset | .powerOnReset => true
      | .hostAccess a => decide (bar4Base ≤ a.addr)
      | .registerWrite _ _ => true
      | _ => false)

/-- Actions of the host, which reach the device in their order: commands of the future window, writes to memory and reads of it. -/
def futureCmd : Instr → Bool
  | .futureAlloc _ | .futureFree _ | .futureSignal _ => true
  | .registerWrite off _ => off == 0x200800 || off == 0x200808
  | _ => false
def hostWrites : Instr → Bool
  | .hostAccess a => a.bytes.isSome
  | .queueAppend _ _ _ => true
  | _ => false
def hostReads : Instr → Bool
  | .hostAccess a => a.bytes.isNone
  | _ => false
def fromHost (i : Instr) : Bool := futureCmd i || hostWrites i || hostReads i || (match i with
  | .registerWrite _ _ => true
  | _ => false)

/-- The actions of one cycle and those that the next one takes: a second command of the future window (R153), and a read after a write,
since a verification comes before a write of its cycle (R22), wait with what the host does after them. -/
def splitHost : Bool → Bool → List Instr → List Instr × List Instr
  | _, _, [] => ([], [])
  | fut, wr, i :: rest =>
    if (fut && futureCmd i) || (wr && hostReads i) then
      let p := rest.partition fun j => !fromHost j
      (p.1, i :: p.2)
    else
      let r := splitHost (fut || futureCmd i) (wr || hostWrites i) rest
      (i :: r.1, r.2)

/-- Actions of the surroundings that arrive in this cycle: records before commands that arrive with them (R107); and the inputs left. -/
def State.arrivals (s : State) : List Instr × List (Nat × Instr) :=
  let now := ((s.inputs.filter fun i => decide (i.1 ≤ s.cycle)).map fun i => i.2).filter (answers s.hub.boot)
  let r := splitHost false false now
  let isAppend (i : Instr) : Bool := match i with
    | .queueAppend _ _ _ => true
    | _ => false
  ((r.1.filter isAppend) ++ r.1.filter fun i => !isAppend i,
    (r.2.map fun i => (s.cycle + 1, i)) ++ s.inputs.filter fun i => decide (s.cycle < i.1))

/-- The ends of the current and ramp windows that fall in this cycle (R55, R57). -/
def State.windows64 (s : State) : List Instr :=
  let cs := s.coreList.filter fun l =>
    let c := s.coreAt l
    l == s.cur || c.task.isSome || c.cnt.used != 0 || c.cnt.prev != 0 || c.cnt.cur != 0
  onIf (s.cycle % 64 == 0) (cs.map Instr.currentWindowBoundary) ++ onIf (s.cycle % 1024 == 0) (cs.map Instr.rampWindowBoundary)

/-- Requests and wounds that arrive at the latest (R470), and searches whose time has come (R294). -/
def State.latest (s : State) : List Instr :=
  s.runningCores.flatMap fun l =>
    let c := s.coreAt l
    onIf (c.woundIn.any fun w => decide (w.1 + 64 ≤ s.cycle)) [.woundArrival l]
      ++ onIf (c.preqIn.any fun k => decide (k + 64 ≤ s.cycle)) [.preemptArrival l] ++ s.searchDue l

/-- A running core in this cycle: results, the limiter, a completion step that waits for nobody, the next bundle (R38, R48, R52),
unless the fetch unit misses (R175). -/
def State.coreCycle (s : State) (supplied : Bool) (lin : Nat) : List Instr :=
  let c := s.coreAt lin
  let s1 := s.focus lin
  let mayIssue := c.iss.isNone && c.leave.isNone && decide (c.startAt ≤ s.cycle) && decide (c.nextIc ≤ c.ic)
    && (match c.compl with
      | none => true
      | some q => q.plain)
  let stuck := c.memFrozen || c.compl.any fun q => q.stall.any fun x => x.1 == 3
  onIf stuck [.transit lin]
    ++ onIf (!c.pend.isEmpty) [.resultVisible lin]
    ++ onIf (c.compl.any fun q => !q.performing && q.plain) [.quiescentCompletion lin]
    ++ onIf mayIssue [.bundleIssue lin ((s1.fetch.filter fun _ => supplied).getD noBundle)]

/-- The running cores in this cycle. Whether an instruction cache or TLB misses is open (R175, R472). -/
def State.coreCycles (s : State) : List Instr × State :=
  s.drawEach s.runningCores fun s lin =>
    let (n, s) := s.draw 2
    (s.coreCycle (n = 0) lin, s)

/-- Dummy MMAs due in this cycle (R57). -/
def State.dummies (s : State) : List Instr := (s.coreList.filter fun l => (s.coreAt l).dummyDue s.cycle).map Instr.dummyMma

/-- Walkers and schedulers with work in this cycle (R119, R134). -/
def State.towerCycle (s : State) (t : Nat) : List Instr :=
  onIf (decide (tget 0 s.hub.walkAt t ≤ s.cycle) && s.walkerChoices t != []) [.walkerCreate t] ++ onIf (s.pickWork t) [.taskPick t]

/-- Waiting QGETs whose limit has come (R112): the last steps of their cycle, so that a delivery of that cycle prevails. -/
def State.expiries (s : State) : List Instr :=
  (s.taskList.filter fun i => (s.task i).qlimit.any fun k => decide (k ≤ s.cycle)).map Instr.qexpire

/-- Cycles in a tick (R192). -/
def tickCycles : Nat := 680

/-- The next cycle begins: its number, and the steps that fall due in it (notes/assumptions/11.md gives their order). -/
def State.advance (s : State) : State :=
  let s := s.runningCores.foldl State.closeCore s
  let s := { s with cycle := s.cycle + 1, phase := s.phase + 1, outbox := [], marks := [] }
  let s := if s.hub.msixDue && decide (s.hub.msixAt ≤ s.cycle) then s.signal else s
  let (ins, later) := s.arrivals
  let s := { s with inputs := later }
  let (peg, s) := if tickCycles ≤ s.phase then s.pegPlan else ([], s)
  let (cores, s) := s.coreCycles
  { s with agenda := s.windows64 ++ ins ++ s.latest ++ peg ++ s.dummies ++ cores
      ++ (List.range 8).flatMap s.towerCycle }

/-- The cycle ends: with the expiries that fall in it (R112), after which nothing performs in it, and then with the clock. -/
def State.endCycle (s : State) : State :=
  if s.rankOf 6 0 != 0 || s.expiries == [] then s.advance else { s.rank 6 0 0 with agenda := s.expiries }

/-- Between the instructions: a wake that is due (R436), a drain that is complete (R93), a step chosen among those whose time is open, or the next cycle. -/
def State.tickOnce (s : State) : State :=
  if s.planeX.wakeDue then { s with agenda := [.wakeStart .x] }
  else if s.planeY.wakeDue then { s with agenda := [.wakeStart .y] }
  else
    match s.drainDue with
    | some c => { s with agenda := [.ctxDrainComplete c] }
    | none =>
      if s.rankOf 6 0 != 0 then s.advance
      else
        let es := s.events.filter s.mayNow
        let (k, s) := s.draw (es.length + 1)
        match es[k]? with
        | some e => (s.note e).happen e
        | none => s.endCycle

end Sys2Proof.Machine
end

