-- ==== Sys2Proof/Machine/Vector.lean ====
section
/-!
DEFINITION. Machine/Vector.lean: the V class (R250 to R263).
-/
namespace Sys2Proof.Machine

/-- QEN and SAT (R252). -/
def qenOf (x : OpA) : BitVec 4 := x.md.extractLsb' 0 4
def satOf (x : OpA) : Bool := x.md.getLsbD 4

/-- The arithmetic environment a vector instruction captures (R254). -/
def Core.vecEnv (c : Core) : FpEnv := FpEnv.ofFpcr c.fpcr

/-- A vector instruction: its value from the core at issue (R251, R252). -/
def State.vecOp (s : State) (i : Instr) (x : OpA) (f : Core → VecResult) : Res :=
  s.slotRun i fun s => s.vectorResult i x.cl x.d (f s.core)

/-- An elementwise instruction of R255. -/
def State.vecElemOp (s : State) (i : Instr) (x : OpA) (op : VOp) : Res :=
  s.vecOp i x fun c =>
    let t := c.fmt x.ty
    vecElementwise op t c.vecEnv (satOf x) (qenOf x) (c.vsrc x.cl t x.a) (c.vsrc x.cl t x.b) (c.vsrc x.cl t x.c)

/-- A typeless instruction on whole registers (R258). -/
def State.vecBits (s : State) (i : Instr) (x : OpA) (f : VecReg → VecReg → VecReg → VecReg) : Res :=
  s.vecOp i x fun c => vecPlain (qenOf x) (f (c.vraw x.cl x.a) (c.vraw x.cl x.b) (c.vraw x.cl x.c))

/-- A movement of containers by the amount in B (R260). -/
def State.vecMove (s : State) (i : Instr) (x : OpA) (f : VecReg → Nat → VecReg) : Res :=
  s.vecOp i x fun c => vecPlain (qenOf x) (f (c.vraw x.cl x.a) (c.src x.cl x.b).toNat)

/-- A special function (R263). -/
def State.vecSpecial (s : State) (i : Instr) (x : OpA) (op : SfuOp) : Res :=
  s.vecOp i x fun c => vecSfu op (stdOf x.ty) c.vecEnv (qenOf x) (c.vsrc x.cl (c.fmt x.ty) x.a)

/-- The element code a scalar position gives (R259). -/
def Core.elemCode (c : Core) (cl : Cluster) (t : Fmt) (o : Opnd) : Nat :=
  match o with
  | .imm v => immCode t v
  | _ => (c.src cl o).toNat % 2 ^ t.width

/-- VADD (R255). -/
def execVadd (x : OpA) (s : State) : Res := s.vecElemOp (.vadd x) x .add

/-- VSUB (R255). -/
def execVsub (x : OpA) (s : State) : Res := s.vecElemOp (.vsub x) x .sub

/-- VMUL (R255). -/
def execVmul (x : OpA) (s : State) : Res := s.vecElemOp (.vmul x) x .mul

/-- VFMA (R255). -/
def execVfma (x : OpA) (s : State) : Res := s.vecElemOp (.vfma x) x .fma

/-- VFMS (R255). -/
def execVfms (x : OpA) (s : State) : Res := s.vecElemOp (.vfms x) x .fms

/-- VMIN (R255). -/
def execVmin (x : OpA) (s : State) : Res := s.vecElemOp (.vmin x) x .min

/-- VMAX (R255). -/
def execVmax (x : OpA) (s : State) : Res := s.vecElemOp (.vmax x) x .max

/-- VABS (R255). -/
def execVabs (x : OpA) (s : State) : Res := s.vecElemOp (.vabs x) x .abs

/-- VNEG (R255). -/
def execVneg (x : OpA) (s : State) : Res := s.vecElemOp (.vneg x) x .neg

/-- VSHL (R255). -/
def execVshl (x : OpA) (s : State) : Res := s.vecElemOp (.vshl x) x .shl

/-- VSHR (R255). -/
def execVshr (x : OpA) (s : State) : Res := s.vecElemOp (.vshr x) x .shr

/-- VSAR (R255). -/
def execVsar (x : OpA) (s : State) : Res := s.vecElemOp (.vsar x) x .sar

/-- VCLAMP (R255). -/
def execVclamp (x : OpA) (s : State) : Res := s.vecElemOp (.vclamp x) x .clamp

/-- VMAD (R255). -/
def execVmad (x : OpA) (s : State) : Res := s.vecElemOp (.vmad x) x .mad

/-- VPOPC (R255). -/
def execVpopc (x : OpA) (s : State) : Res := s.vecElemOp (.vpopc x) x .popc

/-- VAND (R258). -/
def execVand (x : OpA) (s : State) : Res := s.vecBits (.vand x) x fun a b _ => a &&& b

/-- VOR (R258). -/
def execVor (x : OpA) (s : State) : Res := s.vecBits (.vor x) x fun a b _ => a ||| b

/-- VXOR (R258). -/
def execVxor (x : OpA) (s : State) : Res := s.vecBits (.vxor x) x fun a b _ => a ^^^ b

/-- VANDN (R258). -/
def execVandn (x : OpA) (s : State) : Res := s.vecBits (.vandn x) x fun a b _ => a &&& ~~~b

/-- VSEL (R258). -/
def execVsel (x : OpA) (s : State) : Res := s.vecBits (.vsel x) x fun a b c => (a &&& c) ||| (b &&& ~~~c)

/-- VMOV (R258). -/
def execVmov (x : OpA) (s : State) : Res := s.vecBits (.vmov x) x fun a _ _ => a

/-- VROTR (R260). -/
def execVrotr (x : OpA) (s : State) : Res := s.vecMove (.vrotr x) x vecRotr

/-- VROTC (R260). -/
def execVrotc (x : OpA) (s : State) : Res := s.vecMove (.vrotc x) x vecRotc

/-- VBCR (R260). -/
def execVbcr (x : OpA) (s : State) : Res := s.vecMove (.vbcr x) x vecBcr

/-- VBCC (R260). -/
def execVbcc (x : OpA) (s : State) : Res := s.vecMove (.vbcc x) x vecBcc

/-- VTRN (R260). -/
def execVtrn (x : OpA) (s : State) : Res := s.vecMove (.vtrn x) x fun a _ => vecTrn a

/-- VRCP (R263). -/
def execVrcp (x : OpA) (s : State) : Res := s.vecSpecial (.vrcp x) x .rcp

/-- VRSQ (R263). -/
def execVrsq (x : OpA) (s : State) : Res := s.vecSpecial (.vrsq x) x .rsq

/-- VSQRT (R263). -/
def execVsqrt (x : OpA) (s : State) : Res := s.vecSpecial (.vsqrt x) x .sqrt

/-- VEXP2 (R263). -/
def execVexp2 (x : OpA) (s : State) : Res := s.vecSpecial (.vexp2 x) x .exp2

/-- VLOG2 (R263). -/
def execVlog2 (x : OpA) (s : State) : Res := s.vecSpecial (.vlog2 x) x .log2

/-- VTANH (R263). -/
def execVtanh (x : OpA) (s : State) : Res := s.vecSpecial (.vtanh x) x .tanh

/-- VDOT4 (R256): C as raw containers. -/
def execVdot4 (x : OpA) (s : State) : Res :=
  s.vecOp (.vdot4 x) x fun c =>
    let t := c.fmt x.ty
    vecDot4 (match t with
      | .int sg _ => sg
      | _ => false) t.width (qenOf x) (c.vsrc x.cl t x.a) (c.vsrc x.cl t x.b) (c.vraw x.cl x.c)

/-- VCMP (R257). -/
def execVcmp (x : OpA) (s : State) : Res :=
  s.vecOp (.vcmp x) x fun c =>
    let t := c.fmt x.ty
    vecCompare x.sub.toNat t c.vecEnv (qenOf x) (c.vsrc x.cl t x.a) (c.vsrc x.cl t x.b)

/-- VSPLAT (R259). -/
def execVsplat (x : OpA) (s : State) : Res :=
  s.vecOp (.vsplat x) x fun c => vecVsplat (c.fmt x.ty) (qenOf x) (c.elemCode x.cl (c.fmt x.ty) x.a)

/-- VINS (R259). -/
def execVins (x : OpA) (s : State) : Res :=
  s.vecOp (.vins x) x fun c =>
    vecIns (c.fmt x.ty) (qenOf x) (c.vraw x.cl x.c) (c.elemCode x.cl (c.fmt x.ty) x.a) (c.src x.cl x.b)

/-- VEXT (R259): a scalar result. -/
def execVext (x : OpA) (s : State) : Res :=
  s.slotRun (.vext x) fun s =>
    let c := s.core
    let t := c.fmt x.ty
    s.scalarResult (.vext x) x.cl x.d (vecExt t (c.vsrc x.cl t x.a) (c.src x.cl x.b)) {} {}

/-- VREDR (R261): SUB [2:0] the operation, [3] BC. -/
def execVredr (x : OpA) (s : State) : Res :=
  s.vecOp (.vredr x) x fun c =>
    let t := c.fmt x.ty
    vecRedr (x.sub.extractLsb' 0 3).toNat (x.sub.getLsbD 3) t c.vecEnv (qenOf x) (c.vsrc x.cl t x.a)

/-- VREDC (R261). -/
def execVredc (x : OpA) (s : State) : Res :=
  s.vecOp (.vredc x) x fun c =>
    let t := c.fmt x.ty
    vecRedc (x.sub.extractLsb' 0 3).toNat (x.sub.getLsbD 3) t c.vecEnv (qenOf x) (c.vsrc x.cl t x.a)

/-- VCVT (R262): SUB 1 rounds to integral, SUB 0 and 2 convert. -/
def execVcvt (x : OpA) (s : State) : Res :=
  s.vecOp (.vcvt x) x fun c =>
    if x.sub = 1 then vecRint (stdOf x.ty) c.vecEnv (c.vsrc x.cl (c.fmt x.ty) x.a)
    else
      let src := match decTy (x.md.extractLsb' 0 5) with
        | some t => c.fmt t
        | none => .raw
      vecCvt src (c.fmt x.ty) c.vecEnv (x.sub == 2) (x.md.extractLsb' 5 2).toNat (c.vsrc x.cl src x.a)
        (c.vraw x.cl x.c)

end Sys2Proof.Machine
end

