-- ==== Sys2Proof/Machine/Dispatch.lean ====
section
/-!
DEFINITION. Machine/Dispatch.lean: one arm for each constructor of `Instr`.
-/
namespace Sys2Proof.Machine

/-- What an instruction does: its meaning, by constructor. -/
def exec (i : Instr) (s : State) : Host.Outcome State Fault Refusal :=
  match i with
  | .bundleIssue lin b => Sys2Proof.Machine.execBundleIssue lin b s
  | .quiescentCompletion lin => Sys2Proof.Machine.execQuiescentCompletion lin s
  | .resultVisible lin => Sys2Proof.Machine.execResultVisible lin s
  | .currentWindowBoundary lin => Sys2Proof.Machine.execCurrentWindowBoundary lin s
  | .rampWindowBoundary lin => Sys2Proof.Machine.execRampWindowBoundary lin s
  | .dummyMma lin => Sys2Proof.Machine.execDummyMma lin s
  | .nop slot => Sys2Proof.Machine.execNop slot s
  | .prefetchHint x => Sys2Proof.Machine.execPrefetchHint x s
  | .branchHint x => Sys2Proof.Machine.execBranchHint x s
  | .br x => Sys2Proof.Machine.execBr x s
  | .bri x => Sys2Proof.Machine.execBri x s
  | .call x => Sys2Proof.Machine.execCall x s
  | .calli x => Sys2Proof.Machine.execCalli x s
  | .ret x => Sys2Proof.Machine.execRet x s
  | .loop x => Sys2Proof.Machine.execLoop x s
  | .lbrk x => Sys2Proof.Machine.execLbrk x s
  | .ldrain x => Sys2Proof.Machine.execLdrain x s
  | .sysr x => Sys2Proof.Machine.execSysr x s
  | .sysw x => Sys2Proof.Machine.execSysw x s
  | .trap x => Sys2Proof.Machine.execTrap x s
  | .tend x => Sys2Proof.Machine.execTend x s
  | .yield x => Sys2Proof.Machine.execYield x s
  | .tspawn x => Sys2Proof.Machine.execTspawn x s
  | .fnew x => Sys2Proof.Machine.execFnew x s
  | .fset x => Sys2Proof.Machine.execFset x s
  | .ffail x => Sys2Proof.Machine.execFfail x s
  | .fwait x => Sys2Proof.Machine.execFwait x s
  | .ftest x => Sys2Proof.Machine.execFtest x s
  | .ffree x => Sys2Proof.Machine.execFfree x s
  | .bara x => Sys2Proof.Machine.execBara x s
  | .barw x => Sys2Proof.Machine.execBarw x s
  | .barx x => Sys2Proof.Machine.execBarx x s
  | .bari x => Sys2Proof.Machine.execBari x s
  | .pbara x => Sys2Proof.Machine.execPbara x s
  | .pbarw x => Sys2Proof.Machine.execPbarw x s
  | .qput x => Sys2Proof.Machine.execQput x s
  | .qget x => Sys2Proof.Machine.execQget x s
  | .qpeek x => Sys2Proof.Machine.execQpeek x s
  | .qexpire task => Sys2Proof.Machine.execQexpire task s
  | .add x => Sys2Proof.Machine.execAdd x s
  | .sub x => Sys2Proof.Machine.execSub x s
  | .addi x => Sys2Proof.Machine.execAddi x s
  | .mul x => Sys2Proof.Machine.execMul x s
  | .mulh x => Sys2Proof.Machine.execMulh x s
  | .mulhn x => Sys2Proof.Machine.execMulhn x s
  | .div x => Sys2Proof.Machine.execDiv x s
  | .divn x => Sys2Proof.Machine.execDivn x s
  | .rem x => Sys2Proof.Machine.execRem x s
  | .remn x => Sys2Proof.Machine.execRemn x s
  | .and x => Sys2Proof.Machine.execAnd x s
  | .or x => Sys2Proof.Machine.execOr x s
  | .xor x => Sys2Proof.Machine.execXor x s
  | .andn x => Sys2Proof.Machine.execAndn x s
  | .orn x => Sys2Proof.Machine.execOrn x s
  | .shl x => Sys2Proof.Machine.execShl x s
  | .shr x => Sys2Proof.Machine.execShr x s
  | .sar x => Sys2Proof.Machine.execSar x s
  | .rol x => Sys2Proof.Machine.execRol x s
  | .clz x => Sys2Proof.Machine.execClz x s
  | .ctz x => Sys2Proof.Machine.execCtz x s
  | .popc x => Sys2Proof.Machine.execPopc x s
  | .min x => Sys2Proof.Machine.execMin x s
  | .max x => Sys2Proof.Machine.execMax x s
  | .minn x => Sys2Proof.Machine.execMinn x s
  | .maxn x => Sys2Proof.Machine.execMaxn x s
  | .abs x => Sys2Proof.Machine.execAbs x s
  | .bfx x => Sys2Proof.Machine.execBfx x s
  | .bfi x => Sys2Proof.Machine.execBfi x s
  | .sext x => Sys2Proof.Machine.execSext x s
  | .lea x => Sys2Proof.Machine.execLea x s
  | .movi x => Sys2Proof.Machine.execMovi x s
  | .movh x => Sys2Proof.Machine.execMovh x s
  | .sel x => Sys2Proof.Machine.execSel x s
  | .cmp x => Sys2Proof.Machine.execCmp x s
  | .cmpi x => Sys2Proof.Machine.execCmpi x s
  | .plog x => Sys2Proof.Machine.execPlog x s
  | .xcl x => Sys2Proof.Machine.execXcl x s
  | .xcp x => Sys2Proof.Machine.execXcp x s
  | .mad x => Sys2Proof.Machine.execMad x s
  | .fadd x => Sys2Proof.Machine.execFadd x s
  | .fsub x => Sys2Proof.Machine.execFsub x s
  | .fmul x => Sys2Proof.Machine.execFmul x s
  | .fma x => Sys2Proof.Machine.execFma x s
  | .fdiv x => Sys2Proof.Machine.execFdiv x s
  | .fsqrt x => Sys2Proof.Machine.execFsqrt x s
  | .fmin x => Sys2Proof.Machine.execFmin x s
  | .fmax x => Sys2Proof.Machine.execFmax x s
  | .fcmp x => Sys2Proof.Machine.execFcmp x s
  | .fcvt x => Sys2Proof.Machine.execFcvt x s
  | .fclass x => Sys2Proof.Machine.execFclass x s
  | .fsgn x => Sys2Proof.Machine.execFsgn x s
  | .ld x => Sys2Proof.Machine.execLd x s
  | .st x => Sys2Proof.Machine.execSt x s
  | .ldv x => Sys2Proof.Machine.execLdv x s
  | .stv x => Sys2Proof.Machine.execStv x s
  | .ldt x => Sys2Proof.Machine.execLdt x s
  | .stt x => Sys2Proof.Machine.execStt x s
  | .pref x => Sys2Proof.Machine.execPref x s
  | .ntst x => Sys2Proof.Machine.execNtst x s
  | .ntstv x => Sys2Proof.Machine.execNtstv x s
  | .amo x => Sys2Proof.Machine.execAmo x s
  | .amon x => Sys2Proof.Machine.execAmon x s
  | .acas x => Sys2Proof.Machine.execAcas x s
  | .mark x => Sys2Proof.Machine.execMark x s
  | .fence x => Sys2Proof.Machine.execFence x s
  | .ntdrain x => Sys2Proof.Machine.execNtdrain x s
  | .lsld x => Sys2Proof.Machine.execLsld x s
  | .lsst x => Sys2Proof.Machine.execLsst x s
  | .lsldv x => Sys2Proof.Machine.execLsldv x s
  | .lsstv x => Sys2Proof.Machine.execLsstv x s
  | .migr x => Sys2Proof.Machine.execMigr x s
  | .pgstat x => Sys2Proof.Machine.execPgstat x s
  | .logapply x => Sys2Proof.Machine.execLogapply x s
  | .asdecl x => Sys2Proof.Machine.execAsdecl x s
  | .asdrop x => Sys2Proof.Machine.execAsdrop x s
  | .vadd x => Sys2Proof.Machine.execVadd x s
  | .vsub x => Sys2Proof.Machine.execVsub x s
  | .vmul x => Sys2Proof.Machine.execVmul x s
  | .vfma x => Sys2Proof.Machine.execVfma x s
  | .vfms x => Sys2Proof.Machine.execVfms x s
  | .vmin x => Sys2Proof.Machine.execVmin x s
  | .vmax x => Sys2Proof.Machine.execVmax x s
  | .vabs x => Sys2Proof.Machine.execVabs x s
  | .vneg x => Sys2Proof.Machine.execVneg x s
  | .vand x => Sys2Proof.Machine.execVand x s
  | .vor x => Sys2Proof.Machine.execVor x s
  | .vxor x => Sys2Proof.Machine.execVxor x s
  | .vandn x => Sys2Proof.Machine.execVandn x s
  | .vshl x => Sys2Proof.Machine.execVshl x s
  | .vshr x => Sys2Proof.Machine.execVshr x s
  | .vsar x => Sys2Proof.Machine.execVsar x s
  | .vcmp x => Sys2Proof.Machine.execVcmp x s
  | .vsel x => Sys2Proof.Machine.execVsel x s
  | .vmov x => Sys2Proof.Machine.execVmov x s
  | .vsplat x => Sys2Proof.Machine.execVsplat x s
  | .vins x => Sys2Proof.Machine.execVins x s
  | .vext x => Sys2Proof.Machine.execVext x s
  | .vclamp x => Sys2Proof.Machine.execVclamp x s
  | .vmad x => Sys2Proof.Machine.execVmad x s
  | .vdot4 x => Sys2Proof.Machine.execVdot4 x s
  | .vpopc x => Sys2Proof.Machine.execVpopc x s
  | .vrotr x => Sys2Proof.Machine.execVrotr x s
  | .vrotc x => Sys2Proof.Machine.execVrotc x s
  | .vbcr x => Sys2Proof.Machine.execVbcr x s
  | .vbcc x => Sys2Proof.Machine.execVbcc x s
  | .vredr x => Sys2Proof.Machine.execVredr x s
  | .vredc x => Sys2Proof.Machine.execVredc x s
  | .vtrn x => Sys2Proof.Machine.execVtrn x s
  | .vcvt x => Sys2Proof.Machine.execVcvt x s
  | .vrcp x => Sys2Proof.Machine.execVrcp x s
  | .vrsq x => Sys2Proof.Machine.execVrsq x s
  | .vsqrt x => Sys2Proof.Machine.execVsqrt x s
  | .vexp2 x => Sys2Proof.Machine.execVexp2 x s
  | .vlog2 x => Sys2Proof.Machine.execVlog2 x s
  | .vtanh x => Sys2Proof.Machine.execVtanh x s
  | .slld x => Sys2Proof.Machine.execSlld x s
  | .mma x => Sys2Proof.Machine.execMma x s
  | .mmaz x => Sys2Proof.Machine.execMmaz x s
  | .hld x => Sys2Proof.Machine.execHld x s
  | .hst x => Sys2Proof.Machine.execHst x s
  | .hxor x => Sys2Proof.Machine.execHxor x s
  | .hrot x => Sys2Proof.Machine.execHrot x s
  | .hlog x => Sys2Proof.Machine.execHlog x s
  | .hbund x => Sys2Proof.Machine.execHbund x s
  | .hmaj x => Sys2Proof.Machine.execHmaj x s
  | .hcclr x => Sys2Proof.Machine.execHcclr x s
  | .htie x => Sys2Proof.Machine.execHtie x s
  | .hdist x => Sys2Proof.Machine.execHdist x s
  | .hnear x => Sys2Proof.Machine.execHnear x s
  | .hmovv x => Sys2Proof.Machine.execHmovv x s
  | .cpy x => Sys2Proof.Machine.execCpy x s
  | .chase x => Sys2Proof.Machine.execChase x s
  | .gath x => Sys2Proof.Machine.execGath x s
  | .send x => Sys2Proof.Machine.execSend x s
  | .msend x => Sys2Proof.Machine.execMsend x s
  | .wopen x => Sys2Proof.Machine.execWopen x s
  | .wclose x => Sys2Proof.Machine.execWclose x s
  | .lstat x => Sys2Proof.Machine.execLstat x s
  | .fdset x => Sys2Proof.Machine.execFdset x s
  | .fdget x => Sys2Proof.Machine.execFdget x s
  | .bfmt x => Sys2Proof.Machine.execBfmt x s
  | .taskPick tower => Sys2Proof.Machine.execTaskPick tower s
  | .groupStart tower slot => Sys2Proof.Machine.execGroupStart tower slot s
  | .preemptArrival lin => Sys2Proof.Machine.execPreemptArrival lin s
  | .woundArrival lin => Sys2Proof.Machine.execWoundArrival lin s
  | .walkerCreate tower => Sys2Proof.Machine.execWalkerCreate tower s
  | .launchAccept slot => Sys2Proof.Machine.execLaunchAccept slot s
  | .launchComplete slot => Sys2Proof.Machine.execLaunchComplete slot s
  | .launchAbortDrainComplete slot => Sys2Proof.Machine.execLaunchAbortDrainComplete slot s
  | .handlerStart slot => Sys2Proof.Machine.execHandlerStart slot s
  | .nopRecord q => Sys2Proof.Machine.execNopRecord q s
  | .launch q => Sys2Proof.Machine.execLaunch q s
  | .glaunch q => Sys2Proof.Machine.execGlaunch q s
  | .signal q => Sys2Proof.Machine.execSignal q s
  | .waitf q => Sys2Proof.Machine.execWaitf q s
  | .migsched q => Sys2Proof.Machine.execMigsched q s
  | .slottabLoad q => Sys2Proof.Machine.execSlottabLoad q s
  | .slottabSwitch q => Sys2Proof.Machine.execSlottabSwitch q s
  | .mcgroup q => Sys2Proof.Machine.execMcgroup q s
  | .reservedRecord q => Sys2Proof.Machine.execReservedRecord q s
  | .ctxDrainComplete c => Sys2Proof.Machine.execCtxDrainComplete c s
  | .teardownComplete c => Sys2Proof.Machine.execTeardownComplete c s
  | .map c => Sys2Proof.Machine.execMap c s
  | .unmap c => Sys2Proof.Machine.execUnmap c s
  | .chmod c => Sys2Proof.Machine.execChmod c s
  | .remap c => Sys2Proof.Machine.execRemap c s
  | .pantry tower frame => Sys2Proof.Machine.execPantry tower frame s
  | .translationComplete lin seq => Sys2Proof.Machine.execTranslationComplete lin seq s
  | .transit lin => Sys2Proof.Machine.execTransit lin s
  | .migrationStart page => Sys2Proof.Machine.execMigrationStart page s
  | .migrationComplete page => Sys2Proof.Machine.execMigrationComplete page s
  | .scheduleEntry c index => Sys2Proof.Machine.execScheduleEntry c index s
  | .queuePerform lin store => Sys2Proof.Machine.execQueuePerform lin store s
  | .dirtyLineWriteback lin => Sys2Proof.Machine.execDirtyLineWriteback lin s
  | .logAppend page => Sys2Proof.Machine.execLogAppend page s
  | .logApplyComplete page => Sys2Proof.Machine.execLogApplyComplete page s
  | .setRequest lin seq => Sys2Proof.Machine.execSetRequest lin seq s
  | .cpyComplete id => Sys2Proof.Machine.execCpyComplete id s
  | .chaseComplete id => Sys2Proof.Machine.execChaseComplete id s
  | .gathComplete id => Sys2Proof.Machine.execGathComplete id s
  | .sendSourceRead id => Sys2Proof.Machine.execSendSourceRead id s
  | .ackTimeout plane residue slot => Sys2Proof.Machine.execAckTimeout plane residue slot s
  | .flitWrite plane residue => Sys2Proof.Machine.execFlitWrite plane residue s
  | .noticeApply plane index => Sys2Proof.Machine.execNoticeApply plane index s
  | .wavelengthCheck line err => Sys2Proof.Machine.execWavelengthCheck line err s
  | .repairReadyDeadline id => Sys2Proof.Machine.execRepairReadyDeadline id s
  | .repairSwitch id => Sys2Proof.Machine.execRepairSwitch id s
  | .retuneRelock line => Sys2Proof.Machine.execRetuneRelock line s
  | .retuneTimeout line => Sys2Proof.Machine.execRetuneTimeout line s
  | .lanternTakeoverComplete plane => Sys2Proof.Machine.execLanternTakeoverComplete plane s
  | .autoparkIdle plane band => Sys2Proof.Machine.execAutoparkIdle plane band s
  | .parkSwitch plane band => Sys2Proof.Machine.execParkSwitch plane band s
  | .wakeStart plane => Sys2Proof.Machine.execWakeStart plane s
  | .wakeSwitch plane band => Sys2Proof.Machine.execWakeSwitch plane band s
  | .calibrationComplete plane peer => Sys2Proof.Machine.execCalibrationComplete plane peer s
  | .calibrationTimeout plane peer => Sys2Proof.Machine.execCalibrationTimeout plane peer s
  | .slottabLoadReady plane => Sys2Proof.Machine.execSlottabLoadReady plane s
  | .tableSwitchTick plane => Sys2Proof.Machine.execTableSwitchTick plane s
  | .thermalSample sensors => Sys2Proof.Machine.execThermalSample sensors s
  | .ageRebase => Sys2Proof.Machine.execAgeRebase s
  | .counterDecay => Sys2Proof.Machine.execCounterDecay s
  | .powerTrim => Sys2Proof.Machine.execPowerTrim s
  | .ticksyncSend => Sys2Proof.Machine.execTicksyncSend s
  | .peg => Sys2Proof.Machine.execPeg s
  | .warmReset => Sys2Proof.Machine.execWarmReset s
  | .powerOnReset => Sys2Proof.Machine.execPowerOnReset s
  | .flitReceive plane residue band pos cw tag => Sys2Proof.Machine.execFlitReceive plane residue band pos cw tag s
  | .idle m => Sys2Proof.Machine.execIdle m s
  | .credit m => Sys2Proof.Machine.execCredit m s
  | .ack m => Sys2Proof.Machine.execAck m s
  | .notice m => Sys2Proof.Machine.execNotice m s
  | .done m => Sys2Proof.Machine.execDone m s
  | .arrive m => Sys2Proof.Machine.execArrive m s
  | .ticksync m => Sys2Proof.Machine.execTicksync m s
  | .prep m => Sys2Proof.Machine.execPrep m s
  | .ready m => Sys2Proof.Machine.execReady m s
  | .commit m => Sys2Proof.Machine.execCommit m s
  | .abort m => Sys2Proof.Machine.execAbort m s
  | .park m => Sys2Proof.Machine.execPark m s
  | .wake m => Sys2Proof.Machine.execWake m s
  | .probe m => Sys2Proof.Machine.execProbe m s
  | .mcfan m => Sys2Proof.Machine.execMcfan m s
  | .reservedMessage m => Sys2Proof.Machine.execReservedMessage m s
  | .thermalRetune line => Sys2Proof.Machine.execThermalRetune line s
  | .lanternFault plane => Sys2Proof.Machine.execLanternFault plane s
  | .memoryError pa => Sys2Proof.Machine.execMemoryError pa s
  | .atsInvalidation host => Sys2Proof.Machine.execAtsInvalidation host s
  | .queueAppend q offset bytes => Sys2Proof.Machine.execQueueAppend q offset bytes s
  | .hostAccess a => Sys2Proof.Machine.execHostAccess a s
  | .registerWrite off v => Sys2Proof.Machine.execRegisterWrite off v s
  | .managementRequest bytes => Sys2Proof.Machine.execManagementRequest bytes s
  | .pairRetirement pair => Sys2Proof.Machine.execPairRetirement pair s
  | .enable q => Sys2Proof.Machine.execEnable q s
  | .drain q => Sys2Proof.Machine.execDrain q s
  | .stop q => Sys2Proof.Machine.execStop q s
  | .reset q => Sys2Proof.Machine.execReset q s
  | .build c => Sys2Proof.Machine.execBuild c s
  | .activate c => Sys2Proof.Machine.execActivate c s
  | .quiesce c => Sys2Proof.Machine.execQuiesce c s
  | .resume c => Sys2Proof.Machine.execResume c s
  | .destroy c => Sys2Proof.Machine.execDestroy c s
  | .hostfault v => Sys2Proof.Machine.execHostfault v s
  | .futureAlloc c => Sys2Proof.Machine.execFutureAlloc c s
  | .futureFree v => Sys2Proof.Machine.execFutureFree v s
  | .futureSignal v => Sys2Proof.Machine.execFutureSignal v s
  | .barrierBind pod index v => Sys2Proof.Machine.execBarrierBind pod index v s
  | .barrierUnbind pod index => Sys2Proof.Machine.execBarrierUnbind pod index s
  | .bringup plane => Sys2Proof.Machine.execBringup plane s
  | .planeReset plane => Sys2Proof.Machine.execPlaneReset plane s
  | .snap plane => Sys2Proof.Machine.execSnap plane s
  | .restore line => Sys2Proof.Machine.execRestore line s
  | .fabidWrite v => Sys2Proof.Machine.execFabidWrite v s
  | .modeWrite v => Sys2Proof.Machine.execModeWrite v s

end Sys2Proof.Machine
end

