-- ==== Sys2Proof/Machine/Load.lean ====
section
/-!
DEFINITION. Machine/Load.lean: a program placed on a core from outside the machine (notes/assumptions/2.md), and what the stopped
device still answers (R456).
-/
namespace Sys2Proof.Machine

/-- The launch that a placed program belongs to: slot 0, of context 0, on tower 0. -/
def loadedLaunch : Launch :=
  { state := .draining, towers := 1, img := { words := 2 ^ 30, fds := [] }, walkers := [{ tower := 0, order := 0, next := 1, succ := [] }] }

/-- Core 0 runs task 0 of that launch, as after the record of a LAUNCH, its walker and the scheduler's pick; the next step issues
the bundle. -/
def State.runsBundle (s : State) (b : RawBundle) : State :=
  let s := s.focus 0
  { s with
    core := { s.core with task := some 0, lastCtx := some 0, leave := none, compl := none, iss := none, startAt := 0, nextIc := s.core.ic },
    tasks := tput {} s.tasks 0 { state := .running },
    launches := tput {} s.launches 0 loadedLaunch,
    ctxs := tput {} s.ctxs 0 { s.ctx 0 with state := .active },
    slots := [],
    agenda := [.bundleIssue 0 b] }

/-- A reset among the actions of the surroundings, with those behind it (R451, R456). -/
def firstReset : List (Nat × Instr) → Option (Instr × List (Nat × Instr))
  | [] => none
  | (_, .warmReset) :: rest => some (.warmReset, rest)
  | (_, .powerOnReset) :: rest => some (.powerOnReset, rest)
  | _ :: rest => firstReset rest

end Sys2Proof.Machine
end

