-- ==== Sys2Proof/Machine/Step.lean ====
section
/-!
DEFINITION. Machine/Step.lean: one step of the device: the next instruction, or what stands between instructions.
-/
namespace Sys2Proof.Machine

/-- An instruction, and what follows it at once. -/
def run (i : Instr) (s : State) : Res :=
  match exec i s with
  | .next t => .next t.settle
  | .fault f => .fault f
  | .refused r => .refused r

/-- One step. The slots of the bundle in issue go first, in slot order, then the steps decided; with neither, a step whose time
is open, or the next cycle. With every clock stopped only a reset acts (R456). -/
def step (s : State) : Host.Outcome State Fault Refusal :=
  if s.hub.tripped then
    match firstReset s.inputs with
    | some (i, rest) => run i { s with inputs := rest }
    | none => .fault .thermalTrip
  else
    match s.slots with
    | i :: rest => run i { s with slots := rest }
    | [] =>
      match s.agenda with
      | i :: rest => run i { s with agenda := rest }
      | [] => .next s.tickOnce.settle

/-- The state in which the next step issues the bundle whose bits the host gives. -/
def State.withFetchWord (s : State) (nbits w : Nat) : State :=
  match Sys2Proof.bundleOfNat nbits w with
  | some b => s.runsBundle b
  | none => s

end Sys2Proof.Machine
end

