-- ==== Sys2Proof/Safety.lean ====
section
/-!
DEFINITION. Safety.lean: what the statements speak of: when a slot acts (R34, R48), what it means that it issues a result (R39) or
that an access enters the queues (R319), the bytes and registers a reader sees, and steps that run.
-/
namespace Sys2Proof.Machine

/-! ### A slot that acts -/

/-- The bundle in issue is quiescent (Q, R61). -/
def State.issuesQuiet (s : State) : Bool :=
  match s.core.iss with
  | some b => b.quiet
  | none => false

/-- The guard of a slot is true (R34). -/
def State.Guarded (s : State) (i : Instr) : Prop := s.core.guard (instrGuard i).1 (instrGuard i).2 = true

/-- A slot acts: its guard is true and its value checks pass (R34, R48). -/
def State.Acts (s : State) (i : Instr) : Prop := s.Guarded i ∧ s.slotFault s.issuesQuiet {} i = none

/-- `t` is `s` with one more result in flight (R39): nothing else differs but the unit the result occupies and the counter that
numbers results. -/
def Issued (s t : State) (p : Pending) : Prop :=
  t = { s with seqNo := s.seqNo + 1, core := { s.core with busy := t.core.busy, pend := s.core.pend ++ [p] } }

/-- `t` is `s` with one result issued: what it will write in registers and in the slot's latch, the flags it raises, and when it
becomes visible: L_c cycles and L_h issue counts after issue (R35, R39, R40). -/
def IssuedBy (s t : State) (i : Instr) (lat : Nat × Nat) (dests : List Opnd) (ws : List RegWrite) (lw : LatchWrite) (fl : FpFlags)
    (cnt : FpCounts) : Prop :=
  ∃ p, Issued s t p ∧ p.ready = true ∧ p.slot = instrSlot i ∧ p.ic = s.core.ic ∧ p.cyc = s.cycle ∧ p.baddr = s.core.bundle.1 ∧
    p.bseq = s.core.bundle.2 ∧ p.lc = lat.1 ∧ p.lh = lat.2 ∧ p.dests = dests ∧ p.writes = ws ∧ p.latch = lw ∧ p.fl = fl ∧ p.cnt = cnt

/-- L_c and L_h of an instruction's class for the running task (R40). -/
def State.latOf (s : State) (i : Instr) : Nat × Nat := s.latencies ((latClass i).getD 0)

/-- The slot issues one result with the latencies of its class, and does nothing else. -/
def IssuesResult (s : State) (i : Instr) (dests : List Opnd) (ws : List RegWrite) (lw : LatchWrite) (fl : FpFlags) (cnt : FpCounts) :
    Prop :=
  ∃ t, exec i s = .next t ∧ IssuedBy s t i (s.latOf i) dests ws lw fl cnt

/-- A scalar result without flags: the value goes to D and to the slot's latch; a predicate takes bit 0; 0x7F takes nothing
(R35, R227, R230). -/
def IssuesWord (s : State) (i : Instr) (cl : Cluster) (d : Opnd) (v : Word) : Prop :=
  IssuesResult s i [d] (destWrites cl d v) (.word v) {} {}

/-- A vector result: the enabled containers of D and of the slot's latch (R252). -/
def IssuesVector (s : State) (i : Instr) (cl : Cluster) (d : Opnd) (r : VecResult) : Prop :=
  IssuesResult s i [d]
    (match d with
      | .vreg n => [.vec cl n.val r.val r.mask]
      | _ => [])
    (.wide r.val r.mask) r.fl r.cnt

/-! ### Values as the chapters on formats and scalars read them -/

/-- Width of an integer type (R198). -/
def tyWidth : Ty → Nat
  | .i32 | .n32 => 32
  | .i16 | .n16 => 16
  | .i8 | .n8 => 8
  | _ => 64
/-- The type extends by sign (R228). -/
def tySigned : Ty → Bool
  | .n64 | .n32 | .n16 | .n8 => false
  | _ => true

/-- An n-bit result extended to 64 bits, by sign or by zeros (R228). -/
def widen {n : Nat} (sg : Bool) (r : BitVec n) : Word := if sg then r.signExtend 64 else r.setWidth 64

/-- The condition of CMP by SUB, on n bits (R238). -/
def cmpHolds (sub : Nat) {n : Nat} (a b : BitVec n) : Bool :=
  match sub with
  | 0 => a == b
  | 1 => a != b
  | 2 => a.slt b
  | 3 => a.sle b
  | 4 => b.slt a
  | 5 => b.sle a
  | 6 => a.ult b
  | 7 => a.ule b
  | 8 => b.ult a
  | 9 => b.ule a
  | 10 => a &&& b == 0
  | _ => a &&& b != 0

/-! ### Elements of a vector register -/

/-- Element i of n bits (R200, R250). -/
def elemAt (n : Nat) (v : VecReg) (i : Nat) : BitVec n := v.extractLsb' (n * i) n
/-- Container (r, c) (R250). -/
def contAt (v : VecReg) (r c : Nat) : BitVec 32 := elemAt 32 v (64 * r + c)
/-- Element i of n bits stands in a quarter that QEN enables (R252). -/
def elemOn (n : Nat) (qen : BitVec 4) (i : Nat) : Bool := qenOn qen (i / (32 / n) % 64 / 16)

/-- The slot issues a vector result in the quarters QEN enables, element i of n bits being `f i`, with no flag and no count
(R252). -/
def IssuesElems (s : State) (i : Instr) (cl : Cluster) (d : Opnd) (qen : BitVec 4) (n : Nat) (f : Nat → BitVec n) : Prop :=
  ∃ r, IssuesVector s i cl d r ∧ r.mask = qenMask qen ∧ r.fl = {} ∧ r.cnt = {} ∧ ∀ k, k < 32768 / n → elemAt n r.val k = f k

/-- The slot issues a vector result in the quarters QEN enables, element i of n bits having the code `(f i).1`; the flags and
counts are those of the elements in enabled quarters (R252, R254). -/
def IssuesFloats (s : State) (i : Instr) (cl : Cluster) (d : Opnd) (qen : BitVec 4) (n : Nat)
    (f : Nat → Nat × FpFlags × FpCounts) : Prop :=
  ∃ r, IssuesVector s i cl d r ∧ r.mask = qenMask qen ∧
    (∀ k, k < 32768 / n → elemAt n r.val k = BitVec.ofNat n (f k).1) ∧
    r.fl = orFlags ((List.range (32768 / n)).map fun k => if elemOn n qen k then (f k).2.1 else {}) ∧
    r.cnt = addCounts ((List.range (32768 / n)).map fun k => if elemOn n qen k then (f k).2.2 else {})

/-- The number read signed or unsigned (R255). -/
def asInt (sg : Bool) {n : Nat} (v : BitVec n) : Int := if sg then v.toInt else v.toNat
/-- An exact integer in n bits: saturated to the range of the type, or modulo 2^n (R11, R255). -/
def intoBits (sat sg : Bool) (n : Nat) (z : Int) : BitVec n :=
  BitVec.ofInt n (if sat then
    (if sg then max (-2 ^ (n - 1)) (min z (2 ^ (n - 1) - 1)) else max 0 (min z (2 ^ n - 1)))
  else z)

/-- A hypervector result: hv0 to hv15, and qt whole (R283). -/
def IssuesHyper (s : State) (i : Instr) (d : Opnd) (h : HyperVec) : Prop :=
  IssuesResult s i [d]
    (match d with
      | .hv n => [.hv n.val h]
      | _ => [])
    (.wide (hvToVec h) (BitVec.allOnes 32768)) {} {}
/-- A counter result: qt keeps its contents (R283); `n` counters left their range (R285). -/
def IssuesCounters (s : State) (i : Instr) (d : Opnd) (f : Nat → RegWrite) (n : Nat) : Prop :=
  IssuesResult s i [d]
    (match d with
      | .hc k => [f k.val]
      | _ => [])
    .none {} { nsat := n }

/-- `t` is `s` with writes of the local store added to the bundle in issue (R304); nothing else differs but the unit occupied. -/
def StoresLocal (s t : State) (ws : List LsWrite) : Prop :=
  t = { s with core := { s.core with busy := t.core.busy, iss := s.core.iss.map fun b => { b with lsw := b.lsw ++ ws } } }

/-! ### Entering the queues -/

/-- `t` is `s` with one more entry in the queues, and for an operation with a result one more awaited result; nothing else
differs but the counter that numbers operations (R42, R319). -/
def Entered (s t : State) (e : MqEntry) (awaits : List Pending) : Prop :=
  t = { s with seqNo := s.seqNo + 1, core := { s.core with mq := s.core.mq ++ [e], pend := s.core.pend ++ awaits } }

/-- The slot enters an access of address `ea` in the queues named; `dests` are the destinations of a result still to come (R42). -/
def EntersQueues (s : State) (i : Instr) (inLoad inStore : Bool) (ea : Nat) (vals : List Word) (vec : VecReg) (st : MqState)
    (dests : Option (List Opnd)) : Prop :=
  ∃ t e ps, exec i s = .next t ∧ Entered s t e ps ∧ e.seq = s.seqNo ∧ e.instr = i ∧ e.slot = instrSlot i ∧
    e.baddr = s.core.bundle.1 ∧ e.bseq = s.core.bundle.2 ∧ e.inLoad = inLoad ∧ e.inStore = inStore ∧ e.ea = ea ∧ e.vals = vals ∧
    e.vec = vec ∧ e.st = st ∧
    (match dests with
      | none => ps = []
      | some ds => ∃ p, ps = [p] ∧ p.seq = s.seqNo ∧ p.ready = false ∧ p.locked = true ∧ p.dests = ds ∧ p.slot = instrSlot i)

/-- The slot of a quiescent bundle records its operation with the operands read at issue; it performs in the completion step
(R52, R136). -/
def Records (s : State) (i : Instr) (vals : List Word) : Prop :=
  exec i s = .next { s with core := { s.core with iss := s.core.iss.map fun b =>
    { b with ops := b.ops ++ [{ slot := instrSlot i, instr := i, vals := vals }] } } }

/-! ### A completion step that performs an operation -/

/-- The operation at the head of a completion step that performs its operations (R52). -/
def State.Performing (s : State) (i : Instr) (h : HeldOp) (q : Completion) : Prop :=
  s.core.compl = some q ∧ q.performing = true ∧ q.ops.head? = some h ∧ h.instr = i ∧ q.committing = false

/-- The same completion step with the other operations left to perform. -/
def State.performed (s : State) (q : Completion) : State := { s with core := { s.core with compl := some { q with ops := q.ops.tail } } }

/-- A handle names a future of a context that is not FREE and has its generation (R149, R150). -/
def State.FutLive (s : State) (h c : Nat) : Prop :=
  h % 2 ^ 20 ≠ 0 ∧ (s.fut (h % 2 ^ 20)).state ≠ .free ∧ (s.fut (h % 2 ^ 20)).gen.toNat = h / 2 ^ 20 % 4096 ∧ (s.fut (h % 2 ^ 20)).ctx = c

/-- A waiting task whose cause has cleared: READY, and linked nowhere (R131). -/
def Task.woken (w : Task) : Task := { w with state := .ready, wkind := 0, wobj := 0, waddr := 0, qlimit := none }

/-- The tasks that wait and satisfy p become READY, but those that a wounder still holds (R131, R132); no other task changes. -/
def Wakes (s t : State) (p : Task → Prop) : Prop :=
  twf {} s.tasks = true → ∀ j,
    let w := s.task j
    let waits := (w.state = .suspended ∨ w.state = .aborted) ∧ p w
    (waits → w.wounder = none → t.task j = w.woken) ∧ (¬waits → t.task j = w)

/-- `t` is `s` after an acquire by the core in focus (R317): its L1 keeps its dirty bytes and no other. -/
def Acquired (s t : State) : Prop :=
  t = { s with core := { s.core with l1 := t.core.l1 } } ∧
    (twf none s.core.l1 = true → ∀ a, t.core.l1At a = (s.core.l1At a).filter fun b => b.dirty)

/-- n bytes from a physical address lie outside the regions that firmware reserves, whose bytes are the entries they hold (R126, R151,
R368, R379). -/
def State.Apart (s : State) (pa n : Nat) : Prop :=
  ∀ b, s.hub.poolAt = some b → pa + n ≤ b ∨ b + reservedBytes ≤ pa

/-! ### Steps -/

/-- States that steps lead to. -/
inductive Reaches : State → State → Prop where
  | refl (s : State) : Reaches s s
  | step {s t u : State} : Reaches s t → Machine.step t = .next u → Reaches s u

/-- The clocks run, or a reset is among the inputs: the step answers a next state (R456). -/
def State.CanStep (s : State) : Prop := s.hub.tripped = false ∨ firstReset s.inputs ≠ none

end Sys2Proof.Machine
end

