-- ==== Sys2Proof/Certificates/Slice0/Obligations.lean ====
section
/-!
DEFINITION. Certificates/Slice0/Obligations.lean: the statements about the model.
-/
open Sys2Proof Sys2Proof.Machine

/-! ### The S class -/

/-- R231: the results of the integer arithmetic instructions, on the low n bits of the sources, extended under R228 to the
destination and the slot's latch. -/
def Obligations.IntegerArithmetic : Prop :=
  ∀ (x : OpA) (s : State),
    let n := tyWidth x.ty
    let sg := tySigned x.ty
    let a : BitVec n := (s.core.src x.cl x.a).setWidth n
    let b : BitVec n := (s.core.src x.cl x.b).setWidth n
    let c : BitVec n := (s.core.src x.cl x.c).setWidth n
    s.core.guard x.cl x.g = true → x.ty.isInt = true →
    IssuesWord s (.add x) x.cl x.d (widen sg (a + b)) ∧
    IssuesWord s (.sub x) x.cl x.d (widen sg (a - b)) ∧
    IssuesWord s (.mul x) x.cl x.d (widen sg (a * b)) ∧
    IssuesWord s (.mad x) x.cl x.d (widen sg (a * b + c)) ∧
    IssuesWord s (.mulh x) x.cl x.d (widen true (BitVec.ofInt n (a.toInt * b.toInt / 2 ^ n))) ∧
    IssuesWord s (.mulhn x) x.cl x.d (widen false (BitVec.ofNat n (a.toNat * b.toNat / 2 ^ n))) ∧
    IssuesWord s (.div x) x.cl x.d (widen true (if b = 0 then BitVec.allOnes n else BitVec.ofInt n (a.toInt.tdiv b.toInt))) ∧
    IssuesWord s (.divn x) x.cl x.d (widen false (if b = 0 then BitVec.allOnes n else a / b)) ∧
    IssuesWord s (.rem x) x.cl x.d (widen true (if b = 0 then a else BitVec.ofInt n (a.toInt.tmod b.toInt))) ∧
    IssuesWord s (.remn x) x.cl x.d (widen false (if b = 0 then a else a % b)) ∧
    IssuesWord s (.min x) x.cl x.d (widen true (if b.slt a then b else a)) ∧
    IssuesWord s (.max x) x.cl x.d (widen true (if a.slt b then b else a)) ∧
    IssuesWord s (.minn x) x.cl x.d (widen false (if b < a then b else a)) ∧
    IssuesWord s (.maxn x) x.cl x.d (widen false (if a < b then b else a)) ∧
    IssuesWord s (.abs x) x.cl x.d (widen sg (if a.msb then -a else a))

/-- R232: the results of the logic and shift instructions; the shift amount is the whole 64-bit value of B. R232: CLZ, CTZ and POPC
count the leading zeros, the trailing zeros and the ones of A[n−1:0]; both of the first two give n for zero; their results are
zero-extended whatever TY says. -/
def Obligations.LogicAndShifts : Prop :=
  (
    ∀ (x : OpA) (s : State),
      let n := tyWidth x.ty
      let sg := tySigned x.ty
      let a : BitVec n := (s.core.src x.cl x.a).setWidth n
      let b : BitVec n := (s.core.src x.cl x.b).setWidth n
      let k := (s.core.src x.cl x.b).toNat
      s.core.guard x.cl x.g = true → x.ty.isInt = true →
      IssuesWord s (.and x) x.cl x.d (widen sg (a &&& b)) ∧
      IssuesWord s (.or x) x.cl x.d (widen sg (a ||| b)) ∧
      IssuesWord s (.xor x) x.cl x.d (widen sg (a ^^^ b)) ∧
      IssuesWord s (.andn x) x.cl x.d (widen sg (a &&& ~~~b)) ∧
      IssuesWord s (.orn x) x.cl x.d (widen sg (a ||| ~~~b)) ∧
      IssuesWord s (.shl x) x.cl x.d (widen sg (if n ≤ k then 0 else a <<< k)) ∧
      IssuesWord s (.shr x) x.cl x.d (widen sg (if n ≤ k then 0 else a >>> k)) ∧
      IssuesWord s (.sar x) x.cl x.d (widen sg (if n ≤ k then (if a.msb then BitVec.allOnes n else 0) else a.sshiftRight k)) ∧
      IssuesWord s (.rol x) x.cl x.d (widen sg (a.rotateLeft (k % n)))
  ) ∧
  (
    ∀ (x : OpA) (s : State),
      let n := tyWidth x.ty
      let a : BitVec n := (s.core.src x.cl x.a).setWidth n
      s.core.guard x.cl x.g = true → x.ty.isInt = true →
      (∃ k, IssuesWord s (.clz x) x.cl x.d (BitVec.ofNat 64 k) ∧ (a = 0 → k = n) ∧
        (a ≠ 0 → k < n ∧ a.getLsbD (n - 1 - k) = true ∧ ∀ j, n - 1 - k < j → j < n → a.getLsbD j = false)) ∧
      (∃ k, IssuesWord s (.ctz x) x.cl x.d (BitVec.ofNat 64 k) ∧ (a = 0 → k = n) ∧
        (a ≠ 0 → k < n ∧ a.getLsbD k = true ∧ ∀ j, j < k → a.getLsbD j = false)) ∧
      IssuesWord s (.popc x) x.cl x.d (BitVec.ofNat 64 ((List.range n).filter fun j => a.getLsbD j).length)
  )

/-- R233, R234, R236, R237: BFX, BFI, LEA and the immediates. R238 to R242: CMP, CMPI, PLOG, SEL, XCL and XCP. -/
def Obligations.FieldsAndCompares : Prop :=
  (
    (∀ (x : OpA) (s : State),
      let a := s.core.src x.cl x.a
      let b := s.core.src x.cl x.b
      let c := s.core.src x.cl x.c
      s.core.guard x.cl x.g = true →
      (x.ty = .i64 ∨ x.ty = .n64 →
        let w := min c.toNat 64
        let f : BitVec w := (a >>> b.toNat).setWidth w
        IssuesWord s (.bfx x) x.cl x.d (if w = 0 ∨ 64 ≤ b.toNat then 0 else widen (tySigned x.ty) f)) ∧
      (1 ≤ x.md.toNat → x.md.toNat ≤ 64 → ∃ v : Word, IssuesWord s (.bfi x) x.cl x.d v ∧
        ∀ j, j < 64 → v.getLsbD j =
          if c.toNat ≤ j ∧ j < c.toNat + x.md.toNat then b.getLsbD (j - c.toNat) else a.getLsbD j) ∧
      IssuesWord s (.lea x) x.cl x.d (a + (b <<< (x.md.toNat % 8)) + c)) ∧
    (∀ (x : OpI) (s : State),
      let a := s.core.src x.cl x.a
      s.core.guard x.cl x.g = true →
      IssuesWord s (.addi x) x.cl x.d (a + x.imm.signExtend 64) ∧
      IssuesWord s (.movi x) x.cl x.d (x.imm.signExtend 64) ∧
      ∃ v : Word, IssuesWord s (.movh x) x.cl x.d v ∧ v.extractLsb' 32 32 = x.imm ∧ v.extractLsb' 0 32 = a.extractLsb' 0 32)
  ) ∧
  (
    (∀ (x : OpA) (s : State),
      let n := tyWidth x.ty
      let a : BitVec n := (s.core.src x.cl x.a).setWidth n
      let b : BitVec n := (s.core.src x.cl x.b).setWidth n
      let ta := s.core.src x.cl x.a ≠ 0
      let tb := s.core.src x.cl x.b ≠ 0
      s.core.guard x.cl x.g = true →
      (x.ty.isInt = true → x.sub.toNat < 12 → IssuesWord s (.cmp x) x.cl x.d (boolWord (cmpHolds x.sub.toNat a b))) ∧
      (x.sub.toNat < 6 → IssuesWord s (.plog x) x.cl x.d (if
        (x.sub = 0 ∧ ta ∧ tb) ∨ (x.sub = 1 ∧ (ta ∨ tb)) ∨ (x.sub = 2 ∧ ¬(ta ↔ tb)) ∨ (x.sub = 3 ∧ ¬ta) ∨
        (x.sub = 4 ∧ ta ∧ ¬tb) ∨ (x.sub = 5 ∧ (ta ∨ ¬tb)) then 1 else 0)) ∧
      IssuesWord s (.sel x) x.cl x.d (if s.core.src x.cl x.c ≠ 0 then s.core.src x.cl x.a else s.core.src x.cl x.b) ∧
      (x.cl = .a → IssuesWord s (.xcl x) .a x.d (s.core.src .b x.a) ∧ IssuesWord s (.xcp x) .a x.d (s.core.src .b x.a)) ∧
      (x.cl = .b → IssuesWord s (.xcl x) .b x.d (s.core.src .a x.a) ∧ IssuesWord s (.xcp x) .b x.d (s.core.src .a x.a))) ∧
    (∀ (x : OpI) (s : State),
      let a := s.core.src x.cl x.a
      let v : Word := x.imm.signExtend 64
      s.core.guard x.cl x.g = true →
      IssuesWord s (.cmpi x) x.cl x.d (boolWord (match x.isub.toNat with
        | 0 => decide (a = v)
        | 1 => decide (a ≠ v)
        | 2 => decide (a.toInt < v.toInt)
        | _ => decide (a.toNat < v.toNat))))
  )

/-- R243 to R246, R248, R249: the floating-point scalars: operands as codes of the type, one rounding under the FPCR captured at
issue, one NANIN when a NaN and one INFIN when an infinity is among the operands; FCLASS and FSGN raise and count nothing. R244,
R245: an exact zero sum of numbers is +0, and −0 under RDN, but two zeros of one sign keep it; the square root of −0 is −0; of
one NaN and one number, FMIN and FMAX return the number. R247: FCVT: SUB 1 rounds to integral in TY; SUB 0 converts under
FPCR.RM and SUB 2 toward zero, from the type MOD names to TY; an integer result is extended to 64 bits by its signedness. -/
def Obligations.FloatScalars : Prop :=
  (
    ∀ (x : OpA) (s : State),
      let t := stdOf x.ty
      let e := FpEnv.ofFpcr s.core.fpcr
      let a := s.core.fsrc x.cl t x.a
      let b := s.core.fsrc x.cl t x.b
      let c := s.core.fsrc x.cl t x.c
      let va := t.decode e.daz a
      let vb := t.decode e.daz b
      let vc := t.decode e.daz c
      let gives (i : Instr) (r : Nat × FpFlags) (ops : List Val) : Prop :=
        IssuesResult s i [x.d] (destWrites x.cl x.d (BitVec.ofNat 64 r.1)) (.word (BitVec.ofNat 64 r.1)) r.2
          { nanin := if ops.any Val.isNan then 1 else 0, infin := if ops.any Val.isInf then 1 else 0 }
      s.core.guard x.cl x.g = true →
      gives (.fadd x) (fpAdd t e va vb) [va, vb] ∧ gives (.fsub x) (fpSub t e va vb) [va, vb] ∧
      gives (.fmul x) (fpMul t e va vb) [va, vb] ∧ gives (.fma x) (fpFma t e va vb vc) [va, vb, vc] ∧
      gives (.fdiv x) (fpDiv t e va vb) [va, vb] ∧ gives (.fsqrt x) (fpSqrt t e va) [va] ∧
      gives (.fmin x) (fpMinMax t e false va vb a b) [va, vb] ∧ gives (.fmax x) (fpMinMax t e true va vb a b) [va, vb] ∧
      gives (.fcmp x) ((if (fpCompare x.sub.toNat va vb).1 then 1 else 0), (fpCompare x.sub.toNat va vb).2) [va, vb] ∧
      IssuesWord s (.fsgn x) x.cl x.d (BitVec.ofNat 64 (fsgn t x.sub.toNat a b)) ∧
      ((∀ k, x.ty ≠ .fd k) → IssuesWord s (.fclass x) x.cl x.d (BitVec.ofNat 64 (fpClassStd t a))) ∧
      (∀ k, x.ty = .fd k → IssuesWord s (.fclass x) x.cl x.d (BitVec.ofNat 64 (
        if s.core.fdValue (k.val + 1) = 0 then 0
        else fpClassNarrow (Desc.ofBits (s.core.fdValue (k.val + 1))) (s.core.src x.cl x.a).toNat)))
  ) ∧
  (
    ∀ (f : StdFmt) (e : FpEnv),
      (∀ (n : Bool) (m : Nat) (k : Int), m ≠ 0 →
        fpAdd f e (.num n m k) (.num (!n) m k) = (f.pack (e.rm == .rdn) 0 0, {})) ∧
      (∀ n j k, fpAdd f e (.num n 0 j) (.num n 0 k) = (f.pack n 0 0, {})) ∧
      (∀ k, fpSqrt f e (.num true 0 k) = (f.pack true 0 0, {})) ∧
      (∀ v neg fr sg a b, v.isNan = false → v.isZero = false → ∀ mx,
        (fpMinMax f e mx (.nan neg fr sg) v a b).1 = b ∧ (fpMinMax f e mx v (.nan neg fr sg) a b).1 = a)
  ) ∧
  (
    ∀ (x : OpA) (s : State) (sty : Ty),
      let e := FpEnv.ofFpcr s.core.fpcr
      s.core.guard x.cl x.g = true →
      (x.sub = 1 →
        let t := stdOf x.ty
        let v := t.decode e.daz (s.core.fsrc x.cl t x.a)
        let r := fpRint t e v
        IssuesResult s (.fcvt x) [x.d] (destWrites x.cl x.d (BitVec.ofNat 64 r.1)) (.word (BitVec.ofNat 64 r.1)) r.2 (fpCounts [v])) ∧
      (x.sub ≠ 1 → decTy (x.md.extractLsb' 0 5) = some sty →
        let r := convertElem (s.core.fmt sty) (s.core.fmt x.ty) e (x.sub == 2) 0 0 (s.core.cvtSrc x.cl (s.core.fmt sty) x.a)
        IssuesResult s (.fcvt x) [x.d] (destWrites x.cl x.d (cvtWord (s.core.fmt x.ty) r.1)) (.word (cvtWord (s.core.fmt x.ty) r.1))
          r.2.1 r.2.2)
  )

/-! ### The V class -/

/-- R251, R252: a scalar gives its low bits to every element, an immediate its value, 0x7F zero; QEN writes whole containers of the
quarters it enables. -/
def Obligations.VectorOperands : Prop :=
  (∀ (c : Core) (cl : Cluster) (ty : Ty) (n : Fin 64) (m : Fin 16) (v : BitVec 7),
    ty.vInt = true →
    let w := tyWidth ty
    c.vsrc cl (c.fmt ty) (.vreg m) = c.regs.vector cl m.val ∧ c.vsrc cl (c.fmt ty) .nil = 0 ∧
    ∀ k, k < 32768 / w →
      elemAt w (c.vsrc cl (c.fmt ty) (.sreg n)) k = (c.regs.scalar cl n.val).setWidth w ∧
      elemAt w (c.vsrc cl (c.fmt ty) (.imm v)) k = BitVec.ofInt w v.toInt) ∧
  ∀ (qen : BitVec 4) (j : Nat), j < 32768 →
    (qenMask qen).getLsbD j = (qen == 0 || qen.getLsbD (j / 32 % 64 / 16))

/-- R252, R255: elementwise integer instructions. R256, R257: VDOT4 and VCMP. -/
def Obligations.VectorIntegers : Prop :=
  (
    ∀ (x : OpA) (s : State),
      let n := tyWidth x.ty
      let sg := tySigned x.ty
      let t := s.core.fmt x.ty
      let sat := x.md.getLsbD 4
      let a (k : Nat) : BitVec n := elemAt n (s.core.vsrc x.cl t x.a) k
      let b (k : Nat) : BitVec n := elemAt n (s.core.vsrc x.cl t x.b) k
      let c (k : Nat) : BitVec n := elemAt n (s.core.vsrc x.cl t x.c) k
      let gives (i : Instr) (f : Nat → BitVec n) : Prop := IssuesElems s i x.cl x.d (x.md.extractLsb' 0 4) n f
      s.core.guard x.cl x.g = true → x.ty.vInt = true →
      gives (.vadd x) (fun k => intoBits sat sg n (asInt sg (a k) + asInt sg (b k))) ∧
      gives (.vsub x) (fun k => intoBits sat sg n (asInt sg (a k) - asInt sg (b k))) ∧
      gives (.vmul x) (fun k => intoBits sat sg n (asInt sg (a k) * asInt sg (b k))) ∧
      gives (.vmad x) (fun k => intoBits sat sg n (asInt sg (a k) * asInt sg (b k) + asInt sg (c k))) ∧
      gives (.vmin x) (fun k => if asInt sg (b k) < asInt sg (a k) then b k else a k) ∧
      gives (.vmax x) (fun k => if asInt sg (a k) < asInt sg (b k) then b k else a k) ∧
      gives (.vclamp x) (fun k =>
        let m := if asInt sg (a k) < asInt sg (b k) then b k else a k
        if asInt sg (c k) < asInt sg m then c k else m) ∧
      gives (.vabs x) (fun k => if asInt sg (a k) < 0 then -(a k) else a k) ∧
      gives (.vneg x) (fun k => -(a k)) ∧
      gives (.vshl x) (fun k => if n ≤ (b k).toNat then 0 else a k <<< (b k).toNat) ∧
      gives (.vshr x) (fun k => if n ≤ (b k).toNat then 0 else a k >>> (b k).toNat) ∧
      gives (.vsar x) (fun k => if n ≤ (b k).toNat then (if (a k).msb then BitVec.allOnes n else 0) else (a k).sshiftRight (b k).toNat) ∧
      gives (.vpopc x) (fun k => BitVec.ofNat n ((List.range n).filter fun j => (a k).getLsbD j).length)
  ) ∧
  (
    ∀ (x : OpA) (s : State),
      let n := tyWidth x.ty
      let sg := tySigned x.ty
      let t := s.core.fmt x.ty
      let qen : BitVec 4 := x.md.extractLsb' 0 4
      let va := s.core.vsrc x.cl t x.a
      let vb := s.core.vsrc x.cl t x.b
      s.core.guard x.cl x.g = true →
      (x.ty.vInt = true →
        IssuesElems s (.vdot4 x) x.cl x.d qen 32 (fun k =>
          BitVec.ofInt 32 (((List.range (32 / n)).map fun j =>
            asInt sg (elemAt n va (32 / n * k + j)) * asInt sg (elemAt n vb (32 / n * k + j))).sum) + elemAt 32 (s.core.vraw x.cl x.c) k) ∧
        (x.sub.toNat < 6 ∨ x.sub = 10 ∨ x.sub = 11 → IssuesElems s (.vcmp x) x.cl x.d qen n (fun k =>
          let a : BitVec n := elemAt n va k
          let b : BitVec n := elemAt n vb k
          let holds : Bool := match x.sub.toNat with
            | 0 => a == b
            | 1 => a != b
            | 2 => decide (asInt sg a < asInt sg b)
            | 3 => decide (asInt sg a ≤ asInt sg b)
            | 4 => decide (asInt sg b < asInt sg a)
            | 5 => decide (asInt sg b ≤ asInt sg a)
            | 10 => a &&& b == 0
            | _ => a &&& b != 0
          if holds then BitVec.allOnes n else 0))) ∧
      (x.ty.vFloat = true →
        let f := stdOf x.ty
        let e := FpEnv.ofFpcr s.core.fpcr
        IssuesFloats s (.vcmp x) x.cl x.d qen f.width (fun k =>
          let a := f.decode e.daz (elemAt f.width va k).toNat
          let b := f.decode e.daz (elemAt f.width vb k).toNat
          let r := fpCompare x.sub.toNat a b
          (if r.1 then 2 ^ f.width - 1 else 0, r.2, fpCounts [a, b])))
  )

/-- R254, R255: elementwise floating-point instructions: one rounding an element under the FPCR captured at issue; VABS and VNEG
change the sign bit alone. -/
def Obligations.VectorFloats : Prop :=
  ∀ (x : OpA) (s : State),
    let f := stdOf x.ty
    let n := f.width
    let e := FpEnv.ofFpcr s.core.fpcr
    let t := s.core.fmt x.ty
    let a (k : Nat) : Nat := (elemAt n (s.core.vsrc x.cl t x.a) k).toNat
    let b (k : Nat) : Nat := (elemAt n (s.core.vsrc x.cl t x.b) k).toNat
    let c (k : Nat) : Nat := (elemAt n (s.core.vsrc x.cl t x.c) k).toNat
    let v (m : Nat) : Val := f.decode e.daz m
    let counts (l : List Nat) : FpCounts := fpCounts (l.map v)
    let gives (i : Instr) (g : Nat → Nat × FpFlags × FpCounts) : Prop := IssuesFloats s i x.cl x.d (x.md.extractLsb' 0 4) n g
    s.core.guard x.cl x.g = true → x.ty.vFloat = true →
    gives (.vadd x) (fun k => let r := fpAdd f e (v (a k)) (v (b k)); (r.1, r.2, counts [a k, b k])) ∧
    gives (.vsub x) (fun k => let r := fpSub f e (v (a k)) (v (b k)); (r.1, r.2, counts [a k, b k])) ∧
    gives (.vmul x) (fun k => let r := fpMul f e (v (a k)) (v (b k)); (r.1, r.2, counts [a k, b k])) ∧
    gives (.vfma x) (fun k => let r := fpFma f e (v (a k)) (v (b k)) (v (c k)); (r.1, r.2, counts [a k, b k, c k])) ∧
    gives (.vfms x) (fun k => let r := fpFms f e (v (a k)) (v (b k)) (v (c k)); (r.1, r.2, counts [a k, b k, c k])) ∧
    gives (.vmin x) (fun k => let r := fpMinMax f e false (v (a k)) (v (b k)) (a k) (b k); (r.1, r.2, counts [a k, b k])) ∧
    gives (.vmax x) (fun k => let r := fpMinMax f e true (v (a k)) (v (b k)) (a k) (b k); (r.1, r.2, counts [a k, b k])) ∧
    gives (.vclamp x) (fun k =>
      let m := fpMinMax f e true (v (a k)) (v (b k)) (a k) (b k)
      let r := fpMinMax f e false (v m.1) (v (c k)) m.1 (c k)
      (r.1, m.2.or r.2, counts [a k, b k, c k])) ∧
    gives (.vabs x) (fun k => (a k % 2 ^ (n - 1), {}, {})) ∧
    gives (.vneg x) (fun k => (if a k < 2 ^ (n - 1) then a k + 2 ^ (n - 1) else a k - 2 ^ (n - 1), {}, {}))

/-- R259: VSPLAT, VINS and VEXT of the integer types. An index names row [3:0], column [13:8] and slot [17:16] mod epc. R258, R260:
whole containers, bit by bit or moved. -/
def Obligations.VectorElements : Prop :=
  (
    ∀ (x : OpA) (s : State),
      let n := tyWidth x.ty
      let t := s.core.fmt x.ty
      let qen : BitVec 4 := x.md.extractLsb' 0 4
      let w := (s.core.src x.cl x.a).setWidth n
      let i := (s.core.src x.cl x.b).toNat
      let p := (64 * (i % 16) + i / 256 % 64) * (32 / n) + i / 65536 % 4 % (32 / n)
      s.core.guard x.cl x.g = true → x.ty.vInt = true →
      IssuesElems s (.vsplat x) x.cl x.d qen n (fun _ => w) ∧
      IssuesElems s (.vins x) x.cl x.d qen n (fun k => if k = p then w else elemAt n (s.core.vraw x.cl x.c) k) ∧
      IssuesWord s (.vext x) x.cl x.d (widen (tySigned x.ty) (elemAt n (s.core.vsrc x.cl t x.a) p))
  ) ∧
  (
    ∀ (x : OpA) (s : State),
      let a := s.core.vraw x.cl x.a
      let b := s.core.vraw x.cl x.b
      let c := s.core.vraw x.cl x.c
      let m := (s.core.src x.cl x.b).toNat
      let gives (i : Instr) (f : Nat → BitVec 32) : Prop := IssuesElems s i x.cl x.d (x.md.extractLsb' 0 4) 32 f
      s.core.guard x.cl x.g = true →
      gives (.vand x) (fun k => elemAt 32 a k &&& elemAt 32 b k) ∧
      gives (.vor x) (fun k => elemAt 32 a k ||| elemAt 32 b k) ∧
      gives (.vxor x) (fun k => elemAt 32 a k ^^^ elemAt 32 b k) ∧
      gives (.vandn x) (fun k => elemAt 32 a k &&& ~~~elemAt 32 b k) ∧
      gives (.vsel x) (fun k => (elemAt 32 a k &&& elemAt 32 c k) ||| (elemAt 32 b k &&& ~~~elemAt 32 c k)) ∧
      gives (.vmov x) (fun k => elemAt 32 a k) ∧
      gives (.vrotr x) (fun k => contAt a ((k / 64 + m) % 16) (k % 64)) ∧
      gives (.vrotc x) (fun k => contAt a (k / 64) ((k % 64 + m) % 64)) ∧
      gives (.vbcr x) (fun k => contAt a (m % 16) (k % 64)) ∧
      gives (.vbcc x) (fun k => contAt a (k / 64) (m % 64)) ∧
      gives (.vtrn x) (fun k => contAt a (k % 64 % 16) (16 * (k % 64 / 16) + k / 64))
  )

/-- R261: VREDR and VREDC reduce by the fixed pairwise tree; without BC the value goes to row 0, or to element 0 of its row, and
every other element is zero. R261: an integer sum down the rows wraps modulo 2^n, whatever the tree. -/
def Obligations.VectorReductions : Prop :=
  (
    ∀ (x : OpA) (s : State),
      let t := s.core.fmt x.ty
      let n := t.stride
      let row := 64 * t.epc
      let e := FpEnv.ofFpcr s.core.fpcr
      let op := (x.sub.extractLsb' 0 3).toNat
      let bc := x.sub.getLsbD 3
      let va := s.core.vsrc x.cl t x.a
      let qen : BitVec 4 := x.md.extractLsb' 0 4
      s.core.guard x.cl x.g = true → x.ty.vInt = true ∨ x.ty.vFloat = true →
      let down (k : Nat) := reduceAll op t e 4 ((List.range 16).map fun j => (elemAt n va (row * j + k)).toNat)
      let across (i : Nat) := reduceAll op t e (Nat.log2 row) ((List.range row).map fun j => (elemAt n va (row * i + j)).toNat)
      (∃ r, IssuesVector s (.vredr x) x.cl x.d r ∧ r.mask = qenMask qen ∧
        (∀ i k, i < 16 → k < row → elemAt n r.val (row * i + k) = if bc = true ∨ i = 0 then BitVec.ofNat n (down k).1 else 0) ∧
        r.fl = orFlags (((List.range row).filter fun k => elemOn n qen k).map fun k => (down k).2.1) ∧
        r.cnt = addCounts (((List.range row).filter fun k => elemOn n qen k).map fun k => (down k).2.2)) ∧
      (∃ r, IssuesVector s (.vredc x) x.cl x.d r ∧ r.mask = qenMask qen ∧
        (∀ i k, i < 16 → k < row → elemAt n r.val (row * i + k) = if bc = true ∨ k = 0 then BitVec.ofNat n (across i).1 else 0) ∧
        (bc = true ∨ qenOn qen 0 = true → r.fl = orFlags ((List.range 16).map fun i => (across i).2.1) ∧
          r.cnt = addCounts ((List.range 16).map fun i => (across i).2.2)) ∧
        (bc = false → qenOn qen 0 = false → r.fl = {} ∧ r.cnt = {}))
  ) ∧
  (
    ∀ (sg : Bool) (n : Nat) (e : FpEnv) (l : List Nat), 0 < n → l.length = 16 → (∀ m ∈ l, m < 2 ^ n) →
      reduceAll 0 (.int sg n) e 4 l = (l.sum % 2 ^ n, {}, {})
  )

/-- R262: VCVT converts the part of each row that PART names. -/
def Obligations.VectorConversion : Prop :=
  ∀ (x : OpA) (s : State) (sty : Ty),
    let e := FpEnv.ofFpcr s.core.fpcr
    let src := s.core.fmt sty
    let dst := s.core.fmt x.ty
    let part := (x.md.extractLsb' 5 2).toNat
    let va := s.core.vsrc x.cl src x.a
    let vc := s.core.vraw x.cl x.c
    s.core.guard x.cl x.g = true →
    (x.sub = 1 → x.ty.vFloat = true →
      let f := stdOf x.ty
      IssuesFloats s (.vcvt x) x.cl x.d 0 f.width (fun k =>
        let v := f.decode e.daz (elemAt f.width (s.core.vsrc x.cl dst x.a) k).toNat
        let r := fpRint f e v
        (r.1, r.2, fpCounts [v]))) ∧
    (x.sub ≠ 1 → decTy (x.md.extractLsb' 0 5) = some sty → partOk src dst part = true →
      IssuesFloats s (.vcvt x) x.cl x.d 0 dst.stride (fun k =>
        let r := k / (64 * dst.epc)
        let j := k % (64 * dst.epc)
        let conv (m : Nat) := convertElem src dst e (x.sub == 2) 0 0 (elemAt src.stride va (64 * src.epc * r + m)).toNat
        if src.epc ≤ dst.epc then
          if part * 64 * src.epc ≤ j ∧ j < (part + 1) * 64 * src.epc then conv (j - part * 64 * src.epc)
          else ((elemAt dst.stride vc k).toNat, {}, {})
        else conv (part * 64 * dst.epc + j)))

/-- R263: the special functions issue one value an element, rounded once: VRCP the quotient of one, VSQRT the root of R244, VRSQ
the reciprocal root, bracketed to 100 bits with the rest sticky; VEXP2 of an integer and VLOG2 of a power of two exactly; and every
special case of the table, for each type. (How near the roundings of the other values of VEXP2, VLOG2 and VTANH come is not
stated here.) -/
def Obligations.SpecialFunctions : Prop :=
  (∀ (x : OpA) (s : State),
    let f := stdOf x.ty
    let e := FpEnv.ofFpcr s.core.fpcr
    let v (k : Nat) : Val := f.decode e.daz (elemAt f.width (s.core.vsrc x.cl (s.core.fmt x.ty) x.a) k).toNat
    let gives (i : Instr) (op : SfuOp) : Prop := IssuesFloats s i x.cl x.d (x.md.extractLsb' 0 4) f.width (fun k =>
      ((sfuElem op f e (v k)).1, (sfuElem op f e (v k)).2, fpCounts [v k]))
    s.core.guard x.cl x.g = true → x.ty.vFloat = true →
    gives (.vrcp x) .rcp ∧ gives (.vrsq x) .rsq ∧ gives (.vsqrt x) .sqrt ∧ gives (.vexp2 x) .exp2 ∧ gives (.vlog2 x) .log2 ∧
    gives (.vtanh x) .tanh) ∧
  (∀ (f : StdFmt) (e : FpEnv) (n : Bool) (m : Nat) (k : Int),
    sfuElem .rcp f e (.num n 0 k) = (f.infCode n, FpFlags.dzF) ∧ sfuElem .rsq f e (.num n 0 k) = (f.infCode n, FpFlags.dzF) ∧
    sfuElem .sqrt f e (.num n 0 k) = (f.pack n 0 0, {}) ∧ sfuElem .log2 f e (.num n 0 k) = (f.infCode true, FpFlags.dzF) ∧
    sfuElem .tanh f e (.num n 0 k) = (f.pack n 0 0, {}) ∧ sfuElem .rcp f e (.inf n) = (f.pack n 0 0, {}) ∧
    sfuElem .exp2 f e (.inf true) = (f.pack false 0 0, {}) ∧ sfuElem .exp2 f e (.inf false) = (f.infCode false, {}) ∧
    sfuElem .log2 f e (.inf false) = (f.infCode false, {}) ∧ sfuElem .rsq f e (.inf false) = (f.pack false 0 0, {}) ∧
    sfuElem .sqrt f e (.inf false) = (f.infCode false, {}) ∧ sfuElem .tanh f e (.inf n) = (f.pack n f.bias 0, {}) ∧
    sfuElem .exp2 f e (.num n 0 k) = (f.pack false f.bias 0, {}) ∧
    (∀ op frac sig, sfuElem op f e (.nan n frac sig) = (if e.cn = true then f.canonNan else f.nanCode n frac, { io := sig })) ∧
    (∀ op : SfuOp, op = .rsq ∨ op = .sqrt ∨ op = .log2 →
      sfuElem op f e (.inf true) = invalid f ∧ (m ≠ 0 → sfuElem op f e (.num true m k) = invalid f)) ∧
    sfuElem .sqrt f e (.num n m k) = fpSqrt f e (.num n m k) ∧ sfuElem .rcp f e (.num n m k) = fpDiv f e (.num false 1 0) (.num n m k) ∧
    (m ≠ 0 → ∃ (r t : Nat) (q : Int), sfuElem .rsq f e (.num false m k) = roundStdVal f e e.rm (.num false (2 * r + t) (q - 1)) ∧
      2 ^ 100 ≤ r ∧ (r : ℚ) ^ 2 * (m * 2 ^ (2 * q + k)) ≤ 1 ∧ 1 < ((r : ℚ) + 1) ^ 2 * (m * 2 ^ (2 * q + k)) ∧
      (t = 0 ∨ t = 1) ∧ (t = 0 ↔ (r : ℚ) ^ 2 * (m * 2 ^ (2 * q + k)) = 1)) ∧
    (∀ i j : Nat, 0 < i → i < 4096 → j ≤ 400 → sfuElem .exp2 f e (.num n (i * 2 ^ j) (-(j : Int))) =
      roundStdVal f e e.rm (.num false 1 (if n = true then -(i : Int) else i))) ∧
    (∀ j : Nat, sfuElem .log2 f e (.num false (2 ^ j) k) = roundStdVal f e e.rm (Val.ofInt (k + j)))) ∧
  (∀ e : FpEnv, e.rm = .rne → sfuElem .tanh .f32 e (.num false 1 0) = (0x3F42F7D6, { nx := true })) ∧
  (∀ (f : StdFmt) (e : FpEnv),
    sfuElem .rcp f e (.num false 1 0) = (f.pack false f.bias 0, {}) ∧ sfuElem .log2 f e (.num false 1 0) = (f.pack false 0 0, {}) ∧
    sfuElem .exp2 f e (.num false 1 0) = (f.pack false (f.bias + 1) 0, {}))

/-! ### The T class: matrix, hypervectors, local store, descriptors -/

/-- R267, R269 to R272: SLLD fills columns 0 to N of a stationary latch with words of the tile; MMA adds to, MMAZ starts, the
quarter Q of D: element (r, c) of it is the sum of R220 where the mask enables row r and column c, else what it was (MMA) or
zero (MMAZ). R220: a step on integers is their exact sum of products, rounded once into f32, to nearest even. -/
def Obligations.MatrixSteps : Prop :=
  (
    (∀ (x : OpL) (s : State) (n : Fin 4), s.Acts (.slld x) → x.v = .sl n →
      ∃ latch, IssuesResult s (.slld x) [x.v] [.sl n.val (x.n.toNat + 1) latch] .none {} {} ∧
        ∀ k r, ((s.core.lsRows (.slld x)).take 16)[k]? = some r → tget MatRow.zero latch k = s.lsRow r) ∧
    (∀ (x : OpMma) (s : State) (z : Bool),
      let i : Instr := if z then .mmaz x else .mma x
      let fa := s.core.fmt x.fa
      let fb := s.core.fmt x.fb
      let mask := s.core.stepMask x.m
      let rows := (s.core.lsRows i).map s.lsRow
      let latch := tget ([] : StatLatch) s.core.regs.sl x.l.val
      let count := if mask.depth = 0 then mmaDepth fa.width else mask.depth
      let acc (r c : Nat) : Nat := if z then 0 else s.core.accIn x.d x.q.toNat r c
      let elem (r c : Nat) : Nat × FpFlags × FpCounts :=
        if mask.rows.getLsbD r && mask.cols.getLsbD c then
          mmaElem (FpEnv.ofFpcr s.core.fpcr).cn (acc r c) (rowVals fa count (rows.getD r MatRow.zero))
            (rowVals fb count (tget MatRow.zero latch c))
        else (acc r c, {}, {})
      s.Acts i →
      ∃ t v, exec i s = .next { t with core := { t.core with cnt := { t.core.cnt with cur := t.core.cnt.cur + 1 } } } ∧
        IssuedBy s t i (s.latOf i) [x.d]
          (match x.d with
            | .vreg n => [.vec .b n.val v (quarterMask x.q.toNat)]
            | _ => [])
          (.wide (quarterVec 0 ((List.range 256).map fun k => (elem (k / 16) (k % 16)).1)) (BitVec.allOnes 32768))
          (orFlags ((List.range 256).map fun k => (elem (k / 16) (k % 16)).2.1))
          (addCounts ((List.range 256).map fun k => (elem (k / 16) (k % 16)).2.2)) ∧
        ∀ r c, r < 16 → c < 16 → contAt v r (16 * x.q.toNat + c) = BitVec.ofNat 32 (elem r c).1)
  ) ∧
  (
    ∀ (cn : Bool) (l : List (Int × Int)),
      let z := (l.map fun p => p.1 * p.2).sum
      (mmaElem cn 0 (l.map fun p => Val.ofInt p.1) (l.map fun p => Val.ofInt p.2)).1 =
        (StdFmt.f32.round .rne false (decide (z < 0)) z.natAbs 0).1
  )

/-- R279, R284, R287, R288, R291: the hypervector instructions, bit by bit. R280, R285, R287: HBUND adds its weight to counter i
where bit i is 1 and subtracts it where it is 0, within −128 to 127; the counters that would leave the range are counted; HCCLR
clears. -/
def Obligations.Hypervectors : Prop :=
  (
    (∀ (x : OpA) (s : State),
      let a := s.core.hsrc x.a
      let b := s.core.hsrc x.b
      s.core.guard x.cl x.g = true → x.cl = .b →
      IssuesHyper s (.hxor x) x.d (a ^^^ b) ∧
      IssuesHyper s (.hlog x) x.d (match x.sub.toNat with
        | 0 => a &&& b
        | 1 => a ||| b
        | 2 => ~~~a
        | _ => a &&& ~~~b) ∧
      (∃ h, IssuesHyper s (.hrot x) x.d h ∧
        ∀ i, i < 6144 → h.getLsbD ((i + (((s.core.src .b x.b).toInt % 6144).toNat)) % 6144) = a.getLsbD i) ∧
      (∃ h, IssuesHyper s (.hmaj x) x.d h ∧
        ∀ i, i < 6144 → h.getLsbD i = (decide (0 < ctr (s.core.csrc x.a) i) || (decide (ctr (s.core.csrc x.a) i = 0) && b.getLsbD i))) ∧
      IssuesResult s (.htie x) [x.d] [.ht (hvTie (s.core.src .b x.a))] .none {} {} ∧
      (x.sub = 0 → IssuesHyper s (.hmovv x) x.d (hvOfVec (s.core.vraw .b x.a))) ∧
      (x.sub = 1 → IssuesVector s (.hmovv x) .b x.d { val := hvToVec a, mask := qenMask 0, fl := {}, cnt := {} }) ∧
      (x.sub = 2 → IssuesVector s (.hmovv x) .b x.d
        { val := ctrToVec (s.core.csrc x.a) (x.md.toNat % 2), mask := qenMask 0, fl := {}, cnt := {} }) ∧
      (x.sub = 3 → IssuesCounters s (.hmovv x) x.d
        (fun k => .hcHalf k (x.md.toNat % 2) (ctrOfVec 0 (s.core.vraw .b x.a) (x.md.toNat % 2))) 0)) ∧
    (∀ (h : HyperVec) (r b : Nat), r < 16 → b < 384 → (hvToVec h).getLsbD (2048 * r + b) = h.getLsbD (384 * r + b)) ∧
    ∀ h : HyperVec, hvOfVec (hvToVec h) = h
  ) ∧
  (
    ∀ (x : OpA) (s : State),
      let w := (x.md.toNat % 16 : Int)
      let h := s.core.hsrc x.b
      let exact (i : Nat) : Int := ctr (s.core.bundIn x.a) i + (if h.getLsbD i = x.md.getLsbD 4 then -w else w)
      s.core.guard x.cl x.g = true → x.cl = .b →
      (∃ c, IssuesCounters s (.hbund x) x.d (fun k => .hc k c)
          ((List.range 6144).filter fun i => decide (exact i < -128) || decide (127 < exact i)).length ∧
        ∀ i, i < 6144 → ctr c i = max (-128) (min (exact i) 127)) ∧
      IssuesCounters s (.hcclr x) x.d (fun k => .hc k 0) 0 ∧ ∀ i, ctr 0 i = 0
  )

/-- R299, R304: word i of a range of the local store; the word a form-L access names; and what the pair holds after a write. R305:
LSLD reads 8 bytes at byte 8Q of the word; LSST writes them. R306, R307: LSLDV and LSSTV raw: row r of the register is, in
columns 0 to 11, row r of the tile; rows above N keep their contents; the mask word of `.m` enables rows by bits [15:0] and
bytes by bits [63:16]. R290: HLD and HST move whole rows. -/
def Obligations.LocalStores : Prop :=
  (
    (∀ k b i, lsPlace true k b i = ((k + i) % 8, b + i / 8) ∧ lsPlace false k b i = (k, b + i)) ∧
    ∀ (p : Pair) (w : LsWrite) (key : Nat), twf 0 p.data = true → twf 0 p.scale = true →
      tget 0 (p.store w).data key =
        (if key = w.key then (tget 0 p.data key &&& ~~~w.mask) ||| (w.val &&& w.mask) else tget 0 p.data key) ∧
      tget 0 (p.store w).scale key = (if key = w.key then w.scale.getD (tget 0 p.scale key) else tget 0 p.scale key) ∧
      (p.store w).tags = p.tags ∧ (p.store w).sb = p.sb
  ) ∧
  (
    ∀ (x : OpL) (s : State),
      let key := lsKey x.grp.toNat x.bank.toNat (s.core.lsBase x).toNat
      let q := x.md.toNat % 8
      (s.Acts (.lsld x) → ∃ v, IssuesWord s (.lsld x) x.cl x.v v ∧
        ∀ j, j < 64 → v.getLsbD j = (s.lsData key s.cycle).getLsbD (64 * q + j)) ∧
      (s.Acts (.lsst x) → ∃ t w, exec (.lsst x) s = .next t ∧ StoresLocal s t [w] ∧ w.key = key ∧ w.clock = s.cycle ∧ w.scale = none ∧
        ∀ j, j < 384 → (w.mask.getLsbD j = (decide (64 * q ≤ j) && decide (j < 64 * q + 64))) ∧
          (w.mask.getLsbD j = true → w.val.getLsbD j = (s.core.src x.cl x.v).getLsbD (j - 64 * q)))
  ) ∧
  (
    ∀ (x : OpL) (s : State),
      (s.Acts (.lsldv x) → x.sub = 0 → ∃ v, IssuesResult s (.lsldv x) [x.v]
          (match x.v with
            | .vreg k => [.vec x.cl k.val v (rowsMask x.n.toNat)]
            | _ => []) (.word (v.setWidth 64)) {} {} ∧
        ∀ k r, (s.core.lsRows (.lsldv x))[k]? = some r → k < 16 → vecRow v k = (s.lsRow r).data.setWidth 2048) ∧
      (s.Acts (.lsstv x) → x.sub = 0 → ∃ t ws, exec (.lsstv x) s = .next t ∧ StoresLocal s t ws ∧
        ∀ w, w ∈ ws ↔ ∃ k r, ((s.core.lsRows (.lsstv x)).take 16)[k]? = some r ∧ (s.core.storeMask x).getLsbD k = true ∧
          w = { key := r.1 * 2048 + r.2.1, clock := s.cycle + r.2.2, val := (vecRow (s.core.vraw x.cl x.v) k).setWidth 384,
                mask := byteMask (s.core.storeMask x), scale := none }) ∧
      (s.Acts (.hld x) → ∃ h, IssuesHyper s (.hld x) x.v h ∧
        ∀ k r, (s.core.lsRows (.hld x))[k]? = some r → k < 16 → hvRow h k = (s.lsRow r).data) ∧
      (s.Acts (.hst x) → ∃ t ws, exec (.hst x) s = .next t ∧ t = { s with core := { s.core with
          iss := s.core.iss.map fun b => { b with lsw := b.lsw ++ ws } } } ∧
        ∀ w, w ∈ ws ↔ ∃ k r, ((s.core.lsRows (.hst x)).take 16)[k]? = some r ∧
          w = { key := r.1 * 2048 + r.2.1, clock := s.cycle + r.2.2, val := hvRow (s.core.hsrc x.v) k, mask := BitVec.allOnes 384,
                scale := none })
  )

/-! ### The C class -/

/-- R176 to R179, R181, R186, R187: each transfer sets the redirect of its bundle; CALL and CALLI also issue the link, visible at
issue + 1; a target outside the code section is the fatal fault BADTARGET. NOP and the hints do nothing (R76, R77). LBRK's F is the sequential successor of the loop's END. R174, R179,
R182 to R189: what follows a bundle, and the stage predicates. `loops` are the active loops, innermost first. -/
def Obligations.Transfers : Prop :=
  (
    ∀ (x : OpC) (s : State),
      let at_ := s.core.bundle.1
      let a := s.core.src .a x.a
      let len := s.core.iss.elim 1 fun b => b.len
      let link : Word := BitVec.ofNat 64 (at_ + len)
      let redirected (r : Redirect) : State := { s with core := { s.core with iss := s.core.iss.map fun b => { b with redir := r } } }
      let badTarget (t : Int) : Host.Outcome State Fault Refusal :=
        .next (s.fatal s.cur s.core.bundle.2 at_ 1 0x23 (BitVec.ofInt 64 t) 0 0)
      let calls (i : Instr) (u : State) : Prop := ∃ t, exec i s = .next t ∧
        IssuedBy u t i (1, 1) (if x.wbs then [] else [.sreg 63]) (if x.wbs then [] else [.sreg .a 63 link]) (.word link) {} {}
      let t := (at_ : Int) + x.disp.toInt
      (s.core.guard .a x.g = true →
        (0 ≤ t → t < s.image.words →
          exec (.br x) s = .next (redirected (.xfer t.toNat true)) ∧ calls (.call x) (redirected (.xfer t.toNat false))) ∧
        (t < 0 ∨ s.image.words ≤ t → exec (.br x) s = badTarget t ∧ exec (.call x) s = badTarget t) ∧
        (a.toNat < s.image.words →
          exec (.bri x) s = .next (redirected (.xfer a.toNat true)) ∧ exec (.ret x) s = .next (redirected (.xfer a.toNat false)) ∧
          calls (.calli x) (redirected (.xfer a.toNat false))) ∧
        (s.image.words ≤ a.toNat → exec (.bri x) s = badTarget a.toNat ∧ exec (.ret x) s = badTarget a.toNat ∧
          exec (.calli x) s = badTarget a.toNat) ∧
        (s.Acts (.loop x) →
          let n := a.toNat % 2 ^ 32
          let fall := t.toNat + s.bundleLen t.toNat
          exec (.loop x) s = .next (redirected (if n = 0 then .zero fall else
            .start { start := at_ + len, stop := t.toNat, neff := n, pass := 0, stages := x.sub.toNat % 8 + 1,
                     base := x.sub.toNat / 8, exit := x.md.toNat, drain := false }))) ∧
        (s.Acts (.lbrk x) →
          (s.core.loops = [] → ∃ f, exec (.lbrk x) s = .next (redirected (.brk f))) ∧
          ∀ l rest, s.core.loops = l :: rest → exec (.lbrk x) s = .next (redirected (.brk (l.stop + s.bundleLen l.stop)))) ∧
        exec (.ldrain x) s = .next (redirected .drain)) ∧
      exec (.branchHint x) s = .next s ∧
      ∀ n : Fin 8, exec (.nop n) s = .next s
  ) ∧
  (
    (∀ (loops : List Loop) (at_ len : Nat) (quiet pre : Bool) (t : Nat) (l : Loop) (rest : List Loop),
      nextAfter loops at_ len quiet (.xfer t false) pre = { pc := t, redirect := 2, loops := loops, px := none } ∧
      (∃ k, nextAfter loops at_ len quiet (.xfer t true) pre = { pc := t, redirect := 2, loops := loops.drop k, px := none } ∧
        (∀ m ∈ loops.drop k, m.start ≤ t ∧ t ≤ m.stop) ∧
        ∀ j, j + 1 = k → ∀ m, loops[j]? = some m → ¬(m.start ≤ t ∧ t ≤ m.stop)) ∧
      nextAfter loops at_ len quiet (.start l) pre = { pc := l.start, redirect := 0, loops := l :: loops, px := some false } ∧
      nextAfter loops at_ len quiet (.zero t) pre = { pc := t, redirect := 2, loops := loops, px := none } ∧
      nextAfter (l :: rest) at_ len quiet (.brk t) pre = { pc := t, redirect := 2, loops := rest, px := none } ∧
      (∀ r ∈ [.seq, .brk t, .drain], nextAfter [] at_ len quiet r pre = { pc := at_ + len, redirect := 0, loops := [], px := none }) ∧
      (l.stop ≠ at_ ∨ quiet = true →
        nextAfter (l :: rest) at_ len quiet .seq pre = { pc := at_ + len, redirect := 0, loops := l :: rest, px := none }) ∧
      (l.stop = at_ →
        let d : Loop := { l with neff := min l.neff (l.pass + 1), drain := true }
        let last (m : Loop) : Prop := (m.pass : Int) ≥ m.neff + m.stages - 2
        let again (m : Loop) : NextPc := { pc := m.start, redirect := 0, loops := { m with pass := m.pass + 1 } :: rest, px := none }
        let ended : NextPc := { pc := at_ + len, redirect := 0, loops := rest, px := none }
        let leaves : NextPc := { pc := at_ + len + l.exit - 1, redirect := 2, loops := rest, px := some true }
        (pre = false ∨ l.exit = 0 →
          (¬last l → nextAfter (l :: rest) at_ len false .seq pre = again l) ∧
          (last l → nextAfter (l :: rest) at_ len false .seq pre = ended) ∧
          (l.drain = false → ¬last d → nextAfter (l :: rest) at_ len false .drain pre = again d) ∧
          (l.drain = false → last d → nextAfter (l :: rest) at_ len false .drain pre = ended)) ∧
        (pre = true → l.exit ≠ 0 → l.drain = false →
          (¬last d → nextAfter (l :: rest) at_ len false .seq pre = again d) ∧
          (last d → nextAfter (l :: rest) at_ len false .seq pre = leaves)) ∧
        (pre = true → l.exit ≠ 0 → l.drain = true →
          (¬last l → nextAfter (l :: rest) at_ len false .seq pre = again l) ∧
          (last l → nextAfter (l :: rest) at_ len false .seq pre = leaves)))) ∧
    ∀ (loops : List Loop) (n : Nat), stagePred loops n = true ↔
      ∃ l ∈ loops, ∃ k, k < l.stages ∧ n = l.base + k ∧ 0 ≤ (l.pass : Int) - k ∧ (l.pass : Int) - k < l.neff
  )

/-- R190 to R197, with R46, R56, R58 to R60, R126, R159: the value that SYSR reads, and what a write of SYSW does when it performs.
R302: BFMT sets the tag of bank K, or of every bank of G, to the type, or to zero; every other bank keeps its tag, and nothing
else changes. R224, R225: FDSET, visible as an SALU result; FDGET, visible 2 cycles after issue. -/
def Obligations.RegistersAndTags : Prop :=
  (
    (∀ (x : OpI) (s : State) (n : Nat), s.core.guard .a x.g = true → x.imm.toNat % 4096 = n →
      let t := s.task s.curTask
      let cnt := s.core.cnt
      let reads (p : Word → Prop) : Prop := ∃ v, IssuesWord s (.sysr x) .a x.d v ∧ p v
      let field (v : Word) (lo w : Nat) (m : Nat) : Prop := v.toNat / 2 ^ lo % 2 ^ w = m
      s.Acts (.sysr x) →
      (n = 0x000 → reads fun v => v = BitVec.ofNat 64 s.cycle) ∧
      (n = 0x001 → reads fun v => v = BitVec.ofNat 64 s.tick) ∧
      (n = 0x002 → s.cur < 1152 → reads fun v => field v 0 7 (s.cur % 72) ∧ field v 7 1 (s.cur / 72 % 2) ∧ field v 8 3 (s.cur / 144) ∧
        field v 11 11 s.cur ∧ field v 22 42 0) ∧
      (n = 0x003 → s.hub.seat < 32 → s.hub.pod < 32 → reads fun v => field v 0 5 s.hub.seat ∧ field v 5 5 s.hub.pod ∧
        field v 10 1 (if s.hub.lock then 1 else 0) ∧ field v 11 53 0) ∧
      (n = 0x010 → s.curTask < 2 ^ 24 → reads fun v => field v 0 24 s.curTask ∧ field v 24 40 0) ∧
      (n = 0x011 → reads fun v => v = BitVec.ofNat 64 t.age) ∧
      (n = 0x012 → t.ctx < 64 → reads fun v => field v 0 6 t.ctx ∧ field v 6 58 0) ∧
      (n = 0x013 → t.launch < 2 ^ 32 → reads fun v => field v 0 32 t.launch ∧ field v 32 32 0) ∧
      (n = 0x014 → t.gslot = 65535 → reads fun v => v = 0) ∧
      (n = 0x014 → t.gslot < 32768 → (s.group (groupKey t.gslot)).size ≤ 16 → reads fun v => field v 0 11 (t.gslot % 2048) ∧
        field v 11 5 0 ∧ field v 16 4 (t.gslot / 2048) ∧ field v 20 5 (s.group (groupKey t.gslot)).size ∧ field v 25 39 0) ∧
      (n = 0x020 → reads fun v => v = s.core.fpcr.setWidth 64) ∧
      (n = 0x021 → reads fun v => v = s.core.fpsf.toBits.setWidth 64) ∧
      (n = 0x022 → reads fun v => v = s.core.mxc.toWord) ∧
      (n = 0x030 → s.core.loops = [] → reads fun v => v = 0) ∧
      (n = 0x030 → ∀ l rest, s.core.loops = l :: rest → reads fun v => field v 0 32 (l.pass % 2 ^ 32) ∧ field v 32 32 (l.neff % 2 ^ 32)) ∧
      (n = 0x031 → s.core.loops.length ≤ 4 → reads fun v => (∀ k, k < 8 → v.getLsbD k = stagePred s.core.loops k) ∧
        field v 8 3 s.core.loops.length ∧ (v.getLsbD 11 = true ↔ ∃ l rest, s.core.loops = l :: rest ∧ l.drain = true) ∧
        v.getLsbD 12 = s.core.preq.isSome ∧ v.getLsbD 13 = s.core.px ∧ field v 14 50 0) ∧
      (n = 0x040 → reads fun v => v.extractLsb' 0 32 = cnt.cwcyc ∧ v.extractLsb' 32 32 = cnt.rampcyc) ∧
      (n = 0x041 → cnt.limit < 4096 → cnt.pub < 4096 → cnt.used < 4096 → reads fun v => field v 0 12 cnt.limit ∧ field v 12 4 0 ∧
        field v 16 12 cnt.pub ∧ field v 28 4 0 ∧ field v 32 12 cnt.used ∧ field v 44 20 0) ∧
      (n = 0x042 → cnt.step < 1024 → cnt.prev < 1024 → cnt.cur < 1024 → cnt.skip < 64 → reads fun v => field v 0 10 cnt.step ∧
        field v 10 6 0 ∧ field v 16 10 64 ∧ field v 26 6 0 ∧ field v 32 10 cnt.prev ∧ field v 42 6 0 ∧ field v 48 10 cnt.cur ∧
        field v 58 6 cnt.skip) ∧
      (n = 0x043 → reads fun v => v.extractLsb' 0 32 = cnt.ilck ∧ v.extractLsb' 32 32 = cnt.memw) ∧
      (n = 0x050 → reads fun v => v = cnt.stat.setWidth 64)) ∧
    (∀ (x : OpI) (s : State), s.Acts (.sysw x) →
      exec (.sysw x) s = .next { s with core := { s.core with iss := s.core.iss.map fun b =>
        { b with sysw := b.sysw ++ [(x.imm.toNat % 4096, s.core.src .a x.a)] } } }) ∧
    ∀ (c : Core) (v : Word),
      c.sysWrite 0x020 v = { c with fpcr := v.extractLsb' 0 11 } ∧
      (∃ f, c.sysWrite 0x021 v = { c with fpsf := f } ∧ f.toBits = v.extractLsb' 0 6) ∧
      c.sysWrite 0x040 v = { c with cnt := { c.cnt with cwcyc := v.extractLsb' 0 32, rampcyc := v.extractLsb' 32 32 } } ∧
      c.sysWrite 0x041 v = { c with cnt := { c.cnt with limit := min (max (v.toNat % 4096) 128) c.cnt.pub } } ∧
      c.sysWrite 0x042 v = { c with cnt := { c.cnt with step :=
        if v.toNat % 1024 = 0 then 1 else if 64 < v.toNat % 1024 then 64 else v.toNat % 1024 } } ∧
      c.sysWrite 0x043 v = { c with cnt := { c.cnt with ilck := v.extractLsb' 0 32, memw := v.extractLsb' 32 32 } } ∧
      (∃ st, c.sysWrite 0x050 v = { c with cnt := { c.cnt with stat := st } } ∧
        ∀ k, k < 6 → st.getLsbD k = (c.cnt.stat.getLsbD k && !(v.getLsbD k && (k == 0 || decide (3 ≤ k))))) ∧
      ∀ n, n ∉ [0x020, 0x021, 0x040, 0x041, 0x042, 0x043, 0x050] → c.sysWrite n v = c
  ) ∧
  (
    (∀ (x : OpL) (s : State), s.Acts (.bfmt x) →
      ∃ (tag : BitVec 32) (p : Pair), exec (.bfmt x) s = .next { s with pairs := tput Pair.reset s.pairs (pairOf s.cur) p } ∧
        p.data = (s.pairAt (pairOf s.cur)).data ∧ p.scale = (s.pairAt (pairOf s.cur)).scale ∧ p.sb = (s.pairAt (pairOf s.cur)).sb ∧
        (twf 0 (s.pairAt (pairOf s.cur)).tags = true → ∀ b, tget 0 p.tags b = if b ∈ bfmtBanks x then tag else tget 0 (s.pairAt (pairOf s.cur)).tags b) ∧
        (x.md.getLsbD 5 = true → tag = 0) ∧
        (∀ ty, x.md.getLsbD 5 = false → decTy (x.md.extractLsb' 0 5) = some ty → (∀ k, ty ≠ .fd k) →
          tag.extractLsb' 30 2 = 1 ∧ tag.extractLsb' 25 5 = x.md.extractLsb' 0 5 ∧ tag.extractLsb' 0 25 = 0)) ∧
    (∀ (x : OpA) (s : State), s.Acts (.fdset x) → ∃ v : BitVec 32, IssuesResult s (.fdset x) [] [.fd x.md.toNat v] .none {} {} ∧
      ∀ j, j < 32 → v.getLsbD j = (decide (j ≠ 7) && decide (j < 25) && (s.core.src .b x.a).getLsbD j)) ∧
    ∀ (x : OpA) (s : State), s.Acts (.fdget x) →
      ∃ t, exec (.fdget x) s = .next t ∧
        IssuedBy s t (.fdget x) (2, 0) [x.d] (destWrites .b x.d ((s.core.fdValue (x.md.toNat % 16)).setWidth 64))
          (.word ((s.core.fdValue (x.md.toNat % 16)).setWidth 64)) {} {}
  )

/-! ### The M class: entering the queues -/

/-- R319, R331 to R338: a load, store or atomic enters its queues at B plus the displacement with the operands read at issue; the
result of a load, AMO or ACAS is still to come. MARK, FENCE and NTDRAIN enter theirs; PREF enters the load queue unless it is
full. R335: STT converts at issue, without DAZ (R211): element i of the entry's data is the code of container i, and the flags and counts are a
result of one cycle; a raw STT enters like STV; an enabled trap flag of the conversions is FPTRAP at issue. R331, R332: an
address with a bit set in [63:57] is the fatal fault ADDRRANGE, and a misaligned one MISALIGN, at issue: to 128 bytes for
vectors and tiles, else to the size. -/
def Obligations.MemoryAccesses : Prop :=
  (
    ∀ (x : OpM) (s : State),
      let ea := (s.core.src x.cl x.b + x.off.signExtend 64).toNat
      let v := s.core.src x.cl x.v
      let raw := s.core.vraw x.cl x.v
      let acq := x.ord == .acquire
      let rel := x.ord == .release
      let dests : Option (List Opnd) := some (if x.v = .nil then [] else [x.v])
      (s.Acts (.ld x) → EntersQueues s (.ld x) true acq ea [] 0 .walk dests) ∧
      (s.Acts (.ldv x) → EntersQueues s (.ldv x) true acq ea [] 0 .walk dests) ∧
      (s.Acts (.ldt x) → EntersQueues s (.ldt x) true acq ea [] 0 .walk dests) ∧
      (s.Acts (.st x) → EntersQueues s (.st x) rel true ea [v] 0 .walk none) ∧
      (s.Acts (.stv x) → EntersQueues s (.stv x) rel true ea [] raw .walk none) ∧
      (s.Acts (.ntst x) → EntersQueues s (.ntst x) false true ea [v] 0 .walk none) ∧
      (s.Acts (.ntstv x) → EntersQueues s (.ntstv x) false true ea [] raw .walk none) ∧
      (s.Acts (.amo x) → EntersQueues s (.amo x) true true ea [v] 0 .walk dests) ∧
      (s.Acts (.amon x) → EntersQueues s (.amon x) false true ea [v] 0 .walk none) ∧
      (∀ n : Fin 64, x.v = .sreg n → s.Acts (.acas x) →
        EntersQueues s (.acas x) true true ea [v, s.core.regs.scalar x.cl (n.val + 1)] 0 .walk dests) ∧
      (s.Acts (.mark x) → EntersQueues s (.mark x) true true 0 [] 0 .ready none) ∧
      (s.Acts (.fence x) → EntersQueues s (.fence x) (x.ord != .release) true 0 [] 0 .ready none) ∧
      (s.Acts (.ntdrain x) → EntersQueues s (.ntdrain x) false true 0 [] 0 .ready none) ∧
      (s.Acts (.pref x) →
        ((s.core.mq.filter fun e => e.inLoad).length < 2048 → EntersQueues s (.pref x) true false ea [] 0 .ready none) ∧
        (2048 ≤ (s.core.mq.filter fun e => e.inLoad).length → exec (.pref x) s = .next s)) ∧
      ∃ t, exec (.prefetchHint x) s = .next t ∧ (t = { s with fresh := s.fresh + 1 } ∨
        ∃ e, Entered { s with fresh := s.fresh + 1 } t e [] ∧ e.instr = .prefetchHint x ∧ e.inLoad = true ∧ e.inStore = false ∧ e.ea = ea)
  ) ∧
  (
    ∀ (x : OpM) (s : State),
      let i : Instr := .stt x
      let ea := (s.core.src x.cl x.b + x.off.signExtend 64).toNat
      let raw := s.core.vraw x.cl x.v
      let desc := s.core.fdValue x.fd.toNat
      let env := FpEnv.ofFpcr s.core.fpcr
      let w := (Desc.ofBits desc).width
      let conv (k : Nat) := convertElem (.std .f32) (Fmt.ofDesc desc) { env with daz := false } false 0 0 (elemAt 32 raw k).toNat
      let fl := orFlags ((List.range 1024).map fun k => (conv k).2.1)
      s.Guarded i →
      (desc = 0 → s.Acts i → EntersQueues s i (x.ord == .release) true ea [] raw .walk none) ∧
      (desc ≠ 0 → ea < 2 ^ 57 → ea % 128 = 0 →
        (trapping env.enables fl = false → ∃ u t e, exec i s = .next t ∧ Entered s u e [] ∧ e.instr = i ∧ e.ea = ea ∧ e.st = .walk ∧
          e.inLoad = (x.ord == .release) ∧ e.inStore = true ∧ e.desc = desc ∧
          (∀ k, k < 1024 → e.vec.toNat / 2 ^ (w * k) % 2 ^ w = (conv k).1 % 2 ^ w) ∧
          IssuedBy u t i (1, 0) [] [] .none fl (addCounts ((List.range 1024).map fun k => (conv k).2.2))) ∧
        (trapping env.enables fl = true → exec i s =
          .next (s.fatal s.cur s.core.bundle.2 s.core.bundle.1 (2 ^ instrSlot i) 0x14 (fl.toBits.setWidth 64) 0 0)))
  ) ∧
  (
    ∀ (x : OpM) (s : State) (i : Instr) (align : Nat),
      let a := s.core.src x.cl x.b + x.off.signExtend 64
      let size := match x.sz with
        | .n8 | .i8 => 1
        | .n16 | .i16 => 2
        | .n32 | .i32 => 4
        | .d64 => 8
        | .sector => 32
      let faults (code : Nat) : Prop :=
        exec i s = .next (s.fatal s.cur s.core.bundle.2 s.core.bundle.1 (2 ^ instrSlot i) code a 0 0)
      (i ∈ [.ld x, .st x, .ntst x, .amo x, .amon x, .acas x] ∧ align = size) ∨
        (i ∈ [.ldv x, .stv x, .ldt x, .stt x, .ntstv x] ∧ align = 128) →
      s.core.guard x.cl x.g = true →
      (2 ^ 57 ≤ a.toNat → faults 0x29) ∧ (a.toNat < 2 ^ 57 → a.toNat % align ≠ 0 → faults 0x28)
  )

/-- R42, R155, R166, R172, R292, R308, R362, R363, R377, R380, R110: operations that a hub, a controller, an engine or a search unit
carries out enter with the operands read at issue; the destinations of those with a result are interlocked. R303, R308, R319:
CPY, CHASE and GATH enter the load queue with their operands, and each local-store range they name takes an entry in the
scoreboard of its pair. -/
def Obligations.MemoryAndEngineRequests : Prop :=
  (
    (∀ (x : OpA) (s : State),
      let a := s.core.src x.cl x.a
      let b := s.core.src x.cl x.b
      let c := s.core.src x.cl x.c
      let pair : List Opnd := match x.d with
        | .sreg n => if h : n.val + 1 < 64 then [x.d, .sreg ⟨n.val + 1, h⟩] else [x.d]
        | _ => []
      (x.cl = .a → s.Acts (.fnew x) → EntersQueues s (.fnew x) false false 0 [] 0 .slice (some [x.d])) ∧
      (x.cl = .a → s.Acts (.ftest x) → EntersQueues s (.ftest x) false false 0 [a] 0 .slice (some pair)) ∧
      (x.cl = .a → s.Acts (.ffree x) → EntersQueues s (.ffree x) false false 0 [a] 0 .slice none) ∧
      (x.cl = .a → s.Acts (.bari x) → EntersQueues s (.bari x) false false 0 [a, b, c] 0 .slice none) ∧
      (s.Acts (.migr x) → EntersQueues s (.migr x) false false 0 [a, b, c] 0 .slice none) ∧
      (s.Acts (.pgstat x) → EntersQueues s (.pgstat x) true false 0 [a] 0 .ready (some [x.d])) ∧
      (s.Acts (.logapply x) → EntersQueues s (.logapply x) false true 0 [a, c] 0 .ready none) ∧
      (s.Acts (.asdecl x) → EntersQueues s (.asdecl x) true true 0 [a, b] 0 .ready (some [x.d])) ∧
      (s.Acts (.asdrop x) → EntersQueues s (.asdrop x) true true 0 [a] 0 .ready (some [x.d])) ∧
      (x.cl = .b → s.Acts (.hnear x) →
        EntersQueues s (.hnear x) true false b.toNat [b, c] (hvToVec (s.core.hsrc x.a)) .walk
          (some (match x.d with
            | .sreg _ => pair
            | d => [d])))) ∧
    ∀ (x : OpI) (s : State), s.Acts (.qpeek x) →
      let va := (s.core.src .a x.a).toNat
      EntersQueues s (.qpeek x) false false va [] 0 (if va < 2 ^ 57 then .walk else .slice) (some [x.d])
  ) ∧
  (
    ∀ (s : State) (i : Instr) (vals : List Word),
      let v (o : Opnd) : Word := s.core.src .b o
      (∃ x, i = .cpy x ∧ vals = [v x.d, v x.a, v x.b, v x.c]) ∨ (∃ x, i = .chase x ∧ vals = [v x.d, v x.a, v x.b, v x.c]) ∨
        (∃ x, i = .gath x ∧ vals = [v x.d, v x.a, v x.b, v x.c, v x.n]) →
      s.Acts i → (∀ m ∈ s.core.mq, m.seq ≠ s.seqNo) →
      ∃ u t e, Entered s u e [] ∧ e.instr = i ∧ e.slot = 7 ∧ e.inLoad = true ∧ e.inStore = false ∧ e.vals = vals ∧ e.st = .ready ∧
        exec i s = .next t ∧ t = { u with pairs := t.pairs } ∧
        (twf Pair.reset s.pairs = true → ∀ p,
          let mine := (s.engRanges i).filter fun r => r.2.1 == p
          let old := s.pairAt p
          t.pairAt p = { old with sb := old.sb ++ mine.map fun r => r.1.score s.seqNo r.2.2.1 r.2.2.2 })
  )

/-- R51, R52, R110, R145 to R148, R155, R172, R415, R416: the operations of a quiescent bundle are recorded at issue with the
operands read there; TEND also ends the order of bundles. -/
def Obligations.RecordedOperations : Prop :=
  (∀ (x : OpA) (s : State), s.core.compl = none →
    let a := s.core.src .a x.a
    let b := s.core.src .a x.b
    (s.Acts (.fset x) → Records s (.fset x) [a, b]) ∧ (s.Acts (.ffail x) → Records s (.ffail x) [a, b]) ∧
    (s.Acts (.fwait x) → Records s (.fwait x) [a]) ∧ (s.Acts (.bara x) → Records s (.bara x) [a]) ∧
    (s.Acts (.barw x) → Records s (.barw x) [a, b]) ∧ (s.Acts (.barx x) → Records s (.barx x) [a]) ∧
    (s.Acts (.pbara x) → Records s (.pbara x) [a]) ∧ (s.Acts (.pbarw x) → Records s (.pbarw x) [a, b]) ∧
    (s.Acts (.tspawn x) → Records s (.tspawn x) [a, b, s.core.src .a x.c, s.core.regs.scalar .a 1, s.core.regs.scalar .a 2,
      s.core.regs.scalar .a 3, s.core.regs.scalar .a 4])) ∧
  (∀ (x : OpI) (s : State), s.core.compl = none →
    (s.Acts (.qput x) → Records s (.qput x) [s.core.src .a x.a, s.core.src .a x.d]) ∧
    (s.Acts (.qget x) → Records s (.qget x) [s.core.src .a x.a, s.core.src .a x.d, x.imm.setWidth 64, BitVec.ofNat 64 s.cycle]) ∧
    (s.Acts (.trap x) → Records s (.trap x) [s.core.src .a x.a, s.core.src .a x.d])) ∧
  (∀ (x : OpC) (s : State), s.core.compl = none →
    (s.Acts (.yield x) → Records s (.yield x) []) ∧
    (s.Acts (.tend x) → exec (.tend x) s = .next { s with core := { s.core with iss := s.core.iss.map fun b =>
      { b with ops := b.ops ++ [{ slot := 0, instr := .tend x, vals := [] }], redir := .stop } } })) ∧
  ∀ (x : OpSend) (s : State), s.core.compl = none →
    let vals := [s.core.src .b x.d, s.core.src .b x.a, s.core.src .b x.b, s.core.src .b x.c, s.core.src .b x.e]
    (s.Acts (.send x) → Records s (.send x) vals) ∧ (s.Acts (.msend x) → Records s (.msend x) vals)

/-! ### Windows and LSTAT -/

/-- R419 to R421: WOPEN, WCLOSE and LSTAT enter with the operands read at issue, their result being visible 8 cycles after issue; a
core whose result is due before the operation has performed is frozen (the model's choice, notes/assumptions/96.md). Performing, WOPEN
gives the handle of an equal open window, else opens the entry it wants or the lowest that is not open; WCLOSE of a matching handle
clears OPEN, advances WGEN and gives NOTICES, and of any other gives 0 and changes nothing; LSTAT reads one object. (A step chosen in
`tickOnce` performs them: `State.performHub`.) -/
def Obligations.FabricWindows : Prop :=
  (
    ∀ (x : OpA) (s : State),
      let v (o : Opnd) : Word := s.core.src .b o
      let asks (i : Instr) (vals : List Word) : Prop := ∃ t e p, exec i s = .next t ∧ Entered s t e [p] ∧
        e.seq = s.seqNo ∧ e.instr = i ∧ e.slot = 7 ∧ e.baddr = s.core.bundle.1 ∧ e.bseq = s.core.bundle.2 ∧ e.inLoad = false ∧ e.inStore = false ∧
        e.vals = vals ∧ e.st = .slice ∧ p.seq = s.seqNo ∧ p.slot = 7 ∧ p.ready = false ∧ p.locked = false ∧ p.ic = s.core.ic ∧
        p.cyc = s.cycle ∧ p.lc = 8 ∧ p.lh = 8 ∧ p.dests = [x.d]
      (s.Acts (.wopen x) → asks (.wopen x) [v x.a, v x.b, v x.c]) ∧
      (s.Acts (.wclose x) → asks (.wclose x) [v x.a]) ∧
      (s.Acts (.lstat x) → asks (.lstat x) [v x.a])
  ) ∧
  (∀ c : Core, (∃ p ∈ c.pend, p.ready = false ∧ p.locked = false ∧ p.ic + p.lh ≤ c.ic) → c.memFrozen = true) ∧
  (
    ∀ (lin : Nat) (x : OpA) (s : State) (e : MqEntry),
      let a := (e.vals.getD 0 0).toNat
      let b := (e.vals.getD 1 0).toNat
      let c := (e.vals.getD 2 0).toNat
      let ctx := s.ctxOf lin
      let gives (u : State) (v : Word) : Prop := s.performHub lin e = u.deliverWord lin e x.d v
      let opened (e : Nat) : Window :=
        { s.window e with isOpen := true, ctx := ctx, base := a, len := b % 2 ^ 28, peer := c / 2 ^ 32 % 1024, pmask := c / 2 ^ 42 % 1024,
                          expect := b / 2 ^ 28 % 4096, fut := c % 2 ^ 32, notices := 0 }
      let same (w : Window) : Prop := w.isOpen = true ∧ w.ctx = ctx ∧ w.base = a ∧ w.len = b % 2 ^ 28 ∧ w.peer = c / 2 ^ 32 % 1024 ∧
        w.pmask = c / 2 ^ 42 % 1024
      let handle (e : Nat) : Word := BitVec.ofNat 64 (e + (s.window e).wgen * 256)
      let opens (e : Nat) : Prop := ∃ u, u = { s with windows := u.windows } ∧ gives u (handle e) ∧
        (twf {} s.windows = true → u.window e = opened e ∧ ∀ k, k ≠ e → u.window k = s.window k)
      (e.instr = .wopen x →
        (∀ e, e < 256 → same (s.window e) → (∀ k, k < e → ¬same (s.window k)) → gives s (handle e)) ∧
        ((∀ e, e < 256 → ¬same (s.window e)) →
          let want := c / 2 ^ 52 % 256
          (c / 2 ^ 60 % 2 = 1 → (s.window want).isOpen = false → opens want) ∧
          (c / 2 ^ 60 % 2 = 1 → (s.window want).isOpen = true → gives s (BitVec.allOnes 64)) ∧
          (∀ e, c / 2 ^ 60 % 2 = 0 → e < 256 → (s.window e).isOpen = false → (∀ k, k < e → (s.window k).isOpen = true) → opens e) ∧
          (c / 2 ^ 60 % 2 = 0 → (∀ e, e < 256 → (s.window e).isOpen = true) → gives s (BitVec.allOnes 64)))) ∧
      (e.instr = .wclose x →
        let e := a % 256
        let w := s.window e
        let matching := w.isOpen = true ∧ w.ctx = ctx ∧ w.wgen = a / 256 % 16
        (¬matching → gives s 0) ∧
        (matching → ∃ u, u = { s with windows := u.windows, futs := u.futs, tasks := u.tasks } ∧ gives u (BitVec.ofNat 64 w.notices) ∧
          (twf {} s.windows = true → u.window e = { w with isOpen := false, wgen := if w.wgen = 15 then 1 else w.wgen + 1 } ∧
            ∀ k, k ≠ e → u.window k = s.window k) ∧
          (w.fut = 0 → u.futs = s.futs) ∧
          (twf {} s.futs = true → s.futStale w.fut ctx = false → (s.fut (w.fut % 2 ^ 20)).state = .empty →
            (u.fut (w.fut % 2 ^ 20)).state = .failed ∧ (u.fut (w.fut % 2 ^ 20)).status = 0x0101#16))) ∧
      (e.instr = .lstat x → ∃ v : Word, gives s v ∧
        (x.sub = 1 →
          let w := s.window (a % 256)
          (w.ctx ≠ ctx → v = 0) ∧
          (w.ctx = ctx → w.wgen < 16 → w.ctx < 64 → w.peer < 1024 → w.pmask < 1024 → w.expect < 4096 → w.notices < 4096 →
            v.getLsbD 0 = w.isOpen ∧ v.toNat / 2 % 16 = w.wgen ∧ v.toNat / 2 ^ 5 % 64 = w.ctx ∧ v.toNat / 2 ^ 11 % 1024 = w.peer ∧
            v.toNat / 2 ^ 21 % 1024 = w.pmask ∧ v.toNat / 2 ^ 32 % 4096 = w.expect ∧ v.toNat / 2 ^ 44 % 4096 = w.notices)) ∧
        (x.sub = 3 → ∀ tb, (s.plane (if a % 2 = 0 then .x else .y)).active = some tb → 0 < tb.period → tb.period ≤ 512 →
          v.toNat % 2 ^ 32 = tb.id.toNat ∧ v.toNat / 2 ^ 32 % 512 = s.tick % tb.period ∧ v.toNat / 2 ^ 41 % 512 = tb.period - 1 ∧
          v.getLsbD 50 = (s.plane (if a % 2 = 0 then .x else .y)).standby.isSome))
  )

/-! ### The completion step (R51, R52) -/

/-- R45, R52: a completion step whose task holds no set, and that nothing holds, begins to perform the operations recorded, in slot
order. R52, R138, R144, R146: once every operation has performed, the snapshot holds the next bundle's address, sa0 to sa4 and
the flags; a task that TEND ends begins its commit, a yield, a wait, a trap and a pre-emption request leave the core in this
order of rank, and else the next bundle may issue. -/
def Obligations.CompletionSteps : Prop :=
  (
    ∀ (lin : Nat) (s : State) (q : Completion),
      let u := s.focus lin
      u.core.compl = some q → q.performing = false → q.ask ≠ .tend → u.core.pend = [] → u.core.mq = [] → u.core.fifo = [] →
      u.core.nt = [] → u.heldSets u.curTask = [] →
      (∀ h ∈ q.ops, ∀ x y, h.instr ∉ [.send x, .msend x, .bara y, .barx y, .pbara y]) →
      exec (.quiescentCompletion lin) s = .next { u with
        core := { u.core with compl := some { q with performing := true, stall := none, heldArrival := none } },
        slots := q.ops.map fun h => h.instr }
  ) ∧
  (
    ∀ (s : State) (q : Completion), (∀ k, (s.aset k).next ≠ some s.curTask) →
      let c := s.core
      let snap : Snapshot := s.core.capture q.next
      let u : State := { s with core := { c with snap := snap, loops := [] } }
      let leaves (d : Dest) : Prop := s.finishCompl q = u.startLeave s.cur d 0 0 (q.bseq + 1)
      snap.next = q.next ∧ (∀ k, k < 5 → tget 0 snap.sa k = tget 0 c.regs.sa k) ∧ snap.fl = c.fpsf.or c.dueFl ∧
      (q.ask = .tend → s.finishCompl q = { u with core := { u.core with compl := c.compl.map fun q => { q with performing := false } } }) ∧
      (q.ask = .yield → leaves .ready) ∧
      (∀ k o a, q.ask = .suspend k o a → leaves (.suspended k o a)) ∧
      (∀ code a0 a1 a2 slot, q.ask = .none → q.trap = some (code, a0, a1, a2, slot) →
        s.finishCompl q = u.startLeave s.cur (.faulted 3 code a0 a1 a2) (2 ^ slot) q.baddr (c.bseq + 1)) ∧
      (q.ask = .none → q.trap = none → c.preq ≠ none → s.heldSets s.curTask = [] → leaves .ready) ∧
      (q.ask = .none → q.trap = none → c.preq = none → s.finishCompl q = { u with core := { u.core with compl := none } })
  )

/-- R145, R146, R148: TEND, YIELD and TRAP ask the completion step for what follows it; the first that asks decides. R126, R130,
R147: TSPAWN takes the lowest free pool entry while more than 64 are free, for a READY task of the same launch with the
creator's sa1 to sa4, and gives its index; else it gives all ones. -/
def Obligations.TaskOperations : Prop :=
  (
    ∀ (s : State) (h : HeldOp) (q : Completion),
      let asks (a : Ask) : State := s.performed { q with ask := if q.ask = .none then a else q.ask }
      (∀ x, s.Performing (.tend x) h q → exec (.tend x) s = .next (asks .tend)) ∧
      (∀ x, s.Performing (.yield x) h q → exec (.yield x) s = .next (asks .yield)) ∧
      ∀ x, s.Performing (.trap x) h q → exec (.trap x) s = .next (s.performed { q with
        trap := if q.trap.isSome then q.trap else some (0x80 + x.imm.toNat, h.vals.getD 0 0, h.vals.getD 1 0, 0, h.slot) })
  ) ∧
  (
    ∀ (x : OpA) (s : State) (h : HeldOp) (q : Completion),
      let v (k : Nat) : Word := h.vals.getD k 0
      let p := s.task s.curTask
      let done := s.performed q
      let gives (t : State) (w : Word) : Prop := (twf 0 s.core.regs.lat = true → ∀ k, tget 0 t.core.regs.lat k =
          if k = h.slot then w else tget 0 s.core.regs.lat k) ∧
        (twf 0 s.core.regs.sa = true → ∀ k : Fin 64, tget 0 t.core.regs.sa k = if x.d = .sreg k then w else tget 0 s.core.regs.sa k)
      let regs (t : State) : Regs := { s.core.regs with sa := t.core.regs.sa, lat := t.core.regs.lat }
      s.Performing (.tspawn x) h q →
      (Config.poolSize ≤ s.tasks.length + 64 → ∃ t, exec (.tspawn x) s = .next t ∧
        t = { done with core := { done.core with regs := regs t } } ∧ gives t (BitVec.allOnes 64)) ∧
      (∀ i, s.tasks.length + 64 < Config.poolSize → i < Config.poolSize → (s.task i).state = .free → (∀ j, j < i → (s.task j).state ≠ .free) →
        ∃ t child, exec (.tspawn x) s = .next t ∧
          t = { done with tasks := t.tasks, core := { done.core with regs := regs t, spawn := (s.core.spawn + 1) % 256 } } ∧
          gives t (BitVec.ofNat 64 i) ∧ t.task i = child ∧ (twf {} s.tasks = true → ∀ j, j ≠ i → t.task j = s.task j) ∧
          child.state = .ready ∧ child.ctx = p.ctx ∧ child.h = p.h ∧ child.launch = p.launch ∧ child.gslot = 65535 ∧ child.pc = (v 0).toNat ∧
          child.age = p.age / 2 ^ 20 * 2 ^ 20 + 2 ^ 19 + s.cur * 2 ^ 8 + s.core.spawn % 2 ^ 8 ∧
          child.tower = (if (v 2).toNat % 16 = 8 then s.cur / 144 else (v 2).toNat % 16) ∧
          ∀ k, k < 5 → tget 0 child.sa k = if k = 0 then v 1 else v (2 + k))
  )

/-- R149 to R155: FSET and FFAIL on a live handle whose future is EMPTY resolve it at device scope and make its waiters READY; a
stale handle is STALEFUT, a future that has left EMPTY FUTRESOLVED. FWAIT suspends on an EMPTY future and else acquires at
RSCOPE. -/
def Obligations.FutureOperations : Prop :=
  ∀ (x : OpA) (s : State) (h : HeldOp) (q : Completion),
    let f := (h.vals.getD 0 0).toNat % 2 ^ 32
    let v := h.vals.getD 1 0
    let k := f % 2 ^ 20
    let e := s.fut k
    let done := s.performed q
    let live := s.FutLive f s.curCtx
    let resolves (i : Instr) (r : Fut) : Prop := ∃ t, exec i s = .next t ∧ t = { done with futs := t.futs, tasks := t.tasks } ∧
      (twf {} s.futs = true → t.fut k = r ∧ ∀ j, j ≠ k → t.fut j = s.fut j) ∧
      Wakes s t fun w => w.wkind = 1 ∧ w.wobj % 2 ^ 20 = k ∧ w.ctx = e.ctx
    let fails (i : Instr) (code : Nat) (a0 : Word) : Prop :=
      exec i s = .next (done.fatal s.cur q.bseq q.baddr (2 ^ h.slot) code a0 0 0)
    (s.Performing (.fset x) h q →
      (¬live → fails (.fset x) 0x16 (BitVec.ofNat 64 f)) ∧
      (live → e.state ≠ .empty → ∃ a0, fails (.fset x) 0x20 a0) ∧
      (live → e.state = .empty → resolves (.fset x) { e with state := .set, value := v, rscope := 3 })) ∧
    (s.Performing (.ffail x) h q →
      (¬live → fails (.ffail x) 0x16 (BitVec.ofNat 64 f)) ∧
      (live → e.state ≠ .empty → ∃ a0, fails (.ffail x) 0x20 a0) ∧
      (live → e.state = .empty → resolves (.ffail x) { e with state := .failed, status := v.extractLsb' 0 16, rscope := 3 })) ∧
    (s.Performing (.fwait x) h q →
      (¬live → fails (.fwait x) 0x16 (BitVec.ofNat 64 f)) ∧
      (live → e.state = .empty →
        exec (.fwait x) s = .next (s.performed { q with ask := if q.ask = .none then .suspend 1 f 0 else q.ask })) ∧
      (live → e.state ≠ .empty → e.rscope = 0 → exec (.fwait x) s = .next done) ∧
      (live → e.state ≠ .empty → e.rscope ≠ 0 → ∃ t, exec (.fwait x) s = .next t ∧ Acquired done t))

/-- R163 to R172: an arrival below EXPECT is counted, and the one that reaches it completes the phase of a group or device barrier:
ARRIVED is 0, GEN advances, and the waiters of completed phases are READY; D and the slot's latch take the generation arrived
in. A wait goes on, with an acquire, once its phase has completed, and else suspends. BARX arrives and waits for that phase. An
id that names no barrier of the task is BARSTALE, a lost barrier BARLOST. -/
def Obligations.BarrierOperations : Prop :=
  ∀ (x : OpA) (s : State) (h : HeldOp) (q : Completion) (r : BarRef),
    let id := (h.vals.getD 0 0).toNat % 2 ^ 32
    let kind := id / 2 ^ 30
    let slot := (s.task s.curTask).gslot
    let b := s.bar r
    let done := s.performed q
    let named := (kind = 0 ∧ r = .group (groupKey slot)) ∨ (kind = 1 ∧ r = .device (id % 4096)) ∨ (kind = 2 ∧ r = .pod (id % 256))
    let valid := (kind = 0 → slot ≠ 65535) ∧ (kind ≠ 0 → b.bound = true ∧ b.ctx = s.curCtx)
    let fails (i : Instr) (code : Nat) (a0 a1 : Word) : Prop :=
      exec i s = .next (done.fatal s.cur q.bseq q.baddr (2 ^ h.slot) code a0 a1 0)
    let past (gen : BitVec 16) (g : Nat) : Prop := (gen.toNat + 2 ^ 17 - g % 2 ^ 16 - 1) % 2 ^ 16 < 2 ^ 15
    let waiting (w : Task) : Prop := w.state = .suspended ∧ w.wkind = 3 ∧
      (kind = 0 → w.wobj / 2 ^ 30 % 4 = 0 ∧ w.gslot ≠ 65535 ∧ r = .group (groupKey w.gslot)) ∧
      (kind = 1 → w.wobj / 2 ^ 30 % 4 = 1 ∧ w.wobj % 4096 = id % 4096 ∧ w.ctx = b.ctx) ∧ past (b.gen + 1) w.waddr
    let arrives (i : Instr) : Prop := ∃ t, exec i s = .next t ∧
      t = { done with groups := t.groups, devBars := t.devBars, podBars := t.podBars, tasks := t.tasks,
                      core := { done.core with regs := { s.core.regs with sa := t.core.regs.sa, lat := t.core.regs.lat } } } ∧
      (twf 0 s.core.regs.sa = true → ∀ k : Fin 64,
        tget 0 t.core.regs.sa k = if x.d = .sreg k then b.gen.setWidth 64 else tget 0 s.core.regs.sa k) ∧
      (twf 0 s.core.regs.lat = true → ∀ k, tget 0 t.core.regs.lat k = if k = h.slot then b.gen.setWidth 64 else tget 0 s.core.regs.lat k) ∧
      (b.arrived + 1 < b.expect → t.tasks = s.tasks ∧
        (twf {} s.groups = true → twf {} s.devBars = true → twf {} s.podBars = true →
          t.bar r = { b with arrived := b.arrived + 1 } ∧ ∀ r', r' ≠ r → t.bar r' = s.bar r')) ∧
      (b.expect ≤ b.arrived + 1 →
        (twf {} s.groups = true → twf {} s.devBars = true → twf {} s.podBars = true →
          t.bar r = { b with arrived := 0, gen := b.gen + 1 } ∧ ∀ r', r' ≠ r → t.bar r' = s.bar r') ∧
        Wakes s t waiting)
    let waits (i : Instr) : Prop :=
      let g := (h.vals.getD 1 0).toNat % 65536
      (past b.gen g → ∃ t, exec i s = .next t ∧ Acquired done t) ∧
      (¬past b.gen g → b.lost = true → fails i 0x2D (BitVec.ofNat 64 id) (BitVec.ofNat 64 b.lostSeat)) ∧
      (¬past b.gen g → b.lost = false →
        exec i s = .next (s.performed { q with ask := if q.ask = .none then .suspend 3 id g else q.ask }))
    named →
    (s.Performing (.bara x) h q → q.arrivedGen = none →
      (¬valid → ∃ a0, fails (.bara x) 0x22 a0 0) ∧
      (valid → b.lost = true → fails (.bara x) 0x2D (BitVec.ofNat 64 id) (BitVec.ofNat 64 b.lostSeat)) ∧
      (valid → b.lost = false → b.expect = 0 → ∃ a0, fails (.bara x) 0x22 a0 0) ∧
      (valid → b.lost = false → b.expect ≠ 0 → kind ≠ 2 → arrives (.bara x))) ∧
    (s.Performing (.pbara x) h q → q.arrivedGen = none →
      (¬valid → ∃ a0, fails (.pbara x) 0x22 a0 0) ∧
      (valid → b.lost = true → fails (.pbara x) 0x2D (BitVec.ofNat 64 id) (BitVec.ofNat 64 b.lostSeat)) ∧
      (valid → b.lost = false → kind = 2 → b.arrived + 1 < b.expect → ∃ t, exec (.pbara x) s = .next t ∧
        t = { done with podBars := t.podBars,
                        core := { done.core with regs := { s.core.regs with sa := t.core.regs.sa, lat := t.core.regs.lat } } } ∧
        (twf 0 s.core.regs.lat = true → tget 0 t.core.regs.lat h.slot = b.agen.setWidth 64) ∧
        (twf {} s.podBars = true → t.bar r = { b with arrived := b.arrived + 1 }))) ∧
    (s.Performing (.barw x) h q → (¬valid → ∃ a0, fails (.barw x) 0x22 a0 0) ∧ (valid → waits (.barw x))) ∧
    (s.Performing (.pbarw x) h q → (¬valid → ∃ a0, fails (.pbarw x) 0x22 a0 0) ∧ (valid → waits (.pbarw x))) ∧
    (s.Performing (.barx x) h q → q.arrivedGen = none → valid → b.lost = false → kind ≠ 2 → twf {} s.groups = true → twf {} s.devBars = true →
      (b.arrived + 1 < b.expect → ∃ t, exec (.barx x) s = .next t ∧ t.bar r = { b with arrived := b.arrived + 1 } ∧
        t.core.compl = some { q with ops := q.ops.tail, ask := if q.ask = .none then .suspend 3 id b.gen.toNat else q.ask }) ∧
      (b.expect ≠ 0 → b.expect ≤ b.arrived + 1 → ∃ t, exec (.barx x) s = .next t ∧ t.bar r = { b with arrived := 0, gen := b.gen + 1 } ∧
        t.core.compl = some { q with ops := q.ops.tail }))

/-- R49, R138 to R142, R318: a fatal fault, a restartable fault and a trap stop issue at once: results in flight, loops and the
buffers are dropped, the entries of earlier bundles stay until they have performed; the task then stands in its state with the
record of the fault and the registers of its last snapshot, and the core is idle. R44, R132, R140, R143, R470: a request or a
wound reaches its core no earlier than the cycle after its decision. A request then stands until a quiescent point; a wound
aborts the task at its next bundle boundary, before a completion step performs anything, or is refused once TEND's completion
step has begun. -/
def Obligations.LeavingAndArrivals : Prop :=
  (
    (∀ (s : State) (i bseq epc mask code : Nat) (a0 a1 a2 : Word) (kind obj addr : Nat),
      let c := s.core
      s.core.task = some i → s.heldSets i = [] → (∀ k, (s.aset k).next ≠ some i) → twf Core.reset s.cores = true →
      (∀ lin, (∀ x, (s.coreAt lin).woundIn = some x → x.2.2 ≠ i) ∧ ∀ x, (s.coreAt lin).wound = some x → x.2 ≠ i) →
      let begins (t : State) (dest : Dest) (mask from_ : Nat) : Prop :=
        let kept := c.mq.filter fun e => e.survives from_
        (∀ e ∈ c.mq, ∀ x y z w, e.instr ∉ [.hnear x, .cpy y, .chase z, .gath w]) → (kept ≠ [] ∨ c.fifo ≠ [] ∨ c.nt ≠ []) →
        t = { s with
          slots := []
          core := { c with
            leave := some { dest := dest, mask := mask, epc := epc }, compl := none, iss := none, pend := [], loops := [], setBuf := [],
            defer := [], preq := none, preqIn := none, preqBy := [], fetchWait := none, mq := kept } }
      (c.wound = none → begins (s.fatal s.cur bseq epc mask code a0 a1 a2) (.faulted 2 code a0 a1 a2) mask bseq) ∧
      (∀ id w, c.wound = some (id, w) → begins (s.fatal s.cur bseq epc mask code a0 a1 a2)
        (.aborted 0x03 (BitVec.ofNat 64 id) (BitVec.ofNat 64 w) (BitVec.ofNat 64 (s.task w).age) 6 w 0) 0 bseq) ∧
      begins (s.restart s.cur bseq epc mask code a0 a1 kind obj addr) (.aborted code a0 a1 0 kind obj addr) mask bseq ∧
      begins (s.trapTaken s.cur epc mask code a0 a1 a2) (.faulted 3 code a0 a1 a2) mask (c.bseq + 1)) ∧
    ∀ (s : State) (i : Nat) (lv : Leave),
      let c := s.core
      let k := s.task i
      let l := s.launchOf (slotOfHandle k.launch)
      twf {} s.tasks = true → c.task = some i → c.leave = some lv → k.gslot = 65535 → l.abort = false →
      (∀ g, (s.group g).state ≠ .waiting) →
      let rec_ : Task := { k with pc := c.snap.next, sa := c.snap.sa, fpsnap := c.snap.fl, mxcacc := k.mxcacc.add c.snap.mxc.counts }
      let leftAs (r : Task) : Prop := ∃ t, s.finishLeave s.cur = t ∧ t.core = c.idle ∧ t.core.task = none ∧ t.task i = r ∧
        t = { s with core := t.core, tasks := t.tasks, launches := t.launches } ∧
        (∀ j, j ≠ i → t.task j = s.task j)
      (lv.dest = .ready → leftAs { rec_ with state := .ready }) ∧
      (∀ f a, lv.dest = .suspended 1 f a → (s.fut (f % 2 ^ 20)).state = .empty → (s.fut (f % 2 ^ 20)).gen.toNat = f / 2 ^ 20 % 4096 →
        (s.fut (f % 2 ^ 20)).ctx = k.ctx → leftAs { rec_ with state := .suspended, wkind := 1, wobj := f, waddr := a }) ∧
      (∀ f a, lv.dest = .suspended 1 f a → (s.fut (f % 2 ^ 20)).state ≠ .empty → k.wounder = none →
        leftAs { rec_ with state := .ready, wkind := 0, wobj := 0, waddr := 0, qlimit := none }) ∧
      (∀ o a, lv.dest = .suspended 4 o a → leftAs { rec_ with state := .suspended, wkind := 4, wobj := o, waddr := a }) ∧
      (∀ code a0 a1 a2 w a, lv.dest = .aborted code a0 a1 a2 6 w a → s.heldSets w ≠ [] → c.woundDone = false →
        leftAs { rec_ with state := .aborted, ecode := code, eclass := 1, ecore := s.cur, epc := lv.epc, emask := lv.mask, earg0 := a0,
                           earg1 := a1, earg2 := a2, wkind := 6, wobj := w, waddr := a, wounder := none }) ∧
      (∀ cls code a0 a1 a2, lv.dest = .faulted cls code a0 a1 a2 → k.h = false → l.img.fpol ≠ 0 →
        leftAs { rec_ with state := .faulted, ecode := code, eclass := cls, ecore := s.cur, epc := lv.epc, emask := lv.mask, earg0 := a0,
                           earg1 := a1, earg2 := a2 })
  ) ∧
  (
    ∀ (lin : Nat) (s : State),
      let c := s.coreAt lin
      twf Core.reset s.cores = true →
      (∀ k, c.preqIn = some k →
        (s.cycle ≤ k → exec (.preemptArrival lin) s = .next s) ∧
        (k < s.cycle → exec (.preemptArrival lin) s = .next (s.setCore lin { c with preqIn := none, preq := some s.cycle }))) ∧
      ∀ k id w i, c.woundIn = some (k, id, w) → c.task = some i →
        let arrived := s.setCore lin { c with woundIn := none, wound := some (id, w) }
        let taken (epc bseq : Nat) : Prop := exec (.woundArrival lin) s = .next (arrived.startLeave lin
          (.aborted 0x03 (BitVec.ofNat 64 id) (BitVec.ofNat 64 w) (BitVec.ofNat 64 (s.task w).age) 6 w 0) 0 epc bseq)
        (s.cycle ≤ k → exec (.woundArrival lin) s = .next s) ∧
        (k < s.cycle → c.leave = none → c.iss = none →
          (c.compl = none → taken c.pc (c.bseq + 1)) ∧
          (∀ q, c.compl = some q →
            let ending := q.committing = true ∨ q.ask = .tend ∨ (c.pend = [] ∧ ∃ h ∈ q.ops, ∃ x, h.instr = .tend x)
            (¬ending → q.performing = false → q.arrivedGen = none → taken q.baddr q.bseq) ∧
            (¬ending → (q.performing = true ∨ q.arrivedGen ≠ none) → exec (.woundArrival lin) s = .next arrived) ∧
            (ending → exec (.woundArrival lin) s = .next (s.setCore lin { c with woundIn := none }))))
  )

/-- R108 to R113: QPUT writes a record of 64 bytes at the tail, or, to a task that waits, into its destination, and advances the
indexes; a full ring is the trap QFULL. QGET reads the record at the head, or waits; it gives the record's index. A malformed
descriptor is QDESC. The reads and writes are at the addresses the translations give. R112: a QGET whose limit comes while it
waits traps with QEXPIRE: the task is FAULTED with no record, its arguments the descriptor's address, HEAD and TAIL. -/
def Obligations.DeviceQueues : Prop :=
  (
    ∀ (x : OpI) (s : State) (h : HeldOp) (q : Completion) (u w : State) (pd p1 : Nat),
      let va (k : Nat) : Nat := (h.vals.getD k 0).toNat
      let acc (s : State) (a : Nat) (rd wr : Bool) := s.ringAt s.curCtx (towerOf s.cur) a rd wr
      let done := s.performed q
      let word (s : State) (k : Nat) : Nat := s.readWord (pd + 8 * k)
      let wellFormed (s : State) : Prop := word s 0 % 64 = 0 ∧ word s 0 / 2 ^ 57 % 2 ^ 7 = 0 ∧ 1 ≤ word s 1 ∧ word s 1 ≤ 20 ∧ word s 4 < 2 ^ 32 ∧
        word s 5 = 0 ∧ word s 6 = 0 ∧ word s 7 = 0
      let cap := 2 ^ (word w 1 % 32)
      let head : Word := BitVec.ofNat 64 (word w 2)
      let tail : Word := BitVec.ofNat 64 (word w 3)
      let record (i : Word) : Nat := word w 0 / 64 % 2 ^ 51 * 64 + i.toNat % cap * 64
      let set (s : State) (k : Nat) (v : Word) : State := s.write (pd + 8 * k) (leBytes v.toNat 8)
      let fails (i : Instr) (s : State) (code : Nat) (a0 : Word) : Prop :=
        exec i s = .next (u.fatal u.cur q.bseq q.baddr (2 ^ h.slot) code a0 0 0)
      acc done (va 0) true true = (.ok pd, u) → u.core.compl = some { q with ops := q.ops.tail } →
      (s.Performing (.qput x) h q →
        (¬(u.ringDesc pd).ok = true → fails (.qput x) s 0x18 (BitVec.ofNat 64 (va 0))) ∧
        ((u.ringDesc pd).ok = true → acc u (va 1) true false = (.ok p1, w) → w.core.compl = some { q with ops := q.ops.tail } →
          (∀ pa z, (tail - head).toNat < cap → w.ringWaiters pd = [] → acc w (record tail) false true = (.ok pa, z) →
            exec (.qput x) s = .next (set (z.write pa (w.read p1 64)) 3 (tail + 1))) ∧
          (∀ j pa z, (tail - head).toNat < cap → w.oldest (w.ringWaiters pd) = some j → w.destReady (w.task j).ctx (w.task j).qdest = true →
            w.ringAt (w.task j).ctx (towerOf w.cur) (w.task j).qdest false true = (.ok pa, z) →
            exec (.qput x) s = .next ((set (set (z.write pa (w.read p1 64)) 2 (head + 1)) 3 (tail + 1)).wake j)) ∧
          (cap ≤ (tail - head).toNat → q.trap = none → exec (.qput x) s =
            .next { w with core := { w.core with compl := some { q with ops := q.ops.tail, trap := some (0x41, BitVec.ofNat 64 (va 0), head, tail, h.slot) } } }))) ∧
      (s.Performing (.qget x) h q →
        (¬(u.ringDesc pd).ok = true → fails (.qget x) s 0x18 (BitVec.ofNat 64 (va 0))) ∧
        ((u.ringDesc pd).ok = true → acc u (va 1) false true = (.ok p1, w) →
          let d := u.ringDesc pd
          (d.tail = d.head → w.core.compl = some { q with ops := q.ops.tail } → q.ask = .none → twf {} w.tasks = true → ∃ t, exec (.qget x) s = .next t ∧
            t.core.compl = some { q with ops := q.ops.tail, ask := .suspend 4 0 (va 0) } ∧ (t.task w.curTask).qdest = va 1 ∧
            (t.task w.curTask).qlimit = (if va 2 = 0 then none else some ((va 3 + va 2 + 63) / 64 * 64)) ∧
            t = { w with tasks := t.tasks, core := { w.core with compl := t.core.compl } }) ∧
          (∀ pa z, d.tail ≠ d.head → acc w (d.base + d.head.toNat % 2 ^ d.log2cap * 64) true false = (.ok pa, z) → ∃ t,
            exec (.qget x) s = .next t ∧
            t = { set (z.write p1 (z.read pa 64)) 2 (d.head + 1) with
              core := { z.core with regs := { z.core.regs with lat := t.core.regs.lat }, l1 := t.core.l1 } } ∧
            (twf 0 z.core.regs.lat = true → tget 0 t.core.regs.lat h.slot = d.head)))) ∧
      ((u.ringDesc pd).ok = true ↔ wellFormed u)
  ) ∧
  (
    ∀ (i : Nat) (s : State) (n : Nat),
      let w := s.task i
      let l := s.launchOf (slotOfHandle w.launch)
      w.qlimit = some n → n ≤ s.cycle → w.state = .suspended → w.wkind = 4 → w.gslot = 65535 → w.h = false → l.img.fpol ≠ 0 →
      ∃ t a1 a2, exec (.qexpire i) s = .next t ∧ t = { s with tasks := t.tasks, launches := t.launches } ∧
        t.task i = { w with state := .faulted, wkind := 0, wobj := 0, waddr := 0, qlimit := none, ecode := 0x40, emask := 1, eclass := 3,
                            ecore := w.qfrom.2, epc := w.qfrom.1, earg0 := BitVec.ofNat 64 w.waddr, earg1 := a1, earg2 := a2 } ∧
        (twf {} s.tasks = true → ∀ j, j ≠ i → t.task j = s.task j)
  )

/-! ### Issue, visibility, windows -/

/-- R38, R44, R45, R48, R50, R55, R57, R61, R173, R175: a bundle at the pc is checked whole, slot by slot, under the bundle in
issue. What holds it, the limit of its window and that of the rise of MMAs among these, freezes the core for a cycle, counted
against the cause; with no such cause a fault of a slot is the task's fatal fault with the mask of the faulting slots and the
first code in the order of R50 (that a cycle which freezes judges no fault is notes/assumptions/44.md); a next bundle beyond the
code is BADTARGET. Otherwise it issues: its weight is charged and its slots, as decoded, act next, in slot order. R174, R190, R304: when every slot of a bundle has acted, its local-store writes are in the pair's store,
its system-register writes are performed, and the next bundle stands at the address and the issue count that the rules give; a
bundle with Q = 1 begins its completion step (R52). -/
def Obligations.BundleIssue : Prop :=
  (
    ∀ (lin : Nat) (s : State) (b : RawBundle),
      let u := s.focus lin
      let c := u.core
      let open_ : State := { u with core := { c with iss := some { baddr := c.pc, bseq := c.bseq + 1, len := b.len, wait := b.wait,
                                                                   quiet := b.quiet, redir := .seq, sysw := [], ops := [], lsw := [] } } }
      let decoded := b.slotWords.map fun x => (x.1, x.2, decodeSlot x.1 x.2)
      let k := decoded.foldl (open_.checkSlot b.quiet (!(u.heldSets u.curTask).isEmpty) b.len) {}
      let next := (nextAfter c.loops c.pc b.len b.quiet (open_.bundleRedirect (decoded.filterMap fun x => x.2.2.toOption)) u.requested).pc
      let ends := open_.bundleRedirect (decoded.filterMap fun x => x.2.2.toOption) = .stop
      let frozen (f : Counters → Counters) : Prop :=
        exec (.bundleIssue lin b) s = .next { u with core := { c with frozen := true, cnt := f c.cnt } }
      let mask := (k.faults.map fun f => 2 ^ f.1).foldl (· + ·) 0
      c.task ≠ none → (u.task u.curTask).recheck = none → c.iss = none → c.compl = none → c.leave = none → c.startAt ≤ u.cycle →
      c.nextIc ≤ c.ic → b.words.length = spmCount b.header →
      (∀ stop, u.endNeeded b = some stop → exec (.bundleIssue lin b) s = .next (u.fetchHold stop 1)) ∧
      (u.endNeeded b = none →
        (k.stall = some 1 → frozen fun n => { n with ilck := satAdd32 n.ilck 1 }) ∧
        (k.stall ≠ some 1 → (k.stall = some 2 ∨ c.memFrozen = true) → frozen fun n => { n with memw := satAdd32 n.memw 1 }) ∧
        ((k.stall = none ∨ k.stall = some 5) → ¬c.memFrozen = true →
          let limit := min c.cnt.limit (c.cnt.pub * (8 - tget 0 u.hub.inForce (u.cur / 144)) / 8)
          (limit < c.cnt.used + k.weight →
            frozen fun n => { n with cwcyc := satAdd32 n.cwcyc 1, stat := n.stat ||| 0x08#6 }) ∧
          (c.cnt.used + k.weight ≤ limit →
            (k.stall = some 5 ∨ (k.steps ≠ 0 ∧ c.cnt.prev + c.cnt.step < c.cnt.cur + k.steps) →
              frozen fun n => { n with rampcyc := satAdd32 n.rampcyc 1, stat := n.stat ||| 0x10#6 }) ∧
            (k.stall = none → (k.steps = 0 ∨ c.cnt.cur + k.steps ≤ c.cnt.prev + c.cnt.step) →
              (∀ slot f, k.faults = [(slot, f)] →
                exec (.bundleIssue lin b) s = .next (u.fatal u.cur (c.bseq + 1) c.pc (2 ^ slot) f.1 f.2.1 f.2.2 0)) ∧
              (∀ slot w, k.faults.find? (fun f => f.2.1 == 0x10) = some (slot, 0x10, w, 0) →
                exec (.bundleIssue lin b) s = .next (u.fatal u.cur (c.bseq + 1) c.pc mask 0x10 w 0 0)) ∧
              (k.faults = [] →
                (¬ends → u.image.words ≤ next →
                  exec (.bundleIssue lin b) s = .next (u.fatal u.cur (c.bseq + 1) c.pc 0 0x23 (BitVec.ofNat 64 next) 0 0)) ∧
                (ends ∨ next < u.image.words →
                  exec (.bundleIssue lin b) s = .next { open_ with
                    slots := decoded.filterMap fun x => x.2.2.toOption
                    core := { open_.core with bseq := c.bseq + 1, claims := (c.claims.filter fun x => decide (u.cycle ≤ x.2)) ++ k.claims,
                                              cnt := { c.cnt with used := c.cnt.used + k.weight } } })))))) ∧
      decoded.length = b.words.length
  ) ∧
  (
    ∀ (s : State) (b : Issue), s.core.iss = some b →
      let n := nextAfter s.core.loops b.baddr b.len b.quiet b.redir s.requested
      let t := s.closeIssue
      let c := b.sysw.foldl (fun c w => c.sysWrite w.1 w.2) s.core
      let p := s.pairAt (pairOf s.cur)
      t = { s with core := t.core, pairs := t.pairs } ∧
      t.core = { c with iss := none, pc := n.pc, loops := n.loops, px := t.core.px, nextIc := s.core.ic + 1 + b.wait + n.redirect,
                        compl := t.core.compl } ∧
      (∀ v, n.px = some v → t.core.px = v) ∧ (n.px = none → t.core.px = s.core.px) ∧
      (b.quiet = false → t.core.compl = none) ∧
      (b.quiet = true → ∃ q, t.core.compl = some q ∧ q.baddr = b.baddr ∧ q.bseq = b.bseq ∧ q.next = n.pc ∧ q.ops = b.ops ∧
        q.performing = false ∧ q.ask = .none ∧ q.trap = none) ∧
      (twf Pair.reset s.pairs = true → twf 0 p.data = true →
        (∀ k, k ≠ pairOf s.cur → t.pairAt k = s.pairAt k) ∧
        (t.pairAt (pairOf s.cur)).tags = p.tags ∧
        ∀ key, ((∀ w ∈ b.lsw, w.key ≠ key) → tget 0 (t.pairAt (pairOf s.cur)).data key = tget 0 p.data key) ∧
          (∀ w, b.lsw = [w] → w.key = key →
            tget 0 (t.pairAt (pairOf s.cur)).data key = (tget 0 p.data key &&& ~~~w.mask) ||| (w.val &&& w.mask)))
  )

/-- R35, R36, R39, R47, R217, R218: the results due in a cycle leave the list of results in flight; each is written to its register
and to its slot's latch, and adds its flags and counts. A result that raises an enabled flag is the fatal fault FPTRAP of its
bundle. -/
def Obligations.ResultsBecomeVisible : Prop :=
  (∀ (lin : Nat) (s : State),
    let c := s.coreAt lin
    let due (p : Pending) : Bool := p.ready && decide (p.ic + p.lh ≤ c.ic) && decide (p.cyc + p.lc ≤ s.cycle)
    let rest := c.pend.filter fun p => !due p
    (c.pend.filter due = [] → ∃ t, exec (.resultVisible lin) s = .next t ∧ t = s.setCore lin { c with pend := rest }) ∧
    ((∀ p ∈ c.pend.filter due, trapping p.enables p.fl = false) → ∃ t k, exec (.resultVisible lin) s = .next t ∧ t = s.setCore lin k ∧
      k = { c with pend := rest, regs := k.regs, dueFl := k.dueFl, dueCnt := k.dueCnt, cnt := { c.cnt with stat := k.cnt.stat } } ∧
      (twf 0 c.regs.sa = true → ∀ n, (∀ p ∈ c.pend.filter due, ∀ v, .sreg .a n v ∉ p.writes) → tget 0 k.regs.sa n = tget 0 c.regs.sa n) ∧
      (twf 0 c.regs.sb = true → ∀ n, (∀ p ∈ c.pend.filter due, ∀ v, .sreg .b n v ∉ p.writes) → tget 0 k.regs.sb n = tget 0 c.regs.sb n)) ∧
    (∀ p, c.pend.filter due = [p] → trapping p.enables p.fl = false →
      exec (.resultVisible lin) s = .next (s.setCore lin { c with
        pend := rest
        regs := (p.writes.foldl Regs.put c.regs).putLatch p.slot p.latch
        dueFl := c.dueFl.or p.fl
        dueCnt := c.dueCnt.add p.cnt })) ∧
    (∀ p, c.pend.filter due = [p] → trapping p.enables p.fl = true →
      exec (.resultVisible lin) s =
        .next ((s.setCore lin { c with pend := rest }).fatal lin p.bseq p.baddr (2 ^ p.slot) 0x14 (p.fl.toBits.setWidth 64) 0 0)) ∧
    (∀ p q cl n v w, (c.pend.filter due = [p, q] ∨ c.pend.filter due = [q, p]) → trapping p.enables p.fl = false → trapping q.enables q.fl = false →
      p.writes = [.sreg cl n v] → q.writes = [.sreg cl n w] → p.slot < q.slot ∨ (p.slot = q.slot ∧ p.bseq < q.bseq) →
      exec (.resultVisible lin) s = .next (s.setCore lin { c with
        pend := rest
        regs := ((((c.regs.put (.sreg cl n v)).putLatch p.slot p.latch).put (.sreg cl n w)).putLatch q.slot q.latch)
        dueFl := (c.dueFl.or p.fl).or q.fl
        dueCnt := (c.dueCnt.add p.cnt).add q.cnt
        cnt := { c.cnt with stat := c.cnt.stat ||| 1 } })) ∧
    ∀ p q, (c.pend.filter due = [p, q] ∨ c.pend.filter due = [q, p]) → trapping p.enables p.fl = false → trapping q.enables q.fl = true →
      p.bseq < q.bseq →
      exec (.resultVisible lin) s = .next ((s.setCore lin { c with
        pend := rest
        regs := (p.writes.foldl Regs.put c.regs).putLatch p.slot p.latch
        dueFl := c.dueFl.or p.fl
        dueCnt := c.dueCnt.add p.cnt }).fatal lin q.bseq q.baddr (2 ^ q.slot) 0x14 (q.fl.toBits.setWidth 64) 0 0)) ∧
  ∀ (r : Regs) (n : Nat) (slot : Nat) (v : Word) (w mask : VecReg),
    (twf 0 r.sa = true → ∀ k, tget 0 (r.put (.sreg .a n v)).sa k = if k = n then v else tget 0 r.sa k) ∧
    (twf 0 r.sb = true → ∀ k, tget 0 (r.put (.sreg .b n v)).sb k = if k = n then v else tget 0 r.sb k) ∧
    (twf false r.pa = true → ∀ p k, tget false (r.put (.pred .a n p)).pa k = if k = n then p else tget false r.pa k) ∧
    (twf false r.pb = true → ∀ p k, tget false (r.put (.pred .b n p)).pb k = if k = n then p else tget false r.pb k) ∧
    (twf 0 r.va = true → ∀ k j, j < 32768 → (tget 0 (r.put (.vec .a n w mask)).va k).getLsbD j =
      if k = n ∧ mask.getLsbD j = true then w.getLsbD j else (tget 0 r.va k).getLsbD j) ∧
    (twf 0 r.vb = true → ∀ k j, j < 32768 → (tget 0 (r.put (.vec .b n w mask)).vb k).getLsbD j =
      if k = n ∧ mask.getLsbD j = true then w.getLsbD j else (tget 0 r.vb k).getLsbD j) ∧
    (twf 0 r.lat = true → slot < 5 → ∀ k, tget 0 (r.putLatch slot (.word v)).lat k = if k = slot then v else tget 0 r.lat k) ∧
    (twf 0 r.latv = true → 5 ≤ slot → ∀ k, tget 0 (r.putLatch slot (.word v)).latv k =
      if k = slot then v.setWidth 32768 else tget 0 r.latv k) ∧
    r.putLatch slot .none = r ∧
    (twf 0 r.latv = true → 5 ≤ slot → ∀ k j, j < 32768 → (tget 0 (r.putLatch slot (.wide w mask)).latv k).getLsbD j =
      if k = slot ∧ mask.getLsbD j = true then w.getLsbD j else (tget 0 r.latv k).getLsbD j) ∧
    (∀ h, twf 0 r.hv = true → ∀ k, tget 0 (r.put (.hv n h)).hv k = if k = n then h else tget 0 r.hv k) ∧
    (∀ h, (r.put (.ht h)).ht = h) ∧
    (∀ d, twf 0 r.fd = true → ∀ k, tget 0 (r.put (.fd n d)).fd k = if k = n then d else tget 0 r.fd k) ∧
    (∀ h, twf 0 r.hc = true → ∀ k, tget 0 (r.put (.hc n h)).hc k = if k = n then h else tget 0 r.hc k) ∧
    (∀ h half, twf 0 r.hc = true → half < 2 → ∀ k j, j < 49152 → (tget 0 (r.put (.hcHalf n half h)).hc k).getLsbD j =
      if k = n ∧ j / 24576 = half then h.getLsbD j else (tget 0 r.hc k).getLsbD j) ∧
    (∀ cols l, twf [] r.sl = true → (∀ k, k ≠ n → tget [] (r.put (.sl n cols l)).sl k = tget [] r.sl k) ∧
      (twf MatRow.zero (tget [] r.sl n) = true → ∀ k, tget MatRow.zero (tget [] (r.put (.sl n cols l)).sl n) k =
        if k < cols then tget MatRow.zero l k else tget MatRow.zero (tget [] r.sl n) k))

/-- R25, R26, R55 to R58: a window of 64 cycles ends: USED is 0, a mode change and the throttle steps come into force; a window of
1,024 cycles ends: the MMAs counted, at most 512, become those of the previous window. A dummy MMA occupies the matrix unit for
2 cycles, counts and weighs 40, or is skipped where the limit forbids it. -/
def Obligations.Windows : Prop :=
  ∀ (lin : Nat) (s : State),
    (s.cycle % 64 = 0 → ∃ h pub, exec (.currentWindowBoundary lin) s = .next ({ s with hub := h }.modCore lin fun c =>
        { c with cnt := { c.cnt with used := 0, pub := pub, limit := min c.cnt.limit pub } }) ∧
      pub = publishedLimit h.cap h.profile ∧
      h = (match s.hub.pendMode with
        | some m => { s.hub with cap := m.1, profile := m.2, pendMode := none, inForce := s.hub.throttle }
        | none => { s.hub with inForce := s.hub.throttle })) ∧
    (s.cycle % 1024 = 0 → exec (.rampWindowBoundary lin) s = .next (s.modCore lin fun c =>
      { c with cnt := { c.cnt with prev := min c.cnt.cur 512, cur := 0 } })) ∧
    let u := s.focus lin
    let n := u.core.cnt
    let due := 2 * ((n.prev : Int) - n.step - n.cur) ≥ 1024 - (u.cycle % 1024 : Nat)
    let limit := min n.limit (n.pub * (8 - tget 0 u.hub.inForce (u.cur / 144)) / 8)
    (due → tget 0 u.core.busy 20 ≤ u.cycle → n.dummyUntil ≤ u.cycle →
      (n.used + 40 ≤ limit → exec (.dummyMma lin) s = .next { u with core := { u.core with cnt :=
        { n with dummyUntil := u.cycle + 2, cur := n.cur + 1, used := n.used + 40, stat := n.stat ||| 0x20#6 } } }) ∧
      (limit < n.used + 40 → exec (.dummyMma lin) s = .next { u with core := { u.core with cnt := { n with skip := min (n.skip + 1) 63 } } })) ∧
    (¬due → exec (.dummyMma lin) s = .next u)

/-- R165: Phase g counts as completed when (GEN − g − 1) mod 2^16 < 32,768. -/
def Obligations.PhaseCompleted : Prop :=
  ∀ (gen : BitVec 16) (g : Nat), phaseDone gen g = true ↔ ((gen.toNat : Int) - g - 1) % 65536 < 32768

/-- R176: the next bundle that a quiescent bundle's snapshot records is the target of its taken transfer, and otherwise its
sequential successor. -/
def Obligations.SnapshotAddress : Prop :=
  ∀ (s : State) (b : Issue), s.core.iss = some b → b.quiet = true → ∃ q, s.closeIssue.core.compl = some q ∧
    (∀ t ends, b.redir = .xfer t ends → q.next = t) ∧ (b.redir = .seq → q.next = b.baddr + b.len) ∧
    ∀ u : State, ((u.finishCompl { q with ask := .tend }).core.snap.next = q.next)

/-- R289: HDIST writes to D the number of bits in which A and B differ, and qt takes the same value in its low 64 bits. -/
def Obligations.HammingDistance : Prop :=
  ∀ (x : OpA) (s : State), s.core.guard x.cl x.g = true → x.cl = .b →
    let n := ((List.range 6144).filter fun i => (s.core.hsrc x.a).getLsbD i != (s.core.hsrc x.b).getLsbD i).length
    n ≤ 6144 ∧ IssuesWord s (.hdist x) .b x.d (BitVec.ofNat 64 n) ∧ instrSlot (.hdist x) = 7 ∧
    ∀ r : Regs, twf 0 r.latv = true → tget 0 (r.putLatch 7 (.word (BitVec.ofNat 64 n))).latv 7 = BitVec.ofNat 32768 n

/-- R235: SEXT extends the low b bits of A by sign, b being B read as unsigned: 0 for b = 0, and A for b of 64 and more. -/
def Obligations.SignExtension : Prop :=
  ∀ (x : OpA) (s : State), s.core.guard x.cl x.g = true →
    let a := s.core.src x.cl x.a
    let b := (s.core.src x.cl x.b).toNat
    (b = 0 → IssuesWord s (.sext x) x.cl x.d 0) ∧
    (1 ≤ b → b ≤ 63 → IssuesWord s (.sext x) x.cl x.d ((a.setWidth b).signExtend 64)) ∧
    (64 ≤ b → IssuesWord s (.sext x) x.cl x.d a)

/-! ### Memory, translation, the queues -/

/-- R3, R19, R21: a write puts its bytes, the lowest first, at ascending addresses and changes no other byte; the memory keeps its
canonical form; the checks of the sectors touched are fresh, and a sector written whole is no longer poisoned. R337: what an
atomic writes for the old value m and its operand v, on n bits. -/
def Obligations.MemoryBytes : Prop :=
  (
    ∀ (s : State) (pa : Nat) (bs : List Byte), s.mem.wf = true →
      let t := s.write pa bs
      t = { s with mem := t.mem, badCheck := t.badCheck, poison := t.poison, marks := t.marks } ∧ t.mem.wf = true ∧
      (∀ a, tget 0 t.mem a = if pa ≤ a ∧ a < pa + bs.length then bs.getD (a - pa) 0 else tget 0 s.mem a) ∧
      (s.Apart pa bs.length → t.read pa bs.length = bs) ∧ (∀ a, a + 1 ≤ pa ∨ pa + bs.length ≤ a → t.read a 1 = s.read a 1) ∧
      (∀ w n, natOfBytes (leBytes w n) = w % 2 ^ (8 * n)) ∧
      (twf false s.badCheck = true → ∀ k, tget false t.badCheck k =
        if bs ≠ [] ∧ pa / 32 ≤ k ∧ k ≤ (pa + bs.length - 1) / 32 then false else tget false s.badCheck k) ∧
      (twf false s.poison = true → ∀ k, tget false t.poison k =
        if pa ≤ 32 * k ∧ 32 * k + 32 ≤ pa + bs.length then false else tget false s.poison k)
  ) ∧
  (
    ∀ (n m v : Nat), 0 < n → m < 2 ^ n → v < 2 ^ n →
      let sg (a : Nat) : Int := if a < 2 ^ (n - 1) then a else (a : Int) - 2 ^ n
      amoOp 0 n m v = (m + v) % 2 ^ n ∧ sg (amoOp 2 n m v) = min (sg m) (sg v) ∧ sg (amoOp 3 n m v) = max (sg m) (sg v) ∧
      amoOp 4 n m v = min m v ∧ amoOp 5 n m v = max m v ∧ amoOp 8 n m v = m &&& v ∧ amoOp 9 n m v = m ||| v ∧
      amoOp 10 n m v = m ^^^ v ∧ amoOp 11 n m v = v
  )

/-- R342 to R344, R347: a walk reads one entry at each level from the context's root; an access meets the leaf's state: POISONED
before W, W before a page in transit; a page in the cellar, the attic or with a pending log answers with the frame. R49, R140,
R345, R347, R354, R359: the translation of an access within one page ends in the entry's readiness, in a freeze while the page
is in transit, or in the task's abort or fault. A freeze that reaches TLIMIT is the restartable fault TRANSIT. -/
def Obligations.Translations : Prop :=
  (
    ∀ (s : State) (c va n : Nat) (wr : Bool) (tower agent : Nat),
      let root := (s.ctx c).ptroot * 4096
      let table (e : Nat) : Nat := e / 2 ^ 8 % 2 ^ 49 * 2 ^ 8
      let clean (a : Nat) : Prop := s.poisoned a 8 = false
      ((s.ctx c).ptroot = 0 → s.walk c va = .absent) ∧
      (∀ a3 a2 a1 a0 e3 e2 e1 e0, (s.ctx c).ptroot ≠ 0 →
        a3 = root + 8 * (va / 2 ^ 39 % 2 ^ 18) → e3 = s.readWord a3 → clean a3 → e3 % 16 = 15 → e3 / 2 ^ 8 % 16 = 0 →
        a2 = table e3 + 8 * (va / 2 ^ 30 % 2 ^ 9) → e2 = s.readWord a2 → clean a2 → e2 % 16 = 15 → e2 / 2 ^ 8 % 16 = 0 →
        a1 = table e2 + 8 * (va / 2 ^ 21 % 2 ^ 9) → e1 = s.readWord a1 → clean a1 → e1 % 16 = 15 →
        a0 = table e1 + 8 * (va / 2 ^ 16 % 2 ^ 5) → e0 = s.readWord a0 → clean a0 →
        (e0 % 16 = 0 → e0 / 2 ^ 4 % 4 ≠ 3 → e0 / 2 ^ 9 % 4 ≠ 3 → s.walk c va = .absent) ∧
        (1 ≤ e0 % 16 → e0 % 16 ≤ 9 → e0 / 2 ^ 4 % 4 = 0 → e0 / 2 ^ 9 % 4 ≠ 3 → s.walk c va = .leaf a0 0 e0) ∧
        (10 ≤ e0 % 16 → s.walk c va = .format)) ∧
      (s.walk c va = .absent → s.translate c va n wr tower agent = (.absent, s.event 0x10 (some c) va agent)) ∧
      ∀ a level e, s.walk c va = .leaf a level e →
        let r := e % 16
        let w := e / 2 ^ 6 % 2 = 1
        let frame := e / 2 ^ 16 % 2 ^ 41 * 2 ^ 16
        let page := va / 2 ^ 16 * 2 ^ 16
        (r = 9 → s.translate c va n wr tower agent = (.poison frame, s)) ∧
        (r ≠ 9 → wr = true → ¬w → s.translate c va n wr tower agent = (.readonly, s)) ∧
        ((wr = true → w) → r = 5 ∨ r = 6 ∨ r = 8 → s.translate c va n wr tower agent = (.transit a, s)) ∧
        ((wr = true → w) → r = 2 ∨ r = 3 ∨ r = 7 → s.translate c va n wr tower agent =
          (.ok { vpage := va / 2 ^ 16, base := frame + page % pageBytes level, leaf := a, size := level }, s)) ∧
        ((wr = true → w) → r = 1 → (s.pantry tower).frames = [] →
          s.translate c va n wr tower agent = (.pantry tower, s.event 0x13 (some c) tower va))
  ) ∧
  (
    ∀ (lin seq : Nat) (s : State) (e : MqEntry),
      let c := s.coreAt lin
      let fate (u : State) (r : Trans) : Prop := s.translate (s.ctxOf lin) e.ea e.len e.writes (lin / 144) 0 = (r, u)
      let entryAs (u : State) (f : MqEntry → MqEntry) : Prop := exec (.translationComplete lin seq) s =
        .next (u.modCore lin fun c => { c with mq := c.mq.map fun m => if m.seq = seq then f m else m })
      let aborts (u : State) (code : Nat) (a1 : Word) (kind obj addr : Nat) : Prop := exec (.translationComplete lin seq) s =
        .next (u.restart lin e.bseq e.baddr (2 ^ e.slot) code (BitVec.ofNat 64 e.ea) a1 kind obj addr)
      let fails (u : State) (code : Nat) (a0 : Word) : Prop := exec (.translationComplete lin seq) s =
        .next (u.fatal lin e.bseq e.baddr (2 ^ e.slot) code a0 0 0)
      (c.mq.find? (fun m => m.seq == seq) = some e → e.st = .walk → (∀ x, e.instr ≠ .hnear x) → 0 < e.len →
        e.ea % 65536 + e.len ≤ 65536 → ∀ u,
        (∀ x, fate u (.ok x) →
          let met := u.setsTouching (s.ctxOf lin) e.ea e.len fun a => a.state == .declared || a.state == .held
          let ahead := (u.coreAt lin).setOpAhead e
          (e.acquiring = false ∨ (met = [] ∧ ahead = false) → entryAs (u.fillTlb lin [x]) fun m => { m with xl := [x], st := .ready }) ∧
          (e.acquiring = true → met ≠ [] ∨ ahead = true → entryAs (u.fillTlb lin [x]) fun m => { m with xl := [x], st := .sets [] })) ∧
        (fate u .absent → aborts u 0x01 0 5 0 (e.ea / 65536 * 65536)) ∧
        (fate u .readonly → fails u 0x2A (BitVec.ofNat 64 e.ea)) ∧
        (∀ f, fate u (.poison f) → fails u 0x13 (BitVec.ofNat 64 f)) ∧
        (∀ k, fate u (.pantry k) → aborts u 0x02 (BitVec.ofNat 64 k) 7 0 (e.ea / 65536 * 65536)) ∧
        (∀ a, fate u (.transit a) → (∀ x, e.instr ≠ .amon x) → entryAs u fun m => { m with st := .transit u.cycle a })) ∧
      ∀ since a, s.hub.tlimit ≠ 0 → c.mq = [e] → e.st = .transit since a →
        (since + s.hub.tlimit * 64 ≤ s.cycle →
          let va := max e.ea (s.page a).vaddr
          exec (.transit lin) s =
            .next (s.restart lin e.bseq e.baddr (2 ^ e.slot) 0x04 (BitVec.ofNat 64 va) 0 5 0 (va / 65536 * 65536))) ∧
        (s.cycle < since + s.hub.tlimit * 64 → c.compl = none → exec (.transit lin) s = .next s)
  )

/-- R315, R316, R319, R326, R333, R337, R338: at the head of its queue a load of bytes valid in the L1 returns them, extended as its
size says; a store makes its bytes valid and dirty in the L1; an AMO replaces the bytes in memory by the result of its operation
and returns the old ones; the entry leaves its queues. The FIFO writes the dirty bytes of its oldest line to memory. R316: the
FIFO writes back the dirty bytes of its oldest line at their addresses; they stay in the L1, clean; no other byte of memory
changes. -/
def Obligations.QueuePerforms : Prop :=
  (
    ∀ (lin : Nat) (s : State) (e : MqEntry) (x : OpM) (y : Xlat),
      let c := s.coreAt lin
      let pa := y.base + e.ea % 65536
      let n : Nat := match x.sz with
        | .n8 | .i8 => 1
        | .n16 | .i16 => 2
        | .n32 | .i32 => 4
        | .d64 => 8
        | .sector => 32
      let value (m : Nat) : Word := match x.sz with
        | .i8 => (BitVec.ofNat 8 m).signExtend 64
        | .i16 => (BitVec.ofNat 16 m).signExtend 64
        | .i32 => (BitVec.ofNat 32 m).signExtend 64
        | _ => BitVec.ofNat 64 m
      let answered (t : State) (v : Word) : Prop := (t.coreAt lin).pend = c.pend.map fun p => if p.seq = e.seq then
        { p with ready := true, writes := destWrites x.cl x.v v, latch := .word v, fl := {}, cnt := {} } else p
      twf Core.reset s.cores = true → s.mem.wf = true → twf none c.l1 = true → s.Apart pa n → c.leave = none → c.mq = [e] →
      e.st = .ready → e.xl = [y] → y.vpage = e.ea / 65536 → e.ea % n = 0 → e.bseq ≤ c.bseq → x.ord = .plain → y.base % 65536 = 0 →
      s.heldSets (c.task.getD 0) = [] → s.moved lin e = false → c.fifo = [] → s.logBlocked y.leaf = false →
      (e.instr = .ld x → e.inLoad = true → e.inStore = false → (∀ k, k < n → c.l1At (pa + k) ≠ none) → ∃ t,
        exec (.queuePerform lin false) s = .next t ∧ (t.coreAt lin).mq = [] ∧ t.mem = s.mem ∧ (t.coreAt lin).l1 = c.l1 ∧
        answered t (value (natOfBytes ((List.range n).map fun k => (c.l1At (pa + k)).elim 0 fun b => b.val)))) ∧
      (e.instr = .st x → e.inLoad = false → e.inStore = true → c.bundleSafe e = true → c.hasWay (pa / 128) = true → ∃ t, exec (.queuePerform lin true) s = .next t ∧
        (t.coreAt lin).mq = [] ∧ (t.coreAt lin).pend = c.pend ∧
        ∀ k, k < n → (t.coreAt lin).l1At (pa + k) = some { val := BitVec.ofNat 8 ((e.vals.getD 0 0).toNat / 2 ^ (8 * k)), dirty := true }) ∧
      (e.instr = .amo x → e.inLoad = true → e.inStore = true → c.bundleSafe e = true → s.poisoned pa n = false → c.l1 = [] → ∃ t,
        exec (.queuePerform lin false) s = .next t ∧ (t.coreAt lin).mq = [] ∧
        answered t (value (natOfBytes (s.read pa n))) ∧
        t.read pa n = leBytes (amoOp x.fd.toNat (8 * n) (natOfBytes (s.read pa n)) (e.vals.getD 0 0).toNat) n ∧
        ∀ a, a < pa ∨ pa + n ≤ a → tget 0 t.mem a = tget 0 s.mem a)
  ) ∧
  (
    ∀ (lin : Nat) (s : State) (line : Nat) (rest : List FifoEntry),
      let c := s.coreAt lin
      twf Core.reset s.cores = true → s.mem.wf = true → twf none c.l1 = true → c.leave = none → c.fifo = .line line :: rest →
      s.logPageAt (128 * line) = none → ∃ t, exec (.dirtyLineWriteback lin) s = .next t ∧
        ∀ a, tget 0 t.mem a = (match c.l1At a with
            | some b => if b.dirty ∧ a / 128 = line then b.val else tget 0 s.mem a
            | none => tget 0 s.mem a) ∧
          (t.coreAt lin).l1At a = (c.l1At a).map fun b => if a / 128 = line then { b with dirty := false } else b
  )

/-! ### Atomic sets -/

/-- R381, R382, R385: the hub judges a request: a free entry, or one reserved for this task or a younger one, is HELD by it, the
ninth set of a task, those its other accesses are to receive at release among them, is SETMAX; a younger holder is wounded while the requester stays frozen, for an older one the requester
leaves its core and waits. With no set left to acquire the access proceeds. R378, R380, R387: ASDECL of a set that stands gives
its id, of one that meets another gives all ones, else the lowest free entry is DECLARED; ASDROP frees an entry that nobody
holds or waits for, marks another DROPPING, and gives 0 for a stale id. -/
def Obligations.SetRequests : Prop :=
  (
    ∀ (lin seq i : Nat) (s : State) (e : MqEntry) (r : List Nat),
      let c := s.coreAt lin
      let k := s.task i
      let wants := s.wanted i k.ctx e
      let entryAs (f : MqEntry → MqEntry) (u : State) : State :=
        u.modCore lin fun c => { c with mq := c.mq.map fun m => if m.seq = seq then f m else m }
      twf Core.reset s.cores = true → c.mq.find? (fun m => m.seq == seq) = some e → c.task = some i → e.st = .sets r →
      (c.setOpAhead e = true → exec (.setRequest lin seq) s = .next s) ∧
      (c.setOpAhead e = false → wants = [] → exec (.setRequest lin seq) s = .next (entryAs (fun m => { m with st := .ready }) s)) ∧
      ∀ x rest, c.setOpAhead e = false → wants = x :: rest →
        let key := k.ctx * 4096 + x
        let a := s.aset key
        let id := key % 4096 + a.gen.toNat * 4096
        let own (u : State) : State := entryAs (fun m => { m with inSet := m.inSet ++ [x] }) u
        let held := (s.heldSets i).length + ((c.wounded seq).filter fun y => y != x).length
        (a.holder = some i → exec (.setRequest lin seq) s = .next (own s)) ∧
        (a.holder ≠ some i → 8 ≤ held →
          exec (.setRequest lin seq) s = .next (s.fatal lin e.bseq e.baddr (2 ^ e.slot) 0x2B (BitVec.ofNat 64 id) 0 0)) ∧
        (held < 8 → a.holder = none → (∀ n, a.next = some n → n = i ∨ s.older i n = true) →
          ∃ t, exec (.setRequest lin seq) s = .next t ∧ t = own { s with sets := t.sets } ∧
            (twf {} s.sets = true → t.aset key = { a with state := .held, holder := some i, next := if a.next = some i then none else a.next } ∧
              ∀ j, j ≠ key → t.aset j = s.aset j)) ∧
        (∀ h, held < 8 → a.holder = some h → h ≠ i → s.older i h = true → ∀ l, s.coreOfTask h = some l → l ≠ lin →
          (s.coreAt l).woundIn = none → (s.coreAt l).wound = none →
          exec (.setRequest lin seq) s = .next ((entryAs (fun m => { m with st := .wounding [x] }) s).modCore l fun c =>
            { c with woundIn := some (s.cycle, id, i), woundDone := false })) ∧
        (∀ h, held < 8 → (a.holder = some h ∨ (a.holder = none ∧ a.next = some h)) → h ≠ i → s.older i h = false →
          exec (.setRequest lin seq) s = .next (s.startLeave lin (.suspended 2 id 0) 0 e.baddr e.bseq))
  ) ∧
  (
    ∀ (s : State) (c base lines id : Nat),
      let meets (k : Nat) : Prop := let a := s.aset (c * 4096 + k)
        a.state ≠ .free ∧ a.base < base + 128 * lines ∧ base < a.base + 128 * a.lines
      let handle (k : Nat) : Word := BitVec.ofNat 64 (k + (s.aset (c * 4096 + k)).gen.toNat * 4096)
      twf {} s.sets = true →
      (∀ k, k < 4096 → meets k → (∀ j, j < 4096 → meets j → j = k) → let a := s.aset (c * 4096 + k)
        (a.base = base → a.lines = lines → a.state ≠ .dropping → s.declare c base lines = (handle k, s)) ∧
        (a.base ≠ base ∨ a.lines ≠ lines ∨ a.state = .dropping → s.declare c base lines = (BitVec.allOnes 64, s))) ∧
      ((∀ k, k < 4096 → ¬meets k) →
        (∀ k, k < 4096 → (s.aset (c * 4096 + k)).state = .free → (∀ j, j < k → (s.aset (c * 4096 + j)).state ≠ .free) → ∃ t,
          s.declare c base lines = (handle k, t) ∧ t = { s with sets := t.sets } ∧
          ∀ j, t.aset j = if j = c * 4096 + k then { gen := (s.aset j).gen, state := .declared, base := base, lines := lines } else s.aset j) ∧
        ((∀ k, k < 4096 → (s.aset (c * 4096 + k)).state ≠ .free) → s.declare c base lines = (BitVec.allOnes 64, s))) ∧
      let key := c * 4096 + id % 4096
      let a := s.aset key
      let live := id < 2 ^ 24 ∧ a.state ≠ .free ∧ a.gen.toNat = id / 4096 ∧ a.state ≠ .dropping
      let busy := a.holder ≠ none ∨ a.next ≠ none ∨ s.waiters 2 (key % 4096 + a.gen.toNat * 4096) c ≠ []
      (¬live → s.dropSet c id = (0, s)) ∧
      (live → ∃ t, s.dropSet c id = (1, t) ∧ t = { s with sets := t.sets } ∧ (∀ j, j ≠ key → t.aset j = s.aset j) ∧
        (busy → t.aset key = { a with state := .dropping }) ∧ (¬busy → t.aset key = { gen := a.gen + 1 }))
  )

/-! ### Engines -/

/-- R303, R309 to R312: an operation that has started, with its sources translated and none poisoned, moves its bytes, leaves its
engine and the scoreboard and resolves its future SET at its scope: CPY with the bytes written, CHASE with the records visited
and whether END was met, GATH with the bytes delivered. An operation that has not started, or whose page moves, waits. R311: one
hop of a chase reads the sector with the next pointer and the sector to deliver of the record at the pointer; the chase ends at
END, at a full destination, at its number of hops; a pointer that is not aligned to 32 bytes stops it with NOTPRESENT. -/
def Obligations.EngineCompletion : Prop :=
  (
    ∀ (s u w z : State) (id p : Nat) (o : EngOp) (xs xd : List Xlat),
      let v (k : Nat) : Nat := (o.vals.getD k 0).toNat
      let t := towerOf o.lin
      let ends (i : Instr) (n : State) (scope : Scope) (value : Nat) : Prop :=
        exec i s = .next (n.endEngine p o (encScope scope).toNat (v 3) (.set (BitVec.ofNat 64 value)))
      s.engine id = some (p, o) →
      (∀ x, o.instr = .cpy x →
        (s.engReady o = false → exec (.cpyComplete id) s = .next s) ∧
        (s.engReady o = true →
          (v 2 = 0 → ends (.cpyComplete id) s x.scope 0) ∧
          (0 < v 2 → x.cvt = false → x.sls = false → x.dls = false → s.agentXlat o.ctx false t 1 (v 1) (v 2) = (.ok xs, u) →
            u.agentXlat o.ctx true t 1 (v 0) (v 2) = (.ok xd, w) → w.countVia xs o.ctx (v 1) (v 2) t = z → z.badSectors xs (v 1) (v 2) = [] →
            ends (.cpyComplete id) (z.writeVia xd (v 0) (z.readVia xs (v 1) (v 2))) x.scope (v 2)) ∧
          (∀ a b, 0 < v 2 → x.cvt = false → x.sls = true → x.dls = true → LsAddr.of (o.vals.getD 1 0) = some a → LsAddr.of (o.vals.getD 0 0) = some b →
            a.remote = false → b.remote = false → v 2 < 48 → let q := pairOf o.lin
            ends (.cpyComplete id) (s.putLsBytes b q (s.lsBytes a q (v 2))) x.scope (v 2)) ∧
          (0 < v 2 → x.cvt = false → x.sls = false → s.agentXlat o.ctx false t 1 (v 1) (v 2) = (.error .wait, u) →
            exec (.cpyComplete id) s = .next u))) ∧
      (∀ x, o.instr = .chase x → s.engReady o = true → s.agentXlat o.ctx true t 1 (v 1) 32 = (.ok xd, u) → u.badSectors xd (v 1) 32 = [] →
        let r := u.countVia xd o.ctx (v 1) 32 t
        let word (k : Nat) : Nat := natOfBytes ((r.readVia xd (v 1) 32).drop (8 * k) |>.take 8)
        let start := word 0 % 2 ^ 57
        let nextoff := word 1 % 2 ^ 12
        let rsec := word 1 / 2 ^ 12 % 2 ^ 4
        let psec := word 1 / 2 ^ 16 % 2 ^ 3
        let hops := word 1 / 2 ^ 32 % 2 ^ 32
        let fin (n : State) (last : Nat) : State := n.writeVia xd (v 1 + 24) (leBytes last 8)
        let wellFormed := word 1 / 2 ^ 20 % 2 ^ 12 = 0 ∧ nextoff < 32 * rsec ∧ nextoff % 8 = 0 ∧ 1 ≤ rsec ∧ rsec ≤ 8 ∧ psec < rsec ∧ hops ≠ 0
        (¬wellFormed → exec (.chaseComplete id) s = .next ((fin r start).endEngine p o (encScope x.scope).toNat (v 3) (.failed 0x102))) ∧
        ∀ c last, wellFormed → last = decide (word 1 / 2 ^ 19 % 2 = 1) →
          r.chaseLoop o nextoff psec (v 2) (word 2) last x.dls hops
            { p := start, prev := start, h := 0, out := [], last := [], stack := (r.walkerOf o).getD 0 } = (.ok c, w) →
          let bs := if last then c.last else c.out
          let result := c.h + if c.p = word 2 then 2 ^ 32 else 0
          (bs = [] → ends (.chaseComplete id) (fin w c.p) x.scope result) ∧
          (bs ≠ [] → x.dls = false → w.agentXlat o.ctx true t 1 (v 0) bs.length = (.ok xs, z) →
            ends (.chaseComplete id) (fin (z.writeVia xs (v 0) bs) c.p) x.scope result)) ∧
      (∀ x a secs, o.instr = .gath x → s.engReady o = true → x.sls = false → x.dls = false →
        let n := v 4
        let k := x.gsz.toNat + 1
        let iw := if x.isz then 8 else 4
        s.agentXlat o.ctx false t 1 (v 2) (n * iw) = (.ok xs, u) → u.badSectors xs (v 2) (n * iw) = [] →
        let r := u.countVia xs o.ctx (v 2) (n * iw) t
        let idx (i : Nat) : Nat := natOfBytes (((r.readVia xs (v 2) (n * iw)).drop (iw * i)).take iw)
        let vas := (List.range (n * k)).map fun j => (v 1 + (idx (j / k) * k + j % k) * 32) % 2 ^ 64
        r.agentXlat o.ctx true t 1 (v 0) (n * k * 32) = (.ok xd, w) → w.gathAll o false vas = (.ok secs, a) → (∀ q ∈ secs, q.2 = none) →
        ends (.gathComplete id) (a.writeVia xd (v 0) (secs.flatMap fun q => q.1)) x.scope (n * k * 32)) ∧
      ∀ rscope fut r, o.pins = [] → ∃ n : State, n = { s with pairs := n.pairs } ∧ s.endEngine p o rscope fut r = n.resolve fut o.ctx rscope 0 r ∧
        (twf Pair.reset s.pairs = true → ∀ k, n.pairAt k = { s.pairAt k with
          sb := (s.pairAt k).sb.filter fun e => e.op != o.id
          eng := if k = p then (s.pairAt k).eng.filter fun y => y.id != o.id else (s.pairAt k).eng })
  ) ∧
  (
    ∀ (s u w : State) (o : EngOp) (nextoff psec cap stop n : Nat) (last fill : Bool) (c : Chase) (xa xb : List Xlat),
      let a := (c.p + nextoff) / 32 * 32
      let b := c.p + 32 * psec
      let t := towerOf o.lin
      let runs (s : State) (n : Nat) (c : Chase) := s.chaseLoop o nextoff psec cap stop last fill n c
      (c.p % 32 ≠ 0 → runs s n c = (.error (.stop (.fail 0x102), c), s)) ∧
      (c.p % 32 = 0 →
        runs s 0 c = (.ok c, s) ∧
        (c.p = stop ∨ cap < c.out.length + 32 → runs s (n + 1) c = (.ok c, s)) ∧
        (c.p ≠ stop → c.out.length + 32 ≤ cap →
          s.agentXlat o.ctx false t 1 a 32 = (.ok xa, u) → u.agentXlat o.ctx false t 1 b 32 = (.ok xb, w) →
          (fill = true → w.freshSectors (physSectors xb b 32) = false) →
          let at_ := { c with stack := (w.peekXlat o.ctx c.p).elim c.stack fun x => homeStack (x.base + c.p % 65536) }
          let v := if fill then w.verify (physSectors xb b 32) 1 (some o.ctx) else w
          let sector := v.readVia xb b 32
          (v.badSectors xa a 32 ≠ [] ∨ v.badSectors xb b 32 ≠ [] → runs s (n + 1) c = (.error (.poison sector, at_), v)) ∧
          (v.badSectors xa a 32 = [] → v.badSectors xb b 32 = [] →
            let z := (v.countVia xa o.ctx a 32 t).countVia xb o.ctx b 32 t
            runs s (n + 1) c = runs z n { at_ with
              p := natOfBytes ((z.readVia xa a 32).drop ((c.p + nextoff) % 32) |>.take 8), prev := c.p, h := c.h + 1
              out := if last then c.out else c.out ++ sector, last := sector })))
  )

/-! ### Queues and records -/

/-- R100, R101, R103, R106: a record of 64 bytes appended to a ring that accepts it stands at APPENDED; a partial write is counted,
a write to a full ring is an error, one to a queue that takes none is discarded. ENABLE checks the binding; DRAIN, STOP and
RESET move the queue as their rows say. -/
def Obligations.HostQueueCommands : Prop :=
  ∀ (q offset : Nat) (bytes : List Byte) (s : State), twf {} s.queues = true →
    let x := s.queue q
    let becomes (i : Instr) (u : State) (y : Queue) : Prop := ∃ t, exec i s = .next t ∧ t = { u with queues := t.queues } ∧ t.queue q = y ∧
      ∀ j, j ≠ q → t.queue j = s.queue j
    let takes := (x.state = .enabled ∨ x.state = .blocked ∨ x.state = .stopped) ∧ (s.ctx x.ctx).state = .active
    let waiting := (x.appended - x.taken).toNat
    (bytes.length = 64 → offset % 64 = 0 →
      (¬takes → exec (.queueAppend q offset bytes) s = .next s) ∧
      (takes → 2 ^ x.log2n ≤ waiting →
        becomes (.queueAppend q offset bytes) s { x with state := .error, err := 3, waitf := none, stalled := false }) ∧
      (takes → waiting < 2 ^ x.log2n → becomes (.queueAppend q offset bytes) (s.write (x.rbase + x.appended.toNat % 2 ^ x.log2n * 64) bytes)
        { x with appended := x.appended + 1 })) ∧
    (bytes.length ≠ 64 ∨ offset % 64 ≠ 0 → ∃ u : State, exec (.queueAppend q offset bytes) s =
        .next (u.event 0x04 (some x.ctx) q (offset % 4096 + bytes.length % 4096 * 2 ^ 16)) ∧ u = { s with ctxs := u.ctxs } ∧
      (twf {} s.ctxs = true → u.ctx x.ctx = { s.ctx x.ctx with qpartial := (s.ctx x.ctx).qpartial + 1 })) ∧
    (x.state = .disabled →
      let bad := (s.ctx x.ctx).maxpri < x.pri ∨ (x.privq = true ∧ (s.ctx x.ctx).priv = false) ∨ (s.ctx x.ctx).state ≠ .active ∨
        x.log2n < 6 ∨ 16 < x.log2n
      (bad → becomes (.enable q) s { x with err := 8 }) ∧ (¬bad → becomes (.enable q) s { x with state := .enabled })) ∧
    (x.state = .stopped → x.waitf = none → becomes (.enable q) s { x with state := .enabled }) ∧
    (x.state = .enabled → becomes (.stop q) s { x with state := .stopped, stalled := false }) ∧
    (x.state = .blocked → ∃ t, exec (.stop q) s = .next t ∧ t = { s with queues := t.queues, marks := t.marks } ∧
      t.queue q = { x with state := .stopped, stalled := false } ∧ ∀ j, j ≠ q → t.queue j = s.queue j) ∧
    (x.state = .enabled ∨ x.state = .blocked ∨ x.state = .stopped →
      (s.launchesOf q ≠ [] ∨ (s.ctx x.ctx).state ≠ .active → becomes (.drain q) s { x with state := .draining, stalled := false }) ∧
      (s.launchesOf q = [] → (s.ctx x.ctx).state = .active → ∃ u : State, exec (.drain q) s = .next (u.event 0x05 (some x.ctx) q 0) ∧ u = { s with queues := u.queues } ∧
        u.queue q = { x with state := .stopped, stalled := false })) ∧
    (x.state ≠ .disabled → becomes (.reset q) s
      { x with state := .disabled, appended := 0, taken := 0, err := 0, waitf := none, stalled := false })

/-- R104 to R107, R357, R416: the engine takes the record at the head of a queue it serves: TAKEN rises; a record of another kind,
one that the queue may not carry, or one with a stale handle puts the queue in ERROR with its code. NOP does nothing, SIGNAL
resolves an EMPTY future, WAITF meets its future, MIGSCHED begins a schedule, MCGROUP sets 32 masks. -/
def Obligations.QueueRecords : Prop :=
  ∀ (q : Nat) (s : State), s.canTake q = true → twf {} s.queues = true →
    let x := s.queue q
    let w (k : Nat) : Nat := (s.record q).getD k 0
    let kind := w 0 % 16
    let f := w 0 / 2 ^ 32 % 2 ^ 32
    let k := f % 2 ^ 20
    let zeros (a b : Nat) : Prop := ∀ j, a ≤ j → j < b → w j = 0
    let took (u t : State) (y : Queue) : Prop := t = { u with queues := t.queues, hub := { u.hub with robin := t.hub.robin } } ∧
      t.queue q = { y with taken := x.taken + 1, stalled := false } ∧ (∀ j, j ≠ q → t.queue j = s.queue j) ∧
      (twf 0 s.hub.robin = true → tget 0 t.hub.robin x.pri = q + 1)
    let does (i : Instr) (u : State) (y : Queue) : Prop := ∃ t, exec i s = .next t ∧ took u t y
    let errs (i : Instr) (n : Nat) : Prop := does i s { x with state := .error, err := n, waitf := none }
    (kind = 0 → w 0 < 32 → zeros 1 8 → does (.nopRecord q) s x) ∧
    (kind = 0 → 32 ≤ w 0 → errs (.nopRecord q) 6) ∧
    (8 ≤ kind → errs (.reservedRecord q) 1) ∧
    (kind = 3 →
      (¬s.FutLive f x.ctx ∨ (s.fut k).state ≠ .empty → errs (.signal q) 4) ∧
      (s.FutLive f x.ctx → (s.fut k).state = .empty → w 0 / 32 % 2 ^ 27 = 0 → w 2 / 2 % 2 ^ 7 = 0 → w 2 < 2 ^ 24 → zeros 3 8 →
        ∃ u : State, does (.signal q) u x ∧ u = { s with futs := u.futs, tasks := u.tasks } ∧
          (twf {} s.futs = true → u.fut k = (if w 2 % 2 = 0 then { s.fut k with state := .set, value := BitVec.ofNat 64 (w 1), rscope := 3 }
              else { s.fut k with state := .failed, status := BitVec.ofNat 16 (w 2 / 2 ^ 8), rscope := 3 }) ∧
            ∀ j, j ≠ k → u.fut j = s.fut j) ∧
          Wakes s u fun t => t.wkind = 1 ∧ t.wobj % 2 ^ 20 = k ∧ t.ctx = (s.fut k).ctx)) ∧
    (kind = 4 →
      (¬s.FutLive f x.ctx → errs (.waitf q) 4) ∧
      (s.FutLive f x.ctx → w 0 / 32 % 2 ^ 27 = 0 → w 1 < 2 → zeros 2 8 →
        ((s.fut k).state = .empty → does (.waitf q) s { x with state := .blocked, waitf := some (f, decide (w 1 = 1)) }) ∧
        ((s.fut k).state = .set → does (.waitf q) s { x with state := .enabled, waitf := none }) ∧
        ((s.fut k).state = .failed → w 1 = 1 → does (.waitf q) s { x with state := .enabled, waitf := none }) ∧
        ((s.fut k).state = .failed → w 1 = 0 → errs (.waitf q) 5))) ∧
    (kind = 5 → w 0 < 32 → w 1 % 64 = 0 → w 1 < 2 ^ 57 → 1 ≤ w 2 → w 2 < 2 ^ 16 → zeros 3 8 →
      does (.migsched q) { s with scheds := s.scheds ++ [{ ctx := x.ctx, addr := w 1, count := w 2, index := 0, last := 0 }] } x) ∧
    (kind = 7 →
      (x.privq = false → errs (.mcgroup q) 2) ∧
      (∀ u xl, x.privq = true → w 0 / 32 % 2 ^ 27 = 0 → w 0 / 2 ^ 40 % 2 ^ 24 = 0 → w 1 % 128 = 0 → w 1 < 2 ^ 57 → zeros 2 8 →
        x.stalled = false → s.agentXlat x.ctx false (w 1 / 2 ^ 16 % 8) 3 (w 1) 128 = (.ok xl, u) → u.badSectors xl (w 1) 128 = [] →
        u.queues = s.queues → u.hub.robin = s.hub.robin → twf {} u.ctxs = true → twf 0 (u.ctx x.ctx).mcast = true → ∃ v : State,
          does (.mcgroup q) v x ∧ v = { u with ctxs := v.ctxs } ∧ ∀ j, tget 0 (v.ctx x.ctx).mcast j =
            if j / 32 = f % 2 ^ 8 then BitVec.ofNat 32 (natOfBytes ((((u.readVia xl (w 1) 128)).drop (4 * (j % 32))).take 4))
            else tget 0 (u.ctx x.ctx).mcast j))

/-! ### Launches -/

/-- R114 to R117, R122, R125, R130, R157: a launch record that its image allows zeroes the status block and loads the launch into
the lowest free slot, with the next launch tick; an image that R115 refuses is ERR 6. With every task FREE and the ticks
exhausted, the count begins again at the present tick: AGE_REBASE takes the held launch record with S = 1. -/
def Obligations.LaunchRecords : Prop :=
  (
    ∀ (q : Nat) (s u z : State) (xl sx : List Xlat),
      let x := s.queue q
      let w (k : Nat) : Nat := (s.record q).getD k 0
      let kind := w 0 % 16
      let header := wordsOfBytes (u.readVia xl (w 1) 256) 32
      let ext := [w 4 % 2 ^ 32, w 4 / 2 ^ 32 % 2 ^ 32, w 5 % 2 ^ 32, w 5 / 2 ^ 32 % 2 ^ 32]
      let img := imageOfHeader (w 1) header ext
      let tick := max (s.tick - s.hub.ageBase) (s.hub.sPrev + 1)
      let size := if kind = 2 then w 7 else 0
      let takes (i : Instr) : Prop :=
        (¬(headerOk header ext = true ∧ (size ≠ 0 → img.persist = false ∧ ∀ l ∈ img.levels, l.2 ≠ 1)) →
          exec i s = .next ((u.countTaken q).queueError q 6)) ∧
        (headerOk header ext = true → (size ≠ 0 → img.persist = false ∧ ∀ l ∈ img.levels, l.2 ≠ 1) →
          u.hubReach q (w 3) 64 true = (.ok sx, z) → z.tick = s.tick → z.hub.ageBase = s.hub.ageBase → z.hub.sPrev = s.hub.sPrev →
          ∀ slot, slot < 4096 → (z.launchOf slot).state = .free → (∀ j, j < slot → (z.launchOf j).state ≠ .free) → ∃ v : State,
            exec i s = .next (v.countTaken q) ∧
            v = { z.writeVia sx (w 3) (List.replicate 64 0) with launches := v.launches, hub := v.hub } ∧ v.hub = { z.hub with sPrev := tick } ∧
            (twf {} z.launches = true → (∀ j, j ≠ slot → v.launchOf j = z.launchOf j) ∧ v.launchOf slot =
              { state := .loaded, gen := (z.launchOf slot).gen, queue := q, ctx := x.ctx, pri := (z.queue q).pri,
                donef := w 0 / 2 ^ 32 % 2 ^ 32, towers := w 0 / 2 ^ 8 % 2 ^ 8, arg := w 2, status := w 3, ltag := BitVec.ofNat 32 (w 6),
                gsize := size, img := img, stick := tick }))
      s.canTake q = true → tick ≤ 0xFFFFFFFFFFF → s.recordError q (s.record q) = 0 → s.hubReach q (w 1) 256 false = (.ok xl, u) →
      u.badSectors xl (w 1) 256 = [] → u.tick = s.tick → u.hub.ageBase = s.hub.ageBase → u.hub.sPrev = s.hub.sPrev →
      (kind = 1 → takes (.launch q)) ∧ (kind = 2 → takes (.glaunch q))
  ) ∧
  (
    ∀ (q : Nat) (s : State),
      let rebased : State := { s with hub := { s.hub with ageBase := s.tick, sPrev := 0 } }
      let held (j : Nat) : Prop := s.canTake j = true ∧ (((s.record j).getD 0 0) % 16 = 1 ∨ ((s.record j).getD 0 0) % 16 = 2)
      s.tasks = [] → 0xFFFFFFFFFFF < max (s.tick - s.hub.ageBase) (s.hub.sPrev + 1) →
      (∀ rest, tkeys s.queues = q :: rest → held q →
        ((s.record q).getD 0 0 % 16 = 1 → exec .ageRebase s = exec (.launch q) rebased) ∧
        ((s.record q).getD 0 0 % 16 = 2 → exec .ageRebase s = exec (.glaunch q) rebased) ∧
        max (rebased.tick - rebased.hub.ageBase) (rebased.hub.sPrev + 1) = 1) ∧
      ((∀ j, ¬held j) → exec .ageRebase s = .next s)
  )

/-- R118 to R120, R122 to R125, R127: a loaded launch is accepted by the walkers of its towers; a walker creates the next chain head
as a READY task with the record of R120, every 2 cycles; a QUIET launch without work ends, and one that aborts when its tasks
are gone, as soon as its status block can be written. A handler starts for the oldest fault. -/
def Obligations.LaunchLife : Prop :=
  ∀ (slot : Nat) (s : State), twf {} s.launches = true → twf {} s.tasks = true →
    let l := s.launchOf slot
    let ts := (List.range 8).filter fun t => l.towers % 256 == 0 || l.towers / 2 ^ t % 2 == 1
    (l.state = .loaded → (s.ctx l.ctx).state = .active → (∀ t ∈ ts, (s.walkerHolds t).length < 16) → ∃ u : State,
      exec (.launchAccept slot) s = .next (u.flushStatus slot) ∧ u = { s with launches := u.launches, hub := u.hub } ∧
      (∀ j, j ≠ slot → u.launchOf j = s.launchOf j) ∧
      u.launchOf slot = { l with state := .walking, owedState := true,
                                 walkers := ts.map fun t => { tower := t, order := tget 0 s.hub.accepts t, next := 0, succ := [] } }) ∧
    (l.state ≠ .loaded → exec (.launchAccept slot) s = .next s) ∧
    (∀ tower rest wk h i, tget 0 s.hub.walkAt tower ≤ s.cycle → s.walkerChoices tower = (slot, false) :: rest →
      l.walkers.find? (fun w => w.tower == tower) = some wk → s.readyIn slot tower < 256 → l.gsize = 0 → l.headAt wk = some h →
      s.freeEntry 64 = some i → ∃ u : State, exec (.walkerCreate tower) s = .next u.flushAll ∧
        u = { s with tasks := u.tasks, launches := u.launches, hub := { s.hub with walkAt := u.hub.walkAt } } ∧
        (∀ j, j ≠ i → u.task j = s.task j) ∧ (u.task i).state = .ready ∧ (u.task i).ctx = l.ctx ∧ (u.task i).h = false ∧
        (u.task i).pc = l.img.entry ∧ (u.task i).age = l.stick * 2 ^ 20 + slot ∧ (u.task i).launch = slot + l.gen * 4096 ∧
        (u.task i).gslot = 65535 ∧ (u.task i).tower = tower ∧ (u.task i).bound = none ∧ (u.task i).iter = headTuple l.img.levels h ∧
        (∀ n, n < 5 → tget 0 (u.task i).sa n =
          if n = 0 then BitVec.ofNat 64 l.arg else BitVec.ofNat 64 ((headTuple l.img.levels h).getD (n - 1) 0)) ∧
        (u.launchOf slot).walkers = l.walkers.map (fun w => if w.tower = tower then { w with next := h + 1 } else w) ∧
        (twf 0 s.hub.walkAt = true → tget 0 u.hub.walkAt tower = s.cycle + 2)) ∧
    let ends (i : Instr) (st : LState) : Prop :=
      (s.statusBlocked slot = false → exec i s = .next (s.endLaunch slot st)) ∧
      (s.statusBlocked slot = true → exec i s = .next ((s.modLaunch slot fun l => { l with owedState := true }).flushStatus slot))
    (l.state = .quiet → s.launchWork slot = false → ends (.launchComplete slot) .complete) ∧
    (l.state ≠ .quiet ∨ s.launchWork slot = true → exec (.launchComplete slot) s = .next s) ∧
    (l.state = .draining → l.abort = true → s.tasksOf slot = [] → s.launchWork slot = false →
      ends (.launchAbortDrainComplete slot) .faulted) ∧
    (l.state = .draining → l.abort = true → (s.tasksOf slot ≠ [] ∨ s.launchWork slot = true) →
      exec (.launchAbortDrainComplete slot) s = .next s) ∧
    ∀ i k m, l.img.fpol = 1 → l.abort = false → l.handling = none → (l.state = .walking ∨ l.state = .draining) →
      (s.ctx l.ctx).state = .active → s.oldest (s.faultsOf slot) = some i → l.himg = some m → s.freeEntry 0 = some k → ∃ u : State,
        exec (.handlerStart slot) s = .next u ∧ u = { s with tasks := u.tasks, launches := u.launches } ∧
        u.launchOf slot = { l with handling := some (k, i) } ∧ (∀ j, j ≠ k → u.task j = s.task j) ∧ (u.task k).state = .ready ∧
        (u.task k).ctx = l.ctx ∧ (u.task k).h = true ∧ (u.task k).pc = m.entry ∧ (u.task k).tower = (s.task i).tower ∧
        (u.task k).launch = slot + l.gen * 4096 ∧ tget 0 (u.task k).sa 0 = BitVec.ofNat 64 l.status ∧
        tget 0 (u.task k).sa 1 = BitVec.ofNat 64 (s.hub.poolAt.getD 0 + 128 * i) ∧ tget 0 (u.task k).sa 2 = BitVec.ofNat 64 (slot + l.gen * 4096)

/-! ### The schedulers -/

/-- R33, R131, R133 to R135, R162: without groups, the lowest idle core of a tower that has a candidate picks the one of the highest
priority and, within it, the oldest, at every 64th pick the oldest of all; the task is RUNNING, and the core has its registers
and nothing else of an earlier task. A placed group starts its members on their cores in one cycle. -/
def Obligations.Schedulers : Prop :=
  (∀ (tower lin i : Nat) (s : State),
    let k := s.task i
    let img := s.imageOf i
    let n := tget 0 s.hub.picks tower + 1
    let pri (j : Nat) : Nat := s.prio (s.task j).launch
    tower < 8 → tget 0 s.hub.pickAt tower ≤ s.cycle → s.groups = [] → twf Core.reset s.cores = true → twf {} s.tasks = true →
    lin / 144 = tower → s.idleCore lin = true → s.mayRun lin i = true → img.lsuse = false →
    (∀ j, j < lin → j / 144 = tower → s.idleCore j = true → ∀ m, s.mayRun j m = false) →
    (∀ j, j ≠ i → s.mayRun lin j = true → (n % 64 ≠ 0 ∧ pri j < pri i) ∨ ((n % 64 = 0 ∨ pri j = pri i) ∧ s.older i j = true)) →
    ∃ t, exec (.taskPick tower) s = .next t ∧ t.task i = { k with state := .running } ∧ (∀ j, j ≠ i → t.task j = s.task j) ∧
      let c := t.coreAt lin
      c.task = some i ∧ c.pc = k.pc ∧ c.regs = { sa := k.sa, fd := img.fds } ∧ c.fpcr = img.fpcr ∧ c.fpsf = k.fpsnap ∧ c.mxc = {} ∧
      c.loops = [] ∧ c.pend = [] ∧ c.mq = [] ∧ c.l1 = [] ∧ c.setBuf = [] ∧ s.cycle + 32 ≤ c.startAt ∧
      c.snap = { next := k.pc, sa := k.sa, fl := k.fpsnap, mxc := {} } ∧ c.cnt.used = (s.coreAt lin).cnt.used) ∧
  (∀ (tower : Nat) (s : State), s.cycle < tget 0 s.hub.pickAt tower → exec (.taskPick tower) s = .next s) ∧
  ∀ (tower slot i l : Nat) (s : State),
    let key := 256 * tower + slot
    let g := s.group key
    twf Core.reset s.cores = true → twf {} s.tasks = true → twf {} s.groups = true →
    (g.state ≠ .placed → exec (.groupStart tower slot) s = .next s) ∧
    (g.state = .placed → (s.ctx (s.groupCtx key)).state = .active → (s.groupImage key).lsuse = false →
      (∀ c ∈ g.cores, (s.coreAt c.2).task = none) → (g.members = [(i, 0)]) → (s.task i).bound = some l → (s.task i).state = .ready → ∃ t,
      exec (.groupStart tower slot) s = .next t ∧ t.group key = { g with state := .running, startAt := s.cycle + 32 } ∧
      t.task i = { s.task i with state := .running } ∧ (t.coreAt l).task = some i ∧ (t.coreAt l).pc = (s.task i).pc ∧
      (t.coreAt l).startAt = s.cycle + 32)

/-! ### Decoding, encoding, steps -/

/-- R61, R65 to R83: slot words written out from the encodings decode to the instructions they stand for. -/
def Obligations.GoldenWords : Prop :=
  let g := Guard.always
  decodeSlot 0 0x120015FC00000001#64 = .ok (.sysr ⟨.a, g, .sreg 5, .nil, 0, 0x001⟩) ∧
  decodeSlot 0 0x1401FC1C00000041#64 = .ok (.sysw ⟨.a, g, .nil, .sreg 7, 0, 0x041⟩) ∧
  decodeSlot 0 0x020BFFFFFFC00000#64 = .ok (.br ⟨⟨.pred 0, false⟩, false, .nil, 0x3FFFFFFC, 0, 0⟩) ∧
  decodeSlot 0 0x0C0000000070D045#64 = .ok (.loop ⟨g, false, .sreg 13, 7, 1, 5⟩) ∧
  decodeSlot 0 0x16100C0400000001#64 = .ok (.trap ⟨.a, ⟨.pred 1, false⟩, .sreg 3, .sreg 1, 0, 1⟩) ∧
  decodeSlot 0 0x2801FC2429FC0000#64 = .ok (.fset ⟨.a, g, .nil, .sreg 9, .sreg 10, .nil, .i64, 0, 0⟩) ∧
  decodeSlot 1 0x400015FC89ABCDEF#64 = .ok (.movi ⟨.a, g, .sreg 5, .nil, 0, 0x89ABCDEF⟩) ∧
  decodeSlot 1 0x4200141401234567#64 = .ok (.movh ⟨.a, g, .sreg 5, .sreg 5, 0, 0x01234567⟩) ∧
  decodeSlot 1 0x4601501419FC0300#64 = .ok (.cmp ⟨.a, g, .pred 0, .sreg 5, .sreg 6, .nil, .i64, 6, 0⟩) ∧
  decodeSlot 1 0x4E015955FDFC0000#64 = .ok (.xcp ⟨.a, g, .pred 2, .pred 1, .nil, .nil, .i64, 0, 0⟩) ∧
  decodeSlot 4 0x0601040C00000000#64 = .ok (.ldv ⟨.b, g, false, .vreg 1, .sreg 3, 0, .core, .plain, .n8, 0⟩) ∧
  decodeSlot 4 0x42005C5801800000#64 = .ok (.amon ⟨.b, g, false, .sreg 23, .sreg 22, 0, .core, .plain, .i32, 0⟩) ∧
  decodeSlot 4 0x7601101E20A0A040#64 = .ok (.lsstv ⟨.b, g, .vreg 4, .sreg 7, 2, 1, 40, 2, true, 0, 0x40⟩) ∧
  decodeSlot 5 0x6A011905FDFD2400#64 = .ok (.vredc ⟨.a, g, .vreg 6, .vreg 1, .nil, .nil, .f32, 8, 0⟩) ∧
  decodeSlot 6 0x80011509FD178029#64 = .ok (.vcvt ⟨.b, g, .vreg 5, .vreg 2, .nil, .vreg 5, .fd 11, 0, 0x29⟩) ∧
  decodeSlot 7 0x060101FD8030014A#64 = .ok (.mmaz ⟨g, .vreg 0, .nil, 0, .sreg 12, 0, 0, 0, .f16, .f16⟩) ∧
  decodeSlot 7 0x600028202C240009#64 = .ok (.cpy ⟨g, .sreg 10, .sreg 8, .sreg 11, .sreg 9, .pair, true, false, false, .i64⟩) ∧
  decodeSlot 7 0x82001014181C2000#64 = .ok (.msend ⟨g, .sreg 4, .sreg 5, .sreg 6, .sreg 7, .sreg 8, false⟩) ∧
  decodeSlot 7 0x8800282DFDFC0100#64 = .ok (.lstat ⟨.b, g, .sreg 10, .sreg 11, .nil, .nil, .i64, 2, 0⟩)

/-- R61 to R78: every encodable slot instruction has a word, and decoding its word gives the instruction back, with every operand; a
bundle laid out in memory is read back whole, slot by slot, and the rest of the bytes follow. -/
def Obligations.EncodeDecode : Prop :=
  (∀ i, slotWf i = true → ∃ n w, encode i = some (n, w) ∧ decodeSlot n w = .ok i) ∧
  (∀ (b : RawBundle) (rest : List Byte), b.words.length = spmCount b.header →
    decodeBundle ((b.header :: b.words).flatMap bytesOfWord ++ rest) = .ok (b, rest)) ∧
  ∀ (quiet : Bool) (wait : BitVec 5) (n : Fin 8) (w : Word),
    let b := encodeBundle quiet wait n w
    b.slotWords = [(n, w)] ∧ b.quiet = quiet ∧ b.wait = wait.toNat ∧ b.len = 2 ∧ b.words.length = spmCount b.header ∧
    decodeTableWord 128 (b.header.toNat + w.toNat * 2 ^ 64) = some (.bundleIssue 0 b)

/-- R38, R48, R61, R173: a step performs the first slot of the bundle in issue, else the first step decided, and then what settles
at once; with neither the machine chooses a step or advances its clock. The bundle a core issues is the one whose words stand at
its pc; with a placed word the next step issues that bundle (the model's own agenda, notes/assumptions/2.md). -/
def Obligations.StepRunsDecoded : Prop :=
  (∀ (s t : State) (i : Instr) (rest : List Instr), s.hub.tripped = false →
    (s.slots = i :: rest → exec i { s with slots := rest } = .next t → step s = .next t.settle) ∧
    (s.slots = [] → s.agenda = i :: rest → exec i { s with agenda := rest } = .next t → step s = .next t.settle)) ∧
  (∀ s : State, s.hub.tripped = false → s.slots = [] → s.agenda = [] → step s = .next s.tickOnce.settle) ∧
  (∀ (s : State) (b : RawBundle), b.words.length = spmCount b.header →
    (∀ k w, (b.header :: b.words)[k]? = some w → ∃ a level e,
      let va := s.image.text + 8 * (s.core.pc + k)
      let pa := s.physOf s.curCtx level e va
      s.walk s.curCtx va = .leaf a level e ∧ e % 16 = 2 ∧ s.logBlocked a = false ∧ s.poisoned pa 8 = false ∧ s.readWord pa = w.toNat) →
    s.fetch = some b) ∧
  (∀ (s : State) (lin : Nat) (b : RawBundle),
    let c := s.coreAt lin
    c.iss = none → c.leave = none → c.compl = none → c.startAt ≤ s.cycle → c.nextIc ≤ c.ic → (s.focus lin).fetch = some b →
    .bundleIssue lin b ∈ s.coreCycle true lin) ∧
  ∀ (s t : State) (n w : Nat) (b : RawBundle), s.hub.tripped = false → bundleOfNat n w = some b →
    let u := s.withFetchWord n w
    u.slots = [] ∧ u.agenda = [.bundleIssue 0 b] ∧ u.core.pc = (s.focus 0).core.pc ∧ u.mem = s.mem ∧
    (exec (.bundleIssue 0 b) { u with agenda := [] } = .next t → step u = .next t.settle)

/-- R34, R48, R456: every instruction and every step of the device's agents answers a next state from every state; the machine stops
only when THERMTRIP has stopped its clocks and no reset comes. At issue a slot whose guard is false does nothing, and one whose
value check fails does nothing but fault its task. -/
def Obligations.NothingStops : Prop :=
  (∀ (i : Instr) (s : State), ∃ t, exec i s = .next t) ∧
  (∀ s : State, s.CanStep → ∃ t, step s = .next t) ∧
  (∀ s : State, ¬s.CanStep → step s = .fault .thermalTrip) ∧
  ∀ (i : Instr) (s : State), (slotForm i).isSome = true → s.core.compl = none →
    (¬s.Guarded i → exec i s = .next s) ∧
    ∀ f, s.Guarded i → s.slotFault s.issuesQuiet (s.issueFlags i) i = some f → ∃ a0,
      exec i s = .next (s.fatal s.cur s.core.bundle.2 s.core.bundle.1 (2 ^ instrSlot i) f.1 a0 f.2.2 0)

/-- R9, R22, R33, R55, R91, R100, R150, R192, R194, R422, R451, R452: what reset leaves, of the values the spec gives. (The spec
gives none for the general registers: the model's zero is its own choice, notes/assumptions/4.md, and nothing here speaks of
it.) -/
def Obligations.ResetLeaves : Prop :=
  let r := State.reset
  r.cycle = 0 ∧ r.tick = 0 ∧ (∀ c, (r.ctx c).state = .free) ∧ (∀ q, (r.queue q).state = .disabled) ∧
  (∀ k, (r.launchOf k).state = .free) ∧ (∀ i, (r.task i).state = .free) ∧ (∀ lin, (r.coreAt lin).task = none) ∧
  (∀ e, (r.window e).isOpen = false) ∧ r.hub.lock = false ∧ r.hub.tripped = false ∧ (∀ p peer, (r.plane p).link peer = .dark) ∧
  (∀ p, (r.plane p).active = none) ∧ r.hub.boot = .rom ∧ r.mem.wf = true ∧ ∀ v, exec .warmReset { r with hub := { r.hub with fabid := v } } =
    .next r

/-! ### Contexts -/

/-- R29, R92 to R98, R444: a command of a context acts in the states that list it and else leaves CERR 1; ACTIVATE refuses an empty
root with CERR 2. QUIESCE and HOSTFAULT ask the context's tasks to leave; the drain then suspends it, and a DESTROY that waits
for it begins. DESTROY closes what the context owns, and the end of its teardown frees its futures and the context. A retiring
pair asks its tasks to leave. -/
def Obligations.Contexts : Prop :=
  ∀ (c : Nat) (s : State), twf {} s.ctxs = true → twf Core.reset s.cores = true →
    let x := s.ctx c
    let became (t : State) (y : Ctx) : Prop := t.ctx c = y ∧ ∀ j, j ≠ c → t.ctx j = s.ctx j
    let cmd (i : Instr) (y : Ctx) : Prop := ∃ t, exec i s = .next t ∧ t = { s with ctxs := t.ctxs } ∧ became t y
    let asked (t : State) (p : Nat → Nat → Prop) : Prop := ∀ l, match (s.coreAt l).task with
      | some i => (p l i → t.coreAt l = (s.coreAt l).request s.cycle .plain) ∧ (¬p l i → t.coreAt l = s.coreAt l)
      | none => t.coreAt l = s.coreAt l
    let leaves (i : Instr) (y : Ctx) : Prop := (∀ g ∈ tkeys s.groups, (s.groupLaunch g).ctx ≠ c) → ∃ t, exec i s = .next t ∧
      t = { s with ctxs := t.ctxs, core := t.core, cores := t.cores, marks := t.marks } ∧ became t y ∧ asked t fun _ i => (s.task i).ctx = c
    let idle := (∀ l i, (s.coreAt l).task = some i → (s.task i).ctx ≠ c) ∧ (∀ p, ∀ o ∈ (s.pairAt p).eng, o.ctx ≠ c) ∧
      ∀ d ∈ s.planeX.sends ++ s.planeY.sends, d.ctx ≠ c
    (x.state = .free → cmd (.build c) { x with
      state := .building, cerr := 0, ptroot := 0, respol := 0, logfp := false, maxpri := 0, priv := false, slip := 0, mcast := [] }) ∧
    (x.state = .building → x.respol ≠ 3 →
      (x.ptroot ≠ 0 → cmd (.activate c) { x with state := .active, cerr := 0 }) ∧ (x.ptroot = 0 → cmd (.activate c) { x with cerr := 2 })) ∧
    (x.state = .active → leaves (.quiesce c) { x with state := .quiescing, cerr := 0, drained := false, held := false }) ∧
    (x.state = .suspended → ∃ u v : State, exec (.resume c) s = .next v ∧ v = (tkeys u.settleQueues.queues).foldl State.drainCheck u.settleQueues ∧
      u = { s with ctxs := u.ctxs } ∧ became u { x with state := .active, cerr := 0 }) ∧
    (x.state = .faulted → x.drained = false → cmd (.destroy c) { x with cerr := 0, held := true }) ∧
    (x.state ≠ .free → cmd (.build c) { x with cerr := 1 }) ∧ (x.state ≠ .building → cmd (.activate c) { x with cerr := 1 }) ∧
    (x.state ≠ .active → cmd (.quiesce c) { x with cerr := 1 }) ∧ (x.state ≠ .suspended → cmd (.resume c) { x with cerr := 1 }) ∧
    (x.state ∉ [.building, .suspended, .faulted] → cmd (.destroy c) { x with cerr := 1 }) ∧
    (x.state = .building ∨ x.state = .suspended ∨ (x.state = .faulted ∧ x.drained = true) →
      s.launches = [] → s.tasks = [] → s.devBars = [] → s.podBars = [] → s.pages = [] → s.pairs = [] → ∃ t, exec (.destroy c) s = .next t ∧
      t = { s with ctxs := t.ctxs, windows := t.windows, futs := t.futs, queues := t.queues, sets := t.sets, scheds := t.scheds } ∧
      became t { x with state := .destroyed, cerr := 0, held := false, mcast := [] } ∧
      (∀ d, d ∈ t.scheds ↔ d ∈ s.scheds ∧ d.ctx ≠ c) ∧
      (twf {} s.windows = true → ∀ e, t.window e =
        if (s.window e).isOpen = true ∧ (s.window e).ctx = c then { s.window e with isOpen := false, wgen := (s.window e).wgen % 15 + 1 }
        else s.window e) ∧
      (twf {} s.queues = true → ∀ q, (s.queue q).ctx = c → (t.queue q).state = .disabled ∧ (t.queue q).appended = (t.queue q).taken ∨
        t.queue q = s.queue q ∧ (s.queue q).state = .disabled) ∧
      (twf {} s.sets = true → ∀ k, k / 4096 = c → (t.aset k).state = .free)) ∧
    (x.drained = false → x.state = .quiescing → idle → ∃ u : State, exec (.ctxDrainComplete c) s = .next (u.event 0x02 (some c) 0 0) ∧
      u = { s with ctxs := u.ctxs } ∧ became u { x with state := .suspended, drained := true }) ∧
    (x.drained = false → x.state = .faulted → x.held = false → idle → cmd (.ctxDrainComplete c) { x with drained := true }) ∧
    (x.drained = true ∨ ¬idle → exec (.ctxDrainComplete c) s = .next s) ∧
    (x.state = .destroyed → (∀ k, (s.launchOf k).state ≠ .free → (s.launchOf k).ctx ≠ c) →
      (∀ p, (s.pairAt p).ownerCtx = some c → (s.pairAt p).zeroUntil ≤ s.cycle) → ∃ u : State,
      exec (.teardownComplete c) s = .next (u.event 0x03 (some c) 0 0) ∧
      u = { s with ctxs := u.ctxs, futs := u.futs, tasks := u.tasks, pairs := u.pairs } ∧
      became u { x with state := .free, drained := false, held := false } ∧
      (twf {} s.futs = true → ∀ i, u.fut i = if (s.fut i).state ≠ .free ∧ (s.fut i).ctx = c then { gen := (s.fut i).gen + 1 } else s.fut i) ∧
      (twf Pair.reset s.pairs = true → ∀ p, u.pairAt p =
        if (s.pairAt p).ownerCtx = some c then { s.pairAt p with ownerCtx := none } else s.pairAt p)) ∧
    (x.state ≠ .destroyed → exec (.teardownComplete c) s = .next s) ∧
    (∀ v : Word, (v.extractLsb' 0 6).toNat = c →
      (x.state = .active ∨ x.state = .quiescing → leaves (.hostfault v) { x with
        state := .faulted, status := 3, drained := false, held := false, cerr := if s.rankOf 4 c = 0 then x.cerr else 1 }) ∧
      (x.state ≠ .active → x.state ≠ .quiescing → exec (.hostfault v) s = .next s)) ∧
    ∀ pair, pair < 576 → (s.pairAt pair).service = .inService → s.groups = [] → (s.pairAt pair).owner = none → ∃ t,
      exec (.pairRetirement pair) s = .next t ∧ t = { s with pairs := t.pairs, core := t.core, cores := t.cores } ∧
      (twf Pair.reset s.pairs = true → t.pairAt pair = { s.pairAt pair with service := .retiring }) ∧
      asked t fun l _ => l / 144 * 72 + l % 72 = pair

/-! ### Pages -/

/-- R343, R344, R348 to R350, R359, R360, R446: a command of the page window. MAP writes an ABSENT entry, UNMAP clears a leaf once
nothing uses it, CHMOD replaces W, LOG, LOGFP and POL, REMAP gives a POISONED leaf a new frame; a command that the entry does
not allow ends with BADSTATE and changes nothing. PANTRY zero-fills a frame and adds it to a tower's pantry, or ends with FULL. -/
def Obligations.PageCommands : Prop :=
  ∀ (s u : State) (q : PageCmd) (a : Nat), s.hub.pwCmd = some q → s.hub.pwStatus = 1 →
    let c := q.ctx
    let ends (u : State) (st : Nat) : State := { u with hub := { u.hub with pwStatus := st, pwCmd := none } }
    let e := s.readWord a
    let r := e % 16
    let p := s.page a
    let isLeaf := r ≠ 15 ∧ r ≠ 0 ∧ leafOk q.level e = true
    let busy := p.pins ≠ 0 ∨ p.mig ≠ none ∨ p.app ≠ none ∨ s.amonsAt a MqState.queued ≠ [] ∨ s.leafBusy a c = true
    let write (v : Nat) : State := s.write a (leBytes v 8)
    (∀ level e va, s.walk c va = .leaf a level e → s.entryAt c va level = (some a, s)) ∧
    (∀ level v, leafOk level v = true ↔ level ≤ 2 ∧ v % 16 ≤ 9 ∧ v / 2 ^ 4 % 4 = level ∧ v / 2 ^ 9 % 4 ≠ 3 ∧
      v / 2 ^ 16 % 2 ^ 41 * 2 ^ 16 % pageBytes level = 0 ∧ (level ≠ 0 → v % 16 ∈ [2, 4, 9] ∧ v / 2 ^ 9 % 4 = 2)) ∧
    (s.entryAt c q.va q.level = (none, u) →
      (q.op = 1 → exec (.map c) s = .next (ends u 2)) ∧ (q.op = 2 → exec (.unmap c) s = .next (ends u 2)) ∧
      (q.op = 3 → exec (.chmod c) s = .next (ends u 2)) ∧ (q.op = 4 → exec (.remap c) s = .next (ends u 2))) ∧
    (s.entryAt c q.va q.level = (some a, s) →
      (q.op = 1 →
        (r ≠ 0 → exec (.map c) s = .next (ends s 2)) ∧
        (r = 0 → q.entry % 16 = 15 → q.level ≠ 0 → (q.level ≠ 1 → q.entry / 2 ^ 8 % 16 = 0) → exec (.map c) s = .next (ends (write q.entry) 0)) ∧
        (r = 0 → (q.entry % 16 = 1 ∧ q.entry / 2 ^ 16 % 2 ^ 41 = 0) ∨ q.entry % 16 = 2 ∨ q.entry % 16 = 4 → leafOk q.level q.entry = true →
          exec (.map c) s = .next (ends ((write q.entry).pageArrived a c q.va (pageBytes q.level)) 0)) ∧
        (r = 0 → q.entry % 16 ∉ [1, 2, 4, 15] → exec (.map c) s = .next (ends s 2))) ∧
      (q.op = 2 →
        (¬isLeaf → exec (.unmap c) s = .next (ends s 2)) ∧
        (isLeaf → r ∉ [5, 6, 7, 8] → ¬busy → p.waiting = [] →
          exec (.unmap c) s = .next (ends
            ({ s with pages := tput {} s.pages a {} }.write a (leBytes (setBits (setBits e 0 4 0) 16 41 0) 8)) 0)) ∧
        (isLeaf → ∃ t : State, (r ∈ [5, 6, 8] ∨ busy → exec (.unmap c) s = .next t) ∧
          (r = 7 → ¬busy → exec (.unmap c) s = .next (t.startApply a false)) ∧ t = { s with pages := t.pages } ∧
          (twf {} s.pages = true → t.page a = { p with cmd := true, ctx := c, vaddr := q.va / 65536 * 65536 } ∧ ∀ b, b ≠ a → t.page b = s.page b))) ∧
      (q.op = 3 →
        let new := setBits e 6 5 (q.entry / 2 ^ 6 % 2 ^ 5)
        (¬isLeaf ∨ r = 9 ∨ leafOk q.level new = false → exec (.chmod c) s = .next (ends s 2)) ∧
        (isLeaf → r ≠ 9 → leafOk q.level new = true → (p.mig = none ∨ q.entry / 2 ^ 9 % 4 ≠ 2) → (q.entry / 2 ^ 7 % 2 = 1 ∨ (r ≠ 7 ∧ r ≠ 8)) →
          ∃ t, exec (.chmod c) s = .next (ends t 0) ∧ t = { write new with pages := t.pages } ∧
          (twf {} s.pages = true → t.page a = { p with cmd := false, count := if q.entry / 2 ^ 9 % 4 = 1 then p.count else 0 } ∧
            ∀ b, b ≠ a → t.page b = s.page b))) ∧
      (q.op = 4 →
        let new := setBits (setBits e 0 4 (q.entry % 16)) 16 41 (q.entry / 2 ^ 16 % 2 ^ 41)
        (¬isLeaf ∨ r ≠ 9 ∨ q.entry % 16 ∉ [2, 4] ∨ leafOk q.level new = false → exec (.remap c) s = .next (ends s 2)) ∧
        (isLeaf → r = 9 → q.entry % 16 ∈ [2, 4] → leafOk q.level new = true →
          exec (.remap c) s = .next (ends ((write new).pageArrived a c q.va (pageBytes q.level)) 0)))) ∧
    (∀ va size t, t = s.pageArrived a c va size → t = { s with core := t.core, cores := t.cores, tasks := t.tasks } ∧
      Wakes s t fun w => w.wkind = 5 ∧ w.ctx = c ∧ w.waddr / size = va / size ∧ w.state = .aborted) ∧
    (q.op = 5 →
      let n := s.pantry q.tower
      let f := q.entry / 65536 * 65536
      (4096 ≤ n.frames.length → exec (.pantry q.tower q.entry) s = .next (ends s 3)) ∧
      (n.frames.length < 4096 → ∃ t, exec (.pantry q.tower q.entry) s = .next (ends t 0) ∧
        t = { s with mem := t.mem, poison := t.poison, badCheck := t.badCheck, pantries := t.pantries, tasks := t.tasks } ∧
        (s.mem.wf = true → ∀ k, tget 0 t.mem k = if f ≤ k ∧ k < f + 65536 then 0 else tget 0 s.mem k) ∧
        (twf false s.poison = true → ∀ k, tget false t.poison k = if f ≤ 32 * k ∧ 32 * k < f + 65536 then false else tget false s.poison k) ∧
        (twf {} s.pantries = true → t.pantry q.tower = { n with frames := n.frames ++ [f] }) ∧
        Wakes s t fun w => w.wkind = 7 ∧ w.tower = q.tower ∧ w.state = .aborted))

/-- R346, R348, R352 to R358, R361, R365, R369 to R373: a migration starts when its page is free of pins and commands and ends with
the page where it was asked to go, its future set to TICK; a schedule entry asks for one in its time; the counters halve; the
log takes an operation on a LOGGED page, holds it while the page is in transit, and applies its records in order; a memory error
poisons the page it hits. -/
def Obligations.PageMoves : Prop :=
  ∀ (a : Nat) (s : State), twf {} s.pages = true → twf Core.reset s.cores = true → s.mem.wf = true → s.Apart a 8 →
    let e := s.readWord a
    let r := e % 16
    let pol := e / 2 ^ 9 % 4
    let frame := e / 2 ^ 16 % 2 ^ 41 * 2 ^ 16
    let p := s.page a
    let asRes (n : Nat) : State := s.write a (leBytes (e - r + n) 8)
    let page (t : State) (y : PageX) : Prop := t.page a = y ∧ ∀ b, b ≠ a → t.page b = s.page b
    let moves (i : Instr) (n : Nat) (y : PageX) : Prop := ∃ t, exec i s = .next t ∧ t = { asRes n with pages := t.pages } ∧ page t y
    let free := p.pins = 0 ∧ p.cmd = false ∧ s.amonsAt a MqState.queued = []
    (¬free ∨ r ∉ [2, 3, 7] ∨ (p.mig ≠ none ∧ r = 3) → exec (.migrationStart a) s = .next s) ∧
    (∀ m, p.mig = some m → free → pol ≠ 2 → r = 2 ∨ r = 7 → m.target < 8 → (s.atticPages m.target).length < 7168 →
      moves (.migrationStart a) 5 { p with tower := some m.target }) ∧
    (∀ m rest, p.waiting = m :: rest →
      (p.mig = none → free → pol ≠ 2 →
        (r = 2 ∨ r = 7 → m.target < 8 → (s.atticPages m.target).length < 7168 →
          moves (.migrationStart a) 5 { p with waiting := rest, mig := some m, tower := some m.target }) ∧
        (∀ k, r = 3 → p.tower = some k → k < 8 → m.target ≠ k → (m.target = 8 ∨ m.target < 8) →
          moves (.migrationStart a) 6 { p with waiting := rest, mig := some m }))) ∧
    (r ≠ 5 → r ≠ 6 → exec (.migrationComplete a) s = .next s) ∧
    (∀ m, p.mig = some m → m.deadlines = [] → m.futs = [] → s.poisonIn frame 65536 = false → p.log = [] → p.logFuts = [] →
      (r = 5 → ∃ t : State, exec (.migrationComplete a) s = .next (t.pageArrived a p.ctx p.vaddr 65536) ∧
        t = { asRes 3 with pages := t.pages } ∧ page t { p with mig := none }) ∧
      (r = 6 → m.target = 8 → ∃ t : State, exec (.migrationComplete a) s = .next (t.pageArrived a p.ctx p.vaddr 65536) ∧
        t = { asRes 2 with pages := t.pages } ∧ page t { p with mig := none, tower := none }) ∧
      (r = 6 → m.target ≠ 8 → ∃ t : State, exec (.migrationComplete a) s = .next (t.pageArrived a p.ctx p.vaddr 65536) ∧
        t = { asRes 2 with pages := t.pages } ∧ page t { p with tower := none })) ∧
    (∀ m f t, p.mig = some m → m.deadlines = [] → m.futs = [f] → f < 2 ^ 32 → s.poisonIn frame 65536 = false → p.log = [] → p.logFuts = [] →
      r = 5 → s.FutLive f p.ctx → (s.fut (f % 2 ^ 20)).state = .empty → twf {} s.futs = true → exec (.migrationComplete a) s = .next t →
      t.fut (f % 2 ^ 20) = { s.fut (f % 2 ^ 20) with state := .set, value := BitVec.ofNat 64 s.tick, rscope := 3 }) ∧
    (∀ d pa u, s.scheds = [d] →
      (d.count ≤ d.index → exec (.scheduleEntry d.ctx 0) s = .next (({ s with scheds := [] } : State).event 0x15 (some d.ctx) d.addr d.count)) ∧
      (d.index < d.count → s.schedEntry d = (.ok pa, u) → u.scheds = s.scheds → u.tick = s.tick → u.hub.lead = s.hub.lead →
        let w0 := u.readWord pa
        let dl := u.readWord (pa + 8) % 2 ^ 48
        let late := dl ≠ 0 ∧ d.last ≤ dl ∧ s.tick + s.hub.lead < dl
        let target := if w0 % 2 = 1 then 8 else w0 / 2 ^ 57 % 8
        (late → exec (.scheduleEntry d.ctx 0) s = .next u) ∧
        ∀ b pte, ¬late → d.index + 1 < d.count → u.walk d.ctx (w0 / 2 ^ 16 % 2 ^ 41 * 2 ^ 16) = .leaf b 0 pte → pte % 16 ∉ [1, 4, 9] →
          pte / 2 ^ 9 % 4 ≠ 2 → pte / 2 ^ 4 % 4 = 0 → (u.page b).mig = none → (u.page b).waiting = [] → u.place b ≠ target →
          twf {} u.pages = true → ∃ t, exec (.scheduleEntry d.ctx 0) s = .next t ∧
            t = { u with pages := t.pages, scheds := [{ d with index := d.index + 1, last := dl }], agenda := u.agenda ++ [.scheduleEntry d.ctx 0] } ∧
            t.page b = { u.page b with
              ctx := d.ctx, vaddr := w0 / 2 ^ 16 % 2 ^ 41 * 2 ^ 16,
              waiting := [{ target := target, deadlines := if dl = 0 then [] else [dl], futs := [], sched := 1 }] })) ∧
    ((∀ b ∈ tkeys s.pages, s.readWord b % 16 ≠ 3) → ∃ t, exec .counterDecay s = .next t ∧ t = { s with pages := t.pages } ∧
      ∀ b, t.page b = { s.page b with count := (s.page b).count >>> 1 }) ∧
    (tkeys s.pages = [a] → r = 3 → pol = 1 → (p.count >>> 1).toNat < s.hub.demth → p.mig = none → p.waiting = [] → (∃ k, k < 8 ∧ p.tower = some k) →
      ∃ t, exec .counterDecay s = .next t ∧ t = { s with pages := t.pages } ∧ page t { p with
        count := p.count >>> 1, vaddr := p.vaddr / 65536 * 65536,
        waiting := [{ target := 8, deadlines := [], futs := [], sched := 0 }] }) ∧
    (∀ l q x, s.atController a = [(l, q)] → q.instr = .amon x →
      let u : State := { s with fresh := s.fresh + 1 }
      let n := 8 * q.len
      let v : Word := if n = 64 then q.vals.getD 0 0 else BitVec.ofNat 64 ((q.vals.getD 0 0).toNat % 2 ^ 32)
      (r = 5 ∨ r = 6 ∨ r = 8 ∨ s.clearsLog a = true → e / 2 ^ 7 % 2 = 1 →
        exec (.logAppend a) s = .next (({ u with seqNo := s.seqNo + 1 } : State).modCore l fun c =>
          { c with mq := c.mq.map fun m => if m.seq = q.seq then { m with st := .held s.seqNo } else m })) ∧
      (r = 2 ∨ r = 7 → s.clearsLog a = false → e / 2 ^ 7 % 2 = 1 → e / 2 ^ 4 % 4 = 0 →
        s.setsTouching (s.ctxOf l) q.ea q.len (fun y => y.state == .declared || y.state == .held || y.state == .dropping) = [] →
        p.log.length < p.chunks.length * 256 → ∃ t : State, exec (.logAppend a) s = .next (t.dequeue l q.seq) ∧
          t = { u with mem := t.mem, poison := t.poison, badCheck := t.badCheck, marks := t.marks, pages := t.pages } ∧
          (p.log ≠ [] → t.mem = s.mem) ∧ (p.log = [] → t.readWord a = e - r + 7) ∧
          page t { p with
            ctx := s.ctxOf l, vaddr := q.ea / 65536 * 65536, appends := p.appends + 1,
            log := p.log ++ [{ operand := v, offset := q.ea % 65536, op := x.fd.toNat, w64 := n == 64, mrg := false, seq := p.appends }] }) ∧
      (e / 2 ^ 7 % 2 = 0 → pol ≠ 1 → (q.xl.head?.elim 0 fun y => y.leaf) = a →
        let pa := physVia q.xl q.ea
        exec (.logAppend a) s = .next ((u.write pa (leBytes (amoOp x.fd.toNat n (natOfBytes (u.read pa q.len)) (q.vals.getD 0 0).toNat) q.len)).dequeue l q.seq))) ∧
    (∀ n, p.app = some (n, false, []) → ∃ t : State,
      exec (.logApplyComplete a) s = .next (t.pageArrived a p.ctx p.vaddr 65536) ∧
      t = { s with
        mem := t.mem, poison := t.poison, badCheck := t.badCheck, marks := t.marks
        hub := { s.hub with logFree := s.hub.logFree + p.chunks.length }, pages := t.pages } ∧
      page t { p with log := [], appends := 0, chunks := [], app := none, pins := p.pins - 1 } ∧
      (s.Apart frame 65536 → (a + 8 ≤ frame ∨ frame + 65536 ≤ a) → (∀ y ∈ p.log, y.offset + 8 ≤ 65536) → t.readWord a = e - r + 2 ∧
        ∀ k, frame ≤ k → k < frame + 65536 → tget 0 t.mem k = tget 0 (p.log.foldl (fun (m : Memory) y =>
          let w := if y.w64 = true then 64 else 32
          putBytes m (frame + y.offset) (leBytes (amoOp y.op w (natOfBytes (getBytes m (frame + y.offset) (w / 8))) y.operand.toNat) (w / 8))) s.mem) k)) ∧
    (p.app = none → exec (.logApplyComplete a) s = .next s) ∧
    (∀ c level va pa, c < 64 → s.leaves c = [(a, level, va)] → s.chunkPage pa = none → r ∈ [2, 3, 5, 6, 7, 8] → frame ≤ pa → pa < frame + pageBytes (e / 2 ^ 4 % 4) →
      (∀ j, j < 64 → j ≠ c → (s.ctx j).ptroot = 0) → (∀ l, (s.coreAt l).mq = []) → p.mig = none → p.waiting = [] → p.app = none → p.logFuts = [] →
      ∃ t : State, exec (.memoryError pa) s =
          .next (t.event 0x11 (some c) (va / pageBytes (e / 2 ^ 4 % 4) * pageBytes (e / 2 ^ 4 % 4)) (frame + min p.log.length 0xFFFF)) ∧
        t = { asRes 9 with pages := t.pages, marks := t.marks, hub := { s.hub with logFree := s.hub.logFree + p.chunks.length } } ∧
        page t { p with ctx := c, vaddr := va / 65536 * 65536, log := [], appends := 0, chunks := [], tower := none }) ∧
    ∀ host, ∃ t v : State, exec (.atsInvalidation host) s = .next t ∧ t = { v with tasks := t.tasks } ∧
      v = { s with fresh := v.fresh, hub := { s.hub with atsDeny := v.hub.atsDeny } } ∧
      (twf false s.hub.atsDeny = true → ∀ k, (∀ c ∈ tkeys s.ctxs, k ≠ s.pasid c * 2 ^ 45 + host / 4096) →
        tget false v.hub.atsDeny k = tget false s.hub.atsDeny k) ∧
      Wakes v t fun w => w.wkind = 5 ∧ w.state = .aborted ∧
        ∃ b level pte, v.walk w.ctx w.waddr = .leaf b level pte ∧ pte % 16 = 4 ∧ v.atsDenied w.ctx level pte w.waddr 65536 = false

/-! ### The fabric -/

/-- R390, R399, R401, R410, R415, R416: a SEND that performs takes a place in its plane's engine with one copy for its destination,
or its future fails with NOROUTE or LINKFAIL; an MSEND has one copy for each member of its own pod. Once its source is read its
flits stand in the stream of the next hop, in order, each with its payload and check; DONE ends it with its length or its
status. -/
def Obligations.Sends : Prop :=
  ∀ (x : OpSend) (s : State) (h : HeldOp) (q : Completion),
    let own := s.hub.peer
    let v (j : Nat) : Nat := (h.vals.getD j 0).toNat
    let done := s.performed q
    let hop (dest : Nat) (p : Plane) (k : Nat) : Prop := if dest / 32 % 32 = own / 32 % 32
      then dest % 32 ≠ own % 32 ∧ p = .x ∧ k = (dest % 32 + 32 - own % 32) % 32 else p = .y ∧ k = (dest / 32 % 32 + 32 - own / 32 % 32) % 32
    let lit (p : Plane) (k : Nat) : Prop := (s.plane p).routed k = true
    let gone (p : Plane) (k : Nat) : Prop := (s.plane p).link (neighbour own p k) = .failed
    let copy (p : Plane) (k dest : Nat) : Copy :=
      { plane := p, residue := k, dest := dest, left := v 2 / 128, notice := false, queued := false }
    let rec_ (multi : Bool) (cs : List Copy) (ms : List Nat) : Send :=
      { id := s.seqNo, multi := multi, num := 0, vals := h.vals, sls := x.sls, lin := s.cur, ctx := s.curCtx, task := s.curTask,
        launch := (s.task s.curTask).launch, fut := v 3 % 2 ^ 32, len := v 2, win := v 0 / 2 ^ 10 % 2 ^ 8,
        wgen := if multi then 0 else v 0 / 2 ^ 18 % 2 ^ 4, offset := v 0 / 2 ^ 32 % 2 ^ 32 / 128, marked := !x.sls, read := false, payload := [],
        copies := cs, masks := if multi then (List.range 32).map fun j => (j, tget 0 (s.ctx s.curCtx).mcast (32 * (v 0 % 2 ^ 8) + j)) else [],
        members := ms.map fun m => (m, none), failed := none }
    let enters (i : Instr) (p : Plane) (d : Send) : Prop :=
      let u := ({ done with seqNo := s.seqNo + 1 } : State).modPlane p fun y => { y with sends := y.sends ++ [d] }
      (x.sls = false → exec i s =
        .next (({ u with core := { u.core with fifo := u.core.fifo ++ [.marker d.id] } } : State).startEngines s.cur)) ∧
      (∀ a k, x.sls = true → s.lsOperand (h.vals.getD 1 0) = some (a, k) → exec i s =
        .next (u.modPair k fun y => { y with sb := y.sb ++ [a.score d.id ((v 2 + 47) / 48) false] }))
    let fails (st : Nat) : Prop := exec (.send x) s = .next (({ done with seqNo := s.seqNo + 1 } : State).resolve (v 3) s.curCtx 4 0 (.failed st))
    (s.Performing (.send x) h q →
      let dest := v 0 % 1024
      (dest = own % 1024 → fails 0x10A) ∧
      ∀ p k, hop dest p k → (¬lit p k → fails 0x10A) ∧ (lit p k → gone p k → fails 0x103) ∧
        (lit p k → ¬gone p k → enters (.send x) p (rec_ false [copy p k dest] [dest]))) ∧
    (s.Performing (.msend x) h q →
      let ms := s.multicast s.curCtx (v 0 % 2 ^ 8)
      (∀ m, m ∈ ms ↔ m < 1024 ∧ m ≠ own ∧ (tget 0 (s.ctx s.curCtx).mcast (32 * (v 0 % 2 ^ 8) + m / 32)).getLsbD (m % 32) = true) ∧
      (own < 1024 → ms ≠ [] → (∀ m ∈ ms, m / 32 = own / 32 ∧ ∃ k, hop m .x k ∧ lit .x k ∧ ¬gone .x k) →
        enters (.msend x) .x (rec_ true (ms.map fun m => copy .x ((m % 32 + 32 - own % 32) % 32) m) ms)) ∧
      (∀ r, own < 1024 → r < 32 → r ≠ own / 32 → ms ≠ [] → (∀ m ∈ ms, m / 32 = r) →
        let k := (r + 32 - own / 32) % 32
        lit .y k → ¬gone .y k → enters (.msend x) .x (rec_ true [copy .y k (own % 32 + 32 * r)] ms))) ∧
    (∀ d c p, d.copies = [c] → d.multi = false → (s.plane p).sends = [d] → (p = .y → s.planeX.sends = []) → (p = .x → s.planeY.sends = []) →
      d.read = false → d.failed = none → d.marked = false → c.queued = false → d.len % 128 = 0 →
      let n := d.len / 128
      let num := (s.plane p).nextNum.toNat
      let flit (bs : List Byte) (i : Nat) : QFlit :=
        let part := (bs.drop (128 * i)).take 128
        { flit := { tag := num + (if p = .x then 0 else 1) * 2 ^ 16, dest := c.dest, src := own, poison := 0, win := d.win, wgen := d.wgen, offset := d.offset + i, seq := i % 256,
                    chk := chkOf part, data := BitVec.ofNat 1024 (natOfBytes part) },
          send := some d.id, pitch := none }
      let goes (w : State) (bs : List Byte) : Prop := ∃ t, exec (.sendSourceRead d.id) s = .next t ∧
        t = { w with planeX := t.planeX, planeY := t.planeY, pairs := t.pairs } ∧ (t.plane p).nextNum = (s.plane p).nextNum + 1 ∧
        (t.plane p).sends = [{ d with read := true, pins := none, num := num, copies := [{ c with queued := true }], payload := [] }] ∧
        (twf {} (w.plane c.plane).streams = true → ((t.plane c.plane).stream c.residue).loc =
            ((s.plane c.plane).stream c.residue).loc ++ (List.range n).map (flit bs))
      (∀ a, d.sls = true → d.pins = none → LsAddr.of (d.vals.getD 1 0) = some a →
        goes s (s.lsBytes a (if a.remote = true then d.lin / 144 * 72 + a.pair else d.lin / 144 * 72 + d.lin % 72) d.len)) ∧
      (∀ u xl, let va := (d.vals.getD 1 0).toNat
        d.sls = false → s.agentXlat d.ctx false (d.lin / 144) 1 va d.len = (.ok xl, u) → u.planeX = s.planeX → u.planeY = s.planeY →
        u.hub.seat = s.hub.seat → u.hub.pod = s.hub.pod →
        (d.pins = none → exec (.sendSourceRead d.id) s = .next (u.pinSource p d xl)) ∧
        ∀ pins, d.pins = some pins → u.freshSectors (physSectors xl va d.len) = false → u.countVia xl d.ctx va d.len (d.lin / 144) = u →
          u.verify (physSectors xl va d.len) 3 (some d.ctx) = u → u.badSectors xl va d.len = [] →
          goes (pins.foldl State.unpin u) (u.readVia xl va d.len)) ∧
      (∀ st u, d.sls = false → s.agentXlat d.ctx false (d.lin / 144) 1 (d.vals.getD 1 0).toNat d.len = (.error (.fail st), u) →
        exec (.sendSourceRead d.id) s = .next (u.endSend p d (.failed st)))) ∧
    ∀ (m : CtlMsg) (p : Plane) (d : Send),
      let w := m.bits.toNat
      let st := w / 2 ^ 41 % 2 ^ 16
      w % 16 = 4 → w / 2 ^ 4 % 1024 = own → p = ctlPlane m.bits → (s.plane p).sends = [d] → d.read = true → d.pins = none → d.num = w / 2 ^ 25 % 2 ^ 16 →
      (d.multi = false → d.members = [(w / 2 ^ 14 % 1024, none)] → exec (.done m) s = .next
        ((((s.dropScore d.id).modPlane p fun y => { y with sends := [] })).resolve d.fut d.ctx 4 0
          (if st = 0 then .set (BitVec.ofNat 64 d.len) else .failed st))) ∧
      (d.multi = true → (∃ j, (w / 2 ^ 14 % 1024, none) ∈ d.members ∧ (j, none) ∈ d.members ∧ j ≠ w / 2 ^ 14 % 1024) → d.failed = none →
        exec (.done m) s = .next (s.modPlane p fun y => { y with sends :=
          [{ d with members := d.members.map fun r => if r.1 = w / 2 ^ 14 % 1024 then (r.1, some st) else r }] }))

/-- R400, R402 to R405, R407, R409 to R411: a flit that passes its checks takes a pitch and its codeword counts; a flit for this
device is written through its window, or its send is marked; ACK frees the good flits and queues the others again, as a slot
without ACK does after 12 ticks; CREDIT sets the freed count; a NOTICE is kept, applied in its turn, counted in its window and
answered by DONE. A message to another device goes onward; IDLE and a reserved message do nothing. -/
def Obligations.FlitsAndMessages : Prop :=
  ∀ (s : State),
    let own := s.hub.peer
    (∀ m : CtlMsg,
      let type := m.bits.toNat % 16
      let dest := m.bits.toNat / 2 ^ 4 % 1024
      let src := m.bits.toNat / 2 ^ 14 % 1024
      let f (lo n : Nat) : Nat := m.bits.toNat / 2 ^ lo % 2 ^ n
      let p := ctlPlane m.bits
      exec (.reservedMessage m) s = .next s ∧ (type = 0 → dest = own → exec (.idle m) s = .next s) ∧
      (dest ≠ own → ∀ n i, (n, i) ∈ [(0, Instr.idle m), (1, .credit m), (2, .ack m), (4, .done m), (5, .arrive m), (8, .mcfan m)] → type = n →
        exec i s = .next (s.queueCtl m.bits)) ∧
      (∀ q k, hopFrom own dest = some (q, k) → s.queueCtl m.bits =
        s.modPlane q fun y => { y with ctl := tput [] y.ctl k (tget [] y.ctl k ++ [m.bits]) }) ∧
      (type = 1 → dest = own → exec (.credit m) s = .next (s.modPlane p fun y =>
        { y with streams := tmod {} y.streams (f 25 5) fun t => { t with freed := f 64 24 } })) ∧
      (type = 2 → dest = own → neighbour own p (f 25 5) = src → ∀ u, ((s.plane p).stream (f 25 5)).unacked.find? (fun u =>
          u.band == f 30 4 && u.tick % 65536 == f 34 16) = some u →
        let again := s.modPlane p fun y => (y.modStream (f 25 5) fun t => { t with
            retr := t.retr ++ (u.items.filter fun i => !(BitVec.ofNat 32 (f 64 32)).getLsbD i.1).map fun i => i.2,
            unacked := t.unacked.filter fun v => !(v.tick == u.tick && v.band == u.band) }).modLine (f 25 5) (f 30 4) fun l =>
          { l with unheard := 0, raised := false }
        exec (.ack m) s = .next ((u.items.filter fun i => (BitVec.ofNat 32 (f 64 32)).getLsbD i.1).foldl (fun s i => s.ackFlit i.2) again).sendNotices) ∧
      (type = 5 → dest = own → exec (.arrive m) s = .next (s.arriveAt (f 25 8) (BitVec.ofNat 16 (f 33 16)) (src % 32))) ∧
      (type = 8 → dest = own → s.planeY.camps = [] → exec (.mcfan m) s = .next { s with planeX := { s.planeX with
        fans := (s.planeX.fans.filter fun e => e.src != src) ++ [{ src := src, num := f 25 16, win := f 41 8, mask := BitVec.ofNat 32 (f 64 32) }] } }) ∧
      (type = 3 → (dest ≠ own ∨ f 33 4 ≠ 0) → exec (.notice m) s = .next { s with
        seqNo := s.seqNo + 1
        planeX := { s.planeX with notices := s.planeX.notices ++ [{ seq := s.seqNo, src := src, dest := dest, win := f 25 8, wgen := f 33 4,
                                                                    num := f 37 16, plane := planeNum p, flits := f 64 24, fan := false }] } })) ∧
    (∀ p q id d, (s.modSend p id d) = s.modPlane p (fun y => { y with sends := y.sends.map fun x => if x.id = id then d x else x }) ∧
      (q.pitch = none → q.send = some id → ∀ x, s.send id = some (p, x) → s.ackFlit q = s.modSend p id fun d =>
        { d with copies := d.copies.map fun c => if c.dest = q.flit.dest then { c with left := c.left - 1 } else c })) ∧
    (∀ n, s.planeX.notices = [n] → n.dest = own → n.wgen ≠ 0 → s.planeX.camps = [] → s.planeY.camps = [] → (∀ m ∈ s.planeX.marks, m.1 ≠ n.src) →
      let w := s.window n.win
      let u : State := { s with planeX := { s.planeX with notices := [] } }
      let reply (z : State) (st : Nat) : State := z.sendCtl 4 n.src (planeOf n.plane) (n.num + st * 2 ^ 16) 0
      let count := min (w.notices + 1) 4095
      let counted := u.modWindow n.win fun w => { w with notices := count }
      (w.isOpen = true → n.wgen = w.wgen → (max w.expect 1 ≤ w.notices ∨ count ≠ max w.expect 1) →
        exec (.noticeApply .x 0) s = .next (reply counted 0)) ∧
      (w.isOpen = true → n.wgen = w.wgen → w.notices < max w.expect 1 → count = max w.expect 1 →
        exec (.noticeApply .x 0) s = .next (reply (counted.resolve w.fut w.ctx 3 1 (.set (BitVec.ofNat 64 (count + n.src * 2 ^ 16)))) 0)) ∧
      (w.isOpen = false ∨ n.wgen ≠ w.wgen → exec (.noticeApply .x 0) s = .next (reply u 0x101))) ∧
    (∀ p k b lane pos cw tag,
      let q := s.plane p
      let sym := (fecDecode cw).elim 9 fun d => d.2
      let fl := Flit.ofBits (((fecDecode cw).elim 0 fun d => d.1).extractLsb' (1152 * (pos % 2)) 1152) tag
      let good := fecDecode cw ≠ none ∧ fl.checks = true ∧ (q.camp k).pitches.length < 8192
      s.listener p k b = some lane → s.hub.lock = true → pos < 32 → twf {} q.camps = true →
      (∀ y ∈ (q.camp k).pitches, y.write = true ∨ y.copies ≠ 0 ∨ y.fanWait = true) → fl.dest = own → (p = .x ∨ fl.wgen ≠ 0) → ∃ t,
      exec (.flitReceive p k b pos cw tag) s = .next t ∧
      (good → ((t.plane p).camp k).pitches.map (fun y => y.flit) = (q.camp k).pitches.map (fun y => y.flit) ++ [fl] ∧
        ((t.plane p).camp k).pitches.getLast?.map (fun y => (y.write, y.copies, y.fanWait)) = some (true, 0, false)) ∧
      (¬good → (t.plane p).camps = q.camps) ∧
      (tget none q.rx (16 * k + b) = none → twf 0 q.live = true → (t.plane p).live = tput 0 q.live (10 * lane + min sym 9)
        (satAdd32 (tget 0 q.live (10 * lane + min sym 9)) 1))) ∧
    (∀ f : Flit, f.dest < 1024 → f.src < 1024 → f.win < 256 → f.wgen < 16 → f.offset < 2 ^ 20 → f.seq < 256 → Flit.ofBits f.toBits f.tag = f) ∧
    (∀ p k y rest, ((s.plane p).camp k).pitches = y :: rest → y.write = true → y.fanWait = false →
      let c := (s.plane p).camp k
      let f := y.flit
      let w := s.window f.win
      let va := w.base + 128 * f.offset
      let old := (rest.map fun z => if z.seq = y.seq then { z with write := false } else z)
      let all := { y with write := false } :: old
      let live (z : Pitch) : Bool := z.write || z.copies != 0 || z.fanWait
      let camp : Camp := { pitches := all.filter live, freed := (c.freed + (all.filter fun z => !live z).length) % 2 ^ 24, blocked := false }
      let freed (u : State) : State := u.modPlane p fun x => { x with camps := tput {} x.camps k camp }
      let before := s.planeX.marks.any (fun m => m.1 == f.src && m.2.1 == f.tag) = true
      let marks (st : Nat) := if before then s.planeX.marks else s.planeX.marks ++ [(f.src, f.tag, st)]
      let marked (st : Nat) : State := { s with planeX := { s.planeX with marks := marks st } }
      let peerOk := f.src &&& w.pmask = w.peer &&& w.pmask
      twf {} (s.plane p).camps = true →
      (w.isOpen = false ∨ (f.wgen ≠ 0 ∧ f.wgen ≠ w.wgen) → exec (.flitWrite p k) s = .next (freed (marked 0x101))) ∧
      (w.isOpen = true → (f.wgen = 0 ∨ f.wgen = w.wgen) → ¬peerOk → exec (.flitWrite p k) s = .next (freed (marked 0x10D))) ∧
      (w.isOpen = true → (f.wgen = 0 ∨ f.wgen = w.wgen) → peerOk → w.len < 128 * (f.offset + 1) → 
        exec (.flitWrite p k) s = .next (freed (marked 0x10C))) ∧
      ∀ u xl, w.isOpen = true → (f.wgen = 0 ∨ f.wgen = w.wgen) → peerOk → 128 * (f.offset + 1) ≤ w.len → c.blocked = false →
        s.agentXlat w.ctx true (va / 2 ^ 16 % 8) 2 va 128 = (.ok xl, u) → u.planeX = s.planeX → u.planeY = s.planeY → f.poison = 0 →
        exec (.flitWrite p k) s = .next (freed (u.writeVia xl va (leBytes f.data.toNat 128)))) ∧
    ∀ p k slot u,
      let st := (s.plane p).stream k
      let l := (s.plane p).line k u.band
      let n := l.unheard + 1
      let entries := (s.plane p).active.elim 0 fun t => (t.entriesOf k u.band).length
      let hit := 4 * max entries 1 ≤ n ∧ l.raised = false
      st.unacked.filter (fun v => v.tick == slot) = [u] → slot + 12 ≤ s.tick + 1 → ∃ v : State,
        v = s.modPlane p (fun y => (y.modStream k fun t => { t with
          retr := t.retr ++ u.items.map fun i => i.2, unacked := t.unacked.filter fun w => !(w.tick == u.tick && w.band == u.band) }).modLine k u.band
            fun l => { l with unheard := n, raised := l.raised || (decide (4 * max entries 1 ≤ n) && !l.raised) }) ∧
        (¬hit → exec (.ackTimeout p k slot) s = .next v) ∧
        (hit → exec (.ackTimeout p k slot) s = .next (v.event 0x20 none (if p = .x then 0 else 1) (k + u.band * 2 ^ 5)))

/-! ### Link life -/

/-- R424, R427 to R429: a LIT line is checked against its locker: two checks in a row above DRIFTTH stop its modulation, DRIFT is
raised, and a repair starts or the line fails. A line that retunes relocks within 8 slots or fails; RESTORE makes a substituted
or failed line LIT; laser power moves by one step, as the peer's counts of its window call for (the counts are free values:
notes/assumptions/82.md), never below its bring-up setting nor beyond the lantern's limit. A line that leaves LIT queues its
unacknowledged flits again, and its link follows its lines. -/
def Obligations.LineLife : Prop :=
  ∀ (p : Plane) (k b : Nat) (s : State),
    let id : LineId := { plane := p, residue := k, band := b }
    let q := s.plane p
    let l := q.line k b
    let peer := neighbour s.hub.peer p k
    let num := if p = .x then 0 else 1
    let withLine (f : Line → Line) : State := s.modPlane p fun y => y.modLine k b f
    (∀ old ls left,
      let alive := ∃ x ∈ ls, x ∈ [LineState.lit, .substituted, .retuning, .parked, .waking]
      let carries := ∃ x ∈ ls, x ∈ [LineState.lit, .substituted]
      (old ∈ [LinkState.dark, .calibrating, .trained, .failed] → linkAfter old ls left = old) ∧
      (old ∈ [LinkState.inService, .parked, .waking, .degraded] → ¬alive → linkAfter old ls left = .failed) ∧
      (old = .inService → carries → left = true → linkAfter old ls left = .degraded) ∧
      (old = .inService → ls ≠ [] → (∀ x ∈ ls, x = .parked) → linkAfter old ls left = .parked) ∧
      (old = .inService → alive → left = false → (∃ x ∈ ls, x ≠ .parked) → linkAfter old ls left = .inService) ∧
      (old = .parked → .waking ∈ ls → linkAfter old ls left = .waking) ∧ (old = .waking → .lit ∈ ls → left = false → linkAfter old ls left = .inService) ∧
      (old = .degraded → (∀ x ∈ ls, x = .lit ∨ x = .parked) → .lit ∈ ls → linkAfter old ls left = .inService)) ∧
    (∀ left,
      let new := linkAfter (q.link peer) (q.linesOf k) left
      (new = q.link peer → s.relink p k left = s) ∧ (new ≠ q.link peer → new = .failed → s.relink p k left = s.failHop p k) ∧ (new ≠ q.link peer → new ≠ .failed → new ≠ .degraded → s.relink p k left =
        s.modPlane p fun y => { y with links := tput .dark y.links peer new }) ∧
      (new ≠ q.link peer → new = .degraded → s.relink p k left =
        (s.modPlane p fun y => { y with links := tput .dark y.links peer new }).event 0x22 none num peer)) ∧
    (∀ st, let mine := (q.stream k).unacked.filter fun u => u.band == b
      (∃ u : State, s.leaveLit p k b st = u.relink p k true ∧ u = s.modPlane p fun _ => u.plane p) ∧
      (mine = [] → s.leaveLit p k b st = (withLine fun x => { x with state := st }).relink p k true) ∧
      ∀ x, mine = [x] → s.leaveLit p k b st = (s.modPlane p fun y => (y.modLine k b fun l => { l with state := st }).modStream k fun t => { t with
        retr := t.retr ++ x.items.map fun i => i.2
        unacked := t.unacked.filter fun w => !(w.tick == x.tick && w.band == x.band) }).relink p k true) ∧
    (∀ err, l.state ≠ .lit → exec (.wavelengthCheck id err) s = .next s) ∧
    (∀ err : Int, l.state = .lit →
      (err.natAbs ≤ q.pol.driftth → exec (.wavelengthCheck id err) s = .next (withLine fun x => { x with drifts := 0 })) ∧
      (q.pol.driftth < err.natAbs → l.drifts = 0 → exec (.wavelengthCheck id err) s = .next (withLine fun x => { x with drifts := 1 })) ∧
      (q.pol.driftth < err.natAbs → l.drifts ≠ 0 → ∃ (stop : Nat) (u : State), stop ≤ 32 ∧
        u = ({ s with
          fresh := s.fresh + 1
          outbox := s.outbox.filter fun o => match o with
            | .flit fp fk fb pos _ => !(fp == p && fk == k && fb == b && decide (pos ≥ stop))
            | _ => true } : State).modPlane p (fun y => y.modLine k b fun x => { x with drifts := 0, aborts := 0 }) ∧
        exec (.wavelengthCheck id err) s = .next (((u.event 0x23 none num (k + b * 2 ^ 5 + min err.natAbs 65535 * 2 ^ 16)).leaveLit p k b
          .drifting).driftNext p k b (s.tick + 24)))) ∧
    (∀ switch, (q.pol.subst = true → b ≠ 9 → q.lightsLine k 9 = false → s.driftNext p k b switch = s.startRepair p k b switch) ∧
      (q.pol.subst = false ∨ b = 9 ∨ q.lightsLine k 9 = true → s.driftNext p k b switch = s.failLine p k b)) ∧
    (l.state = .lit → exec (.thermalRetune id) s = .next ((withLine fun x => { x with since := s.tick, lantern := false }).leaveLit p k b .retuning)) ∧
    (l.state ≠ .lit → exec (.thermalRetune id) s = .next s) ∧
    (l.state = .retuning → l.lantern = false → s.tick + 1 ≤ l.since + 8 → exec (.retuneRelock id) s =
      .next (((s.modPlane p PlaneSt.remap).modPlane p fun y => y.modLine k b fun x => { x with state := .lit }).relink p k false)) ∧
    (l.state ≠ .retuning ∨ l.lantern = true ∨ l.since + 8 < s.tick + 1 → exec (.retuneRelock id) s = .next s) ∧
    (l.state = .retuning → l.lantern = false → l.since + 8 ≤ s.tick + 1 → exec (.retuneTimeout id) s = .next (s.failLine p k b)) ∧
    (l.state ≠ .retuning ∨ l.lantern = true ∨ s.tick + 1 < l.since + 8 → exec (.retuneTimeout id) s = .next s) ∧
    (q.repS.all (fun r => !(r.residue == k && r.band == b)) = true → s.failLine p k b =
      (s.leaveLit p k b .failed).event 0x24 none num (k + b * 2 ^ 5)) ∧
    (l.state = .substituted ∨ l.state = .failed → exec (.restore id) s = .next ((withLine fun x => { x with
      state := .lit, drifts := 0, aborts := 0, unheard := 0, raised := false }).relink p k false)) ∧
    (l.state ≠ .substituted → l.state ≠ .failed → exec (.restore id) s = .next s) ∧
    (∀ key, let x := tget {} q.lines key
      (x.state ≠ .lit → s.trimLine p key = s) ∧
      (x.state = .lit → ∃ n high mid v, n ≤ 16384 ∧ high + mid ≤ n ∧
        let u : State := { s with fresh := s.fresh + 3 }
        (10000 * high > n → v = x.power.getD 0 + 1) ∧ (high = 0 → mid = 0 → v = x.power.getD 0 - 1) ∧
        (10000 * high ≤ n → 0 < high + mid → v = x.power.getD 0) ∧
        (v ≤ Config.lanternLimit → s.trimLine p key = u.modPlane p fun y => { y with lines := tmod {} y.lines key fun l => { l with power := some (max v l.floor) } }) ∧
        (Config.lanternLimit < v → s.trimLine p key = u.event 0x25 none num (key / 16 + key % 16 * 2 ^ 5)))) ∧
    (exec .powerTrim s = .next ([Plane.x, Plane.y].foldl (fun u pl => (tkeys (u.plane pl).lines).foldl (fun u key => u.trimLine pl key) u) s)) ∧
    (∃ t, exec .powerTrim s = .next t ∧ ∀ pl, twf {} (s.plane pl).lines = true → ∀ key,
      let x := tget {} (s.plane pl).lines key
      let y := tget {} (t.plane pl).lines key
      (x.state ≠ .lit → y = x) ∧
      (x.state = .lit → ∃ d ∈ [-1, 0, 1], (x.power.getD 0 + d ≤ Config.lanternLimit → y = { x with power := some (max (x.power.getD 0 + d) x.floor) }) ∧
        (Config.lanternLimit < x.power.getD 0 + d → y = x))) ∧
    ((tkeys s.planeX.lines ++ tkeys s.planeY.lines = []) → exec .powerTrim s = .next s)

/-- R430 to R432: a repair. S sends PREP to V; V chooses a lane for each entry that listens to the line, a dark one where there
is one, else a lane of the widest stripe, which the device that lights it is asked to give up; that device answers READY, and V
COMMITs when every lane is ready; a busy V answers ABORT. At the peg of SWITCH band 9 carries the line, V listens on its lanes,
and D stops lighting the line it gave up. A repair not ready in time, or aborted, is dropped. -/
def Obligations.Repairs : Prop :=
  ∀ (s : State),
    let own := s.hub.peer
    (∀ p k b switch,
      let q := s.plane p
      let r : RepairS := { id := q.nextRepair.toNat, residue := k, band := b, switch := switch, commits := [] }
      s.startRepair p k b switch = (s.modPlane p fun y => { y with
        nextRepair := y.nextRepair + 1
        repS := (y.repS.filter fun r => !(r.residue == k && r.band == b)) ++ [r] }).sendRepair p (neighbour own p k) 0 k b r.id 0 switch 0) ∧
    (∀ (m : CtlMsg),
      let w := m.bits.toNat
      let f (lo n : Nat) : Nat := w / 2 ^ lo % 2 ^ n
      let p := ctlPlane m.bits
      let q := s.plane p
      let src := f 14 10
      let k := f 28 5
      let b := f 33 4
      let id := f 37 16
      let switch := f 64 48
      let entry := f 112 9
      let mine (phase : Nat) : Prop := f 25 3 = phase ∧ w % 16 = 7 ∧ f 4 10 = own
      let gives := neighbour own p k = src ∧ (sourceOf own p k ≠ src ∨ q.lightsLine k b = true)
      let back (t : State) (phase sw e : Nat) : State := t.sendRepair p src phase k b id 0 sw e
      (mine 4 → exec (.park m) s = .next s) ∧ (mine 5 → exec (.wake m) s = .next s) ∧
      (mine 0 → gives → exec (.prep m) s = .next (back (s.modPlane p fun y => { y with
        repD := y.repD ++ [{ receiver := src, id := id, residue := k, band := b, switch := switch, entry := entry, committed := false }] }) 1 switch entry)) ∧
      (mine 0 → ¬gives → ∀ v, q.repV = some v → exec (.prep m) s = .next (back s 3 v.switch 0)) ∧
      (mine 0 → ¬gives → q.repV = none →
        let t := q.active.getD { period := 1, id := 0, codes := [] }
        let es := (List.range t.period).filter fun e => (t.lit e true).any fun x => x.1 == k && x.2.1 == b
        ∃ (picks : List Pick) (n : Nat), picks.map (fun x => x.entry) = es ∧
          (∀ x ∈ picks,
            let dark := (List.range 128).filter fun j => !codeLit (t.detCode x.entry j)
            let wide (r : Nat) : Nat := ((t.lit x.entry true).filter fun y => y.1 == r).length
            (dark ≠ [] → x.lane ∈ dark ∧ x.giver = none ∧ x.ready = true) ∧
            (dark = [] → x.ready = false ∧ ∃ r c, (r, c, x.lane) ∈ t.lit x.entry true ∧ x.giver = some (sourceOf own p r, r, c) ∧
              ∀ y ∈ t.lit x.entry true, wide y.1 < wide r ∨ (wide y.1 = wide r ∧ (y.2.1 < c ∨ (y.2.1 = c ∧ x.lane ≤ y.2.2))))) ∧
          exec (.prep m) s = .next ((picks.foldl (fun u x => x.giver.elim u fun g => u.sendRepair p g.1 0 g.2.1 g.2.2 id 0 switch x.entry)
            ({ s with fresh := n } : State)).commitRepair p
              { sender := src, id := id, residue := k, band := b, switch := switch, picks := picks, committed := false })) ∧
      (mine 1 → ∀ v, q.repV = some v → v.id = id → v.committed = false →
        let picks := v.picks.map fun x => if x.entry = entry && x.giver.elim false (fun g => g.1 == src) then { x with ready := true } else x
        exec (.ready m) s = .next (s.commitRepair p { v with picks := picks })) ∧
      (mine 1 → q.repV = none ∨ (∃ v, q.repV = some v ∧ (v.id ≠ id ∨ v.committed = true)) → exec (.ready m) s = .next s) ∧
      (let named (d : RepairD) : Prop := d.receiver = src ∧ d.id = id ∧ d.entry = entry ∧ d.residue = k ∧ d.band = b
        let ends (i : Instr) (g : PlaneSt → PlaneSt) : Prop := exec i s = .next (s.modPlane p g)
        (mine 2 → (∃ d ∈ q.repD, named d) → ∃ g : RepairD → RepairD, ends (.commit m) (fun y => { y with repD := y.repD.map g }) ∧
          ∀ d, (named d → g d = { d with committed := true }) ∧ (¬named d → g d = d)) ∧
        (mine 2 → (∀ d ∈ q.repD, ¬named d) →
          let told (r : RepairS) : RepairS := if r.id = id && r.residue = k && r.band = b then { r with commits := r.commits ++ [(entry, f 53 7)] } else r
          (neighbour own p k = src → ends (.commit m) fun y => { y with repS := y.repS.map told }) ∧
          (neighbour own p k ≠ src → exec (.commit m) s = .next s))) ∧
      (mine 3 →
        let u := s.modPlane p fun y => { y with repD := y.repD.filter fun r => !(r.receiver == src && r.id == id) }
        let found := q.repS.find? fun r => r.id == id && r.residue == k && r.band == b
        (found = none ∨ neighbour own p k ≠ src → exec (.abort m) s = .next u) ∧
        ∀ r, found = some r → neighbour own p k = src → exec (.abort m) s = .next (u.abortRepair p r switch))) ∧
    (∀ p r after, let n := ((s.plane p).line r.residue r.band).aborts + 1
      let u := s.modPlane p fun y => { (y.modLine r.residue r.band fun l => { l with aborts := l.aborts + 1 }) with
        repS := y.repS.filter fun x => x.id != r.id }
      twf {} (s.plane p).lines = true → s.abortRepair p r after =
        if 2 ≤ n then u.failLine p r.residue r.band else u.driftNext p r.residue r.band (max (s.tick + 24) (after + 1))) ∧
    (∀ p v, (v.picks.any (fun x => !x.ready) = true → s.commitRepair p v = s.modPlane p fun y => { y with repV := some v }) ∧
      (v.picks.any (fun x => !x.ready) = false → s.commitRepair p v =
        v.picks.foldl (fun u x => x.giver.elim u fun g => u.sendRepair p g.1 2 g.2.1 g.2.2 v.id 0 v.switch x.entry)
          (v.picks.foldl (fun u x => u.sendRepair p v.sender 2 v.residue v.band v.id x.lane v.switch x.entry)
            (s.modPlane p fun y => { y with repV := some { v with committed := true } })))) ∧
    (∀ id, exec (.repairReadyDeadline id) s = .next ((s.repairLapse .x id).repairLapse .y id)) ∧
    (∀ p v, (s.plane p).repV = some v →
      (v.committed = false → v.switch ≤ s.tick + 5 → s.repairLapse p v.id =
        ((v.picks.filterMap fun x => x.giver).eraseDups.foldl (fun u g => u.sendRepair p g.1 3 g.2.1 g.2.2 v.id 0 v.switch 0)
          ((s.modPlane p fun y => { y with repV := none }).sendRepair p v.sender 3 v.residue v.band v.id 0 v.switch 0))) ∧
      (v.committed = true ∨ s.tick + 5 < v.switch → s.repairLapse p v.id = s)) ∧
    (∀ p id, (∀ v, (s.plane p).repV = some v → v.id ≠ id) → s.repairLapse p id = s) ∧
    (∀ id, exec (.repairSwitch id) s = .next ((s.repairAt .x id).repairAt .y id) ∧
      ∀ p,
        let t := s.tick + 1
        let q := s.plane p
        let rs := q.repS.filter fun r => r.id == id && decide (r.switch ≤ t) && r.commits != []
        let ds := q.repD.filter fun d => d.id == id && decide (d.switch ≤ t)
        let vs := q.repV.toList.filter fun v => v.id == id && decide (v.switch ≤ t)
        (rs = [] → ds = [] → vs = [] → s.repairAt p id = s) ∧
        (rs ≠ [] ∨ ds ≠ [] ∨ vs ≠ [] → s.repairAt p id = (ds.foldl (fun u d => u.switchD p d)
          (vs.foldl (fun u v => u.switchV p v) (rs.foldl (fun u r => u.switchS p r) (s.modPlane p PlaneSt.remap)))))) ∧
    (∀ p (r : RepairS), let u := s.modPlane p fun y => { y with repS := y.repS.filter fun x => x.id != r.id }
      let line := (s.plane p).line r.residue r.band
      (line.state ≠ .drifting → s.switchS p r = u) ∧
      ∀ e lane j t, r.commits = [(e, lane)] → line.state = .drifting → (s.plane p).active = some t → (s.plane p).modLanes e r.residue r.band = [j] →
        s.switchS p r = (((u.patch p 0 r.id e false j (BitVec.ofNat 16 (0x8000 + 9 * 2 ^ 5 + r.residue))).setLine p r.residue r.band .substituted).setLine p
          r.residue 9 .lit).relink p r.residue true) ∧
    (∀ p (v : RepairV), let u := s.modPlane p fun y => { y with repV := none }
      s.switchV p v = if v.committed = true then v.picks.foldl (fun u x =>
        u.patch p 1 v.id x.entry true x.lane (BitVec.ofNat 16 (0x8000 + 9 * 2 ^ 5 + v.residue))) u else u) ∧
    (∀ p (d : RepairD), let u := s.modPlane p fun y => { y with repD := y.repD.filter fun x => x != d }
      let line := (s.plane p).line d.residue d.band
      (d.committed = false ∨ line.state = .parked → s.switchD p d = u) ∧
      ∀ j t, d.committed = true → line.state ≠ .parked → (s.plane p).active = some t → (s.plane p).modLanes d.entry d.residue d.band = [j] →
        let v := u.patch p 2 d.id d.entry false j (BitVec.ofNat 16 ((t.modCode d.entry j).toNat % 2 ^ 15))
        ((v.plane p).lightsLine d.residue d.band = true → s.switchD p d = v) ∧
        ((v.plane p).lightsLine d.residue d.band = false → s.switchD p d =
          ((v.requeueLine p d.residue d.band).setLine p d.residue d.band .dark).relink p d.residue false)) ∧
    ∀ p role id e det lane code t, (s.plane p).active = some t →
      let key := 256 * e + (if det = true then 128 else 0) + lane
      s.patch p role id e det lane code = (s.modPlane p fun y => { y with active := some { t with codes := tput 0 t.codes key code } }).event 0x26 none
        ((if p = .x then 0 else 1) + role * 2 + e * 2 ^ 8 + lane * 2 ^ 24) ((tget 0 t.codes key).toNat + code.toNat * 2 ^ 16 + id * 2 ^ 32)

/-- R423 to R426, R433 to R437, R439, R440: bands park and wake at the tick agreed; a failed lantern retunes every lit line, and
without a standby every link fails; BRINGUP calibrates DARK links and locks the root; a link whose lines are measured is
TRAINED, and in service once the table lights it; a calibration of 200 ms fails; RESET darkens a plane and fails its sends; a slot
table is loaded, is the standby, and changes places with the active one at the tick agreed. (A line whose power the lantern cannot
reach is FAILED once a table lights it; what follows a switch that lights fewer lines: notes/assumptions/76.md.) -/
def Obligations.PlaneLife : Prop :=
  ∀ (p : Plane) (s : State),
    let q := s.plane p
    let num := if p = .x then 0 else 1
    let own := s.hub.peer
    exec (.snap p) s = .next (s.modPlane p fun y => { y with snapReq := true }) ∧
    (∀ y : PlaneSt, y.snapReq = true → y.remap = { y with
      snapReq := false, snaps := y.live, snapLive := y.livegen, snapgen := y.snapgen + 1, livegen := y.livegen + 1 }) ∧
    (∀ y : PlaneSt, y.snapReq = false → y.remap = { y with livegen := y.livegen + 1 }) ∧
    (∀ b, let x := q.band b
      let lit (st : LineState) := (q.lines.filter fun e => e.1 % 16 == b && e.2.state == st).map fun e => e.1 / 16
      let idle := q.pol.autopark = true ∧ b < 8 ∧ q.pol.parkidle ≤ s.tick - max x.lastFlit x.lastWake
      (idle → lit .lit ≠ [] → x.parkAt = none → x.wakeAt = none →
        exec (.autoparkIdle p b) s = .next ((lit .lit).foldl (fun u k => u.sendRepair p (neighbour own p k) 4 k b 0 0 (s.tick + 8) 0)
          (s.modPlane p fun y => y.modBand b fun x => { x with parkAt := some (s.tick + 8), auto := true }))) ∧
      (¬idle ∨ lit .lit = [] ∨ x.parkAt ≠ none ∨ x.wakeAt ≠ none → exec (.autoparkIdle p b) s = .next s) ∧
      (∀ t, x.parkAt = some t → t ≤ s.tick + 1 → exec (.parkSwitch p b) s =
        .next ((lit .lit).foldl (fun u k => (u.setLine p k b .parked).relink p k false)
          (s.modPlane p fun y => y.remap.modBand b fun x => { x with parkAt := none, parked := true }))) ∧
      (x.parkAt.elim True (fun t => s.tick + 1 < t) → exec (.parkSwitch p b) s = .next s) ∧
      (x.wakeAt.elim True (fun t => s.tick + 1 < t) → exec (.wakeSwitch p b) s = .next s) ∧
      (∀ t, x.wakeAt = some t → t ≤ s.tick + 1 → exec (.wakeSwitch p b) s = .next ((lit .waking).foldl (fun u k => u.wakeLine p k b)
        (s.modPlane p fun y => y.remap.modBand b fun x => { x with wakeAt := none, lastWake := t }))) ∧
      (∀ k, ∃ n, n < 2 ∧ let u : State := { s with fresh := s.fresh + 1 }
        s.wakeLine p k b = if n = 0 then (u.setLine p k b .lit).relink p k false else u.failLine p k b) ∧
      (s.wakeBand p b = (lit .parked).foldl (fun u k => ((u.setLine p k b .waking).relink p k false).sendRepair p (neighbour u.hub.peer p k) 5 k b 0 0 (s.tick + 7) 0)
        (s.modPlane p fun y => y.modBand b fun x => { x with parked := false, auto := false, wakeAt := some (s.tick + 7) }))) ∧
    (q.wakeDue = true → exec (.wakeStart p) s = .next (((q.bands.filter fun e => e.2.parked && e.2.auto).map fun e => e.1).foldl (fun u b => u.wakeBand p b) s)) ∧
    (q.wakeDue = false → exec (.wakeStart p) s = .next s) ∧
    (q.wakeDue = true ↔ q.pol.wakeq < q.queued ∧ ∃ e ∈ q.bands, e.2.parked = true ∧ e.2.auto = true) ∧
    (q.lanternLost = true → exec (.lanternFault p) s = .next s) ∧
    (q.lanternLost = false → (q.pol.lantern = false ∨ q.onStandby = true) → exec (.lanternFault p) s = .next (s.lanternGone p)) ∧
    (q.lanternLost = false → q.pol.lantern = true → q.onStandby = false → exec (.lanternFault p) s =
      .next ((tkeys q.lines).foldl (fun u key => u.loseLantern p key) (s.modPlane p fun y => { y with takeover := some (s.tick + 125) }))) ∧
    (∀ key, let l := tget {} q.lines key
      (l.state ≠ .lit → s.loseLantern p key = s) ∧
      (l.state = .lit → s.loseLantern p key = (s.modPlane p fun y => { y with
        lines := tmod {} y.lines key fun l => { l with lantern := true, since := s.tick } }).leaveLit p (key / 16) (key % 16) .retuning) ∧
      (l.state = .retuning → l.lantern = true → s.regainLantern p key = (s.modPlane p fun y => { y with
        lines := tmod {} y.lines key fun l => { l with lantern := false, state := .lit } }).relink p (key / 16) false) ∧
      (l.state ≠ .retuning ∨ l.lantern = false → s.regainLantern p key = s)) ∧
    (q.takeover = none → exec (.lanternTakeoverComplete p) s = .next s) ∧
    (∀ t, q.takeover = some t → ∃ n, n < 2 ∧
      let u : State := { s with fresh := s.fresh + 1 }
      exec (.lanternTakeoverComplete p) s = .next (if n = 1 then u.lanternGone p
        else (tkeys q.lines).foldl (fun u key => u.regainLantern p key) (u.modPlane p fun y => { y with takeover := none, onStandby := true }))) ∧
    (s.lanternGone p = ((List.range 32).foldl (fun u k =>
        if k = 0 ∨ (u.plane p).link (neighbour own p k) = .dark ∨ (u.plane p).link (neighbour own p k) = .failed then u else u.failHop p k)
      (s.modPlane p fun y => { y with takeover := none, lanternLost := true })).event 0x27 none num 0) ∧
    (∀ k, let peer := neighbour own p k
      let t := q.stream k
      let u := s.modPlane p fun y => { y with links := tput .dark y.links peer .failed }
      twf {} q.streams = true → t.retr = [] → t.relay = [] → t.loc = [] → t.unacked = [] → s.planeX.sends = [] → s.planeY.sends = [] →
        s.failHop p k = if p = .x then u.seatLost (peer % 32) else u) ∧
    (let f := (s.hub.fabid.extractLsb' 0 10).toNat
      let root := s.hub.fabid.getLsbD 10
      let all := s.planeX.links = [] ∧ s.planeY.links = []
      let go := hopResidues.filter fun k => q.link (neighbour f p k) == .dark
      let cal (u : State) : State := go.foldl (fun u k => let peer := neighbour f p k
        u.modPlane p fun y => { y with links := tput .dark y.links peer .calibrating, calib := tput none y.calib peer (some s.tick) }) u
      (root = false → (s.hub.lock = false ∨ all) → exec (.bringup p) s =
        .next ((cal { s with hub := { s.hub with lock := false } }).modPlane p fun y => { y with locking := true, ctlLit := true })) ∧
      (root = true → (s.hub.lock = false ∨ all) → exec (.bringup p) s = .next ((cal
        { s with hub := { s.hub with lock := true, seat := f % 32, pod := f / 32 }
                 planeX := { s.planeX with locking := false, syncDue := hopResidues }
                 planeY := { s.planeY with locking := false, syncDue := hopResidues } }).modPlane p fun y =>
          { y with locking := false, ctlLit := true, syncDue := sortNat (y.syncDue ++ go) })) ∧
      (s.hub.lock = true → ¬all → exec (.bringup p) s =
        .next ((cal s).modPlane p fun y => { y with locking := false, ctlLit := true, syncDue := sortNat (y.syncDue ++ go) }))) ∧
    (∀ peer, let k := residueTo own p peer
      (q.link peer = .calibrating → s.hub.lock = true → s.measured p k = true →
        let u := s.modPlane p fun y => { y with links := tput .dark y.links peer .trained, calib := tput none y.calib peer none }
        exec (.calibrationComplete p peer) s = .next (((u.enterService p k).lightLines p).relink p k false)) ∧
      (q.link peer ≠ .calibrating ∨ s.hub.lock = false ∨ s.measured p k = false → exec (.calibrationComplete p peer) s = .next s) ∧
      (∀ t, tget none q.calib peer = some t →
        (q.link peer = .calibrating → t + 500000 ≤ s.tick + 1 → exec (.calibrationTimeout p peer) s =
          .next (((s.modPlane p fun y => { y with calib := tput none y.calib peer none }).failHop p (residueTo s.hub.fabPeer p peer)).event 0x21 none num peer)) ∧
        (q.link peer ≠ .calibrating ∨ s.tick + 1 < t + 500000 → exec (.calibrationTimeout p peer) s = .next s)) ∧
      (tget none q.calib peer = none → exec (.calibrationTimeout p peer) s = .next s)) ∧
    (∀ k, let peer := neighbour own p k
      (q.link peer = .trained → q.routed k = true → s.enterService p k = s.modPlane p fun y =>
        ({ y with links := tput .dark y.links peer .inService, streams := tmod {} y.streams k fun t => { t with sent := 0, freed := 0 } } : PlaneSt).modCamp
          (residueFrom own p peer) fun c => { c with freed := 0 }) ∧
      (q.link peer ≠ .trained ∨ q.routed k = false → s.enterService p k = s)) ∧
    (∀ m : CtlMsg,
      let f (lo n : Nat) : Nat := m.bits.toNat / 2 ^ lo % 2 ^ n
      let k := f 28 5
      let b := f 33 4
      let src := f 14 10
      let need := Config.sensitivity + (Config.probePower - (BitVec.ofNat 7 (f 53 7)).toInt) + (q.pol.margin : Int)
      let asked := neighbour own p k = src ∧ q.link src = .calibrating ∧ b ∈ [0, 1, 2, 3, 4, 5, 6, 7, 9]
      f 25 3 = 6 → f 0 4 = 7 → f 4 10 = own → ctlPlane m.bits = p →
      let u := s.modPlane p fun y => y.modLine k b fun l =>
        if need > Config.lanternLimit then { l with state := .failed, beyond := true, power := some Config.lanternLimit, floor := Config.lanternLimit }
        else { l with power := some need, floor := need }
      (asked → exec (.probe m) s = .next (if u.measured p k = true then u.plan [.calibrationComplete p src] else u)) ∧
      (¬asked → exec (.probe m) s = .next s)) ∧
    (let u := s.modPlane p fun y => { y with
        links := [], lines := [], ctlLit := false, bands := [], calib := [], locking := false, syncDue := [], repS := [], repV := none, repD := [], takeover := none }
      let v := (((tkeys q.streams).foldl (fun u k => u.dropStream p k) u).failSends fun c => c.plane == p).sendNotices
      exec (.planeReset p) s = .next (if p = .x then (tkeys q.links).foldl (fun u peer => u.seatLost (peer % 32)) v else v) ∧
      (q.streams = [] → s.planeX.sends = [] → s.planeY.sends = [] → v = u)) ∧
    (∀ hit c d, s.planeX.sends = [d] → s.planeY.sends = [] → d.multi = false → d.copies = [c] →
      s.failSends hit = if hit c = true then s.endSend .x d (.failed 0x103) else s) ∧
    (∀ t, q.loading = some t → exec (.slottabLoadReady p) s = .next (s.modPlane p fun y => { y with standby := some t, loading := none })) ∧
    (q.loading = none → exec (.slottabLoadReady p) s = .next s) ∧
    (q.switchAt.elim True (fun t => s.tick + 1 < t) → exec (.tableSwitchTick p) s = .next s) ∧
    (∀ t, q.switchAt = some t → t ≤ s.tick + 1 →
      let due (n : Nat) : Bool := decide (n ≤ s.tick + 1)
      let u := s.modPlane p fun y => { y.remap with
        active := y.standby, standby := y.active, switchAt := none
        lines := y.lines.map fun e => (e.1, { e.2 with unheard := 0, raised := false })
        repS := y.repS.filter (fun r => !due r.switch), repD := y.repD.filter (fun r => !due r.switch), repV := y.repV.filter fun r => !due r.switch }
      let lit := ((hopResidues.foldl (fun u k => u.enterService p k) u).darkenLines p).lightLines p
      exec (.tableSwitchTick p) s = .next (hopResidues.foldl (fun u k => u.relink p k false) ((q.repS.filter fun r => due r.switch).foldl (fun u r =>
        if ((u.plane p).line r.residue r.band).state = .drifting then u.driftNext p r.residue r.band (u.tick + 25) else u) lit))) ∧
    (∀ k b, 0 < k → k < 32 → b < 10 → b ≠ 8 → twf {} q.lines = true →
      let l := q.line k b
      ((s.lightLines p).plane p).line k b =
        (if q.lightsLine k b = true ∧ l.state = .dark ∧ (q.link (neighbour own p k)).up = true ∧ l.power ≠ none then
          { l with state := if l.beyond = true then .failed else .lit, drifts := 0, unheard := 0, raised := false } else l) ∧
      ((s.darkenLines p).plane p).line k b = if q.lightsLine k b = true then l else { l with state := .dark, drifts := 0, aborts := 0 }) ∧
    (∀ r, s.canTake r = true → twf {} s.queues = true →
      let w (n : Nat) : Nat := (s.record r).getD n 0
      let pl : Plane := if w 2 % 2 = 0 then .x else .y
      w 0 % 16 = 6 → s.recordError r (s.record r) = 0 →
      (w 2 / 2 % 2 = 1 → (s.plane pl).standby ≠ none → s.tick + 2 ≤ w 3 → exec (.slottabSwitch r) s =
        .next ((s.modPlane pl fun y => { y with switchAt := some (w 3) }).countTaken r)) ∧
      (w 2 / 2 % 2 = 1 → ((s.plane pl).standby = none ∨ w 3 < s.tick + 2) → exec (.slottabSwitch r) s = .next ((s.countTaken r).queueError r 7)) ∧
      (w 2 / 2 % 2 = 0 → ∀ u x, s.hubReach r (w 1) 64 false = (.error (.err 9 x), u) → exec (.slottabLoad r) s = .next ((x.countTaken r).queueError r 9)) ∧
      (w 2 / 2 % 2 = 0 → ∀ u x, s.hubReach r (w 1) 64 false = (.error (.wait x), u) →
        exec (.slottabLoad r) s = .next (x.modQueue r fun y => { y with stalled := true })) ∧
      (w 2 / 2 % 2 = 0 → ∀ u v xl yl t, s.hubReach r (w 1) 64 false = (.ok xl, u) →
        let n := 64 + 512 * (natOfBytes (u.readVia xl (w 1) 8) / 2 ^ 32 % 2 ^ 9 + 1)
        u.hubReach r (w 1) n false = (.ok yl, v) → (v.badSectors yl (w 1) n ≠ [] → exec (.slottabLoad r) s = .next ((v.countTaken r).queueError r 9)) ∧
        (v.badSectors yl (w 1) n = [] →
        (tableOf (v.readVia yl (w 1) n) = some t → exec (.slottabLoad r) s = .next ((v.modPlane pl fun y => { y with loading := some t }).countTaken r)) ∧
        (tableOf (v.readVia yl (w 1) n) = none → exec (.slottabLoad r) s = .next ((v.countTaken r).queueError r 7)))))

/-- R192, R194, R396, R401, R403, R406, R426, R444: at a peg the slot of TICK ends and the next opens: TICK rises, staged settings
come into force, and a locked device's flits and messages leave. Flits leave a stream retransmitted first, then relayed, then
its own, as far as the receiver has room, at most 32 on each LIT line of the stripe, in stripe order; of each such line the slot's
flits wait for their ACK. A control lane carries a TICKSYNC when one is due, the queue in its order, and a CREDIT. An unlocked
device locks on a TICKSYNC, taking its TICK. -/
def Obligations.PegsAndTicks : Prop :=
  ∀ (s : State),
    (∃ t, exec .peg s = .next t ∧ t.tick = s.tick + 1 ∧ t.phase = 0 ∧ t.cycle = s.cycle ∧ (s.hub.even = false → t.mem = s.mem) ∧ t.tasks = s.tasks ∧ t.hub.resNext = none ∧
      (∀ v, s.hub.resNext = some v → t.hub.promth = v.toNat % 2 ^ 16 ∧ t.hub.demth = v.toNat / 2 ^ 16 % 2 ^ 16 ∧
        t.hub.decay = v.toNat / 2 ^ 32 % 2 ^ 4 ∧ t.hub.lead = v.toNat / 2 ^ 36 % 2 ^ 12 ∧ t.hub.tlimit = v.toNat / 2 ^ 48 % 2 ^ 16)) ∧
    (let opened (u : State) : State := { u with
        tick := u.tick + 1
        phase := 0
        hub := u.hub.resNext.elim u.hub fun v => { u.hub with
          promth := v.toNat % 2 ^ 16, demth := v.toNat / 2 ^ 16 % 2 ^ 16, decay := v.toNat / 2 ^ 32 % 2 ^ 4
          lead := v.toNat / 2 ^ 36 % 2 ^ 12, tlimit := v.toNat / 2 ^ 48 % 2 ^ 16, resNext := none } }
      let closed := [Plane.x, Plane.y].foldl (fun u p => (List.range 8).foldl (fun u c => u.hearControl p c) (u.endSlot p)) s
      exec .peg s = .next (((opened (if s.hub.lock = true then closed else s)).pegPlane .x).pegPlane .y)) ∧
    (∀ p, let q := s.plane p
      let v := (List.range 8).foldl (fun u b => if (u.plane p).pol.parkmask.getLsbD b = true then u.startPark p b false else u)
        (s.modPlane p fun y =>
          let z := { y.takeSnap with pol := y.polNext.getD y.pol, polNext := none }
          if s.tick % 1024 = 0 then { z with high := [], healthRaised := [] } else z)
      (s.hub.lock = false ∨ q.ctlLit = false ∨ q.takeover ≠ none ∨ q.lanternLost = true → s.pegPlane p = v) ∧
      (s.hub.lock = true → q.ctlLit = true → q.takeover = none → q.lanternLost = false →
        let sent := q.active.elim v fun t => hopResidues.foldl (fun u k =>
          let bands := (t.stripe (u.tick % t.period) k).filter fun b => ((u.plane p).line k b).state == .lit
          if bands = [] ∨ ((u.plane p).link (neighbour v.hub.peer p k)).up = false then u else u.emitFlits p k bands) v
        let ctl := ((List.range 8).map fun c => 8 * (sent.tick % 4) + c).foldl (fun u k =>
          if k = 0 then u.emit (.ctl p 0 (ctlWord 0 u.hub.peer u.hub.peer (planeNum p) 0 0)) else u.emitCtl p k) sent
        s.pegPlane p = (ctl.emitProbe p).reportProbe p)) ∧
    (∀ p k bands, let st := (s.plane p).stream k
      let r := st.take (32 * bands.length)
      let flit (n : Nat) : Option Out := r.1[n]?.map fun x => .flit p k (bands.getD (n % bands.length) 0) (n / bands.length) x.flit
      let t := s.emitFlits p k bands
      t.outbox = s.outbox ++ (List.range r.1.length).filterMap flit ∧
      (twf {} (s.plane p).streams = true → ∃ un, (t.plane p).stream k = { r.2 with unacked := r.2.unacked ++ un } ∧ un.map (fun u => (u.tick, u.band)) = bands.map (fun b => (s.tick, b)) ∧
        ∀ u ∈ un, ∀ pos x, (pos, x) ∈ u.items ↔ ∃ n, r.1[n]? = some x ∧ bands.getD (n % bands.length) 0 = u.band ∧ n / bands.length = pos)) ∧
    (∀ p k, let own := s.hub.peer
      let peer := neighbour own p k
      let q := s.plane p
      let queue := tget [] q.ctl k
      let kin := residueFrom own p peer
      let sync := if k ∈ q.syncDue then [ctlWord 6 peer own (planeNum p) 0 (s.tick + 1)] else []
      let credit := if queue.length < 288 - sync.length then [ctlWord 1 peer own (planeNum p) kin (q.camp kin).freed] else []
      s.emitCtl p k = ({ s with outbox := s.outbox ++ (sync ++ queue.take (288 - sync.length) ++ credit).map fun m => .ctl p k m } : State).modPlane p fun y =>
        { y with syncDue := y.syncDue.filter (fun j => j != k), ctl := tput [] y.ctl k (queue.drop (288 - sync.length)) }) ∧
    (s.hub.lock = false → ∀ p, (s.plane p).polNext = none → (s.plane p).pol.parkmask = 0 → (s.plane p).snapReq = false → (s.tick + 1) % 1024 ≠ 0 →
      ∀ t, exec .peg s = .next t → t.plane p = s.plane p) ∧
    (∀ (t : Stream) (n : Nat) (x : QFlit), t.shadow ≠ 0 →
      (t.next = none ↔ t.retr = [] ∧ t.relay = [] ∧ t.loc = []) ∧
      (∀ r, t.retr = x :: r → t.take (n + 1) = (x :: (({ t with retr := r, sent := (t.sent + 1) % 2 ^ 24 } : Stream).take n).1,
        (({ t with retr := r, sent := (t.sent + 1) % 2 ^ 24 } : Stream).take n).2)) ∧
      (∀ r, t.retr = [] → t.relay = x :: r → t.take (n + 1) = (x :: (({ t with relay := r, sent := (t.sent + 1) % 2 ^ 24 } : Stream).take n).1,
        (({ t with relay := r, sent := (t.sent + 1) % 2 ^ 24 } : Stream).take n).2)) ∧
      (∀ r, t.retr = [] → t.relay = [] → t.loc = x :: r → t.take (n + 1) = (x :: (({ t with loc := r, sent := (t.sent + 1) % 2 ^ 24 } : Stream).take n).1,
        (({ t with loc := r, sent := (t.sent + 1) % 2 ^ 24 } : Stream).take n).2))) ∧
    (∀ (t : Stream) (n : Nat), t.shadow = 8192 - (t.sent + 2 ^ 24 - t.freed) % 2 ^ 24 ∧ (t.shadow = 0 → t.take n = ([], t)) ∧ (t.take n).1.length ≤ n ∧
      ((t.take n).1 ++ (t.take n).2.retr ++ (t.take n).2.relay ++ (t.take n).2.loc) = t.retr ++ t.relay ++ t.loc) ∧
    (s.hub.lock = true → exec .ticksyncSend s = .next { s with
      planeX := { s.planeX with syncDue := hopResidues }, planeY := { s.planeY with syncDue := hopResidues } }) ∧
    (s.hub.lock = false → exec .ticksyncSend s = .next s) ∧
    ∀ m : CtlMsg, m.bits.toNat % 16 = 6 →
      let dest := m.bits.toNat / 2 ^ 4 % 1024
      let f := (s.hub.fabid.extractLsb' 0 10).toNat
      (s.hub.lock = false → (s.plane m.plane).locking = true → dest = f → ∃ ph, ph < 680 ∧ exec (.ticksync m) s = .next { s with
        fresh := s.fresh + 1
        tick := m.bits.toNat / 2 ^ 64 - 1
        phase := ph
        hub := { s.hub with lock := true, seat := f % 32, pod := f / 32 }
        planeX := { s.planeX with locking := false, syncDue := hopResidues }
        planeY := { s.planeY with locking := false, syncDue := hopResidues } }) ∧
      (s.hub.lock = false → ((s.plane m.plane).locking = false ∨ dest ≠ f) → exec (.ticksync m) s = .next s) ∧
      (s.hub.lock = true → dest = s.hub.peer → exec (.ticksync m) s = .next s)

/-! ### The host link and housekeeping -/

/-- R8, R92, R101, R145, R150, R166, R360, R368, R422, R426, R443 to R447, R451 to R453: what the host does: it allocates, frees and signals
futures (the cycle notes it as the event of the entry: notes/assumptions/11.md), binds and unbinds barriers, sets the mode and the fabric id, reads and writes registers and device memory, and resets
the device. R455, R456: a sample gives every tile a temperature, from its sensor or, once the sensor has failed a check, from
its model with the guard; above TRIP the clocks stop, and else a tower above THROT steps its throttle up, and one below it by 5
degrees, down. -/
def Obligations.HostAndTemperature : Prop :=
  (
    ∀ (s : State),
      let reads (u : State) (w : Nat) : State := { u with outbox := u.outbox ++ [.read (leBytes w 8) false] }
      (∀ c i, c < 64 → 1 ≤ i → i < 2 ^ 20 → (s.fut i).state = .free → (∀ j, 1 ≤ j → j < i → (s.fut j).state ≠ .free) → twf {} s.futs = true →
        ∃ u : State, exec (.futureAlloc c) s = .next ((reads u (i + (s.fut i).gen.toNat * 2 ^ 20)).rank 2 i 0) ∧ u = { s with futs := u.futs } ∧
          u.fut i = { gen := (s.fut i).gen, state := .empty, ctx := c } ∧ ∀ j, j ≠ i → u.fut j = s.fut j) ∧
      (∀ c, (∀ j, 1 ≤ j → j < 2 ^ 20 → (s.fut j).state ≠ .free) → exec (.futureAlloc c) s = .next ((reads s 0).rank 2 0 0)) ∧
      (∀ v : Word,
        let h := v.toNat % 2 ^ 32
        let k := h % 2 ^ 20
        let f := s.fut k
        let m := s.rank 2 k 0
        let ends (i : Instr) (r : Fut) : Prop := ∃ t, exec i s = .next t ∧ t = { m with futs := t.futs, tasks := t.tasks } ∧
          (twf {} s.futs = true → t.fut k = r ∧ ∀ j, j ≠ k → t.fut j = s.fut j) ∧ Wakes s t fun w => w.wkind = 1 ∧ w.wobj % 2 ^ 20 = k ∧ w.ctx = f.ctx
        (s.FutLive h f.ctx → ends (.futureFree v) { gen := f.gen + 1 } ∧
          (f.state = .empty → ends (.futureSignal v) { f with state := .set, value := s.hub.fwValue, rscope := 3 })) ∧
        (¬s.FutLive h f.ctx → exec (.futureFree v) s = .next (m.event 0x07 (some f.ctx) h 2)) ∧
        (¬s.FutLive h f.ctx ∨ f.state ≠ .empty → exec (.futureSignal v) s = .next (m.event 0x07 (some f.ctx) h 2))) ∧
      (∀ i (v : Word),
        let bound (b : Barrier) : Barrier := if b.bound = true then { b with ctx := (v.extractLsb' 56 6).toNat }
          else { bound := true, ctx := (v.extractLsb' 56 6).toNat }
        (i < 4096 → exec (.barrierBind false i v) s = .next { s with devBars := tput {} s.devBars i (bound (s.devBar i)) }) ∧
        (i < 256 → exec (.barrierBind true i v) s = .next { s with podBars := tput {} s.podBars i (bound (s.podBar i)) }) ∧
        (i < 4096 → (s.devBar i).bound = false → exec (.barrierUnbind false i) s = .next s) ∧
        (i < 4096 → (s.devBar i).bound = true → ∃ t, exec (.barrierUnbind false i) s = .next t ∧ t = { s with devBars := t.devBars, tasks := t.tasks } ∧
          (twf {} s.devBars = true → t.devBar i = { s.devBar i with bound := false, lost := false, lostSeat := 0, got := 0, gotNext := 0 })) ∧
        (i < 256 → (s.podBar i).bound = true → ∃ t, exec (.barrierUnbind true i) s = .next t ∧ t = { s with podBars := t.podBars, tasks := t.tasks } ∧
          (twf {} s.podBars = true → t.podBar i = { s.podBar i with bound := false, lost := false, lostSeat := 0, got := 0, gotNext := 0 }))) ∧
      (∀ v : Word,
        let cap := v.toNat % 4
        let profile := v.toNat / 4 % 4
        (cap = 3 ∨ profile = 3 → exec (.modeWrite v) s = .next s) ∧
        (cap ≠ 3 → profile ≠ 3 → exec (.modeWrite v) s = .next (({ s with hub := { s.hub with pendMode := some (cap, profile) } } : State).event 0x2A none
          (cap + profile * 4) (s.hub.cap + s.hub.profile * 4))) ∧
        (s.planeX.links = [] → s.planeY.links = [] → exec (.fabidWrite v) s = .next { s with hub := { s.hub with fabid := v.setWidth 11 } }) ∧
        (s.planeX.links ≠ [] ∨ s.planeY.links ≠ [] → exec (.fabidWrite v) s = .next s)) ∧
      (∀ bytes, exec (.managementRequest bytes) s = .next { s with outbox := s.outbox ++ [.reply (Config.managementReply bytes)] }) ∧
      (∀ i, i = .warmReset ∨ i = .powerOnReset → exec i s = .next { State.reset with
        hub := { State.reset.hub with staging := s.hub.staging }
        inputs := s.inputs.map fun x => (x.1 - s.cycle, x.2)
        fresh := s.fresh
        outbox := s.outbox }) ∧
      (∀ (off : Nat) (v : Word), s.hub.boot ≠ .recovery →
        let writes (u : State) : Prop := exec (.registerWrite off v) s = .next u
        let sameAs (i : Instr) : Prop := exec (.registerWrite off v) s = exec i s
        (off % 8 ≠ 0 → writes s) ∧ (off = 0x10 → sameAs (.modeWrite v)) ∧ (off = 0x20 → sameAs (.hostfault v)) ∧ (off = 0x58 → sameAs (.fabidWrite v)) ∧
        (off = 0x18 → writes { s with hub := { s.hub with pasidBase := v.setWidth 20 } }) ∧
        (off = 0x28 → writes { s with hub := { s.hub with evbase := v.toNat / 2 ^ 12 % 2 ^ 45 * 2 ^ 12 } }) ∧
        (off = 0x38 → writes { s with hub := { s.hub with evhead := v.setWidth 32 } }) ∧ (off = 0x50 → v.getLsbD 0 = true → sameAs .warmReset) ∧
        (∀ c, c < 64 → off = 0x10000 + 32 * c →
          (v.toNat / 16 % 16 = 1 → sameAs (.build c)) ∧ (v.toNat / 16 % 16 = 2 → sameAs (.activate c)) ∧ (v.toNat / 16 % 16 = 3 → sameAs (.quiesce c)) ∧
          (v.toNat / 16 % 16 = 4 → sameAs (.resume c)) ∧ (v.toNat / 16 % 16 = 5 → sameAs (.destroy c)) ∧ (5 < v.toNat / 16 % 16 → writes s)) ∧
        (∀ c, c < 64 → off = 0x10008 + 32 * c →
          ((s.ctx c).state = .building → writes { s with ctxs := tput {} s.ctxs c { s.ctx c with ptroot := v.toNat / 2 ^ 12 % 2 ^ 45 } }) ∧
          ((s.ctx c).state ≠ .building → writes { s with ctxs := tput {} s.ctxs c { s.ctx c with cerr := 1 } })) ∧
        (∀ q, q < 1024 → off = 0x20008 + 32 * q → (s.queue q).state = .disabled →
          writes { s with queues := tput {} s.queues q { s.queue q with log2n := v.toNat % 32, rbase := v.toNat / 2 ^ 12 % 2 ^ 45 * 4096 } }) ∧
        (∀ q, q < 1024 → off = 0x20008 + 32 * q → (s.queue q).state ≠ .disabled → writes s) ∧
        (∀ q, q < 1024 → off = 0x20000 + 32 * q → (s.queue q).state ≠ .disabled →
          (v.toNat / 16 % 8 = 1 → sameAs (.enable q)) ∧ (v.toNat / 16 % 8 = 2 → sameAs (.drain q)) ∧ (v.toNat / 16 % 8 = 3 → sameAs (.stop q)) ∧
          (v.toNat / 16 % 8 = 4 → sameAs (.reset q))) ∧
        (∀ i, i < 4096 → off = 0x40000 + 16 * i → (v.getLsbD 62 = true → sameAs (.barrierBind false i v)) ∧
          (v.getLsbD 62 = false → ∃ t, exec (.barrierUnbind false i) s = .next t ∧
            writes { t with devBars := tput {} t.devBars i { t.devBar i with ctx := (v.extractLsb' 56 6).toNat } })) ∧
        (off = 0x60008 → v.toNat % 16 = 1 → sameAs (.bringup .x)) ∧ (off = 0x70008 → v.toNat % 16 = 2 → sameAs (.planeReset .y)) ∧
        (off = 0x60008 → v.toNat % 16 = 3 → sameAs (.snap .x)) ∧
        (off = 0x70000 → writes { s with planeY := { s.planeY with polNext := some (FabPol.ofWord v.toNat) } }) ∧
        (off = 0x80008 → let low := v.toNat / 2 ^ 32 % 2 ^ 24
          let u : State := { s with hub := { s.hub with logLow := low } }
          writes (if s.hub.logFree < low ∧ s.hub.logLow ≤ s.hub.logFree then u.event 0x17 none s.hub.logFree 0 else u)) ∧
        (∀ t, t < 8 → off = 0x80010 + 8 * t → let low := v.toNat / 2 ^ 16 % 2 ^ 13
          let n := (s.pantry t).frames.length
          let u : State := { s with pantries := tput {} s.pantries t { s.pantry t with low := low } }
          writes (if n < low ∧ (s.pantry t).low ≤ n then u.event 0x14 none t n else u)) ∧
        (off = 0x80000 → writes { s with hub := { s.hub with resNext := some v } }) ∧ (off = 0x100000 → writes { s with hub := { s.hub with pwVa := v } }) ∧
        (off = 0x200800 → sameAs (.futureFree v)) ∧ (off = 0x200808 → sameAs (.futureSignal v)) ∧
        (off = 0x200810 → writes { s with hub := { s.hub with fwValue := v } }) ∧
        (off = 0x100018 → s.hub.pwStatus ≠ 1 → 1 ≤ v.toNat % 8 → v.toNat % 8 ≤ 5 →
          let cmd : PageCmd := { op := v.toNat % 8, ctx := v.toNat / 2 ^ 8 % 64, tower := v.toNat / 2 ^ 16 % 8, va := s.hub.pwVa.toNat,
                                 entry := s.hub.pwEntry.toNat, level := s.hub.pwLevel.toNat }
          writes { s with hub := { s.hub with pwStatus := 1, pwCmd := some cmd } })) ∧
      (∀ a n, a < 2 ^ 61 → s.hub.boot ≠ .recovery → s.pages = [] →
        (Config.cellarBytes < a + n → exec (.hostAccess { addr := a, len := n, bytes := none }) s = .next s) ∧
        (a + n ≤ Config.cellarBytes → (∀ k ∈ sectorsOf a n, tget false s.badCheck k = false) → exec (.hostAccess { addr := a, len := n, bytes := none }) s =
          .next { s with outbox := s.outbox ++ [.read (s.read a n) (s.poisoned a n)] }) ∧
        ∀ bs, a + bs.length ≤ Config.cellarBytes → exec (.hostAccess { addr := a, len := n, bytes := some bs }) s = .next (s.write a bs)) ∧
      (∀ bs n off, off + bs.length ≤ 0x800000 → twf 0 s.hub.staging = true → ∃ t, exec (.hostAccess { addr := 2 ^ 61 + off, len := n, bytes := some bs }) s = .next t ∧
        t = { s with hub := { s.hub with staging := t.hub.staging } } ∧
        ∀ k, tget 0 t.hub.staging k = if off ≤ k ∧ k < off + bs.length then bs.getD (k - off) 0 else tget 0 s.hub.staging k)
  ) ∧
  (
    ∀ (s : State) (sensors : List (Int × Int)), twf {} s.hub.tiles = true →
      let at_ (n : Nat) : Int × Int := sensors.getD n (0, 0)
      let reads := (List.range 384).map fun n => (at_ n).1
      (∀ (t : Tile) (r m mean : Int), let d := (r - t.reading.toInt).natAbs
        (t.implausible r m mean = some 0 ↔ r < -160 ∨ 1200 < r) ∧
        (t.implausible r m mean = some 1 ↔ ¬(r < -160 ∨ 1200 < r) ∧ 0 < t.run ∧ 40 < d) ∧
        (t.implausible r m mean = some 2 ↔ ¬(r < -160 ∨ 1200 < r) ∧ ¬(0 < t.run ∧ 40 < d) ∧ 64 ≤ t.run + 1 ∧ r = t.reading.toInt) ∧
        (t.implausible r m mean = none → (r - m).natAbs ≤ 120 ∨ (r - mean).natAbs ≤ 120)) ∧
      (∀ n r m mean, let t := tget {} s.hub.tiles n
        let u := s.sampleTile n r m mean
        let failed := t.failed = true ∨ t.implausible r m mean ≠ none
        (tget {} u.hub.tiles n).temp = BitVec.ofInt 12 (if failed then m + s.hub.guard else Config.thermalEstimate r m) ∧
        ((tget {} u.hub.tiles n).failed = true ↔ failed) ∧ (tget {} u.hub.tiles n).reading = BitVec.ofInt 12 r ∧
        ∀ j, j ≠ n → tget {} u.hub.tiles j = tget {} s.hub.tiles j) ∧
      (let u := (List.range 384).foldl (fun u n => u.sampleTile n (at_ n).1 (at_ n).2 (Config.neighbourMean n reads)) s
        let hot := u.hub.hottest (List.range 384)
        (s.hub.tripen = true → s.hub.trip.toInt < hot.2 → ∃ v : State, v = u.event 0x31 none hot.1 (tget {} u.hub.tiles hot.1).temp.toNat ∧
          exec (.thermalSample sensors) s = .next { v with hub := { v.hub with tripped := true } }) ∧
        (s.hub.tripen = false ∨ hot.2 ≤ s.hub.trip.toInt → exec (.thermalSample sensors) s = .next ((List.range 8).foldl State.throttleTower u))) ∧
      ∀ tower,
        let hot := s.hub.hottest ((List.range 48).map (· + 48 * tower))
        let old := tget 0 s.hub.throttle tower
        let steps (new : Nat) : State := ({ s with hub := { s.hub with throttle := tput 0 s.hub.throttle tower new } } : State).event 0x30 none tower
          (new + old * 2 ^ 8 + hot.1 * 2 ^ 16)
        (s.hub.throten = false → s.throttleTower tower = s) ∧
        (s.hub.throten = true → s.hub.throt.toInt < hot.2 → old < 4 → s.throttleTower tower = steps (old + 1)) ∧
        (s.hub.throten = true → s.hub.throt.toInt < hot.2 → old = 4 → s.throttleTower tower = s) ∧
        (s.hub.throten = true → s.hub.throt.toInt - 40 ≤ hot.2 → hot.2 ≤ s.hub.throt.toInt → s.throttleTower tower = s) ∧
        (s.hub.throten = true → hot.2 < s.hub.throt.toInt - 40 → 0 < old → s.throttleTower tower = steps (old - 1))
  )

/-! ### Answers of the hub, the controllers and the slices -/

/-- R110, R154, R155, R166, R293, R296, R324, R338, R362, R363, R377: what operations that answer through the queues do when they
perform: FNEW allocates the lowest free entry, FTEST tells value and state and acquires, FFREE frees, BARI sets EXPECT, MIGR
asks for a move, QPEEK and PGSTAT tell a count and a word, LOGAPPLY starts an application, ACAS writes when it finds what it
expects, HNEAR tells the first of the nearest entries. (A step chosen in `tickOnce` or by QUEUE_PERFORM performs them:
`State.performHub`, `State.performEntry`.) -/
def Obligations.HubAnswers : Prop :=
  ∀ (lin : Nat) (s : State) (e : MqEntry),
    let c := s.ctxOf lin
    let v (k : Nat) : Nat := (e.vals.getD k 0).toNat
    let h := v 0 % 2 ^ 32
    let k := h % 2 ^ 20
    let f := s.fut k
    let fatal (code : Nat) (a0 : Word) : State := s.fatal lin e.bseq e.baddr (2 ^ e.slot) code a0 0 0
    (∀ u ws lw fl cnt, (u : State).deliver lin e ws lw fl cnt = (u.modCore lin fun y => { y with pend := y.pend.map fun p => if p.seq = e.seq then
      { p with ready := true, writes := ws, latch := lw, fl := fl, cnt := cnt } else p }).dequeue lin e.seq) ∧
    (∀ (u : State) d w, u.deliverWord lin e d w = u.deliver lin e (destWrites (instrGuard e.instr).1 d w) (.word w) {} {}) ∧
    (∀ u : State, twf Core.reset u.cores = true → (u.coreAt lin).leave = none → u.dequeue lin e.seq = u.modCore lin fun y => { y with mq := y.mq.filter fun m => m.seq != e.seq }) ∧
    (∀ x i, e.instr = .fnew x → 1 ≤ i → i < 2 ^ 20 → (s.fut i).state = .free → (∀ j, 1 ≤ j → j < i → (s.fut j).state ≠ .free) → twf {} s.futs = true →
      ∃ u : State, s.performHub lin e = u.deliverWord lin e x.d (BitVec.ofNat 64 (i + (s.fut i).gen.toNat * 2 ^ 20)) ∧ u = { s with futs := u.futs } ∧
        u.fut i = { gen := (s.fut i).gen, state := .empty, ctx := c }) ∧
    (∀ x, e.instr = .fnew x → (∀ j, 1 ≤ j → j < 2 ^ 20 → (s.fut j).state ≠ .free) → s.performHub lin e = s.deliverWord lin e x.d 0) ∧
    (∀ x, e.instr = .ftest x →
      (¬s.FutLive h c → s.performHub lin e = fatal 0x16 (BitVec.ofNat 64 h)) ∧
      (s.FutLive h c →
        let tells (u : State) (w st : Word) : State := u.deliver lin e (match x.d with
          | .sreg n => [.sreg .a n.val w, .sreg .a (n.val + 1) st]
          | _ => []) (.word w) {} {}
        (f.state = .empty → s.performHub lin e = tells s 0 1) ∧ (f.state = .set → s.performHub lin e = tells (s.acquireAt lin f.rscope) f.value 2) ∧
        (f.state = .failed → s.performHub lin e = tells (s.acquireAt lin f.rscope) (f.status.setWidth 64) 3))) ∧
    (∀ x, e.instr = .ffree x →
      (¬s.FutLive h c → s.performHub lin e = fatal 0x16 (BitVec.ofNat 64 h)) ∧
      (s.FutLive h c → ∃ u : State, s.performHub lin e = u.dequeue lin e.seq ∧ u = { s with futs := u.futs, tasks := u.tasks } ∧
        (twf {} s.futs = true → u.fut k = { gen := f.gen + 1 } ∧ ∀ j, j ≠ k → u.fut j = s.fut j) ∧
        Wakes s u fun w => w.wkind = 1 ∧ w.wobj % 2 ^ 20 = k ∧ w.ctx = f.ctx)) ∧
    (∀ x i, e.instr = .bari x → h / 2 ^ 30 = 1 → s.barRef ((s.coreAt lin).task.getD 0) h = some (.device i) → (s.devBar i).lost = false →
      ((s.devBar i).expect = 0 ∨ (s.devBar i).arrived = 0 → s.performHub lin e =
        ({ s with devBars := tput {} s.devBars i { s.devBar i with expect := v 1, seats := 0 } } : State).dequeue lin e.seq) ∧
      ((s.devBar i).expect ≠ 0 → (s.devBar i).arrived ≠ 0 → ∃ a0, s.performHub lin e = fatal 0x21 a0)) ∧
    (∀ x, e.instr = .bari x → s.barRef ((s.coreAt lin).task.getD 0) h = none → ∃ a0, s.performHub lin e = fatal 0x22 a0) ∧
    (∀ x, e.instr = .migr x → v 0 < 2 ^ 57 →
      let u := s.dequeue lin e.seq
      let va := v 0 / 65536 * 65536
      let target := if x.sub = 1 then 8 else if v 1 % 16 = 8 then ((s.coreAt lin).task.elim (lin / 144) fun i => (s.task i).tower) else v 1 % 16
      let fails (st : Nat) : State := u.resolve (v 2 % 2 ^ 32) c 3 0 (.failed st)
      (u.coreAt lin).task = (s.coreAt lin).task → u.tasks = s.tasks →
      (u.walk c va = .absent → s.performHub lin e = fails 0x106) ∧
      ∀ a n pte, u.walk c va = .leaf a n pte →
        (pte % 16 = 1 ∨ pte % 16 = 4 → s.performHub lin e = fails 0x106) ∧ (pte % 16 = 9 → s.performHub lin e = fails 0x100) ∧
        (pte % 16 ∉ [1, 4, 9] → pte / 2 ^ 9 % 4 = 2 ∨ pte / 2 ^ 4 % 4 ≠ 0 → s.performHub lin e = fails 0x105) ∧
        (pte % 16 ∉ [1, 4, 9] → pte / 2 ^ 9 % 4 ≠ 2 → pte / 2 ^ 4 % 4 = 0 → s.performHub lin e = u.requestMig a c va target (v 1 / 2 ^ 16 % 2 ^ 48) (v 2 % 2 ^ 32) 0)) ∧
    (∀ x pd u, e.instr = .qpeek x → s.ringAt c (lin / 144) e.ea true false = (.ok pd, u) →
      let w (j : Nat) : Nat := u.readWord (pd + 8 * j)
      ((u.ringDesc pd).ok = true → s.performHub lin e = u.deliverWord lin e x.d (BitVec.ofNat 64 (w 3) - BitVec.ofNat 64 (w 2))) ∧
      ((u.ringDesc pd).ok = false → s.performHub lin e = u.fatal lin e.bseq e.baddr (2 ^ e.slot) 0x18 (BitVec.ofNat 64 e.ea) 0 0)) ∧
    (∀ x, e.instr = .pgstat x → v 0 < 2 ^ 57 →
      (s.walk c (v 0) = .absent → s.performEntry lin e = s.deliverWord lin e x.d 0) ∧
      ∀ a n pte, s.walk c (v 0) = .leaf a n pte → pte % 16 ≠ 3 → pte % 16 ≠ 5 → pte % 16 ≠ 6 →
        let p := s.page a
        s.performEntry lin e = s.deliverWord lin e x.d (BitVec.ofNat 64 (pte % 16 + pte / 2 ^ 4 % 4 * 2 ^ 4 + pte / 2 ^ 9 % 4 * 2 ^ 6 +
          pte / 2 ^ 7 % 2 * 2 ^ 8 + pte / 2 ^ 6 % 2 * 2 ^ 9 + (if p.pins = 0 then 0 else 2 ^ 13) + p.count.toNat * 2 ^ 16 + p.log.length * 2 ^ 32))) ∧
    (∀ x, e.instr = .logapply x → v 0 < 2 ^ 57 → ∀ a n pte, s.walk c (v 0) = .leaf a n pte →
      let g := v 1 % 2 ^ 32
      (pte % 16 = 7 → g ≠ 0 → ∃ u : State, s.performEntry lin e = u.dequeue lin e.seq ∧
        u = { s.write a (leBytes (setBits (s.readWord a) 0 4 8) 8) with pages := u.pages } ∧
        (twf {} s.pages = true → u.page a = { s.page a with
          app := some ((s.page a).log.length, false, (s.page a).logFuts ++ [g]), logFuts := [], pins := (s.page a).pins + 1 })) ∧
      (pte % 16 = 9 → s.performEntry lin e = (s.resolve g c 3 0 (.failed 0x100)).dequeue lin e.seq) ∧
      (pte % 16 ∈ [1, 2, 3, 4, 6] → s.performEntry lin e = (s.resolve g c 3 0 (.set 0)).dequeue lin e.seq)) ∧
    (∀ x y, e.instr = .acas x → e.xl = [y] → (s.heldSetAt ((s.coreAt lin).task.getD 0) e.ea) = none → twf Core.reset s.cores = true → (s.coreAt lin).l1 = [] →
      (s.coreAt lin).fifo = [] → (s.coreAt lin).leave = none → e.acquires = false →
      s.logBlocked y.leaf = false → (s.readWord y.leaf) / 2 ^ 9 % 4 ≠ 1 → y.vpage = e.ea / 65536 → y.base % 65536 = 0 →
      let pa := y.base + e.ea % 65536
      let n := e.len
      let old := natOfBytes (s.read pa n)
      s.poisoned pa n = false →
      (old ≠ v 0 % 2 ^ (8 * n) → s.performEntry lin e = s.deliverWord lin e x.v (extendSize x.sz old)) ∧
      (old = v 0 % 2 ^ (8 * n) → s.performEntry lin e = (s.write pa (leBytes (v 1 % 2 ^ (8 * n)) n)).deliverWord lin e x.v (extendSize x.sz old))) ∧
    (∀ q (hs : List HyperVec), hs ≠ [] →
      let r := nearestOf q hs
      r.1 < hs.length ∧ r.2 = hvDist q (hs.getD r.1 0) ∧ ∀ j, j < hs.length → r.2 ≤ hvDist q (hs.getD j 0) ∧ (j < r.1 → r.2 < hvDist q (hs.getD j 0))) ∧
    (∀ x, e.instr = .mark x ∨ (∃ y, e.instr = .ntdrain y) → ((s.coreAt lin).nt = [] → s.performEntry lin e = s.dequeue lin e.seq) ∧
      ((s.coreAt lin).nt ≠ [] → s.performEntry lin e = s))

/-- R3, R12: every step keeps the form in which memory is written down: addresses strictly rising, and no listed byte that reads
like an unlisted one; so two memories that read alike are equal. (The form, and that an unlisted byte reads 0x00, are the
model's own choice, notes/assumptions/6.md.) -/
def Obligations.MemoryStaysCanonical : Prop :=
  (∀ s t : State, s.mem.wf = true → step s = .next t → t.mem.wf = true) ∧
  ∀ m n : Memory, m.wf = true → n.wf = true → (∀ a, tget 0 m a = tget 0 n a) → m = n
end

