-- ==== Sys2Proof/Laws/Encode.lean ====
section
/-!
SUPPORT. Laws/Encode.lean: the fields of an encoded word read back (R63 to R78), form by form, and the opcode map read both ways.
-/
namespace Sys2Proof
open Machine

theorem extract_low {n m : Nat} (x : BitVec n) (y : BitVec m) (lo len : Nat) (h : lo + len ≤ m) :
    (x ++ y).extractLsb' lo len = y.extractLsb' lo len := by
  apply BitVec.eq_of_getLsbD_eq
  intro i hi
  simp only [BitVec.getLsbD_extractLsb', hi, decide_true, Bool.true_and, BitVec.getLsbD_append]
  rw [if_pos (by omega)]

theorem extract_high {n m : Nat} (x : BitVec n) (y : BitVec m) (lo len : Nat) (h : m ≤ lo) :
    (x ++ y).extractLsb' lo len = x.extractLsb' (lo - m) len := by
  apply BitVec.eq_of_getLsbD_eq
  intro i hi
  simp only [BitVec.getLsbD_extractLsb', hi, decide_true, Bool.true_and, BitVec.getLsbD_append]
  rw [if_neg (by omega)]
  congr 1
  omega

theorem extract_all {n : Nat} (x : BitVec n) : x.extractLsb' 0 n = x := by
  apply BitVec.eq_of_getLsbD_eq
  intro i hi
  simp [hi]

theorem getLsbD_low {n m : Nat} (x : BitVec n) (y : BitVec m) (k : Nat) (h : k < m) : (x ++ y).getLsbD k = y.getLsbD k := by
  rw [BitVec.getLsbD_append, if_pos h]
theorem getLsbD_high {n m : Nat} (x : BitVec n) (y : BitVec m) (k : Nat) (h : m ≤ k) : (x ++ y).getLsbD k = x.getLsbD (k - m) := by
  rw [BitVec.getLsbD_append, if_neg (by omega)]

/-- The op code of an encoded word. -/
theorem fOp_encCommon (op cl g wbs body) : fOp (encCommon op cl g wbs body) = BitVec.ofNat 7 op := by
  unfold fOp encCommon
  rw [extract_high, extract_high, extract_high, extract_high] <;> simp
theorem fNeg_encCommon (op cl g wbs body) : fNeg (encCommon op cl g wbs body) = g.neg := by
  unfold fNeg encCommon
  rw [getLsbD_high, getLsbD_high, getLsbD_high, getLsbD_low] <;> simp
theorem fPsel_encCommon (op cl g wbs body) : fPsel (encCommon op cl g wbs body) = encGuardSel cl g.sel := by
  unfold fPsel encCommon
  rw [extract_high, extract_high, extract_low] <;> simp
theorem fWbs_encCommon (op cl g wbs body) : fWbs (encCommon op cl g wbs body) = wbs := by
  unfold fWbs encCommon
  rw [getLsbD_high, getLsbD_low] <;> simp
theorem body_encCommon (op cl g wbs body) (lo len : Nat) (h : lo + len ≤ 50) :
    (encCommon op cl g wbs body).extractLsb' lo len = body.extractLsb' lo len := by
  unfold encCommon
  rw [extract_low _ _ _ _ h]
theorem bodyBit_encCommon (op cl g wbs body) (k : Nat) (h : k < 50) :
    (encCommon op cl g wbs body).getLsbD k = body.getLsbD k := by
  unfold encCommon
  rw [getLsbD_low _ _ _ h]

theorem dec_encOpnd (o : Opnd) : decOpnd (encOpnd o) = some o := by
  cases o with
  | sreg n => revert n; decide
  | vreg n => revert n; decide
  | latch n => revert n; decide
  | pred n => revert n; decide
  | sl n => revert n; decide
  | hv n => revert n; decide
  | hc n => revert n; decide
  | ht => decide
  | nil => decide
  | imm v => revert v; decide +kernel
theorem dec_encTy (t : Ty) : decTy (encTy t) = some t := by
  cases t with
  | fd k => revert k; decide
  | _ => rfl
theorem dec_encScope (s : Scope) : decScope (encScope s) = some s := by cases s <;> rfl
theorem dec_encOrd (s : MemOrd) : decOrd (encOrd s) = s := by cases s <;> rfl
theorem dec_encSize (s : Size) : decSize (encSize s) = s := by cases s <;> rfl
theorem dec_encGuardSel (cl : Cluster) (g : GuardSel) : decGuardSel cl (encGuardSel cl g) = some g := by
  cases cl <;> cases g with
  | one => decide
  | pred n => revert n; decide
  | loop n => revert n; decide

theorem decGuard_encCommon (op cl g wbs body) : decGuard cl (encCommon op cl g wbs body) = .ok g := by
  simp [decGuard, fPsel_encCommon, fNeg_encCommon, dec_encGuardSel, orIllOpnd, bind, Except.bind]

theorem decKind_enc {cl : Cluster} {ks : List Kind} {o : Opnd} (h : kindWf cl ks o = true) : decKind cl ks (encOpnd o) = .ok o := by
  unfold kindWf at h
  unfold decKind
  split at h <;> rename_i h0
  · simp_all
  · simp_all [dec_encOpnd]

theorem decDst_enc {cl : Cluster} {ks : List Kind} {b : Bool} {o : Opnd} (h : dstWf cl ks b o = true) :
    decDst cl ks (o == .nil && b && !ks.isEmpty) (encOpnd o) = .ok o := by
  unfold dstWf at h
  unfold decDst decKind
  by_cases h0 : ks.isEmpty
  · simp_all
  · simp only [h0] at h ⊢
    simp only [dec_encOpnd]
    by_cases h1 : o == .nil && b
    · simp_all
    · simp_all

/-- Form A: an encodable payload reads back; `sp` is the entry at the payload's own SUB and MOD. -/
theorem decA_encA {cls : SlotCls} {i : Instr} {op : Nat} {x : OpA} (h : x.wf cls i = true) : decA i x.cl (encA i op x) = .ok x := by
  simp only [OpA.wf, Bool.and_eq_true] at h
  obtain ⟨⟨⟨⟨⟨⟨⟨⟨⟨_, hs⟩, hd⟩, ha⟩, hb⟩, hc⟩, ht⟩, hsub⟩, hmd⟩, hok⟩ := h
  have e1 : (encA i op x).extractLsb' 7 6 = x.sub := by
    unfold encA; rw [body_encCommon _ _ _ _ _ _ _ (by omega)]; refine (extract_high _ _ _ _ (by omega)).trans ?_; refine (extract_low _ _ _ _ (by omega)).trans ?_; exact extract_all _
  have e2 : (encA i op x).extractLsb' 0 7 = x.md := by
    unfold encA; rw [body_encCommon _ _ _ _ _ _ _ (by omega)]; refine (extract_low _ _ _ _ (by omega)).trans ?_; exact extract_all _
  have e3 : (encA i op x).extractLsb' 13 5 = encTy x.ty := by
    unfold encA; rw [body_encCommon _ _ _ _ _ _ _ (by omega)]; refine (extract_high _ _ _ _ (by omega)).trans ?_; refine (extract_high _ _ _ _ (by omega)).trans ?_; refine (extract_low _ _ _ _ (by omega)).trans ?_; exact extract_all _
  have e4 : fD (encA i op x) = encOpnd x.d := by
    unfold fD encA; rw [body_encCommon _ _ _ _ _ _ _ (by omega)]; refine (extract_high _ _ _ _ (by omega)).trans ?_; refine (extract_high _ _ _ _ (by omega)).trans ?_; refine (extract_high _ _ _ _ (by omega)).trans ?_; refine (extract_high _ _ _ _ (by omega)).trans ?_; refine (extract_high _ _ _ _ (by omega)).trans ?_; refine (extract_high _ _ _ _ (by omega)).trans ?_; exact extract_all _
  have e5 : fA (encA i op x) = encOpnd x.a := by
    unfold fA encA; rw [body_encCommon _ _ _ _ _ _ _ (by omega)]; refine (extract_high _ _ _ _ (by omega)).trans ?_; refine (extract_high _ _ _ _ (by omega)).trans ?_; refine (extract_high _ _ _ _ (by omega)).trans ?_; refine (extract_high _ _ _ _ (by omega)).trans ?_; refine (extract_high _ _ _ _ (by omega)).trans ?_; refine (extract_low _ _ _ _ (by omega)).trans ?_; exact extract_all _
  have e6 : fB (encA i op x) = encOpnd x.b := by
    unfold fB encA; rw [body_encCommon _ _ _ _ _ _ _ (by omega)]; refine (extract_high _ _ _ _ (by omega)).trans ?_; refine (extract_high _ _ _ _ (by omega)).trans ?_; refine (extract_high _ _ _ _ (by omega)).trans ?_; refine (extract_high _ _ _ _ (by omega)).trans ?_; refine (extract_low _ _ _ _ (by omega)).trans ?_; exact extract_all _
  have e7 : fC (encA i op x) = encOpnd x.c := by
    unfold fC encA; rw [body_encCommon _ _ _ _ _ _ _ (by omega)]; refine (extract_high _ _ _ _ (by omega)).trans ?_; refine (extract_high _ _ _ _ (by omega)).trans ?_; refine (extract_high _ _ _ _ (by omega)).trans ?_; refine (extract_low _ _ _ _ (by omega)).trans ?_; exact extract_all _
  have e8 : fWbs (encA i op x) = (x.d == .nil && !(aSpec i x.sub x.md (encTy x.ty)).wbsBad && !(aSpec i x.sub x.md (encTy x.ty)).d.isEmpty) := by
    unfold encA; rw [fWbs_encCommon]
  have e9 : decGuard x.cl (encA i op x) = .ok x.g := by unfold encA; rw [decGuard_encCommon]
  unfold decA
  simp only [e1, e2, e3, e4, e5, e6, e7, e8, e9, hs, guardIf, if_true, bind, Except.bind]
  have hw : ((x.d == .nil && !(aSpec i x.sub x.md (encTy x.ty)).wbsBad && !(aSpec i x.sub x.md (encTy x.ty)).d.isEmpty) && (aSpec i x.sub x.md (encTy x.ty)).wbsBad) = false := by
    cases (aSpec i x.sub x.md (encTy x.ty)).wbsBad <;> simp
  simp only [hw, Bool.not_false, if_true, decDst_enc hd, decKind_enc ha, decKind_enc hb, decKind_enc hc, dec_encTy, orIllOpnd]
  have hsub' : x.sub &&& (aSpec i x.sub x.md (encTy x.ty)).subMask = x.sub := by simpa using hsub
  have hmd' : x.md &&& (aSpec i x.sub x.md (encTy x.ty)).mdMask = x.md := by simpa using hmd
  cases htu : (aSpec i x.sub x.md (encTy x.ty)).tyUsed
  · have : x.ty = .i64 := by simpa [htu] using ht
    simp only [hsub', hmd', ← this, Bool.false_eq_true, if_false, hok, if_true]
  · simp only [hsub', hmd', if_true, hok]

theorem decI_encI {cls : SlotCls} {i : Instr} {op : Nat} {x : OpI} (h : x.wf cls i = true) : decI i x.cl (encI i op x) = .ok x := by
  simp only [OpI.wf, Bool.and_eq_true] at h
  obtain ⟨⟨⟨⟨⟨_, hd⟩, ha⟩, hsub⟩, himm⟩, hok⟩ := h
  have e1 : (encI i op x).extractLsb' 32 2 = x.isub := by
    unfold encI; rw [body_encCommon _ _ _ _ _ _ _ (by omega)]; refine (extract_high _ _ _ _ (by omega)).trans ?_; refine (extract_low _ _ _ _ (by omega)).trans ?_; exact extract_all _
  have e2 : (encI i op x).extractLsb' 0 32 = x.imm := by
    unfold encI; rw [body_encCommon _ _ _ _ _ _ _ (by omega)]; refine (extract_low _ _ _ _ (by omega)).trans ?_; exact extract_all _
  have e4 : fD (encI i op x) = encOpnd x.d := by
    unfold fD encI; rw [body_encCommon _ _ _ _ _ _ _ (by omega)]; refine (extract_high _ _ _ _ (by omega)).trans ?_; refine (extract_high _ _ _ _ (by omega)).trans ?_; refine (extract_high _ _ _ _ (by omega)).trans ?_; exact extract_all _
  have e5 : fA (encI i op x) = encOpnd x.a := by
    unfold fA encI; rw [body_encCommon _ _ _ _ _ _ _ (by omega)]; refine (extract_high _ _ _ _ (by omega)).trans ?_; refine (extract_high _ _ _ _ (by omega)).trans ?_; refine (extract_low _ _ _ _ (by omega)).trans ?_; exact extract_all _
  have e8 : (fWbs (encI i op x) && !(iSpec i).dSrc) = (x.d == .nil && !(iSpec i).dSrc && !(iSpec i).d.isEmpty) := by
    unfold encI; rw [fWbs_encCommon]; cases (iSpec i).dSrc <;> simp
  have e9 : decGuard x.cl (encI i op x) = .ok x.g := by unfold encI; rw [decGuard_encCommon]
  have hsub' : x.isub &&& (iSpec i).isubMask = x.isub := by simpa using hsub
  have himm' : x.imm &&& (iSpec i).immMask = x.imm := by simpa using himm
  unfold decI
  simp only [e1, e2, e4, e5, e8, e9, guardIf, bind, Except.bind, decDst_enc hd, decKind_enc ha, hsub', himm', hok, if_true]

theorem decM_encM {i : Instr} {op : Nat} {x : OpM} (h : x.wf i = true) (hv : (mSpec i).vBoth = true → (mSpec i).vDst = false)
    (hsz : (mSpec i).szLine = true → (mSpec i).szs = []) (hvd : (mSpec i).v ≠ [] ∨ (mSpec i).vDst = false) :
    decM i x.cl (encM i op x) = .ok x := by
  simp only [OpM.wf, Bool.and_eq_true] at h
  obtain ⟨⟨⟨⟨⟨⟨⟨hd, hw⟩, hb⟩, hfd⟩, hs⟩, ho⟩, hsc⟩, hok⟩ := h
  have e1 : (encM i op x).extractLsb' 22 3 = encSize x.sz := by
    unfold encM; rw [body_encCommon _ _ _ _ _ _ _ (by omega)]; refine (extract_high _ _ _ _ (by omega)).trans ?_; refine (extract_low _ _ _ _ (by omega)).trans ?_; exact extract_all _
  have e2 : (encM i op x).extractLsb' 25 2 = encOrd x.ord := by
    unfold encM; rw [body_encCommon _ _ _ _ _ _ _ (by omega)]; refine (extract_high _ _ _ _ (by omega)).trans ?_; refine (extract_high _ _ _ _ (by omega)).trans ?_; refine (extract_low _ _ _ _ (by omega)).trans ?_; exact extract_all _
  have e3 : (encM i op x).extractLsb' 27 3 = encScope x.scope := by
    unfold encM; rw [body_encCommon _ _ _ _ _ _ _ (by omega)]; refine (extract_high _ _ _ _ (by omega)).trans ?_; refine (extract_high _ _ _ _ (by omega)).trans ?_; refine (extract_high _ _ _ _ (by omega)).trans ?_; refine (extract_low _ _ _ _ (by omega)).trans ?_; exact extract_all _
  have e6 : (encM i op x).extractLsb' 30 4 = x.fd := by
    unfold encM; rw [body_encCommon _ _ _ _ _ _ _ (by omega)]; refine (extract_high _ _ _ _ (by omega)).trans ?_; refine (extract_high _ _ _ _ (by omega)).trans ?_; refine (extract_high _ _ _ _ (by omega)).trans ?_; refine (extract_high _ _ _ _ (by omega)).trans ?_; refine (extract_low _ _ _ _ (by omega)).trans ?_; exact extract_all _
  have e7 : (encM i op x).extractLsb' 0 22 = x.off := by
    unfold encM; rw [body_encCommon _ _ _ _ _ _ _ (by omega)]; refine (extract_low _ _ _ _ (by omega)).trans ?_; exact extract_all _
  have e4 : fD (encM i op x) = encOpnd x.v := by
    unfold fD encM; rw [body_encCommon _ _ _ _ _ _ _ (by omega)]; refine (extract_high _ _ _ _ (by omega)).trans ?_; refine (extract_high _ _ _ _ (by omega)).trans ?_; refine (extract_high _ _ _ _ (by omega)).trans ?_; refine (extract_high _ _ _ _ (by omega)).trans ?_; refine (extract_high _ _ _ _ (by omega)).trans ?_; refine (extract_high _ _ _ _ (by omega)).trans ?_; exact extract_all _
  have e5 : fA (encM i op x) = encOpnd x.b := by
    unfold fA encM; rw [body_encCommon _ _ _ _ _ _ _ (by omega)]; refine (extract_high _ _ _ _ (by omega)).trans ?_; refine (extract_high _ _ _ _ (by omega)).trans ?_; refine (extract_high _ _ _ _ (by omega)).trans ?_; refine (extract_high _ _ _ _ (by omega)).trans ?_; refine (extract_high _ _ _ _ (by omega)).trans ?_; refine (extract_low _ _ _ _ (by omega)).trans ?_; exact extract_all _
  have e8 : fWbs (encM i op x) = (x.wbs || (x.v == .nil && (mSpec i).vDst)) := by
    unfold encM; rw [fWbs_encCommon]
  have e9 : decGuard x.cl (encM i op x) = .ok x.g := by unfold encM; rw [decGuard_encCommon]
  have dd : decDst x.cl (mSpec i).v (fWbs (encM i op x) && (mSpec i).vDst) (fD (encM i op x)) = .ok x.v := by
    rw [e4, e8]
    have := decDst_enc hd
    have hh : ((x.wbs || (x.v == .nil && (mSpec i).vDst)) && (mSpec i).vDst) = (x.v == .nil && (mSpec i).vDst && !(mSpec i).v.isEmpty) := by
      cases h1 : (mSpec i).vDst <;> cases h2 : (mSpec i).vBoth <;> cases h3 : x.wbs <;> simp_all
    rw [hh]; exact this
  have dw : (fWbs (encM i op x) && (mSpec i).vBoth) = x.wbs := by
    rw [e8]
    cases h1 : (mSpec i).vDst <;> cases h2 : (mSpec i).vBoth <;> cases h3 : x.wbs <;> simp_all
  have db : (if (mSpec i).bUsed = true then decKind x.cl srcW (fA (encM i op x)) else .ok .nil) = .ok x.b := by
    rw [e5]
    split
    · apply decKind_enc; simp_all [kindWf, srcW]
    · simp_all
  have ds : (if (mSpec i).szLine = true then (if decSize (encSize x.sz) = .sector then Size.sector else .n8)
    else if (mSpec i).szs.isEmpty = true then .n8 else decSize (encSize x.sz)) = x.sz := by
    rw [dec_encSize]
    revert hs
    split
    · simp; rintro (h | h) <;> simp [h]
    · split <;> simp_all
  have dor : (if (mSpec i).ords.isEmpty = true then MemOrd.plain else decOrd (encOrd x.ord)) = x.ord := by
    rw [dec_encOrd]; split <;> simp_all
  unfold decM
  simp only [bind, Except.bind, guardIf] at db ⊢
  simp only [dd, e9, db, e1, e2, e3, e6, e7, ds, dor, dw, dec_encScope, orIllOpnd]
  have c1 : (((mSpec i).szs.isEmpty || (mSpec i).szs.contains x.sz) && ((mSpec i).ords.isEmpty || (mSpec i).ords.contains x.ord)) = true := by
    have : (mSpec i).szs.isEmpty || (mSpec i).szs.contains x.sz := by
      cases h1 : (mSpec i).szLine
      · simp [h1] at hs; by_cases h2 : (mSpec i).szs = [] <;> simp_all
      · simp [hsz h1]
    have h3 : (mSpec i).ords.isEmpty || (mSpec i).ords.contains x.ord := by
      by_cases h2 : (mSpec i).ords = [] <;> simp_all
    simp only [this, h3, Bool.and_self]
  simp only [c1, if_true]
  have f1 : (if (mSpec i).fdUsed = true then x.fd else 0) = x.fd := by split <;> simp_all
  have f2 : (if (mSpec i).bUsed = true then x.off else 0) = x.off := by split <;> simp_all
  have f3 : (if (mSpec i).scopeUsed x.ord = true then Except.ok x.scope else Except.ok Scope.core) = (Except.ok x.scope : Except DecodeError Scope) := by
    split
    · rfl
    · congr 1; simp_all
  cases hbu : (mSpec i).bUsed
  · have hb1 : x.b = .nil := by simp_all
    cases hsu : (mSpec i).scopeUsed x.ord
    · have hs1 : x.scope = .core := by simp_all
      simp only [f1, hbu, hsu, if_true, Bool.false_eq_true, if_false, ← hb1, ← hs1]
      rw [hbu] at f2
      simp only [Bool.false_eq_true, if_false] at f2
      simp only [f2, hok, if_true]
    · rw [hbu] at f2
      simp only [Bool.false_eq_true, if_false] at f2
      simp only [f1, hbu, hsu, if_true, Bool.false_eq_true, if_false, ← hb1, f2, hok]
  · rw [hbu] at db
    simp only [if_true] at db
    cases hsu : (mSpec i).scopeUsed x.ord
    · have hs1 : x.scope = .core := by simp_all
      simp only [f1, hbu, hsu, if_true, Bool.false_eq_true, if_false, db, ← hs1, hok]
    · simp only [f1, hbu, hsu, if_true, db, hok]

theorem decL_encL {cls : SlotCls} {i : Instr} {op : Nat} {x : OpL} (h : x.wf cls i = true)
    (hvd : (lSpec i x.sub x.md x.spread).v ≠ [] ∨ (lSpec i x.sub x.md x.spread).vDst = false) :
    decL i x.cl (encL i op x) = .ok x := by
  simp only [OpL.wf, Bool.and_eq_true] at h
  obtain ⟨⟨⟨⟨⟨⟨⟨⟨⟨⟨_, hs⟩, hd⟩, hx⟩, hbk⟩, hwd⟩, hn⟩, hsp⟩, hsub⟩, hmd⟩, hok⟩ := h
  have e1 : (encL i op x).extractLsb' 7 6 = x.sub := by
    unfold encL; rw [body_encCommon _ _ _ _ _ _ _ (by omega)]; refine (extract_high _ _ _ _ (by omega)).trans ?_; refine (extract_low _ _ _ _ (by omega)).trans ?_; exact extract_all _
  have e2 : (encL i op x).extractLsb' 0 7 = x.md := by
    unfold encL; rw [body_encCommon _ _ _ _ _ _ _ (by omega)]; refine (extract_low _ _ _ _ (by omega)).trans ?_; exact extract_all _
  have e3 : (encL i op x).getLsbD 13 = x.spread := by
    unfold encL; rw [bodyBit_encCommon _ _ _ _ _ _ (by omega)]; refine (getLsbD_high _ _ _ (by omega)).trans ?_; refine (getLsbD_high _ _ _ (by omega)).trans ?_; refine (getLsbD_low _ _ _ (by omega)).trans ?_; simp
  have e4 : fD (encL i op x) = encOpnd x.v := by
    unfold fD encL; rw [body_encCommon _ _ _ _ _ _ _ (by omega)]; refine (extract_high _ _ _ _ (by omega)).trans ?_; refine (extract_high _ _ _ _ (by omega)).trans ?_; refine (extract_high _ _ _ _ (by omega)).trans ?_; refine (extract_high _ _ _ _ (by omega)).trans ?_; refine (extract_high _ _ _ _ (by omega)).trans ?_; refine (extract_high _ _ _ _ (by omega)).trans ?_; refine (extract_high _ _ _ _ (by omega)).trans ?_; refine (extract_high _ _ _ _ (by omega)).trans ?_; exact extract_all _
  have e5 : fA (encL i op x) = encOpnd x.x := by
    unfold fA encL; rw [body_encCommon _ _ _ _ _ _ _ (by omega)]; refine (extract_high _ _ _ _ (by omega)).trans ?_; refine (extract_high _ _ _ _ (by omega)).trans ?_; refine (extract_high _ _ _ _ (by omega)).trans ?_; refine (extract_high _ _ _ _ (by omega)).trans ?_; refine (extract_high _ _ _ _ (by omega)).trans ?_; refine (extract_high _ _ _ _ (by omega)).trans ?_; refine (extract_high _ _ _ _ (by omega)).trans ?_; refine (extract_low _ _ _ _ (by omega)).trans ?_; exact extract_all _
  have e6 : (encL i op x).extractLsb' 32 2 = x.grp := by
    unfold encL; rw [body_encCommon _ _ _ _ _ _ _ (by omega)]; refine (extract_high _ _ _ _ (by omega)).trans ?_; refine (extract_high _ _ _ _ (by omega)).trans ?_; refine (extract_high _ _ _ _ (by omega)).trans ?_; refine (extract_high _ _ _ _ (by omega)).trans ?_; refine (extract_high _ _ _ _ (by omega)).trans ?_; refine (extract_high _ _ _ _ (by omega)).trans ?_; refine (extract_low _ _ _ _ (by omega)).trans ?_; exact extract_all _
  have e7 : (encL i op x).extractLsb' 29 3 = x.bank := by
    unfold encL; rw [body_encCommon _ _ _ _ _ _ _ (by omega)]; refine (extract_high _ _ _ _ (by omega)).trans ?_; refine (extract_high _ _ _ _ (by omega)).trans ?_; refine (extract_high _ _ _ _ (by omega)).trans ?_; refine (extract_high _ _ _ _ (by omega)).trans ?_; refine (extract_high _ _ _ _ (by omega)).trans ?_; refine (extract_low _ _ _ _ (by omega)).trans ?_; exact extract_all _
  have e10 : (encL i op x).extractLsb' 18 11 = x.word := by
    unfold encL; rw [body_encCommon _ _ _ _ _ _ _ (by omega)]; refine (extract_high _ _ _ _ (by omega)).trans ?_; refine (extract_high _ _ _ _ (by omega)).trans ?_; refine (extract_high _ _ _ _ (by omega)).trans ?_; refine (extract_high _ _ _ _ (by omega)).trans ?_; refine (extract_low _ _ _ _ (by omega)).trans ?_; exact extract_all _
  have e11 : (encL i op x).extractLsb' 14 4 = x.n := by
    unfold encL; rw [body_encCommon _ _ _ _ _ _ _ (by omega)]; refine (extract_high _ _ _ _ (by omega)).trans ?_; refine (extract_high _ _ _ _ (by omega)).trans ?_; refine (extract_high _ _ _ _ (by omega)).trans ?_; refine (extract_low _ _ _ _ (by omega)).trans ?_; exact extract_all _
  have e8 : fWbs (encL i op x) = (x.v == .nil && (lSpec i x.sub x.md x.spread).vDst) := by
    unfold encL; rw [fWbs_encCommon]
  have e9 : decGuard x.cl (encL i op x) = .ok x.g := by unfold encL; rw [decGuard_encCommon]
  unfold decL
  simp only [e1, e2, e3, e4, e5, e6, e7, e10, e11, e8, e9, hs, guardIf, if_true, bind, Except.bind]
  generalize lSpec i x.sub x.md x.spread = sp at *
  have dd : decDst x.cl sp.v ((x.v == .nil && sp.vDst) && sp.vDst) (encOpnd x.v) = .ok x.v := by
    have := decDst_enc hd
    have hh : ((x.v == .nil && sp.vDst) && sp.vDst) = (x.v == .nil && sp.vDst && !sp.v.isEmpty) := by
      cases h1 : sp.vDst <;> simp_all
    rw [hh]; exact this
  have db : (if sp.xUsed = true then decKind x.cl srcW (encOpnd x.x) else .ok .nil) = .ok x.x := by
    split
    · apply decKind_enc; simp_all [kindWf, srcW]
    · simp_all
  have f1 : (if sp.bankUsed = true then x.bank else 0) = x.bank := by split <;> simp_all
  have f2 : (if sp.wordUsed = true then x.word else 0) = x.word := by split <;> simp_all
  have f3 : (if sp.nUsed = true then x.n else 0) = x.n := by split <;> simp_all
  have f4 : (x.spread && sp.spreadUsed) = x.spread := by cases h : x.spread <;> simp_all
  have hsub' : x.sub &&& sp.subMask = x.sub := by simpa using hsub
  have hmd' : x.md &&& sp.mdMask = x.md := by simpa using hmd
  cases hbu : sp.xUsed
  · have hb1 : x.x = .nil := by simp_all
    simp only [dd, f1, f2, f3, f4, hsub', hmd', Bool.false_eq_true, if_false]
    simp only [← hb1, hok, if_true]
  · rw [hbu] at db
    simp only [if_true] at db
    simp only [dd, f1, f2, f3, f4, hsub', hmd', if_true, db, hok]

theorem decC_encC {i : Instr} {op : Nat} {x : OpC} (h : x.wf i = true) : decC i (encC i op x) = .ok x := by
  simp only [OpC.wf, Bool.and_eq_true] at h
  obtain ⟨⟨⟨ha, hd⟩, hw⟩, hs⟩ := h
  have e1 : (encC i op x).extractLsb' 0 6 = x.md := by
    unfold encC; rw [body_encCommon _ _ _ _ _ _ _ (by omega)]; refine (extract_low _ _ _ _ (by omega)).trans ?_; exact extract_all _
  have e2 : (encC i op x).extractLsb' 6 6 = x.sub := by
    unfold encC; rw [body_encCommon _ _ _ _ _ _ _ (by omega)]; refine (extract_high _ _ _ _ (by omega)).trans ?_; refine (extract_low _ _ _ _ (by omega)).trans ?_; exact extract_all _
  have e3 : (encC i op x).extractLsb' 12 8 = (if (cSpec i).a.isEmpty then (cSpec i).aFill else encOpnd x.a) := by
    unfold encC; rw [body_encCommon _ _ _ _ _ _ _ (by omega)]; refine (extract_high _ _ _ _ (by omega)).trans ?_; refine (extract_high _ _ _ _ (by omega)).trans ?_; refine (extract_low _ _ _ _ (by omega)).trans ?_; exact extract_all _
  have e4 : (encC i op x).extractLsb' 20 30 = x.disp := by
    unfold encC; rw [body_encCommon _ _ _ _ _ _ _ (by omega)]; refine (extract_high _ _ _ _ (by omega)).trans ?_; refine (extract_high _ _ _ _ (by omega)).trans ?_; refine (extract_high _ _ _ _ (by omega)).trans ?_; exact extract_all _
  have e8 : fWbs (encC i op x) = x.wbs := by unfold encC; rw [fWbs_encCommon]
  have e9 : decGuard .a (encC i op x) = .ok x.g := by unfold encC; rw [decGuard_encCommon]
  have da : decKind .a (cSpec i).a (if (cSpec i).a.isEmpty then (cSpec i).aFill else encOpnd x.a) = .ok x.a := by
    cases hk : (cSpec i).a.isEmpty
    · exact decKind_enc ha
    · have : x.a = .nil := by simp_all [kindWf]
      simp [decKind, hk, this]
  have f1 : (if (cSpec i).dispUsed = true then x.disp else 0) = x.disp := by split <;> simp_all
  have f2 : (if (cSpec i).all = true then x.sub else 0) = x.sub := by split <;> simp_all
  have f3 : (if (cSpec i).all = true then x.md else 0) = x.md := by split <;> simp_all
  have f4 : (x.wbs && (cSpec i).linkWbs) = x.wbs := by cases h : x.wbs <;> simp_all
  unfold decC
  simp only [e1, e2, e3, e4, e8, e9, bind, Except.bind, da, f1, f2, f3, f4]

theorem srcWb_kindWf {o : Opnd} (h : srcWb o = true) : kindWf .b srcW o = true := by
  simp only [srcWb] at h
  simp only [kindWf, h, srcW, List.isEmpty, Bool.false_eq_true, if_false]
  exact h

theorem decMma_encMma {i : Instr} {op : Nat} {x : OpMma} (h : x.wf i = true) : decMma i (encMma op x) = .ok x := by
  simp only [OpMma.wf, Bool.and_eq_true] at h
  obtain ⟨⟨⟨hd, hx⟩, hm⟩, hty⟩ := h
  have e1 : (encMma op x).extractLsb' 0 5 = encTy x.fb := by
    unfold encMma; rw [body_encCommon _ _ _ _ _ _ _ (by omega)]; refine (extract_low _ _ _ _ (by omega)).trans ?_; exact extract_all _
  have e2 : (encMma op x).extractLsb' 5 5 = encTy x.fa := by
    unfold encMma; rw [body_encCommon _ _ _ _ _ _ _ (by omega)]; refine (extract_high _ _ _ _ (by omega)).trans ?_; refine (extract_low _ _ _ _ (by omega)).trans ?_; exact extract_all _
  have e3 : (encMma op x).extractLsb' 10 2 = x.q := by
    unfold encMma; rw [body_encCommon _ _ _ _ _ _ _ (by omega)]; refine (extract_high _ _ _ _ (by omega)).trans ?_; refine (extract_high _ _ _ _ (by omega)).trans ?_; refine (extract_low _ _ _ _ (by omega)).trans ?_; exact extract_all _
  have e4 : (encMma op x).extractLsb' 12 3 = x.bank := by
    unfold encMma; rw [body_encCommon _ _ _ _ _ _ _ (by omega)]; refine (extract_high _ _ _ _ (by omega)).trans ?_; refine (extract_high _ _ _ _ (by omega)).trans ?_; refine (extract_high _ _ _ _ (by omega)).trans ?_; refine (extract_low _ _ _ _ (by omega)).trans ?_; exact extract_all _
  have e5 : (encMma op x).extractLsb' 15 2 = x.grp := by
    unfold encMma; rw [body_encCommon _ _ _ _ _ _ _ (by omega)]; refine (extract_high _ _ _ _ (by omega)).trans ?_; refine (extract_high _ _ _ _ (by omega)).trans ?_; refine (extract_high _ _ _ _ (by omega)).trans ?_; refine (extract_high _ _ _ _ (by omega)).trans ?_; refine (extract_low _ _ _ _ (by omega)).trans ?_; exact extract_all _
  have e6 : fC (encMma op x) = encOpnd x.m := by
    unfold fC encMma; rw [body_encCommon _ _ _ _ _ _ _ (by omega)]; refine (extract_high _ _ _ _ (by omega)).trans ?_; refine (extract_high _ _ _ _ (by omega)).trans ?_; refine (extract_high _ _ _ _ (by omega)).trans ?_; refine (extract_high _ _ _ _ (by omega)).trans ?_; refine (extract_high _ _ _ _ (by omega)).trans ?_; refine (extract_high _ _ _ _ (by omega)).trans ?_; refine (extract_low _ _ _ _ (by omega)).trans ?_; exact extract_all _
  have e7 : fB (encMma op x) = encOpnd (.sl x.l) := by
    unfold fB encMma; rw [body_encCommon _ _ _ _ _ _ _ (by omega)]; refine (extract_high _ _ _ _ (by omega)).trans ?_; refine (extract_high _ _ _ _ (by omega)).trans ?_; refine (extract_high _ _ _ _ (by omega)).trans ?_; refine (extract_high _ _ _ _ (by omega)).trans ?_; refine (extract_high _ _ _ _ (by omega)).trans ?_; refine (extract_high _ _ _ _ (by omega)).trans ?_; refine (extract_high _ _ _ _ (by omega)).trans ?_; refine (extract_low _ _ _ _ (by omega)).trans ?_; exact extract_all _
  have e10 : fA (encMma op x) = encOpnd x.x := by
    unfold fA encMma; rw [body_encCommon _ _ _ _ _ _ _ (by omega)]; refine (extract_high _ _ _ _ (by omega)).trans ?_; refine (extract_high _ _ _ _ (by omega)).trans ?_; refine (extract_high _ _ _ _ (by omega)).trans ?_; refine (extract_high _ _ _ _ (by omega)).trans ?_; refine (extract_high _ _ _ _ (by omega)).trans ?_; refine (extract_high _ _ _ _ (by omega)).trans ?_; refine (extract_high _ _ _ _ (by omega)).trans ?_; refine (extract_high _ _ _ _ (by omega)).trans ?_; refine (extract_low _ _ _ _ (by omega)).trans ?_; exact extract_all _
  have e11 : fD (encMma op x) = encOpnd x.d := by
    unfold fD encMma; rw [body_encCommon _ _ _ _ _ _ _ (by omega)]; refine (extract_high _ _ _ _ (by omega)).trans ?_; refine (extract_high _ _ _ _ (by omega)).trans ?_; refine (extract_high _ _ _ _ (by omega)).trans ?_; refine (extract_high _ _ _ _ (by omega)).trans ?_; refine (extract_high _ _ _ _ (by omega)).trans ?_; refine (extract_high _ _ _ _ (by omega)).trans ?_; refine (extract_high _ _ _ _ (by omega)).trans ?_; refine (extract_high _ _ _ _ (by omega)).trans ?_; refine (extract_high _ _ _ _ (by omega)).trans ?_; exact extract_all _
  have e8 : fWbs (encMma op x) = (x.d == .nil) := by unfold encMma; rw [fWbs_encCommon]
  have e9 : decGuard .b (encMma op x) = .ok x.g := by unfold encMma; rw [decGuard_encCommon]
  have kl : decKind .b [.sl] (encOpnd (.sl x.l)) = .ok (.sl x.l) := decKind_enc rfl
  have kx : decKind .b srcW (encOpnd x.x) = .ok x.x := by
    apply decKind_enc
    revert hx
    cases x.x <;> simp [mmaXOk, kindWf, srcW, kindOf]
    rename_i n; revert n; decide
  have km : decKind .b [.s, .l, .z] (encOpnd x.m) = .ok x.m := by
    apply decKind_enc
    simpa [kindWf] using hm
  unfold decMma
  simp only [e1, e2, e3, e4, e5, e6, e7, e8, e9, e10, e11, bind, Except.bind, kl, kx, km, dec_encTy, orIllOpnd, hx, hty, Bool.and_self, guardIf]
  obtain ⟨g, d, x1, l, m, grp, bank, q, fa, fb⟩ := x
  by_cases hz : ∃ y, i = .mmaz y
  · obtain ⟨y, rfl⟩ := hz
    cases d with
    | vreg n => simp [decDst, decKind, dec_encOpnd, kindOf]
    | nil => simp [decDst]
    | _ => simp at hd
  · have hn : ∀ y, i ≠ .mmaz y := fun y h => hz ⟨y, h⟩
    cases d with
    | vreg n =>
      split
      · exact absurd rfl (hn _)
      · simp [decDst, decKind, dec_encOpnd, kindOf]
    | nil =>
      simp at hd
    | _ => simp at hd

theorem decCpy_encCpy {op : Nat} {x : OpCpy} (h : x.wf = true) : decCpy (encCpy op x) = .ok x := by
  simp only [OpCpy.wf, Bool.and_eq_true] at h
  obtain ⟨⟨⟨⟨hd, ha⟩, hb⟩, hc⟩, hf⟩ := h
  have e1 : (encCpy op x).extractLsb' 0 3 = encScope x.scope := by
    unfold encCpy; rw [body_encCommon _ _ _ _ _ _ _ (by omega)]; refine (extract_low _ _ _ _ (by omega)).trans ?_; exact extract_all _
  have e2 : (encCpy op x).getLsbD 3 = x.dls := by
    unfold encCpy; rw [bodyBit_encCommon _ _ _ _ _ _ (by omega)]; refine (getLsbD_high _ _ _ (by omega)).trans ?_; refine (getLsbD_low _ _ _ (by omega)).trans ?_; simp
  have e3 : (encCpy op x).getLsbD 4 = x.sls := by
    unfold encCpy; rw [bodyBit_encCommon _ _ _ _ _ _ (by omega)]; refine (getLsbD_high _ _ _ (by omega)).trans ?_; refine (getLsbD_high _ _ _ (by omega)).trans ?_; refine (getLsbD_low _ _ _ (by omega)).trans ?_; simp
  have e4 : (encCpy op x).getLsbD 5 = x.cvt := by
    unfold encCpy; rw [bodyBit_encCommon _ _ _ _ _ _ (by omega)]; refine (getLsbD_high _ _ _ (by omega)).trans ?_; refine (getLsbD_high _ _ _ (by omega)).trans ?_; refine (getLsbD_high _ _ _ (by omega)).trans ?_; refine (getLsbD_low _ _ _ (by omega)).trans ?_; simp
  have e5 : (encCpy op x).extractLsb' 6 5 = encTy x.fm := by
    unfold encCpy; rw [body_encCommon _ _ _ _ _ _ _ (by omega)]; refine (extract_high _ _ _ _ (by omega)).trans ?_; refine (extract_high _ _ _ _ (by omega)).trans ?_; refine (extract_high _ _ _ _ (by omega)).trans ?_; refine (extract_high _ _ _ _ (by omega)).trans ?_; refine (extract_low _ _ _ _ (by omega)).trans ?_; exact extract_all _
  have kc : fC (encCpy op x) = encOpnd x.c := by
    unfold fC encCpy; rw [body_encCommon _ _ _ _ _ _ _ (by omega)]; refine (extract_high _ _ _ _ (by omega)).trans ?_; refine (extract_high _ _ _ _ (by omega)).trans ?_; refine (extract_high _ _ _ _ (by omega)).trans ?_; refine (extract_high _ _ _ _ (by omega)).trans ?_; refine (extract_high _ _ _ _ (by omega)).trans ?_; refine (extract_high _ _ _ _ (by omega)).trans ?_; refine (extract_low _ _ _ _ (by omega)).trans ?_; exact extract_all _
  have kb : fB (encCpy op x) = encOpnd x.b := by
    unfold fB encCpy; rw [body_encCommon _ _ _ _ _ _ _ (by omega)]; refine (extract_high _ _ _ _ (by omega)).trans ?_; refine (extract_high _ _ _ _ (by omega)).trans ?_; refine (extract_high _ _ _ _ (by omega)).trans ?_; refine (extract_high _ _ _ _ (by omega)).trans ?_; refine (extract_high _ _ _ _ (by omega)).trans ?_; refine (extract_high _ _ _ _ (by omega)).trans ?_; refine (extract_high _ _ _ _ (by omega)).trans ?_; refine (extract_low _ _ _ _ (by omega)).trans ?_; exact extract_all _
  have ka : fA (encCpy op x) = encOpnd x.a := by
    unfold fA encCpy; rw [body_encCommon _ _ _ _ _ _ _ (by omega)]; refine (extract_high _ _ _ _ (by omega)).trans ?_; refine (extract_high _ _ _ _ (by omega)).trans ?_; refine (extract_high _ _ _ _ (by omega)).trans ?_; refine (extract_high _ _ _ _ (by omega)).trans ?_; refine (extract_high _ _ _ _ (by omega)).trans ?_; refine (extract_high _ _ _ _ (by omega)).trans ?_; refine (extract_high _ _ _ _ (by omega)).trans ?_; refine (extract_high _ _ _ _ (by omega)).trans ?_; refine (extract_low _ _ _ _ (by omega)).trans ?_; exact extract_all _
  have kd : fD (encCpy op x) = encOpnd x.d := by
    unfold fD encCpy; rw [body_encCommon _ _ _ _ _ _ _ (by omega)]; refine (extract_high _ _ _ _ (by omega)).trans ?_; refine (extract_high _ _ _ _ (by omega)).trans ?_; refine (extract_high _ _ _ _ (by omega)).trans ?_; refine (extract_high _ _ _ _ (by omega)).trans ?_; refine (extract_high _ _ _ _ (by omega)).trans ?_; refine (extract_high _ _ _ _ (by omega)).trans ?_; refine (extract_high _ _ _ _ (by omega)).trans ?_; refine (extract_high _ _ _ _ (by omega)).trans ?_; refine (extract_high _ _ _ _ (by omega)).trans ?_; exact extract_all _
  have e9 : decGuard .b (encCpy op x) = .ok x.g := by unfold encCpy; rw [decGuard_encCommon]
  unfold decCpy
  simp only [e1, e2, e3, e4, e5, e9, ka, kb, kc, kd, bind, Except.bind, decKind_enc (srcWb_kindWf hd), decKind_enc (srcWb_kindWf ha),
    decKind_enc (srcWb_kindWf hb), decKind_enc (srcWb_kindWf hc), dec_encScope, dec_encTy, orIllOpnd, guardIf]
  cases hcv : x.cvt
  · have : x.fm = .i64 := by simpa [hcv] using hf
    obtain ⟨g, d, a, b, c, sc, dl, sl, cv, fm⟩ := x
    simp only at this hcv
    subst this hcv
    simp
  · rw [hcv] at hf
    simp only [if_true] at hf ⊢
    simp only [hf, Bool.or_true, if_true]
    obtain ⟨g, d, a, b, c, sc, dl, sl, cv, fm⟩ := x
    simp only at hcv
    subst hcv
    rfl

theorem decChase_encChase {op : Nat} {x : OpChase} (h : x.wf = true) : decChase (encChase op x) = .ok x := by
  simp only [OpChase.wf, Bool.and_eq_true] at h
  obtain ⟨⟨⟨hd, ha⟩, hb⟩, hc⟩ := h
  have e1 : (encChase op x).extractLsb' 0 3 = encScope x.scope := by
    unfold encChase; rw [body_encCommon _ _ _ _ _ _ _ (by omega)]; refine (extract_low _ _ _ _ (by omega)).trans ?_; exact extract_all _
  have e2 : (encChase op x).getLsbD 3 = x.dls := by
    unfold encChase; rw [bodyBit_encCommon _ _ _ _ _ _ (by omega)]; refine (getLsbD_high _ _ _ (by omega)).trans ?_; refine (getLsbD_low _ _ _ (by omega)).trans ?_; simp
  have kc : fC (encChase op x) = encOpnd x.c := by
    unfold fC encChase; rw [body_encCommon _ _ _ _ _ _ _ (by omega)]; refine (extract_high _ _ _ _ (by omega)).trans ?_; refine (extract_high _ _ _ _ (by omega)).trans ?_; refine (extract_high _ _ _ _ (by omega)).trans ?_; refine (extract_low _ _ _ _ (by omega)).trans ?_; exact extract_all _
  have kb : fB (encChase op x) = encOpnd x.b := by
    unfold fB encChase; rw [body_encCommon _ _ _ _ _ _ _ (by omega)]; refine (extract_high _ _ _ _ (by omega)).trans ?_; refine (extract_high _ _ _ _ (by omega)).trans ?_; refine (extract_high _ _ _ _ (by omega)).trans ?_; refine (extract_high _ _ _ _ (by omega)).trans ?_; refine (extract_low _ _ _ _ (by omega)).trans ?_; exact extract_all _
  have ka : fA (encChase op x) = encOpnd x.a := by
    unfold fA encChase; rw [body_encCommon _ _ _ _ _ _ _ (by omega)]; refine (extract_high _ _ _ _ (by omega)).trans ?_; refine (extract_high _ _ _ _ (by omega)).trans ?_; refine (extract_high _ _ _ _ (by omega)).trans ?_; refine (extract_high _ _ _ _ (by omega)).trans ?_; refine (extract_high _ _ _ _ (by omega)).trans ?_; refine (extract_low _ _ _ _ (by omega)).trans ?_; exact extract_all _
  have kd : fD (encChase op x) = encOpnd x.d := by
    unfold fD encChase; rw [body_encCommon _ _ _ _ _ _ _ (by omega)]; refine (extract_high _ _ _ _ (by omega)).trans ?_; refine (extract_high _ _ _ _ (by omega)).trans ?_; refine (extract_high _ _ _ _ (by omega)).trans ?_; refine (extract_high _ _ _ _ (by omega)).trans ?_; refine (extract_high _ _ _ _ (by omega)).trans ?_; refine (extract_high _ _ _ _ (by omega)).trans ?_; exact extract_all _
  have e9 : decGuard .b (encChase op x) = .ok x.g := by unfold encChase; rw [decGuard_encCommon]
  unfold decChase
  simp only [e1, e2, e9, ka, kb, kc, kd, bind, Except.bind, decKind_enc (srcWb_kindWf hd), decKind_enc (srcWb_kindWf ha),
    decKind_enc (srcWb_kindWf hb), decKind_enc (srcWb_kindWf hc), dec_encScope, orIllOpnd]

theorem decGath_encGath {op : Nat} {x : OpGath} (h : x.wf = true) : decGath (encGath op x) = .ok x := by
  simp only [OpGath.wf, Bool.and_eq_true] at h
  obtain ⟨⟨⟨⟨hd, ha⟩, hb⟩, hc⟩, hn⟩ := h
  have e1 : (encGath op x).extractLsb' 0 3 = encScope x.scope := by
    unfold encGath; rw [body_encCommon _ _ _ _ _ _ _ (by omega)]; refine (extract_low _ _ _ _ (by omega)).trans ?_; exact extract_all _
  have e2 : (encGath op x).getLsbD 3 = x.dls := by
    unfold encGath; rw [bodyBit_encCommon _ _ _ _ _ _ (by omega)]; refine (getLsbD_high _ _ _ (by omega)).trans ?_; refine (getLsbD_low _ _ _ (by omega)).trans ?_; simp
  have e3 : (encGath op x).getLsbD 4 = x.sls := by
    unfold encGath; rw [bodyBit_encCommon _ _ _ _ _ _ (by omega)]; refine (getLsbD_high _ _ _ (by omega)).trans ?_; refine (getLsbD_high _ _ _ (by omega)).trans ?_; refine (getLsbD_low _ _ _ (by omega)).trans ?_; simp
  have e4 : (encGath op x).getLsbD 5 = x.isz := by
    unfold encGath; rw [bodyBit_encCommon _ _ _ _ _ _ (by omega)]; refine (getLsbD_high _ _ _ (by omega)).trans ?_; refine (getLsbD_high _ _ _ (by omega)).trans ?_; refine (getLsbD_high _ _ _ (by omega)).trans ?_; refine (getLsbD_low _ _ _ (by omega)).trans ?_; simp
  have e5 : (encGath op x).extractLsb' 6 2 = x.gsz := by
    unfold encGath; rw [body_encCommon _ _ _ _ _ _ _ (by omega)]; refine (extract_high _ _ _ _ (by omega)).trans ?_; refine (extract_high _ _ _ _ (by omega)).trans ?_; refine (extract_high _ _ _ _ (by omega)).trans ?_; refine (extract_high _ _ _ _ (by omega)).trans ?_; refine (extract_low _ _ _ _ (by omega)).trans ?_; exact extract_all _
  have e6 : (encGath op x).extractLsb' 10 8 = encOpnd x.n := by
    unfold encGath; rw [body_encCommon _ _ _ _ _ _ _ (by omega)]; refine (extract_high _ _ _ _ (by omega)).trans ?_; refine (extract_high _ _ _ _ (by omega)).trans ?_; refine (extract_high _ _ _ _ (by omega)).trans ?_; refine (extract_high _ _ _ _ (by omega)).trans ?_; refine (extract_high _ _ _ _ (by omega)).trans ?_; refine (extract_high _ _ _ _ (by omega)).trans ?_; refine (extract_low _ _ _ _ (by omega)).trans ?_; exact extract_all _
  have kc : fC (encGath op x) = encOpnd x.c := by
    unfold fC encGath; rw [body_encCommon _ _ _ _ _ _ _ (by omega)]; refine (extract_high _ _ _ _ (by omega)).trans ?_; refine (extract_high _ _ _ _ (by omega)).trans ?_; refine (extract_high _ _ _ _ (by omega)).trans ?_; refine (extract_high _ _ _ _ (by omega)).trans ?_; refine (extract_high _ _ _ _ (by omega)).trans ?_; refine (extract_high _ _ _ _ (by omega)).trans ?_; refine (extract_high _ _ _ _ (by omega)).trans ?_; refine (extract_low _ _ _ _ (by omega)).trans ?_; exact extract_all _
  have kb : fB (encGath op x) = encOpnd x.b := by
    unfold fB encGath; rw [body_encCommon _ _ _ _ _ _ _ (by omega)]; refine (extract_high _ _ _ _ (by omega)).trans ?_; refine (extract_high _ _ _ _ (by omega)).trans ?_; refine (extract_high _ _ _ _ (by omega)).trans ?_; refine (extract_high _ _ _ _ (by omega)).trans ?_; refine (extract_high _ _ _ _ (by omega)).trans ?_; refine (extract_high _ _ _ _ (by omega)).trans ?_; refine (extract_high _ _ _ _ (by omega)).trans ?_; refine (extract_high _ _ _ _ (by omega)).trans ?_; refine (extract_low _ _ _ _ (by omega)).trans ?_; exact extract_all _
  have ka : fA (encGath op x) = encOpnd x.a := by
    unfold fA encGath; rw [body_encCommon _ _ _ _ _ _ _ (by omega)]; refine (extract_high _ _ _ _ (by omega)).trans ?_; refine (extract_high _ _ _ _ (by omega)).trans ?_; refine (extract_high _ _ _ _ (by omega)).trans ?_; refine (extract_high _ _ _ _ (by omega)).trans ?_; refine (extract_high _ _ _ _ (by omega)).trans ?_; refine (extract_high _ _ _ _ (by omega)).trans ?_; refine (extract_high _ _ _ _ (by omega)).trans ?_; refine (extract_high _ _ _ _ (by omega)).trans ?_; refine (extract_high _ _ _ _ (by omega)).trans ?_; refine (extract_low _ _ _ _ (by omega)).trans ?_; exact extract_all _
  have kd : fD (encGath op x) = encOpnd x.d := by
    unfold fD encGath; rw [body_encCommon _ _ _ _ _ _ _ (by omega)]; refine (extract_high _ _ _ _ (by omega)).trans ?_; refine (extract_high _ _ _ _ (by omega)).trans ?_; refine (extract_high _ _ _ _ (by omega)).trans ?_; refine (extract_high _ _ _ _ (by omega)).trans ?_; refine (extract_high _ _ _ _ (by omega)).trans ?_; refine (extract_high _ _ _ _ (by omega)).trans ?_; refine (extract_high _ _ _ _ (by omega)).trans ?_; refine (extract_high _ _ _ _ (by omega)).trans ?_; refine (extract_high _ _ _ _ (by omega)).trans ?_; refine (extract_high _ _ _ _ (by omega)).trans ?_; exact extract_all _
  have e9 : decGuard .b (encGath op x) = .ok x.g := by unfold encGath; rw [decGuard_encCommon]
  unfold decGath
  simp only [e1, e2, e3, e4, e5, e6, e9, ka, kb, kc, kd, bind, Except.bind, decKind_enc (srcWb_kindWf hd), decKind_enc (srcWb_kindWf ha),
    decKind_enc (srcWb_kindWf hb), decKind_enc (srcWb_kindWf hc), decKind_enc (srcWb_kindWf hn), dec_encScope, orIllOpnd]

theorem decSend_encSend {i : Instr} {op : Nat} {x : OpSend} (h : x.wf i = true) : decSend i (encSend i op x) = .ok x := by
  simp only [OpSend.wf, Bool.and_eq_true] at h
  obtain ⟨⟨⟨⟨hd, ha⟩, hb⟩, hc⟩, he⟩ := h
  have e1 : (encSend i op x).getLsbD 0 = x.sls := by
    unfold encSend; rw [bodyBit_encCommon _ _ _ _ _ _ (by omega)]; refine (getLsbD_low _ _ _ (by omega)).trans ?_; simp
  have e6 : (encSend i op x).extractLsb' 10 8 = encSendE i x := by
    unfold encSend; rw [body_encCommon _ _ _ _ _ _ _ (by omega)]; refine (extract_high _ _ _ _ (by omega)).trans ?_; refine (extract_high _ _ _ _ (by omega)).trans ?_; refine (extract_low _ _ _ _ (by omega)).trans ?_; exact extract_all _
  have kc : fC (encSend i op x) = encOpnd x.c := by
    unfold fC encSend; rw [body_encCommon _ _ _ _ _ _ _ (by omega)]; refine (extract_high _ _ _ _ (by omega)).trans ?_; refine (extract_high _ _ _ _ (by omega)).trans ?_; refine (extract_high _ _ _ _ (by omega)).trans ?_; refine (extract_low _ _ _ _ (by omega)).trans ?_; exact extract_all _
  have kb : fB (encSend i op x) = encOpnd x.b := by
    unfold fB encSend; rw [body_encCommon _ _ _ _ _ _ _ (by omega)]; refine (extract_high _ _ _ _ (by omega)).trans ?_; refine (extract_high _ _ _ _ (by omega)).trans ?_; refine (extract_high _ _ _ _ (by omega)).trans ?_; refine (extract_high _ _ _ _ (by omega)).trans ?_; refine (extract_low _ _ _ _ (by omega)).trans ?_; exact extract_all _
  have ka : fA (encSend i op x) = encOpnd x.a := by
    unfold fA encSend; rw [body_encCommon _ _ _ _ _ _ _ (by omega)]; refine (extract_high _ _ _ _ (by omega)).trans ?_; refine (extract_high _ _ _ _ (by omega)).trans ?_; refine (extract_high _ _ _ _ (by omega)).trans ?_; refine (extract_high _ _ _ _ (by omega)).trans ?_; refine (extract_high _ _ _ _ (by omega)).trans ?_; refine (extract_low _ _ _ _ (by omega)).trans ?_; exact extract_all _
  have kd : fD (encSend i op x) = encOpnd x.d := by
    unfold fD encSend; rw [body_encCommon _ _ _ _ _ _ _ (by omega)]; refine (extract_high _ _ _ _ (by omega)).trans ?_; refine (extract_high _ _ _ _ (by omega)).trans ?_; refine (extract_high _ _ _ _ (by omega)).trans ?_; refine (extract_high _ _ _ _ (by omega)).trans ?_; refine (extract_high _ _ _ _ (by omega)).trans ?_; refine (extract_high _ _ _ _ (by omega)).trans ?_; exact extract_all _
  have e9 : decGuard .b (encSend i op x) = .ok x.g := by unfold encSend; rw [decGuard_encCommon]
  unfold decSend
  simp only [e1, e6, e9, ka, kb, kc, kd, bind, Except.bind, decKind_enc (srcWb_kindWf hd), decKind_enc (srcWb_kindWf ha),
    decKind_enc (srcWb_kindWf hb), decKind_enc (srcWb_kindWf hc)]
  split at he
  · simp only [encSendE, decKind_enc (srcWb_kindWf he)]
  · have : x.e = .nil := by simpa using he
    simp only [← this]

/-! ### The opcode map read both ways -/

theorem row_a {i : Instr} {cls : SlotCls} {op : Nat} {x : OpA} (h : slotForm i = some (cls, op, .a x)) :
    (op ≠ 0 ∧ op < 0x7C) ∧ opForm cls op = some (.a dflA) ∧ ofForm cls op (.a x) = some i ∧
      ∃ i0, ofForm cls op (.a dflA) = some i0 ∧ aSpec i0 = aSpec i := by
  cases i <;> simp only [slotForm, Option.some.injEq, Prod.mk.injEq, Form.a.injEq, reduceCtorEq, and_false] at h <;>
    (try exact absurd h (by decide)) <;> (obtain ⟨rfl, rfl, rfl⟩ := h) <;>
    exact ⟨by decide, rfl, rfl, _, rfl, rfl⟩

theorem row_i {i : Instr} {cls : SlotCls} {op : Nat} {x : OpI} (h : slotForm i = some (cls, op, .i x)) :
    (op ≠ 0 ∧ op < 0x7C) ∧ opForm cls op = some (.i dflI) ∧ ofForm cls op (.i x) = some i ∧
      ∃ i0, ofForm cls op (.i dflI) = some i0 ∧ iSpec i0 = iSpec i ∧ cls ≠ .t := by
  cases i <;> simp only [slotForm, Option.some.injEq, Prod.mk.injEq, Form.i.injEq, reduceCtorEq, and_false] at h <;>
    (try exact absurd h (by decide)) <;> (obtain ⟨rfl, rfl, rfl⟩ := h) <;>
    exact ⟨by decide, rfl, rfl, _, rfl, rfl, by decide⟩

theorem row_m {i : Instr} {cls : SlotCls} {op : Nat} {x : OpM} (h : slotForm i = some (cls, op, .m x)) :
    (op ≠ 0 ∧ op < 0x7C) ∧ opForm cls op = some (.m dflM) ∧ ofForm cls op (.m x) = some i ∧
      ∃ i0, ofForm cls op (.m dflM) = some i0 ∧ mSpec i0 = mSpec i ∧ ((mSpec i).vBoth = true → (mSpec i).vDst = false) ∧ ((mSpec i).szLine = true → (mSpec i).szs = []) ∧
      ((mSpec i).v ≠ [] ∨ (mSpec i).vDst = false) := by
  cases i <;> simp only [slotForm, Option.some.injEq, Prod.mk.injEq, Form.m.injEq, reduceCtorEq, and_false] at h <;>
    (try exact absurd h (by decide)) <;> (obtain ⟨rfl, rfl, rfl⟩ := h) <;>
    exact ⟨by decide, rfl, rfl, _, rfl, rfl, by simp [mSpec], by simp [mSpec], by simp [mSpec, dstS, dstV, srcS, srcST, srcW, srcVT, srcVC, srcV]⟩

theorem row_l {i : Instr} {cls : SlotCls} {op : Nat} {x : OpL} (h : slotForm i = some (cls, op, .l x)) :
    (op ≠ 0 ∧ op < 0x7C) ∧ opForm cls op = some (.l dflL) ∧ ofForm cls op (.l x) = some i ∧
      ∃ i0, ofForm cls op (.l dflL) = some i0 ∧ lSpec i0 = lSpec i ∧ (∀ a b c, (lSpec i a b c).v ≠ [] ∨ (lSpec i a b c).vDst = false) ∧
      (cls = .m ∨ cls = .t) := by
  cases i <;> simp only [slotForm, Option.some.injEq, Prod.mk.injEq, Form.l.injEq, reduceCtorEq, and_false] at h <;>
    (try exact absurd h (by decide)) <;> (obtain ⟨rfl, rfl, rfl⟩ := h) <;>
    refine ⟨by decide, rfl, rfl, _, rfl, rfl, ?_, by decide⟩ <;> intro a b c <;> simp only [lSpec] <;> (try split) <;> simp [srcST, dstS, dstV, srcVT, srcVC, dstH, srcH]

theorem row_c {i : Instr} {cls : SlotCls} {op : Nat} {x : OpC} (h : slotForm i = some (cls, op, .c x)) :
    (op ≠ 0 ∧ op < 0x7C) ∧ opForm cls op = some (.c dflC) ∧ ofForm cls op (.c x) = some i ∧
      ∃ i0, ofForm cls op (.c dflC) = some i0 ∧ cSpec i0 = cSpec i ∧ cls = .c := by
  cases i <;> simp only [slotForm, Option.some.injEq, Prod.mk.injEq, Form.c.injEq, reduceCtorEq, and_false] at h <;>
    (try exact absurd h (by decide)) <;> (obtain ⟨rfl, rfl, rfl⟩ := h) <;>
    exact ⟨by decide, rfl, rfl, _, rfl, rfl, rfl⟩

theorem row_mma {i : Instr} {cls : SlotCls} {op : Nat} {x : OpMma} (h : slotForm i = some (cls, op, .mma x)) :
    (op ≠ 0 ∧ op < 0x7C) ∧ opForm cls op = some (.mma dflMma) ∧ ofForm cls op (.mma x) = some i ∧
      ∃ i0, ofForm cls op (.mma dflMma) = some i0 ∧ cls = .t ∧ ∀ w, decMma i0 w = decMma i w := by
  cases i <;> simp only [slotForm, Option.some.injEq, Prod.mk.injEq, Form.mma.injEq, reduceCtorEq, and_false] at h <;>
    (try exact absurd h (by decide)) <;> (obtain ⟨rfl, rfl, rfl⟩ := h) <;>
    exact ⟨by decide, rfl, rfl, _, rfl, rfl, fun _ => rfl⟩

theorem row_cpy {i : Instr} {cls : SlotCls} {op : Nat} {x : OpCpy} (h : slotForm i = some (cls, op, .cpy x)) :
    (op ≠ 0 ∧ op < 0x7C) ∧ opForm cls op = some (.cpy dflCpy) ∧ ofForm cls op (.cpy x) = some i ∧
      ∃ i0, ofForm cls op (.cpy dflCpy) = some i0 ∧ cls = .t := by
  cases i <;> simp only [slotForm, Option.some.injEq, Prod.mk.injEq, Form.cpy.injEq, reduceCtorEq, and_false] at h <;>
    (try exact absurd h (by decide)) <;> (obtain ⟨rfl, rfl, rfl⟩ := h) <;>
    exact ⟨by decide, rfl, rfl, _, rfl, rfl⟩

theorem row_chase {i : Instr} {cls : SlotCls} {op : Nat} {x : OpChase} (h : slotForm i = some (cls, op, .chase x)) :
    (op ≠ 0 ∧ op < 0x7C) ∧ opForm cls op = some (.chase dflChase) ∧ ofForm cls op (.chase x) = some i ∧
      ∃ i0, ofForm cls op (.chase dflChase) = some i0 ∧ cls = .t := by
  cases i <;> simp only [slotForm, Option.some.injEq, Prod.mk.injEq, Form.chase.injEq, reduceCtorEq, and_false] at h <;>
    (try exact absurd h (by decide)) <;> (obtain ⟨rfl, rfl, rfl⟩ := h) <;>
    exact ⟨by decide, rfl, rfl, _, rfl, rfl⟩

theorem row_gath {i : Instr} {cls : SlotCls} {op : Nat} {x : OpGath} (h : slotForm i = some (cls, op, .gath x)) :
    (op ≠ 0 ∧ op < 0x7C) ∧ opForm cls op = some (.gath dflGath) ∧ ofForm cls op (.gath x) = some i ∧
      ∃ i0, ofForm cls op (.gath dflGath) = some i0 ∧ cls = .t := by
  cases i <;> simp only [slotForm, Option.some.injEq, Prod.mk.injEq, Form.gath.injEq, reduceCtorEq, and_false] at h <;>
    (try exact absurd h (by decide)) <;> (obtain ⟨rfl, rfl, rfl⟩ := h) <;>
    exact ⟨by decide, rfl, rfl, _, rfl, rfl⟩

theorem row_send {i : Instr} {cls : SlotCls} {op : Nat} {x : OpSend} (h : slotForm i = some (cls, op, .send x)) :
    (op ≠ 0 ∧ op < 0x7C) ∧ opForm cls op = some (.send dflSend) ∧ ofForm cls op (.send x) = some i ∧
      ∃ i0, ofForm cls op (.send dflSend) = some i0 ∧ cls = .t ∧ ∀ w, decSend i0 w = decSend i w := by
  cases i <;> simp only [slotForm, Option.some.injEq, Prod.mk.injEq, Form.send.injEq, reduceCtorEq, and_false] at h <;>
    (try exact absurd h (by decide)) <;> (obtain ⟨rfl, rfl, rfl⟩ := h) <;>
    exact ⟨by decide, rfl, rfl, _, rfl, rfl, fun _ => rfl⟩

theorem slotCls_slotOf (cls : SlotCls) (cl : Cluster) : slotCls (Fin.ofNat 8 (slotOf cls cl)).val = cls := by cases cls <;> cases cl <;> rfl
theorem slotCluster_slotOf {cls : SlotCls} {cl : Cluster} (h1 : cls = .c → cl = .a) (h2 : cls = .t → cl = .b) :
    slotCluster (Fin.ofNat 8 (slotOf cls cl)).val = cl := by
  cases cls <;> cases cl <;> first | rfl | exact absurd (h1 rfl) (by decide) | exact absurd (h2 rfl) (by decide)

theorem fOp_of (op : Nat) (h : op < 0x7C) : (BitVec.ofNat 7 op).toNat = op := by simp; omega

theorem decodeSlot_a {n : Fin 8} {w : Word} {cls : SlotCls} {op : Nat} {i0 : Instr} (hc : slotCls n.val = cls)
    (hop : (fOp w).toNat = op) (h0 : op ≠ 0 ∧ op < 0x7C) (hf : opForm cls op = some (.a dflA))
    (hi : ofForm cls op (.a dflA) = some i0) :
    decodeSlot n w = (do fromForm cls op (.a (← decA i0 (slotCluster n.val) w))) := by
  unfold decodeSlot
  simp only [hc, hop, hf, hi]
  rw [if_neg h0.1, if_neg (by omega)]

theorem decodeSlot_i {n : Fin 8} {w : Word} {cls : SlotCls} {op : Nat} {i0 : Instr} (hc : slotCls n.val = cls)
    (hop : (fOp w).toNat = op) (h0 : op ≠ 0 ∧ op < 0x7C) (hf : opForm cls op = some (.i dflI))
    (hi : ofForm cls op (.i dflI) = some i0) :
    decodeSlot n w = (do fromForm cls op (.i (← decI i0 (slotCluster n.val) w))) := by
  unfold decodeSlot
  simp only [hc, hop, hf, hi]
  rw [if_neg h0.1, if_neg (by omega)]

theorem decodeSlot_m {n : Fin 8} {w : Word} {cls : SlotCls} {op : Nat} {i0 : Instr} (hc : slotCls n.val = cls)
    (hop : (fOp w).toNat = op) (h0 : op ≠ 0 ∧ op < 0x7C) (hf : opForm cls op = some (.m dflM))
    (hi : ofForm cls op (.m dflM) = some i0) :
    decodeSlot n w = (do fromForm cls op (.m (← decM i0 (slotCluster n.val) w))) := by
  unfold decodeSlot
  simp only [hc, hop, hf, hi]
  rw [if_neg h0.1, if_neg (by omega)]

theorem decodeSlot_l {n : Fin 8} {w : Word} {cls : SlotCls} {op : Nat} {i0 : Instr} (hc : slotCls n.val = cls)
    (hop : (fOp w).toNat = op) (h0 : op ≠ 0 ∧ op < 0x7C) (hf : opForm cls op = some (.l dflL))
    (hi : ofForm cls op (.l dflL) = some i0) :
    decodeSlot n w = (do fromForm cls op (.l (← decL i0 (slotCluster n.val) w))) := by
  unfold decodeSlot
  simp only [hc, hop, hf, hi]
  rw [if_neg h0.1, if_neg (by omega)]

theorem decodeSlot_c {n : Fin 8} {w : Word} {cls : SlotCls} {op : Nat} {i0 : Instr} (hc : slotCls n.val = cls)
    (hop : (fOp w).toNat = op) (h0 : op ≠ 0 ∧ op < 0x7C) (hf : opForm cls op = some (.c dflC))
    (hi : ofForm cls op (.c dflC) = some i0) :
    decodeSlot n w = (do fromForm cls op (.c (← decC i0 w))) := by
  unfold decodeSlot
  simp only [hc, hop, hf, hi]
  rw [if_neg h0.1, if_neg (by omega)]

theorem decodeSlot_mma {n : Fin 8} {w : Word} {cls : SlotCls} {op : Nat} {i0 : Instr} (hc : slotCls n.val = cls)
    (hop : (fOp w).toNat = op) (h0 : op ≠ 0 ∧ op < 0x7C) (hf : opForm cls op = some (.mma dflMma))
    (hi : ofForm cls op (.mma dflMma) = some i0) :
    decodeSlot n w = (do fromForm cls op (.mma (← decMma i0 w))) := by
  unfold decodeSlot
  simp only [hc, hop, hf, hi]
  rw [if_neg h0.1, if_neg (by omega)]

theorem decodeSlot_cpy {n : Fin 8} {w : Word} {cls : SlotCls} {op : Nat} {i0 : Instr} (hc : slotCls n.val = cls)
    (hop : (fOp w).toNat = op) (h0 : op ≠ 0 ∧ op < 0x7C) (hf : opForm cls op = some (.cpy dflCpy))
    (hi : ofForm cls op (.cpy dflCpy) = some i0) :
    decodeSlot n w = (do fromForm cls op (.cpy (← decCpy w))) := by
  unfold decodeSlot
  simp only [hc, hop, hf, hi]
  rw [if_neg h0.1, if_neg (by omega)]

theorem decodeSlot_chase {n : Fin 8} {w : Word} {cls : SlotCls} {op : Nat} {i0 : Instr} (hc : slotCls n.val = cls)
    (hop : (fOp w).toNat = op) (h0 : op ≠ 0 ∧ op < 0x7C) (hf : opForm cls op = some (.chase dflChase))
    (hi : ofForm cls op (.chase dflChase) = some i0) :
    decodeSlot n w = (do fromForm cls op (.chase (← decChase w))) := by
  unfold decodeSlot
  simp only [hc, hop, hf, hi]
  rw [if_neg h0.1, if_neg (by omega)]

theorem decodeSlot_gath {n : Fin 8} {w : Word} {cls : SlotCls} {op : Nat} {i0 : Instr} (hc : slotCls n.val = cls)
    (hop : (fOp w).toNat = op) (h0 : op ≠ 0 ∧ op < 0x7C) (hf : opForm cls op = some (.gath dflGath))
    (hi : ofForm cls op (.gath dflGath) = some i0) :
    decodeSlot n w = (do fromForm cls op (.gath (← decGath w))) := by
  unfold decodeSlot
  simp only [hc, hop, hf, hi]
  rw [if_neg h0.1, if_neg (by omega)]

theorem decodeSlot_send {n : Fin 8} {w : Word} {cls : SlotCls} {op : Nat} {i0 : Instr} (hc : slotCls n.val = cls)
    (hop : (fOp w).toNat = op) (h0 : op ≠ 0 ∧ op < 0x7C) (hf : opForm cls op = some (.send dflSend))
    (hi : ofForm cls op (.send dflSend) = some i0) :
    decodeSlot n w = (do fromForm cls op (.send (← decSend i0 w))) := by
  unfold decodeSlot
  simp only [hc, hop, hf, hi]
  rw [if_neg h0.1, if_neg (by omega)]
theorem fOp_encA (i : Instr) {op : Nat} (x : OpA) (h : op < 0x7C) : (fOp (encA i op x)).toNat = op := by
  unfold encA; rw [fOp_encCommon, fOp_of op h]
theorem fOp_encI (i : Instr) {op : Nat} (x : OpI) (h : op < 0x7C) : (fOp (encI i op x)).toNat = op := by
  unfold encI; rw [fOp_encCommon, fOp_of op h]
theorem fOp_encM (i : Instr) {op : Nat} (x : OpM) (h : op < 0x7C) : (fOp (encM i op x)).toNat = op := by
  unfold encM; rw [fOp_encCommon, fOp_of op h]
theorem fOp_encL (i : Instr) {op : Nat} (x : OpL) (h : op < 0x7C) : (fOp (encL i op x)).toNat = op := by
  unfold encL; rw [fOp_encCommon, fOp_of op h]
theorem fOp_encC (i : Instr) {op : Nat} (x : OpC) (h : op < 0x7C) : (fOp (encC i op x)).toNat = op := by
  unfold encC; rw [fOp_encCommon, fOp_of op h]
theorem fOp_encMma {op : Nat} (x : OpMma) (h : op < 0x7C) : (fOp (encMma op x)).toNat = op := by
  unfold encMma; rw [fOp_encCommon, fOp_of op h]
theorem fOp_encCpy {op : Nat} (x : OpCpy) (h : op < 0x7C) : (fOp (encCpy op x)).toNat = op := by
  unfold encCpy; rw [fOp_encCommon, fOp_of op h]
theorem fOp_encChase {op : Nat} (x : OpChase) (h : op < 0x7C) : (fOp (encChase op x)).toNat = op := by
  unfold encChase; rw [fOp_encCommon, fOp_of op h]
theorem fOp_encGath {op : Nat} (x : OpGath) (h : op < 0x7C) : (fOp (encGath op x)).toNat = op := by
  unfold encGath; rw [fOp_encCommon, fOp_of op h]
theorem fOp_encSend (i : Instr) {op : Nat} (x : OpSend) (h : op < 0x7C) : (fOp (encSend i op x)).toNat = op := by
  unfold encSend; rw [fOp_encCommon, fOp_of op h]

end Sys2Proof
end

