-- ==== Sys2Proof/Laws/Exec.lean ====
section
/-!
SUPPORT. Laws/Exec.lean: each instruction runs its own meaning.
-/
namespace Sys2Proof.Machine

@[simp] theorem exec_bundleIssue {lin b} {s} : exec (.bundleIssue lin b) s = execBundleIssue lin b s := rfl
@[simp] theorem exec_quiescentCompletion {lin} {s} : exec (.quiescentCompletion lin) s = execQuiescentCompletion lin s := rfl
@[simp] theorem exec_resultVisible {lin} {s} : exec (.resultVisible lin) s = execResultVisible lin s := rfl
@[simp] theorem exec_currentWindowBoundary {lin} {s} : exec (.currentWindowBoundary lin) s = execCurrentWindowBoundary lin s := rfl
@[simp] theorem exec_rampWindowBoundary {lin} {s} : exec (.rampWindowBoundary lin) s = execRampWindowBoundary lin s := rfl
@[simp] theorem exec_dummyMma {lin} {s} : exec (.dummyMma lin) s = execDummyMma lin s := rfl
@[simp] theorem exec_nop {slot} {s} : exec (.nop slot) s = execNop slot s := rfl
@[simp] theorem exec_prefetchHint {x} {s} : exec (.prefetchHint x) s = execPrefetchHint x s := rfl
@[simp] theorem exec_branchHint {x} {s} : exec (.branchHint x) s = execBranchHint x s := rfl
@[simp] theorem exec_br {x} {s} : exec (.br x) s = execBr x s := rfl
@[simp] theorem exec_bri {x} {s} : exec (.bri x) s = execBri x s := rfl
@[simp] theorem exec_call {x} {s} : exec (.call x) s = execCall x s := rfl
@[simp] theorem exec_calli {x} {s} : exec (.calli x) s = execCalli x s := rfl
@[simp] theorem exec_ret {x} {s} : exec (.ret x) s = execRet x s := rfl
@[simp] theorem exec_loop {x} {s} : exec (.loop x) s = execLoop x s := rfl
@[simp] theorem exec_lbrk {x} {s} : exec (.lbrk x) s = execLbrk x s := rfl
@[simp] theorem exec_ldrain {x} {s} : exec (.ldrain x) s = execLdrain x s := rfl
@[simp] theorem exec_sysr {x} {s} : exec (.sysr x) s = execSysr x s := rfl
@[simp] theorem exec_sysw {x} {s} : exec (.sysw x) s = execSysw x s := rfl
@[simp] theorem exec_trap {x} {s} : exec (.trap x) s = execTrap x s := rfl
@[simp] theorem exec_tend {x} {s} : exec (.tend x) s = execTend x s := rfl
@[simp] theorem exec_yield {x} {s} : exec (.yield x) s = execYield x s := rfl
@[simp] theorem exec_tspawn {x} {s} : exec (.tspawn x) s = execTspawn x s := rfl
@[simp] theorem exec_fnew {x} {s} : exec (.fnew x) s = execFnew x s := rfl
@[simp] theorem exec_fset {x} {s} : exec (.fset x) s = execFset x s := rfl
@[simp] theorem exec_ffail {x} {s} : exec (.ffail x) s = execFfail x s := rfl
@[simp] theorem exec_fwait {x} {s} : exec (.fwait x) s = execFwait x s := rfl
@[simp] theorem exec_ftest {x} {s} : exec (.ftest x) s = execFtest x s := rfl
@[simp] theorem exec_ffree {x} {s} : exec (.ffree x) s = execFfree x s := rfl
@[simp] theorem exec_bara {x} {s} : exec (.bara x) s = execBara x s := rfl
@[simp] theorem exec_barw {x} {s} : exec (.barw x) s = execBarw x s := rfl
@[simp] theorem exec_barx {x} {s} : exec (.barx x) s = execBarx x s := rfl
@[simp] theorem exec_bari {x} {s} : exec (.bari x) s = execBari x s := rfl
@[simp] theorem exec_pbara {x} {s} : exec (.pbara x) s = execPbara x s := rfl
@[simp] theorem exec_pbarw {x} {s} : exec (.pbarw x) s = execPbarw x s := rfl
@[simp] theorem exec_qput {x} {s} : exec (.qput x) s = execQput x s := rfl
@[simp] theorem exec_qget {x} {s} : exec (.qget x) s = execQget x s := rfl
@[simp] theorem exec_qpeek {x} {s} : exec (.qpeek x) s = execQpeek x s := rfl
@[simp] theorem exec_qexpire {task} {s} : exec (.qexpire task) s = execQexpire task s := rfl
@[simp] theorem exec_add {x} {s} : exec (.add x) s = execAdd x s := rfl
@[simp] theorem exec_sub {x} {s} : exec (.sub x) s = execSub x s := rfl
@[simp] theorem exec_addi {x} {s} : exec (.addi x) s = execAddi x s := rfl
@[simp] theorem exec_mul {x} {s} : exec (.mul x) s = execMul x s := rfl
@[simp] theorem exec_mulh {x} {s} : exec (.mulh x) s = execMulh x s := rfl
@[simp] theorem exec_mulhn {x} {s} : exec (.mulhn x) s = execMulhn x s := rfl
@[simp] theorem exec_div {x} {s} : exec (.div x) s = execDiv x s := rfl
@[simp] theorem exec_divn {x} {s} : exec (.divn x) s = execDivn x s := rfl
@[simp] theorem exec_rem {x} {s} : exec (.rem x) s = execRem x s := rfl
@[simp] theorem exec_remn {x} {s} : exec (.remn x) s = execRemn x s := rfl
@[simp] theorem exec_and {x} {s} : exec (.and x) s = execAnd x s := rfl
@[simp] theorem exec_or {x} {s} : exec (.or x) s = execOr x s := rfl
@[simp] theorem exec_xor {x} {s} : exec (.xor x) s = execXor x s := rfl
@[simp] theorem exec_andn {x} {s} : exec (.andn x) s = execAndn x s := rfl
@[simp] theorem exec_orn {x} {s} : exec (.orn x) s = execOrn x s := rfl
@[simp] theorem exec_shl {x} {s} : exec (.shl x) s = execShl x s := rfl
@[simp] theorem exec_shr {x} {s} : exec (.shr x) s = execShr x s := rfl
@[simp] theorem exec_sar {x} {s} : exec (.sar x) s = execSar x s := rfl
@[simp] theorem exec_rol {x} {s} : exec (.rol x) s = execRol x s := rfl
@[simp] theorem exec_clz {x} {s} : exec (.clz x) s = execClz x s := rfl
@[simp] theorem exec_ctz {x} {s} : exec (.ctz x) s = execCtz x s := rfl
@[simp] theorem exec_popc {x} {s} : exec (.popc x) s = execPopc x s := rfl
@[simp] theorem exec_min {x} {s} : exec (.min x) s = execMin x s := rfl
@[simp] theorem exec_max {x} {s} : exec (.max x) s = execMax x s := rfl
@[simp] theorem exec_minn {x} {s} : exec (.minn x) s = execMinn x s := rfl
@[simp] theorem exec_maxn {x} {s} : exec (.maxn x) s = execMaxn x s := rfl
@[simp] theorem exec_abs {x} {s} : exec (.abs x) s = execAbs x s := rfl
@[simp] theorem exec_bfx {x} {s} : exec (.bfx x) s = execBfx x s := rfl
@[simp] theorem exec_bfi {x} {s} : exec (.bfi x) s = execBfi x s := rfl
@[simp] theorem exec_sext {x} {s} : exec (.sext x) s = execSext x s := rfl
@[simp] theorem exec_lea {x} {s} : exec (.lea x) s = execLea x s := rfl
@[simp] theorem exec_movi {x} {s} : exec (.movi x) s = execMovi x s := rfl
@[simp] theorem exec_movh {x} {s} : exec (.movh x) s = execMovh x s := rfl
@[simp] theorem exec_sel {x} {s} : exec (.sel x) s = execSel x s := rfl
@[simp] theorem exec_cmp {x} {s} : exec (.cmp x) s = execCmp x s := rfl
@[simp] theorem exec_cmpi {x} {s} : exec (.cmpi x) s = execCmpi x s := rfl
@[simp] theorem exec_plog {x} {s} : exec (.plog x) s = execPlog x s := rfl
@[simp] theorem exec_xcl {x} {s} : exec (.xcl x) s = execXcl x s := rfl
@[simp] theorem exec_xcp {x} {s} : exec (.xcp x) s = execXcp x s := rfl
@[simp] theorem exec_mad {x} {s} : exec (.mad x) s = execMad x s := rfl
@[simp] theorem exec_fadd {x} {s} : exec (.fadd x) s = execFadd x s := rfl
@[simp] theorem exec_fsub {x} {s} : exec (.fsub x) s = execFsub x s := rfl
@[simp] theorem exec_fmul {x} {s} : exec (.fmul x) s = execFmul x s := rfl
@[simp] theorem exec_fma {x} {s} : exec (.fma x) s = execFma x s := rfl
@[simp] theorem exec_fdiv {x} {s} : exec (.fdiv x) s = execFdiv x s := rfl
@[simp] theorem exec_fsqrt {x} {s} : exec (.fsqrt x) s = execFsqrt x s := rfl
@[simp] theorem exec_fmin {x} {s} : exec (.fmin x) s = execFmin x s := rfl
@[simp] theorem exec_fmax {x} {s} : exec (.fmax x) s = execFmax x s := rfl
@[simp] theorem exec_fcmp {x} {s} : exec (.fcmp x) s = execFcmp x s := rfl
@[simp] theorem exec_fcvt {x} {s} : exec (.fcvt x) s = execFcvt x s := rfl
@[simp] theorem exec_fclass {x} {s} : exec (.fclass x) s = execFclass x s := rfl
@[simp] theorem exec_fsgn {x} {s} : exec (.fsgn x) s = execFsgn x s := rfl
@[simp] theorem exec_ld {x} {s} : exec (.ld x) s = execLd x s := rfl
@[simp] theorem exec_st {x} {s} : exec (.st x) s = execSt x s := rfl
@[simp] theorem exec_ldv {x} {s} : exec (.ldv x) s = execLdv x s := rfl
@[simp] theorem exec_stv {x} {s} : exec (.stv x) s = execStv x s := rfl
@[simp] theorem exec_ldt {x} {s} : exec (.ldt x) s = execLdt x s := rfl
@[simp] theorem exec_stt {x} {s} : exec (.stt x) s = execStt x s := rfl
@[simp] theorem exec_pref {x} {s} : exec (.pref x) s = execPref x s := rfl
@[simp] theorem exec_ntst {x} {s} : exec (.ntst x) s = execNtst x s := rfl
@[simp] theorem exec_ntstv {x} {s} : exec (.ntstv x) s = execNtstv x s := rfl
@[simp] theorem exec_amo {x} {s} : exec (.amo x) s = execAmo x s := rfl
@[simp] theorem exec_amon {x} {s} : exec (.amon x) s = execAmon x s := rfl
@[simp] theorem exec_acas {x} {s} : exec (.acas x) s = execAcas x s := rfl
@[simp] theorem exec_mark {x} {s} : exec (.mark x) s = execMark x s := rfl
@[simp] theorem exec_fence {x} {s} : exec (.fence x) s = execFence x s := rfl
@[simp] theorem exec_ntdrain {x} {s} : exec (.ntdrain x) s = execNtdrain x s := rfl
@[simp] theorem exec_lsld {x} {s} : exec (.lsld x) s = execLsld x s := rfl
@[simp] theorem exec_lsst {x} {s} : exec (.lsst x) s = execLsst x s := rfl
@[simp] theorem exec_lsldv {x} {s} : exec (.lsldv x) s = execLsldv x s := rfl
@[simp] theorem exec_lsstv {x} {s} : exec (.lsstv x) s = execLsstv x s := rfl
@[simp] theorem exec_migr {x} {s} : exec (.migr x) s = execMigr x s := rfl
@[simp] theorem exec_pgstat {x} {s} : exec (.pgstat x) s = execPgstat x s := rfl
@[simp] theorem exec_logapply {x} {s} : exec (.logapply x) s = execLogapply x s := rfl
@[simp] theorem exec_asdecl {x} {s} : exec (.asdecl x) s = execAsdecl x s := rfl
@[simp] theorem exec_asdrop {x} {s} : exec (.asdrop x) s = execAsdrop x s := rfl
@[simp] theorem exec_vadd {x} {s} : exec (.vadd x) s = execVadd x s := rfl
@[simp] theorem exec_vsub {x} {s} : exec (.vsub x) s = execVsub x s := rfl
@[simp] theorem exec_vmul {x} {s} : exec (.vmul x) s = execVmul x s := rfl
@[simp] theorem exec_vfma {x} {s} : exec (.vfma x) s = execVfma x s := rfl
@[simp] theorem exec_vfms {x} {s} : exec (.vfms x) s = execVfms x s := rfl
@[simp] theorem exec_vmin {x} {s} : exec (.vmin x) s = execVmin x s := rfl
@[simp] theorem exec_vmax {x} {s} : exec (.vmax x) s = execVmax x s := rfl
@[simp] theorem exec_vabs {x} {s} : exec (.vabs x) s = execVabs x s := rfl
@[simp] theorem exec_vneg {x} {s} : exec (.vneg x) s = execVneg x s := rfl
@[simp] theorem exec_vand {x} {s} : exec (.vand x) s = execVand x s := rfl
@[simp] theorem exec_vor {x} {s} : exec (.vor x) s = execVor x s := rfl
@[simp] theorem exec_vxor {x} {s} : exec (.vxor x) s = execVxor x s := rfl
@[simp] theorem exec_vandn {x} {s} : exec (.vandn x) s = execVandn x s := rfl
@[simp] theorem exec_vshl {x} {s} : exec (.vshl x) s = execVshl x s := rfl
@[simp] theorem exec_vshr {x} {s} : exec (.vshr x) s = execVshr x s := rfl
@[simp] theorem exec_vsar {x} {s} : exec (.vsar x) s = execVsar x s := rfl
@[simp] theorem exec_vcmp {x} {s} : exec (.vcmp x) s = execVcmp x s := rfl
@[simp] theorem exec_vsel {x} {s} : exec (.vsel x) s = execVsel x s := rfl
@[simp] theorem exec_vmov {x} {s} : exec (.vmov x) s = execVmov x s := rfl
@[simp] theorem exec_vsplat {x} {s} : exec (.vsplat x) s = execVsplat x s := rfl
@[simp] theorem exec_vins {x} {s} : exec (.vins x) s = execVins x s := rfl
@[simp] theorem exec_vext {x} {s} : exec (.vext x) s = execVext x s := rfl
@[simp] theorem exec_vclamp {x} {s} : exec (.vclamp x) s = execVclamp x s := rfl
@[simp] theorem exec_vmad {x} {s} : exec (.vmad x) s = execVmad x s := rfl
@[simp] theorem exec_vdot4 {x} {s} : exec (.vdot4 x) s = execVdot4 x s := rfl
@[simp] theorem exec_vpopc {x} {s} : exec (.vpopc x) s = execVpopc x s := rfl
@[simp] theorem exec_vrotr {x} {s} : exec (.vrotr x) s = execVrotr x s := rfl
@[simp] theorem exec_vrotc {x} {s} : exec (.vrotc x) s = execVrotc x s := rfl
@[simp] theorem exec_vbcr {x} {s} : exec (.vbcr x) s = execVbcr x s := rfl
@[simp] theorem exec_vbcc {x} {s} : exec (.vbcc x) s = execVbcc x s := rfl
@[simp] theorem exec_vredr {x} {s} : exec (.vredr x) s = execVredr x s := rfl
@[simp] theorem exec_vredc {x} {s} : exec (.vredc x) s = execVredc x s := rfl
@[simp] theorem exec_vtrn {x} {s} : exec (.vtrn x) s = execVtrn x s := rfl
@[simp] theorem exec_vcvt {x} {s} : exec (.vcvt x) s = execVcvt x s := rfl
@[simp] theorem exec_vrcp {x} {s} : exec (.vrcp x) s = execVrcp x s := rfl
@[simp] theorem exec_vrsq {x} {s} : exec (.vrsq x) s = execVrsq x s := rfl
@[simp] theorem exec_vsqrt {x} {s} : exec (.vsqrt x) s = execVsqrt x s := rfl
@[simp] theorem exec_vexp2 {x} {s} : exec (.vexp2 x) s = execVexp2 x s := rfl
@[simp] theorem exec_vlog2 {x} {s} : exec (.vlog2 x) s = execVlog2 x s := rfl
@[simp] theorem exec_vtanh {x} {s} : exec (.vtanh x) s = execVtanh x s := rfl
@[simp] theorem exec_slld {x} {s} : exec (.slld x) s = execSlld x s := rfl
@[simp] theorem exec_mma {x} {s} : exec (.mma x) s = execMma x s := rfl
@[simp] theorem exec_mmaz {x} {s} : exec (.mmaz x) s = execMmaz x s := rfl
@[simp] theorem exec_hld {x} {s} : exec (.hld x) s = execHld x s := rfl
@[simp] theorem exec_hst {x} {s} : exec (.hst x) s = execHst x s := rfl
@[simp] theorem exec_hxor {x} {s} : exec (.hxor x) s = execHxor x s := rfl
@[simp] theorem exec_hrot {x} {s} : exec (.hrot x) s = execHrot x s := rfl
@[simp] theorem exec_hlog {x} {s} : exec (.hlog x) s = execHlog x s := rfl
@[simp] theorem exec_hbund {x} {s} : exec (.hbund x) s = execHbund x s := rfl
@[simp] theorem exec_hmaj {x} {s} : exec (.hmaj x) s = execHmaj x s := rfl
@[simp] theorem exec_hcclr {x} {s} : exec (.hcclr x) s = execHcclr x s := rfl
@[simp] theorem exec_htie {x} {s} : exec (.htie x) s = execHtie x s := rfl
@[simp] theorem exec_hdist {x} {s} : exec (.hdist x) s = execHdist x s := rfl
@[simp] theorem exec_hnear {x} {s} : exec (.hnear x) s = execHnear x s := rfl
@[simp] theorem exec_hmovv {x} {s} : exec (.hmovv x) s = execHmovv x s := rfl
@[simp] theorem exec_cpy {x} {s} : exec (.cpy x) s = execCpy x s := rfl
@[simp] theorem exec_chase {x} {s} : exec (.chase x) s = execChase x s := rfl
@[simp] theorem exec_gath {x} {s} : exec (.gath x) s = execGath x s := rfl
@[simp] theorem exec_send {x} {s} : exec (.send x) s = execSend x s := rfl
@[simp] theorem exec_msend {x} {s} : exec (.msend x) s = execMsend x s := rfl
@[simp] theorem exec_wopen {x} {s} : exec (.wopen x) s = execWopen x s := rfl
@[simp] theorem exec_wclose {x} {s} : exec (.wclose x) s = execWclose x s := rfl
@[simp] theorem exec_lstat {x} {s} : exec (.lstat x) s = execLstat x s := rfl
@[simp] theorem exec_fdset {x} {s} : exec (.fdset x) s = execFdset x s := rfl
@[simp] theorem exec_fdget {x} {s} : exec (.fdget x) s = execFdget x s := rfl
@[simp] theorem exec_bfmt {x} {s} : exec (.bfmt x) s = execBfmt x s := rfl
@[simp] theorem exec_taskPick {tower} {s} : exec (.taskPick tower) s = execTaskPick tower s := rfl
@[simp] theorem exec_groupStart {tower slot} {s} : exec (.groupStart tower slot) s = execGroupStart tower slot s := rfl
@[simp] theorem exec_preemptArrival {lin} {s} : exec (.preemptArrival lin) s = execPreemptArrival lin s := rfl
@[simp] theorem exec_woundArrival {lin} {s} : exec (.woundArrival lin) s = execWoundArrival lin s := rfl
@[simp] theorem exec_walkerCreate {tower} {s} : exec (.walkerCreate tower) s = execWalkerCreate tower s := rfl
@[simp] theorem exec_launchAccept {slot} {s} : exec (.launchAccept slot) s = execLaunchAccept slot s := rfl
@[simp] theorem exec_launchComplete {slot} {s} : exec (.launchComplete slot) s = execLaunchComplete slot s := rfl
@[simp] theorem exec_launchAbortDrainComplete {slot} {s} : exec (.launchAbortDrainComplete slot) s = execLaunchAbortDrainComplete slot s := rfl
@[simp] theorem exec_handlerStart {slot} {s} : exec (.handlerStart slot) s = execHandlerStart slot s := rfl
@[simp] theorem exec_nopRecord {q} {s} : exec (.nopRecord q) s = execNopRecord q s := rfl
@[simp] theorem exec_launch {q} {s} : exec (.launch q) s = execLaunch q s := rfl
@[simp] theorem exec_glaunch {q} {s} : exec (.glaunch q) s = execGlaunch q s := rfl
@[simp] theorem exec_signal {q} {s} : exec (.signal q) s = execSignal q s := rfl
@[simp] theorem exec_waitf {q} {s} : exec (.waitf q) s = execWaitf q s := rfl
@[simp] theorem exec_migsched {q} {s} : exec (.migsched q) s = execMigsched q s := rfl
@[simp] theorem exec_slottabLoad {q} {s} : exec (.slottabLoad q) s = execSlottabLoad q s := rfl
@[simp] theorem exec_slottabSwitch {q} {s} : exec (.slottabSwitch q) s = execSlottabSwitch q s := rfl
@[simp] theorem exec_mcgroup {q} {s} : exec (.mcgroup q) s = execMcgroup q s := rfl
@[simp] theorem exec_reservedRecord {q} {s} : exec (.reservedRecord q) s = execReservedRecord q s := rfl
@[simp] theorem exec_ctxDrainComplete {c} {s} : exec (.ctxDrainComplete c) s = execCtxDrainComplete c s := rfl
@[simp] theorem exec_teardownComplete {c} {s} : exec (.teardownComplete c) s = execTeardownComplete c s := rfl
@[simp] theorem exec_map {c} {s} : exec (.map c) s = execMap c s := rfl
@[simp] theorem exec_unmap {c} {s} : exec (.unmap c) s = execUnmap c s := rfl
@[simp] theorem exec_chmod {c} {s} : exec (.chmod c) s = execChmod c s := rfl
@[simp] theorem exec_remap {c} {s} : exec (.remap c) s = execRemap c s := rfl
@[simp] theorem exec_pantry {tower frame} {s} : exec (.pantry tower frame) s = execPantry tower frame s := rfl
@[simp] theorem exec_translationComplete {lin seq} {s} : exec (.translationComplete lin seq) s = execTranslationComplete lin seq s := rfl
@[simp] theorem exec_transit {lin} {s} : exec (.transit lin) s = execTransit lin s := rfl
@[simp] theorem exec_migrationStart {page} {s} : exec (.migrationStart page) s = execMigrationStart page s := rfl
@[simp] theorem exec_migrationComplete {page} {s} : exec (.migrationComplete page) s = execMigrationComplete page s := rfl
@[simp] theorem exec_scheduleEntry {c index} {s} : exec (.scheduleEntry c index) s = execScheduleEntry c index s := rfl
@[simp] theorem exec_queuePerform {lin store} {s} : exec (.queuePerform lin store) s = execQueuePerform lin store s := rfl
@[simp] theorem exec_dirtyLineWriteback {lin} {s} : exec (.dirtyLineWriteback lin) s = execDirtyLineWriteback lin s := rfl
@[simp] theorem exec_logAppend {page} {s} : exec (.logAppend page) s = execLogAppend page s := rfl
@[simp] theorem exec_logApplyComplete {page} {s} : exec (.logApplyComplete page) s = execLogApplyComplete page s := rfl
@[simp] theorem exec_setRequest {lin seq} {s} : exec (.setRequest lin seq) s = execSetRequest lin seq s := rfl
@[simp] theorem exec_cpyComplete {id} {s} : exec (.cpyComplete id) s = execCpyComplete id s := rfl
@[simp] theorem exec_chaseComplete {id} {s} : exec (.chaseComplete id) s = execChaseComplete id s := rfl
@[simp] theorem exec_gathComplete {id} {s} : exec (.gathComplete id) s = execGathComplete id s := rfl
@[simp] theorem exec_sendSourceRead {id} {s} : exec (.sendSourceRead id) s = execSendSourceRead id s := rfl
@[simp] theorem exec_ackTimeout {plane residue slot} {s} : exec (.ackTimeout plane residue slot) s = execAckTimeout plane residue slot s := rfl
@[simp] theorem exec_flitWrite {plane residue} {s} : exec (.flitWrite plane residue) s = execFlitWrite plane residue s := rfl
@[simp] theorem exec_noticeApply {plane index} {s} : exec (.noticeApply plane index) s = execNoticeApply plane index s := rfl
@[simp] theorem exec_wavelengthCheck {line err} {s} : exec (.wavelengthCheck line err) s = execWavelengthCheck line err s := rfl
@[simp] theorem exec_repairReadyDeadline {id} {s} : exec (.repairReadyDeadline id) s = execRepairReadyDeadline id s := rfl
@[simp] theorem exec_repairSwitch {id} {s} : exec (.repairSwitch id) s = execRepairSwitch id s := rfl
@[simp] theorem exec_retuneRelock {line} {s} : exec (.retuneRelock line) s = execRetuneRelock line s := rfl
@[simp] theorem exec_retuneTimeout {line} {s} : exec (.retuneTimeout line) s = execRetuneTimeout line s := rfl
@[simp] theorem exec_lanternTakeoverComplete {plane} {s} : exec (.lanternTakeoverComplete plane) s = execLanternTakeoverComplete plane s := rfl
@[simp] theorem exec_autoparkIdle {plane band} {s} : exec (.autoparkIdle plane band) s = execAutoparkIdle plane band s := rfl
@[simp] theorem exec_parkSwitch {plane band} {s} : exec (.parkSwitch plane band) s = execParkSwitch plane band s := rfl
@[simp] theorem exec_wakeStart {plane} {s} : exec (.wakeStart plane) s = execWakeStart plane s := rfl
@[simp] theorem exec_wakeSwitch {plane band} {s} : exec (.wakeSwitch plane band) s = execWakeSwitch plane band s := rfl
@[simp] theorem exec_calibrationComplete {plane peer} {s} : exec (.calibrationComplete plane peer) s = execCalibrationComplete plane peer s := rfl
@[simp] theorem exec_calibrationTimeout {plane peer} {s} : exec (.calibrationTimeout plane peer) s = execCalibrationTimeout plane peer s := rfl
@[simp] theorem exec_slottabLoadReady {plane} {s} : exec (.slottabLoadReady plane) s = execSlottabLoadReady plane s := rfl
@[simp] theorem exec_tableSwitchTick {plane} {s} : exec (.tableSwitchTick plane) s = execTableSwitchTick plane s := rfl
@[simp] theorem exec_thermalSample {sensors} {s} : exec (.thermalSample sensors) s = execThermalSample sensors s := rfl
@[simp] theorem exec_ageRebase {s} : exec .ageRebase s = execAgeRebase s := rfl
@[simp] theorem exec_counterDecay {s} : exec .counterDecay s = execCounterDecay s := rfl
@[simp] theorem exec_powerTrim {s} : exec .powerTrim s = execPowerTrim s := rfl
@[simp] theorem exec_ticksyncSend {s} : exec .ticksyncSend s = execTicksyncSend s := rfl
@[simp] theorem exec_peg {s} : exec .peg s = execPeg s := rfl
@[simp] theorem exec_warmReset {s} : exec .warmReset s = execWarmReset s := rfl
@[simp] theorem exec_powerOnReset {s} : exec .powerOnReset s = execPowerOnReset s := rfl
@[simp] theorem exec_flitReceive {plane residue band pos f sym} {s} : exec (.flitReceive plane residue band pos f sym) s = execFlitReceive plane residue band pos f sym s := rfl
@[simp] theorem exec_idle {m} {s} : exec (.idle m) s = execIdle m s := rfl
@[simp] theorem exec_credit {m} {s} : exec (.credit m) s = execCredit m s := rfl
@[simp] theorem exec_ack {m} {s} : exec (.ack m) s = execAck m s := rfl
@[simp] theorem exec_notice {m} {s} : exec (.notice m) s = execNotice m s := rfl
@[simp] theorem exec_done {m} {s} : exec (.done m) s = execDone m s := rfl
@[simp] theorem exec_arrive {m} {s} : exec (.arrive m) s = execArrive m s := rfl
@[simp] theorem exec_ticksync {m} {s} : exec (.ticksync m) s = execTicksync m s := rfl
@[simp] theorem exec_prep {m} {s} : exec (.prep m) s = execPrep m s := rfl
@[simp] theorem exec_ready {m} {s} : exec (.ready m) s = execReady m s := rfl
@[simp] theorem exec_commit {m} {s} : exec (.commit m) s = execCommit m s := rfl
@[simp] theorem exec_abort {m} {s} : exec (.abort m) s = execAbort m s := rfl
@[simp] theorem exec_park {m} {s} : exec (.park m) s = execPark m s := rfl
@[simp] theorem exec_wake {m} {s} : exec (.wake m) s = execWake m s := rfl
@[simp] theorem exec_probe {m} {s} : exec (.probe m) s = execProbe m s := rfl
@[simp] theorem exec_mcfan {m} {s} : exec (.mcfan m) s = execMcfan m s := rfl
@[simp] theorem exec_reservedMessage {m} {s} : exec (.reservedMessage m) s = execReservedMessage m s := rfl
@[simp] theorem exec_thermalRetune {line} {s} : exec (.thermalRetune line) s = execThermalRetune line s := rfl
@[simp] theorem exec_lanternFault {plane} {s} : exec (.lanternFault plane) s = execLanternFault plane s := rfl
@[simp] theorem exec_memoryError {pa} {s} : exec (.memoryError pa) s = execMemoryError pa s := rfl
@[simp] theorem exec_atsInvalidation {host} {s} : exec (.atsInvalidation host) s = execAtsInvalidation host s := rfl
@[simp] theorem exec_queueAppend {q offset bytes} {s} : exec (.queueAppend q offset bytes) s = execQueueAppend q offset bytes s := rfl
@[simp] theorem exec_hostAccess {a} {s} : exec (.hostAccess a) s = execHostAccess a s := rfl
@[simp] theorem exec_registerWrite {off v} {s} : exec (.registerWrite off v) s = execRegisterWrite off v s := rfl
@[simp] theorem exec_managementRequest {bytes} {s} : exec (.managementRequest bytes) s = execManagementRequest bytes s := rfl
@[simp] theorem exec_pairRetirement {pair} {s} : exec (.pairRetirement pair) s = execPairRetirement pair s := rfl
@[simp] theorem exec_enable {q} {s} : exec (.enable q) s = execEnable q s := rfl
@[simp] theorem exec_drain {q} {s} : exec (.drain q) s = execDrain q s := rfl
@[simp] theorem exec_stop {q} {s} : exec (.stop q) s = execStop q s := rfl
@[simp] theorem exec_reset {q} {s} : exec (.reset q) s = execReset q s := rfl
@[simp] theorem exec_build {c} {s} : exec (.build c) s = execBuild c s := rfl
@[simp] theorem exec_activate {c} {s} : exec (.activate c) s = execActivate c s := rfl
@[simp] theorem exec_quiesce {c} {s} : exec (.quiesce c) s = execQuiesce c s := rfl
@[simp] theorem exec_resume {c} {s} : exec (.resume c) s = execResume c s := rfl
@[simp] theorem exec_destroy {c} {s} : exec (.destroy c) s = execDestroy c s := rfl
@[simp] theorem exec_hostfault {v} {s} : exec (.hostfault v) s = execHostfault v s := rfl
@[simp] theorem exec_futureAlloc {c} {s} : exec (.futureAlloc c) s = execFutureAlloc c s := rfl
@[simp] theorem exec_futureFree {v} {s} : exec (.futureFree v) s = execFutureFree v s := rfl
@[simp] theorem exec_futureSignal {v} {s} : exec (.futureSignal v) s = execFutureSignal v s := rfl
@[simp] theorem exec_barrierBind {pod index v} {s} : exec (.barrierBind pod index v) s = execBarrierBind pod index v s := rfl
@[simp] theorem exec_barrierUnbind {pod index} {s} : exec (.barrierUnbind pod index) s = execBarrierUnbind pod index s := rfl
@[simp] theorem exec_bringup {plane} {s} : exec (.bringup plane) s = execBringup plane s := rfl
@[simp] theorem exec_planeReset {plane} {s} : exec (.planeReset plane) s = execPlaneReset plane s := rfl
@[simp] theorem exec_snap {plane} {s} : exec (.snap plane) s = execSnap plane s := rfl
@[simp] theorem exec_restore {line} {s} : exec (.restore line) s = execRestore line s := rfl
@[simp] theorem exec_fabidWrite {v} {s} : exec (.fabidWrite v) s = execFabidWrite v s := rfl
@[simp] theorem exec_modeWrite {v} {s} : exec (.modeWrite v) s = execModeWrite v s := rfl

end Sys2Proof.Machine
end

