-- ==== Sys2Proof/Laws/Issue.lean ====
section
/-!
SUPPORT. Laws/Issue.lean: what a slot can do (R34, R48): nothing under a false guard, a fatal fault under a failing value check,
else its effect; what the issue of a result and the entry into the queues change.
-/
namespace Sys2Proof.Machine

theorem slotRunWith_guard_false (s : State) (i : Instr) (fl : FpFlags) (act : State → State)
    (h : s.core.guard (instrGuard i).1 (instrGuard i).2 = false) : s.slotRunWith i fl act = .next s := by
  simp [State.slotRunWith, h]

theorem slotRunWith_acts (s : State) (i : Instr) (fl : FpFlags) (act : State → State) (h : s.Guarded i)
    (hf : s.slotFault s.issuesQuiet fl i = none) : s.slotRunWith i fl act = .next (act s) := by
  unfold State.slotRunWith
  simp only [State.Guarded] at h
  simp only [h, if_true]
  split
  · rename_i f hfe
    exact absurd (hf.symm.trans hfe) (by simp)
  · rfl

theorem slotRun_acts {s : State} {i : Instr} (h : s.Acts i) (act : State → State) : s.slotRun i act = .next (act s) :=
  slotRunWith_acts s i {} act h.1 h.2

/-- A slot answers a next state whatever it meets. -/
theorem slotRunWith_next (s : State) (i : Instr) (fl : FpFlags) (act : State → State) : ∃ t, s.slotRunWith i fl act = .next t := by
  unfold State.slotRunWith
  simp only
  split
  · split <;> exact ⟨_, rfl⟩
  · exact ⟨_, rfl⟩

theorem slotRun_next (s : State) (i : Instr) (act : State → State) : ∃ t, s.slotRun i act = .next t := slotRunWith_next s i {} act

/-- The unit of a result is the only thing `occupy` changes. -/
theorem occupy_eq (s : State) (i : Instr) (slot : Nat) :
    s.occupy i slot = { s with core := { s.core with busy := (s.occupy i slot).core.busy } } := by
  unfold State.occupy
  split <;> rfl

/-- A result entering flight is the last of `pend`; but for the counter of results nothing else changes. -/
theorem flightOf_issued (s : State) (slot : Nat) (cl : Cluster) (lat : Nat × Nat) (chain : Bool) (dests : List Opnd) (ws : List RegWrite)
    (lw : LatchWrite) (fl : FpFlags) (cnt : FpCounts) :
    s.flightOf slot cl lat chain dests ws lw fl cnt =
      { s with seqNo := s.seqNo + 1, core := { s.core with pend := s.core.pend ++
        [{ seq := s.seqNo, baddr := s.core.bundle.1, bseq := s.core.bundle.2, slot := slot, ic := s.core.ic, cyc := s.cycle, lh := lat.2,
           lc := lat.1, ready := true, chain := chain, locked := false, dests := dests, cl := cl, writes := ws, latch := lw, fl := fl,
           cnt := cnt, enables := (FpEnv.ofFpcr s.core.fpcr).enables }] } } := rfl

/-- A result of an instruction's class is one more in flight. -/
theorem result_issued (s : State) (i : Instr) (cl : Cluster) (dests : List Opnd) (ws : List RegWrite) (lw : LatchWrite) (fl : FpFlags)
    (cnt : FpCounts) : Issued s (s.result i cl dests ws lw fl cnt)
      ⟨s.seqNo, s.core.bundle.1, s.core.bundle.2, instrSlot i, s.core.ic, s.cycle, (s.latencies ((latClass i).getD 0)).2,
        (s.latencies ((latClass i).getD 0)).1, true, chained i, false, dests, cl, ws, lw, fl, cnt,
        (FpEnv.ofFpcr s.core.fpcr).enables⟩ := by
  unfold Issued State.result
  rw [flightOf_issued, occupy_eq]
  rfl

/-- The same, told by the fields of the result. -/
theorem result_issuedBy (s : State) (i : Instr) (cl : Cluster) (dests : List Opnd) (ws : List RegWrite) (lw : LatchWrite) (fl : FpFlags)
    (cnt : FpCounts) : IssuedBy s (s.result i cl dests ws lw fl cnt) i (s.latOf i) dests ws lw fl cnt :=
  ⟨_, result_issued s i cl dests ws lw fl cnt, rfl, rfl, rfl, rfl, rfl, rfl, rfl, rfl, rfl, rfl, rfl, rfl, rfl⟩

/-- A slot that acts with one result of its class issues it. -/
theorem issuesResult_of {s : State} {i : Instr} (act : State → State) (he : exec i s = s.slotRun i act) (h : s.Acts i) (cl : Cluster)
    (dests : List Opnd) (ws : List RegWrite) (lw : LatchWrite) (fl : FpFlags) (cnt : FpCounts)
    (ha : act s = s.result i cl dests ws lw fl cnt) : IssuesResult s i dests ws lw fl cnt := by
  refine ⟨act s, by rw [he, slotRun_acts h], ⟨s.seqNo, s.core.bundle.1, s.core.bundle.2, instrSlot i, s.core.ic, s.cycle,
    (s.latencies ((latClass i).getD 0)).2, (s.latencies ((latClass i).getD 0)).1, true, chained i, false, dests, cl, ws, lw, fl, cnt,
    (FpEnv.ofFpcr s.core.fpcr).enables⟩, ?_, rfl, rfl, rfl, rfl, rfl, rfl, rfl, rfl, rfl, rfl, rfl, rfl, rfl⟩
  rw [ha]
  exact result_issued s i cl dests ws lw fl cnt

/-- The entry that enters the queues, and the awaited result with its number. -/
theorem enqueue_eq (s : State) (i : Instr) (inLoad inStore : Bool) (ea : Nat) (vals : List Word) (vec : VecReg) (desc : BitVec 32)
    (st : MqState) (awaits : Bool) (dests : List Opnd) :
    ∃ e ps, Entered s (s.enqueue i inLoad inStore ea vals vec desc st awaits dests) e ps ∧ e.seq = s.seqNo ∧ e.instr = i ∧
      e.slot = instrSlot i ∧ e.baddr = s.core.bundle.1 ∧ e.bseq = s.core.bundle.2 ∧ e.inLoad = inLoad ∧ e.inStore = inStore ∧
      e.ea = ea ∧ e.vals = vals ∧ e.vec = vec ∧ e.st = st ∧
      (ps = if awaits then
        [{ seq := s.seqNo, baddr := s.core.bundle.1, bseq := s.core.bundle.2, slot := instrSlot i, ic := s.core.ic, cyc := s.cycle, lh := 0,
           lc := 0, ready := false, chain := false, locked := true, dests := dests, cl := (instrGuard i).1, writes := [], latch := .none,
           fl := {}, cnt := {}, enables := (FpEnv.ofFpcr s.core.fpcr).enables }] else []) := by
  refine ⟨{ seq := s.seqNo, bseq := s.core.bundle.2, baddr := s.core.bundle.1, slot := instrSlot i, instr := i, inLoad := inLoad,
            inStore := inStore, ea := ea, vals := vals, vec := vec, fpcr := s.core.fpcr, desc := desc, tagD := 0, tagS := 0, scD := [],
            scS := [], st := st, xl := [], inSet := [] }, _, ?_, rfl, rfl, rfl, rfl, rfl, rfl, rfl, rfl, rfl, rfl, rfl, rfl⟩
  cases awaits
  · simp [Entered, State.enqueue, State.nextSeq, State.onCore]
  · simp [Entered, State.enqueue, State.nextSeq, State.onCore, State.awaitResult, Core.bundle]

end Sys2Proof.Machine
end

