-- ==== Sys2Proof/Laws/Slot.lean ====
section
/-!
SUPPORT. Laws/Slot.lean: outside a completion step every slot instruction runs under its guard and its value checks (R34, R48).
-/
namespace Sys2Proof.Machine

/-- At issue, an operation of a quiescent bundle is recorded under its guard and checks. -/
theorem quietOp_issue (s : State) (i : Instr) (vals : State → List Word) (perform : HeldOp → State → State)
    (hc : s.core.compl = none) : s.quietOp i vals perform = s.slotRun i fun s => s.recordOp i (vals s) := by
  unfold State.quietOp; rw [hc]

theorem slot_prefetchHint (x) (s : State) : s.core.compl = none →
    ∃ act, exec (.prefetchHint x) s = s.slotRunWith (.prefetchHint x) (s.issueFlags (.prefetchHint x)) act := by
  intro _; rw [exec_prefetchHint, execPrefetchHint]; exact ⟨_, rfl⟩
theorem slot_branchHint (x) (s : State) : s.core.compl = none →
    ∃ act, exec (.branchHint x) s = s.slotRunWith (.branchHint x) (s.issueFlags (.branchHint x)) act := by
  intro _; rw [exec_branchHint, execBranchHint]; exact ⟨_, rfl⟩
theorem slot_br (x) (s : State) : s.core.compl = none →
    ∃ act, exec (.br x) s = s.slotRunWith (.br x) (s.issueFlags (.br x)) act := by
  intro _; rw [exec_br, execBr]; exact ⟨_, rfl⟩
theorem slot_bri (x) (s : State) : s.core.compl = none →
    ∃ act, exec (.bri x) s = s.slotRunWith (.bri x) (s.issueFlags (.bri x)) act := by
  intro _; rw [exec_bri, execBri]; exact ⟨_, rfl⟩
theorem slot_call (x) (s : State) : s.core.compl = none →
    ∃ act, exec (.call x) s = s.slotRunWith (.call x) (s.issueFlags (.call x)) act := by
  intro _; rw [exec_call, execCall]; exact ⟨_, rfl⟩
theorem slot_calli (x) (s : State) : s.core.compl = none →
    ∃ act, exec (.calli x) s = s.slotRunWith (.calli x) (s.issueFlags (.calli x)) act := by
  intro _; rw [exec_calli, execCalli]; exact ⟨_, rfl⟩
theorem slot_ret (x) (s : State) : s.core.compl = none →
    ∃ act, exec (.ret x) s = s.slotRunWith (.ret x) (s.issueFlags (.ret x)) act := by
  intro _; rw [exec_ret, execRet]; exact ⟨_, rfl⟩
theorem slot_loop (x) (s : State) : s.core.compl = none →
    ∃ act, exec (.loop x) s = s.slotRunWith (.loop x) (s.issueFlags (.loop x)) act := by
  intro _; rw [exec_loop, execLoop]; exact ⟨_, rfl⟩
theorem slot_lbrk (x) (s : State) : s.core.compl = none →
    ∃ act, exec (.lbrk x) s = s.slotRunWith (.lbrk x) (s.issueFlags (.lbrk x)) act := by
  intro _; rw [exec_lbrk, execLbrk]; exact ⟨_, rfl⟩
theorem slot_ldrain (x) (s : State) : s.core.compl = none →
    ∃ act, exec (.ldrain x) s = s.slotRunWith (.ldrain x) (s.issueFlags (.ldrain x)) act := by
  intro _; rw [exec_ldrain, execLdrain]; exact ⟨_, rfl⟩
theorem slot_sysr (x) (s : State) : s.core.compl = none →
    ∃ act, exec (.sysr x) s = s.slotRunWith (.sysr x) (s.issueFlags (.sysr x)) act := by
  intro _; rw [exec_sysr, execSysr]; exact ⟨_, rfl⟩
theorem slot_sysw (x) (s : State) : s.core.compl = none →
    ∃ act, exec (.sysw x) s = s.slotRunWith (.sysw x) (s.issueFlags (.sysw x)) act := by
  intro _; rw [exec_sysw, execSysw]; exact ⟨_, rfl⟩
theorem slot_trap (x) (s : State) : s.core.compl = none →
    ∃ act, exec (.trap x) s = s.slotRunWith (.trap x) (s.issueFlags (.trap x)) act := by
  intro hc; rw [exec_trap, execTrap, quietOp_issue _ _ _ _ hc]; exact ⟨_, rfl⟩
theorem slot_tend (x) (s : State) : s.core.compl = none →
    ∃ act, exec (.tend x) s = s.slotRunWith (.tend x) (s.issueFlags (.tend x)) act := by
  intro hc; rw [exec_tend, execTend]; simp only [hc]; exact ⟨_, rfl⟩
theorem slot_yield (x) (s : State) : s.core.compl = none →
    ∃ act, exec (.yield x) s = s.slotRunWith (.yield x) (s.issueFlags (.yield x)) act := by
  intro hc; rw [exec_yield, execYield, quietOp_issue _ _ _ _ hc]; exact ⟨_, rfl⟩
theorem slot_tspawn (x) (s : State) : s.core.compl = none →
    ∃ act, exec (.tspawn x) s = s.slotRunWith (.tspawn x) (s.issueFlags (.tspawn x)) act := by
  intro hc; rw [exec_tspawn, execTspawn, quietOp_issue _ _ _ _ hc]; exact ⟨_, rfl⟩
theorem slot_fnew (x) (s : State) : s.core.compl = none →
    ∃ act, exec (.fnew x) s = s.slotRunWith (.fnew x) (s.issueFlags (.fnew x)) act := by
  intro _; rw [exec_fnew, execFnew]; exact ⟨_, rfl⟩
theorem slot_fset (x) (s : State) : s.core.compl = none →
    ∃ act, exec (.fset x) s = s.slotRunWith (.fset x) (s.issueFlags (.fset x)) act := by
  intro hc; rw [exec_fset, execFset, quietOp_issue _ _ _ _ hc]; exact ⟨_, rfl⟩
theorem slot_ffail (x) (s : State) : s.core.compl = none →
    ∃ act, exec (.ffail x) s = s.slotRunWith (.ffail x) (s.issueFlags (.ffail x)) act := by
  intro hc; rw [exec_ffail, execFfail, quietOp_issue _ _ _ _ hc]; exact ⟨_, rfl⟩
theorem slot_fwait (x) (s : State) : s.core.compl = none →
    ∃ act, exec (.fwait x) s = s.slotRunWith (.fwait x) (s.issueFlags (.fwait x)) act := by
  intro hc; rw [exec_fwait, execFwait, quietOp_issue _ _ _ _ hc]; exact ⟨_, rfl⟩
theorem slot_ftest (x) (s : State) : s.core.compl = none →
    ∃ act, exec (.ftest x) s = s.slotRunWith (.ftest x) (s.issueFlags (.ftest x)) act := by
  intro _; rw [exec_ftest, execFtest]; exact ⟨_, rfl⟩
theorem slot_ffree (x) (s : State) : s.core.compl = none →
    ∃ act, exec (.ffree x) s = s.slotRunWith (.ffree x) (s.issueFlags (.ffree x)) act := by
  intro _; rw [exec_ffree, execFfree]; exact ⟨_, rfl⟩
theorem slot_bara (x) (s : State) : s.core.compl = none →
    ∃ act, exec (.bara x) s = s.slotRunWith (.bara x) (s.issueFlags (.bara x)) act := by
  intro hc; rw [exec_bara, execBara, quietOp_issue _ _ _ _ hc]; exact ⟨_, rfl⟩
theorem slot_barw (x) (s : State) : s.core.compl = none →
    ∃ act, exec (.barw x) s = s.slotRunWith (.barw x) (s.issueFlags (.barw x)) act := by
  intro hc; rw [exec_barw, execBarw, quietOp_issue _ _ _ _ hc]; exact ⟨_, rfl⟩
theorem slot_barx (x) (s : State) : s.core.compl = none →
    ∃ act, exec (.barx x) s = s.slotRunWith (.barx x) (s.issueFlags (.barx x)) act := by
  intro hc; rw [exec_barx, execBarx, quietOp_issue _ _ _ _ hc]; exact ⟨_, rfl⟩
theorem slot_bari (x) (s : State) : s.core.compl = none →
    ∃ act, exec (.bari x) s = s.slotRunWith (.bari x) (s.issueFlags (.bari x)) act := by
  intro _; rw [exec_bari, execBari]; exact ⟨_, rfl⟩
theorem slot_pbara (x) (s : State) : s.core.compl = none →
    ∃ act, exec (.pbara x) s = s.slotRunWith (.pbara x) (s.issueFlags (.pbara x)) act := by
  intro hc; rw [exec_pbara, execPbara, quietOp_issue _ _ _ _ hc]; exact ⟨_, rfl⟩
theorem slot_pbarw (x) (s : State) : s.core.compl = none →
    ∃ act, exec (.pbarw x) s = s.slotRunWith (.pbarw x) (s.issueFlags (.pbarw x)) act := by
  intro hc; rw [exec_pbarw, execPbarw, quietOp_issue _ _ _ _ hc]; exact ⟨_, rfl⟩
theorem slot_qput (x) (s : State) : s.core.compl = none →
    ∃ act, exec (.qput x) s = s.slotRunWith (.qput x) (s.issueFlags (.qput x)) act := by
  intro hc; rw [exec_qput, execQput, quietOp_issue _ _ _ _ hc]; exact ⟨_, rfl⟩
theorem slot_qget (x) (s : State) : s.core.compl = none →
    ∃ act, exec (.qget x) s = s.slotRunWith (.qget x) (s.issueFlags (.qget x)) act := by
  intro hc; rw [exec_qget, execQget, quietOp_issue _ _ _ _ hc]; exact ⟨_, rfl⟩
theorem slot_qpeek (x) (s : State) : s.core.compl = none →
    ∃ act, exec (.qpeek x) s = s.slotRunWith (.qpeek x) (s.issueFlags (.qpeek x)) act := by
  intro _; rw [exec_qpeek, execQpeek]; exact ⟨_, rfl⟩
theorem slot_add (x) (s : State) : s.core.compl = none →
    ∃ act, exec (.add x) s = s.slotRunWith (.add x) (s.issueFlags (.add x)) act := by
  intro _; rw [exec_add, execAdd, State.intOp]; exact ⟨_, rfl⟩
theorem slot_sub (x) (s : State) : s.core.compl = none →
    ∃ act, exec (.sub x) s = s.slotRunWith (.sub x) (s.issueFlags (.sub x)) act := by
  intro _; rw [exec_sub, execSub, State.intOp]; exact ⟨_, rfl⟩
theorem slot_addi (x) (s : State) : s.core.compl = none →
    ∃ act, exec (.addi x) s = s.slotRunWith (.addi x) (s.issueFlags (.addi x)) act := by
  intro _; rw [exec_addi, execAddi, State.immOp]; exact ⟨_, rfl⟩
theorem slot_mul (x) (s : State) : s.core.compl = none →
    ∃ act, exec (.mul x) s = s.slotRunWith (.mul x) (s.issueFlags (.mul x)) act := by
  intro _; rw [exec_mul, execMul, State.intOp]; exact ⟨_, rfl⟩
theorem slot_mulh (x) (s : State) : s.core.compl = none →
    ∃ act, exec (.mulh x) s = s.slotRunWith (.mulh x) (s.issueFlags (.mulh x)) act := by
  intro _; rw [exec_mulh, execMulh, State.intOp]; exact ⟨_, rfl⟩
theorem slot_mulhn (x) (s : State) : s.core.compl = none →
    ∃ act, exec (.mulhn x) s = s.slotRunWith (.mulhn x) (s.issueFlags (.mulhn x)) act := by
  intro _; rw [exec_mulhn, execMulhn, State.intOp]; exact ⟨_, rfl⟩
theorem slot_div (x) (s : State) : s.core.compl = none →
    ∃ act, exec (.div x) s = s.slotRunWith (.div x) (s.issueFlags (.div x)) act := by
  intro _; rw [exec_div, execDiv, State.intOp]; exact ⟨_, rfl⟩
theorem slot_divn (x) (s : State) : s.core.compl = none →
    ∃ act, exec (.divn x) s = s.slotRunWith (.divn x) (s.issueFlags (.divn x)) act := by
  intro _; rw [exec_divn, execDivn, State.intOp]; exact ⟨_, rfl⟩
theorem slot_rem (x) (s : State) : s.core.compl = none →
    ∃ act, exec (.rem x) s = s.slotRunWith (.rem x) (s.issueFlags (.rem x)) act := by
  intro _; rw [exec_rem, execRem, State.intOp]; exact ⟨_, rfl⟩
theorem slot_remn (x) (s : State) : s.core.compl = none →
    ∃ act, exec (.remn x) s = s.slotRunWith (.remn x) (s.issueFlags (.remn x)) act := by
  intro _; rw [exec_remn, execRemn, State.intOp]; exact ⟨_, rfl⟩
theorem slot_and (x) (s : State) : s.core.compl = none →
    ∃ act, exec (.and x) s = s.slotRunWith (.and x) (s.issueFlags (.and x)) act := by
  intro _; rw [exec_and, execAnd, State.intOp]; exact ⟨_, rfl⟩
theorem slot_or (x) (s : State) : s.core.compl = none →
    ∃ act, exec (.or x) s = s.slotRunWith (.or x) (s.issueFlags (.or x)) act := by
  intro _; rw [exec_or, execOr, State.intOp]; exact ⟨_, rfl⟩
theorem slot_xor (x) (s : State) : s.core.compl = none →
    ∃ act, exec (.xor x) s = s.slotRunWith (.xor x) (s.issueFlags (.xor x)) act := by
  intro _; rw [exec_xor, execXor, State.intOp]; exact ⟨_, rfl⟩
theorem slot_andn (x) (s : State) : s.core.compl = none →
    ∃ act, exec (.andn x) s = s.slotRunWith (.andn x) (s.issueFlags (.andn x)) act := by
  intro _; rw [exec_andn, execAndn, State.intOp]; exact ⟨_, rfl⟩
theorem slot_orn (x) (s : State) : s.core.compl = none →
    ∃ act, exec (.orn x) s = s.slotRunWith (.orn x) (s.issueFlags (.orn x)) act := by
  intro _; rw [exec_orn, execOrn, State.intOp]; exact ⟨_, rfl⟩
theorem slot_shl (x) (s : State) : s.core.compl = none →
    ∃ act, exec (.shl x) s = s.slotRunWith (.shl x) (s.issueFlags (.shl x)) act := by
  intro _; rw [exec_shl, execShl, State.intOp]; exact ⟨_, rfl⟩
theorem slot_shr (x) (s : State) : s.core.compl = none →
    ∃ act, exec (.shr x) s = s.slotRunWith (.shr x) (s.issueFlags (.shr x)) act := by
  intro _; rw [exec_shr, execShr, State.intOp]; exact ⟨_, rfl⟩
theorem slot_sar (x) (s : State) : s.core.compl = none →
    ∃ act, exec (.sar x) s = s.slotRunWith (.sar x) (s.issueFlags (.sar x)) act := by
  intro _; rw [exec_sar, execSar, State.intOp]; exact ⟨_, rfl⟩
theorem slot_rol (x) (s : State) : s.core.compl = none →
    ∃ act, exec (.rol x) s = s.slotRunWith (.rol x) (s.issueFlags (.rol x)) act := by
  intro _; rw [exec_rol, execRol, State.intOp]; exact ⟨_, rfl⟩
theorem slot_clz (x) (s : State) : s.core.compl = none →
    ∃ act, exec (.clz x) s = s.slotRunWith (.clz x) (s.issueFlags (.clz x)) act := by
  intro _; rw [exec_clz, execClz, State.intOp]; exact ⟨_, rfl⟩
theorem slot_ctz (x) (s : State) : s.core.compl = none →
    ∃ act, exec (.ctz x) s = s.slotRunWith (.ctz x) (s.issueFlags (.ctz x)) act := by
  intro _; rw [exec_ctz, execCtz, State.intOp]; exact ⟨_, rfl⟩
theorem slot_popc (x) (s : State) : s.core.compl = none →
    ∃ act, exec (.popc x) s = s.slotRunWith (.popc x) (s.issueFlags (.popc x)) act := by
  intro _; rw [exec_popc, execPopc, State.intOp]; exact ⟨_, rfl⟩
theorem slot_min (x) (s : State) : s.core.compl = none →
    ∃ act, exec (.min x) s = s.slotRunWith (.min x) (s.issueFlags (.min x)) act := by
  intro _; rw [exec_min, execMin, State.intOp]; exact ⟨_, rfl⟩
theorem slot_max (x) (s : State) : s.core.compl = none →
    ∃ act, exec (.max x) s = s.slotRunWith (.max x) (s.issueFlags (.max x)) act := by
  intro _; rw [exec_max, execMax, State.intOp]; exact ⟨_, rfl⟩
theorem slot_minn (x) (s : State) : s.core.compl = none →
    ∃ act, exec (.minn x) s = s.slotRunWith (.minn x) (s.issueFlags (.minn x)) act := by
  intro _; rw [exec_minn, execMinn, State.intOp]; exact ⟨_, rfl⟩
theorem slot_maxn (x) (s : State) : s.core.compl = none →
    ∃ act, exec (.maxn x) s = s.slotRunWith (.maxn x) (s.issueFlags (.maxn x)) act := by
  intro _; rw [exec_maxn, execMaxn, State.intOp]; exact ⟨_, rfl⟩
theorem slot_abs (x) (s : State) : s.core.compl = none →
    ∃ act, exec (.abs x) s = s.slotRunWith (.abs x) (s.issueFlags (.abs x)) act := by
  intro _; rw [exec_abs, execAbs, State.intOp]; exact ⟨_, rfl⟩
theorem slot_bfx (x) (s : State) : s.core.compl = none →
    ∃ act, exec (.bfx x) s = s.slotRunWith (.bfx x) (s.issueFlags (.bfx x)) act := by
  intro _; rw [exec_bfx, execBfx, State.wordOp]; exact ⟨_, rfl⟩
theorem slot_bfi (x) (s : State) : s.core.compl = none →
    ∃ act, exec (.bfi x) s = s.slotRunWith (.bfi x) (s.issueFlags (.bfi x)) act := by
  intro _; rw [exec_bfi, execBfi, State.wordOp]; exact ⟨_, rfl⟩
theorem slot_sext (x) (s : State) : s.core.compl = none →
    ∃ act, exec (.sext x) s = s.slotRunWith (.sext x) (s.issueFlags (.sext x)) act := by
  intro _; rw [exec_sext, execSext, State.wordOp]; exact ⟨_, rfl⟩
theorem slot_lea (x) (s : State) : s.core.compl = none →
    ∃ act, exec (.lea x) s = s.slotRunWith (.lea x) (s.issueFlags (.lea x)) act := by
  intro _; rw [exec_lea, execLea, State.wordOp]; exact ⟨_, rfl⟩
theorem slot_movi (x) (s : State) : s.core.compl = none →
    ∃ act, exec (.movi x) s = s.slotRunWith (.movi x) (s.issueFlags (.movi x)) act := by
  intro _; rw [exec_movi, execMovi, State.immOp]; exact ⟨_, rfl⟩
theorem slot_movh (x) (s : State) : s.core.compl = none →
    ∃ act, exec (.movh x) s = s.slotRunWith (.movh x) (s.issueFlags (.movh x)) act := by
  intro _; rw [exec_movh, execMovh, State.immOp]; exact ⟨_, rfl⟩
theorem slot_sel (x) (s : State) : s.core.compl = none →
    ∃ act, exec (.sel x) s = s.slotRunWith (.sel x) (s.issueFlags (.sel x)) act := by
  intro _; rw [exec_sel, execSel, State.wordOp]; exact ⟨_, rfl⟩
theorem slot_cmp (x) (s : State) : s.core.compl = none →
    ∃ act, exec (.cmp x) s = s.slotRunWith (.cmp x) (s.issueFlags (.cmp x)) act := by
  intro _; rw [exec_cmp, execCmp, State.wordOp]; exact ⟨_, rfl⟩
theorem slot_cmpi (x) (s : State) : s.core.compl = none →
    ∃ act, exec (.cmpi x) s = s.slotRunWith (.cmpi x) (s.issueFlags (.cmpi x)) act := by
  intro _; rw [exec_cmpi, execCmpi, State.immOp]; exact ⟨_, rfl⟩
theorem slot_plog (x) (s : State) : s.core.compl = none →
    ∃ act, exec (.plog x) s = s.slotRunWith (.plog x) (s.issueFlags (.plog x)) act := by
  intro _; rw [exec_plog, execPlog, State.wordOp]; exact ⟨_, rfl⟩
theorem slot_xcl (x) (s : State) : s.core.compl = none →
    ∃ act, exec (.xcl x) s = s.slotRunWith (.xcl x) (s.issueFlags (.xcl x)) act := by
  intro _; rw [exec_xcl, execXcl]; exact ⟨_, rfl⟩
theorem slot_xcp (x) (s : State) : s.core.compl = none →
    ∃ act, exec (.xcp x) s = s.slotRunWith (.xcp x) (s.issueFlags (.xcp x)) act := by
  intro _; rw [exec_xcp, execXcp]; exact ⟨_, rfl⟩
theorem slot_mad (x) (s : State) : s.core.compl = none →
    ∃ act, exec (.mad x) s = s.slotRunWith (.mad x) (s.issueFlags (.mad x)) act := by
  intro _; rw [exec_mad, execMad, State.intOp]; exact ⟨_, rfl⟩
theorem slot_fadd (x) (s : State) : s.core.compl = none →
    ∃ act, exec (.fadd x) s = s.slotRunWith (.fadd x) (s.issueFlags (.fadd x)) act := by
  intro _; rw [exec_fadd, execFadd, State.fpOp]; exact ⟨_, rfl⟩
theorem slot_fsub (x) (s : State) : s.core.compl = none →
    ∃ act, exec (.fsub x) s = s.slotRunWith (.fsub x) (s.issueFlags (.fsub x)) act := by
  intro _; rw [exec_fsub, execFsub, State.fpOp]; exact ⟨_, rfl⟩
theorem slot_fmul (x) (s : State) : s.core.compl = none →
    ∃ act, exec (.fmul x) s = s.slotRunWith (.fmul x) (s.issueFlags (.fmul x)) act := by
  intro _; rw [exec_fmul, execFmul, State.fpOp]; exact ⟨_, rfl⟩
theorem slot_fma (x) (s : State) : s.core.compl = none →
    ∃ act, exec (.fma x) s = s.slotRunWith (.fma x) (s.issueFlags (.fma x)) act := by
  intro _; rw [exec_fma, execFma, State.fpOp]; exact ⟨_, rfl⟩
theorem slot_fdiv (x) (s : State) : s.core.compl = none →
    ∃ act, exec (.fdiv x) s = s.slotRunWith (.fdiv x) (s.issueFlags (.fdiv x)) act := by
  intro _; rw [exec_fdiv, execFdiv, State.fpOp]; exact ⟨_, rfl⟩
theorem slot_fsqrt (x) (s : State) : s.core.compl = none →
    ∃ act, exec (.fsqrt x) s = s.slotRunWith (.fsqrt x) (s.issueFlags (.fsqrt x)) act := by
  intro _; rw [exec_fsqrt, execFsqrt, State.fpOp]; exact ⟨_, rfl⟩
theorem slot_fmin (x) (s : State) : s.core.compl = none →
    ∃ act, exec (.fmin x) s = s.slotRunWith (.fmin x) (s.issueFlags (.fmin x)) act := by
  intro _; rw [exec_fmin, execFmin, State.fpOp]; exact ⟨_, rfl⟩
theorem slot_fmax (x) (s : State) : s.core.compl = none →
    ∃ act, exec (.fmax x) s = s.slotRunWith (.fmax x) (s.issueFlags (.fmax x)) act := by
  intro _; rw [exec_fmax, execFmax, State.fpOp]; exact ⟨_, rfl⟩
theorem slot_fcmp (x) (s : State) : s.core.compl = none →
    ∃ act, exec (.fcmp x) s = s.slotRunWith (.fcmp x) (s.issueFlags (.fcmp x)) act := by
  intro _; rw [exec_fcmp, execFcmp, State.fpOp]; exact ⟨_, rfl⟩
theorem slot_fcvt (x) (s : State) : s.core.compl = none →
    ∃ act, exec (.fcvt x) s = s.slotRunWith (.fcvt x) (s.issueFlags (.fcvt x)) act := by
  intro _; rw [exec_fcvt, execFcvt]; exact ⟨_, rfl⟩
theorem slot_fclass (x) (s : State) : s.core.compl = none →
    ∃ act, exec (.fclass x) s = s.slotRunWith (.fclass x) (s.issueFlags (.fclass x)) act := by
  intro _; rw [exec_fclass, execFclass]; exact ⟨_, rfl⟩
theorem slot_fsgn (x) (s : State) : s.core.compl = none →
    ∃ act, exec (.fsgn x) s = s.slotRunWith (.fsgn x) (s.issueFlags (.fsgn x)) act := by
  intro _; rw [exec_fsgn, execFsgn]; exact ⟨_, rfl⟩
theorem slot_ld (x) (s : State) : s.core.compl = none →
    ∃ act, exec (.ld x) s = s.slotRunWith (.ld x) (s.issueFlags (.ld x)) act := by
  intro _; rw [exec_ld, execLd]; exact ⟨_, rfl⟩
theorem slot_st (x) (s : State) : s.core.compl = none →
    ∃ act, exec (.st x) s = s.slotRunWith (.st x) (s.issueFlags (.st x)) act := by
  intro _; rw [exec_st, execSt]; exact ⟨_, rfl⟩
theorem slot_ldv (x) (s : State) : s.core.compl = none →
    ∃ act, exec (.ldv x) s = s.slotRunWith (.ldv x) (s.issueFlags (.ldv x)) act := by
  intro _; rw [exec_ldv, execLdv]; exact ⟨_, rfl⟩
theorem slot_stv (x) (s : State) : s.core.compl = none →
    ∃ act, exec (.stv x) s = s.slotRunWith (.stv x) (s.issueFlags (.stv x)) act := by
  intro _; rw [exec_stv, execStv]; exact ⟨_, rfl⟩
theorem slot_ldt (x) (s : State) : s.core.compl = none →
    ∃ act, exec (.ldt x) s = s.slotRunWith (.ldt x) (s.issueFlags (.ldt x)) act := by
  intro _; rw [exec_ldt, execLdt]; exact ⟨_, rfl⟩
theorem slot_stt (x) (s : State) : s.core.compl = none →
    ∃ act, exec (.stt x) s = s.slotRunWith (.stt x) (s.issueFlags (.stt x)) act := by
  intro _
  have e : s.issueFlags (.stt x) = orFlags (((if s.core.fdValue x.fd.toNat = 0 then [] else
      sttConv (FpEnv.ofFpcr s.core.fpcr) (s.core.fdValue x.fd.toNat) (s.core.vraw x.cl x.v))).map fun r => r.2.1) := by
    unfold State.issueFlags; simp only; split <;> rfl
  rw [exec_stt, execStt, e]; exact ⟨_, rfl⟩
theorem slot_pref (x) (s : State) : s.core.compl = none →
    ∃ act, exec (.pref x) s = s.slotRunWith (.pref x) (s.issueFlags (.pref x)) act := by
  intro _; rw [exec_pref, execPref]; exact ⟨_, rfl⟩
theorem slot_ntst (x) (s : State) : s.core.compl = none →
    ∃ act, exec (.ntst x) s = s.slotRunWith (.ntst x) (s.issueFlags (.ntst x)) act := by
  intro _; rw [exec_ntst, execNtst]; exact ⟨_, rfl⟩
theorem slot_ntstv (x) (s : State) : s.core.compl = none →
    ∃ act, exec (.ntstv x) s = s.slotRunWith (.ntstv x) (s.issueFlags (.ntstv x)) act := by
  intro _; rw [exec_ntstv, execNtstv]; exact ⟨_, rfl⟩
theorem slot_amo (x) (s : State) : s.core.compl = none →
    ∃ act, exec (.amo x) s = s.slotRunWith (.amo x) (s.issueFlags (.amo x)) act := by
  intro _; rw [exec_amo, execAmo]; exact ⟨_, rfl⟩
theorem slot_amon (x) (s : State) : s.core.compl = none →
    ∃ act, exec (.amon x) s = s.slotRunWith (.amon x) (s.issueFlags (.amon x)) act := by
  intro _; rw [exec_amon, execAmon]; exact ⟨_, rfl⟩
theorem slot_acas (x) (s : State) : s.core.compl = none →
    ∃ act, exec (.acas x) s = s.slotRunWith (.acas x) (s.issueFlags (.acas x)) act := by
  intro _; rw [exec_acas, execAcas]; exact ⟨_, rfl⟩
theorem slot_mark (x) (s : State) : s.core.compl = none →
    ∃ act, exec (.mark x) s = s.slotRunWith (.mark x) (s.issueFlags (.mark x)) act := by
  intro _; rw [exec_mark, execMark]; exact ⟨_, rfl⟩
theorem slot_fence (x) (s : State) : s.core.compl = none →
    ∃ act, exec (.fence x) s = s.slotRunWith (.fence x) (s.issueFlags (.fence x)) act := by
  intro _; rw [exec_fence, execFence]; exact ⟨_, rfl⟩
theorem slot_ntdrain (x) (s : State) : s.core.compl = none →
    ∃ act, exec (.ntdrain x) s = s.slotRunWith (.ntdrain x) (s.issueFlags (.ntdrain x)) act := by
  intro _; rw [exec_ntdrain, execNtdrain]; exact ⟨_, rfl⟩
theorem slot_lsld (x) (s : State) : s.core.compl = none →
    ∃ act, exec (.lsld x) s = s.slotRunWith (.lsld x) (s.issueFlags (.lsld x)) act := by
  intro _; rw [exec_lsld, execLsld]; exact ⟨_, rfl⟩
theorem slot_lsst (x) (s : State) : s.core.compl = none →
    ∃ act, exec (.lsst x) s = s.slotRunWith (.lsst x) (s.issueFlags (.lsst x)) act := by
  intro _; rw [exec_lsst, execLsst]; exact ⟨_, rfl⟩
theorem slot_lsldv (x) (s : State) : s.core.compl = none →
    ∃ act, exec (.lsldv x) s = s.slotRunWith (.lsldv x) (s.issueFlags (.lsldv x)) act := by
  intro _; rw [exec_lsldv, execLsldv]; exact ⟨_, rfl⟩
theorem slot_lsstv (x) (s : State) : s.core.compl = none →
    ∃ act, exec (.lsstv x) s = s.slotRunWith (.lsstv x) (s.issueFlags (.lsstv x)) act := by
  intro _; rw [exec_lsstv, execLsstv]; exact ⟨_, rfl⟩
theorem slot_migr (x) (s : State) : s.core.compl = none →
    ∃ act, exec (.migr x) s = s.slotRunWith (.migr x) (s.issueFlags (.migr x)) act := by
  intro _; rw [exec_migr, execMigr]; exact ⟨_, rfl⟩
theorem slot_pgstat (x) (s : State) : s.core.compl = none →
    ∃ act, exec (.pgstat x) s = s.slotRunWith (.pgstat x) (s.issueFlags (.pgstat x)) act := by
  intro _; rw [exec_pgstat, execPgstat]; exact ⟨_, rfl⟩
theorem slot_logapply (x) (s : State) : s.core.compl = none →
    ∃ act, exec (.logapply x) s = s.slotRunWith (.logapply x) (s.issueFlags (.logapply x)) act := by
  intro _; rw [exec_logapply, execLogapply]; exact ⟨_, rfl⟩
theorem slot_asdecl (x) (s : State) : s.core.compl = none →
    ∃ act, exec (.asdecl x) s = s.slotRunWith (.asdecl x) (s.issueFlags (.asdecl x)) act := by
  intro _; rw [exec_asdecl, execAsdecl]; exact ⟨_, rfl⟩
theorem slot_asdrop (x) (s : State) : s.core.compl = none →
    ∃ act, exec (.asdrop x) s = s.slotRunWith (.asdrop x) (s.issueFlags (.asdrop x)) act := by
  intro _; rw [exec_asdrop, execAsdrop]; exact ⟨_, rfl⟩
theorem slot_vadd (x) (s : State) : s.core.compl = none →
    ∃ act, exec (.vadd x) s = s.slotRunWith (.vadd x) (s.issueFlags (.vadd x)) act := by
  intro _; rw [exec_vadd, execVadd, State.vecElemOp, State.vecOp]; exact ⟨_, rfl⟩
theorem slot_vsub (x) (s : State) : s.core.compl = none →
    ∃ act, exec (.vsub x) s = s.slotRunWith (.vsub x) (s.issueFlags (.vsub x)) act := by
  intro _; rw [exec_vsub, execVsub, State.vecElemOp, State.vecOp]; exact ⟨_, rfl⟩
theorem slot_vmul (x) (s : State) : s.core.compl = none →
    ∃ act, exec (.vmul x) s = s.slotRunWith (.vmul x) (s.issueFlags (.vmul x)) act := by
  intro _; rw [exec_vmul, execVmul, State.vecElemOp, State.vecOp]; exact ⟨_, rfl⟩
theorem slot_vfma (x) (s : State) : s.core.compl = none →
    ∃ act, exec (.vfma x) s = s.slotRunWith (.vfma x) (s.issueFlags (.vfma x)) act := by
  intro _; rw [exec_vfma, execVfma, State.vecElemOp, State.vecOp]; exact ⟨_, rfl⟩
theorem slot_vfms (x) (s : State) : s.core.compl = none →
    ∃ act, exec (.vfms x) s = s.slotRunWith (.vfms x) (s.issueFlags (.vfms x)) act := by
  intro _; rw [exec_vfms, execVfms, State.vecElemOp, State.vecOp]; exact ⟨_, rfl⟩
theorem slot_vmin (x) (s : State) : s.core.compl = none →
    ∃ act, exec (.vmin x) s = s.slotRunWith (.vmin x) (s.issueFlags (.vmin x)) act := by
  intro _; rw [exec_vmin, execVmin, State.vecElemOp, State.vecOp]; exact ⟨_, rfl⟩
theorem slot_vmax (x) (s : State) : s.core.compl = none →
    ∃ act, exec (.vmax x) s = s.slotRunWith (.vmax x) (s.issueFlags (.vmax x)) act := by
  intro _; rw [exec_vmax, execVmax, State.vecElemOp, State.vecOp]; exact ⟨_, rfl⟩
theorem slot_vabs (x) (s : State) : s.core.compl = none →
    ∃ act, exec (.vabs x) s = s.slotRunWith (.vabs x) (s.issueFlags (.vabs x)) act := by
  intro _; rw [exec_vabs, execVabs, State.vecElemOp, State.vecOp]; exact ⟨_, rfl⟩
theorem slot_vneg (x) (s : State) : s.core.compl = none →
    ∃ act, exec (.vneg x) s = s.slotRunWith (.vneg x) (s.issueFlags (.vneg x)) act := by
  intro _; rw [exec_vneg, execVneg, State.vecElemOp, State.vecOp]; exact ⟨_, rfl⟩
theorem slot_vand (x) (s : State) : s.core.compl = none →
    ∃ act, exec (.vand x) s = s.slotRunWith (.vand x) (s.issueFlags (.vand x)) act := by
  intro _; rw [exec_vand, execVand, State.vecBits, State.vecOp]; exact ⟨_, rfl⟩
theorem slot_vor (x) (s : State) : s.core.compl = none →
    ∃ act, exec (.vor x) s = s.slotRunWith (.vor x) (s.issueFlags (.vor x)) act := by
  intro _; rw [exec_vor, execVor, State.vecBits, State.vecOp]; exact ⟨_, rfl⟩
theorem slot_vxor (x) (s : State) : s.core.compl = none →
    ∃ act, exec (.vxor x) s = s.slotRunWith (.vxor x) (s.issueFlags (.vxor x)) act := by
  intro _; rw [exec_vxor, execVxor, State.vecBits, State.vecOp]; exact ⟨_, rfl⟩
theorem slot_vandn (x) (s : State) : s.core.compl = none →
    ∃ act, exec (.vandn x) s = s.slotRunWith (.vandn x) (s.issueFlags (.vandn x)) act := by
  intro _; rw [exec_vandn, execVandn, State.vecBits, State.vecOp]; exact ⟨_, rfl⟩
theorem slot_vshl (x) (s : State) : s.core.compl = none →
    ∃ act, exec (.vshl x) s = s.slotRunWith (.vshl x) (s.issueFlags (.vshl x)) act := by
  intro _; rw [exec_vshl, execVshl, State.vecElemOp, State.vecOp]; exact ⟨_, rfl⟩
theorem slot_vshr (x) (s : State) : s.core.compl = none →
    ∃ act, exec (.vshr x) s = s.slotRunWith (.vshr x) (s.issueFlags (.vshr x)) act := by
  intro _; rw [exec_vshr, execVshr, State.vecElemOp, State.vecOp]; exact ⟨_, rfl⟩
theorem slot_vsar (x) (s : State) : s.core.compl = none →
    ∃ act, exec (.vsar x) s = s.slotRunWith (.vsar x) (s.issueFlags (.vsar x)) act := by
  intro _; rw [exec_vsar, execVsar, State.vecElemOp, State.vecOp]; exact ⟨_, rfl⟩
theorem slot_vcmp (x) (s : State) : s.core.compl = none →
    ∃ act, exec (.vcmp x) s = s.slotRunWith (.vcmp x) (s.issueFlags (.vcmp x)) act := by
  intro _; rw [exec_vcmp, execVcmp, State.vecOp]; exact ⟨_, rfl⟩
theorem slot_vsel (x) (s : State) : s.core.compl = none →
    ∃ act, exec (.vsel x) s = s.slotRunWith (.vsel x) (s.issueFlags (.vsel x)) act := by
  intro _; rw [exec_vsel, execVsel, State.vecBits, State.vecOp]; exact ⟨_, rfl⟩
theorem slot_vmov (x) (s : State) : s.core.compl = none →
    ∃ act, exec (.vmov x) s = s.slotRunWith (.vmov x) (s.issueFlags (.vmov x)) act := by
  intro _; rw [exec_vmov, execVmov, State.vecBits, State.vecOp]; exact ⟨_, rfl⟩
theorem slot_vsplat (x) (s : State) : s.core.compl = none →
    ∃ act, exec (.vsplat x) s = s.slotRunWith (.vsplat x) (s.issueFlags (.vsplat x)) act := by
  intro _; rw [exec_vsplat, execVsplat, State.vecOp]; exact ⟨_, rfl⟩
theorem slot_vins (x) (s : State) : s.core.compl = none →
    ∃ act, exec (.vins x) s = s.slotRunWith (.vins x) (s.issueFlags (.vins x)) act := by
  intro _; rw [exec_vins, execVins, State.vecOp]; exact ⟨_, rfl⟩
theorem slot_vext (x) (s : State) : s.core.compl = none →
    ∃ act, exec (.vext x) s = s.slotRunWith (.vext x) (s.issueFlags (.vext x)) act := by
  intro _; rw [exec_vext, execVext]; exact ⟨_, rfl⟩
theorem slot_vclamp (x) (s : State) : s.core.compl = none →
    ∃ act, exec (.vclamp x) s = s.slotRunWith (.vclamp x) (s.issueFlags (.vclamp x)) act := by
  intro _; rw [exec_vclamp, execVclamp, State.vecElemOp, State.vecOp]; exact ⟨_, rfl⟩
theorem slot_vmad (x) (s : State) : s.core.compl = none →
    ∃ act, exec (.vmad x) s = s.slotRunWith (.vmad x) (s.issueFlags (.vmad x)) act := by
  intro _; rw [exec_vmad, execVmad, State.vecElemOp, State.vecOp]; exact ⟨_, rfl⟩
theorem slot_vdot4 (x) (s : State) : s.core.compl = none →
    ∃ act, exec (.vdot4 x) s = s.slotRunWith (.vdot4 x) (s.issueFlags (.vdot4 x)) act := by
  intro _; rw [exec_vdot4, execVdot4, State.vecOp]; exact ⟨_, rfl⟩
theorem slot_vpopc (x) (s : State) : s.core.compl = none →
    ∃ act, exec (.vpopc x) s = s.slotRunWith (.vpopc x) (s.issueFlags (.vpopc x)) act := by
  intro _; rw [exec_vpopc, execVpopc, State.vecElemOp, State.vecOp]; exact ⟨_, rfl⟩
theorem slot_vrotr (x) (s : State) : s.core.compl = none →
    ∃ act, exec (.vrotr x) s = s.slotRunWith (.vrotr x) (s.issueFlags (.vrotr x)) act := by
  intro _; rw [exec_vrotr, execVrotr, State.vecMove, State.vecOp]; exact ⟨_, rfl⟩
theorem slot_vrotc (x) (s : State) : s.core.compl = none →
    ∃ act, exec (.vrotc x) s = s.slotRunWith (.vrotc x) (s.issueFlags (.vrotc x)) act := by
  intro _; rw [exec_vrotc, execVrotc, State.vecMove, State.vecOp]; exact ⟨_, rfl⟩
theorem slot_vbcr (x) (s : State) : s.core.compl = none →
    ∃ act, exec (.vbcr x) s = s.slotRunWith (.vbcr x) (s.issueFlags (.vbcr x)) act := by
  intro _; rw [exec_vbcr, execVbcr, State.vecMove, State.vecOp]; exact ⟨_, rfl⟩
theorem slot_vbcc (x) (s : State) : s.core.compl = none →
    ∃ act, exec (.vbcc x) s = s.slotRunWith (.vbcc x) (s.issueFlags (.vbcc x)) act := by
  intro _; rw [exec_vbcc, execVbcc, State.vecMove, State.vecOp]; exact ⟨_, rfl⟩
theorem slot_vredr (x) (s : State) : s.core.compl = none →
    ∃ act, exec (.vredr x) s = s.slotRunWith (.vredr x) (s.issueFlags (.vredr x)) act := by
  intro _; rw [exec_vredr, execVredr, State.vecOp]; exact ⟨_, rfl⟩
theorem slot_vredc (x) (s : State) : s.core.compl = none →
    ∃ act, exec (.vredc x) s = s.slotRunWith (.vredc x) (s.issueFlags (.vredc x)) act := by
  intro _; rw [exec_vredc, execVredc, State.vecOp]; exact ⟨_, rfl⟩
theorem slot_vtrn (x) (s : State) : s.core.compl = none →
    ∃ act, exec (.vtrn x) s = s.slotRunWith (.vtrn x) (s.issueFlags (.vtrn x)) act := by
  intro _; rw [exec_vtrn, execVtrn, State.vecMove, State.vecOp]; exact ⟨_, rfl⟩
theorem slot_vcvt (x) (s : State) : s.core.compl = none →
    ∃ act, exec (.vcvt x) s = s.slotRunWith (.vcvt x) (s.issueFlags (.vcvt x)) act := by
  intro _; rw [exec_vcvt, execVcvt, State.vecOp]; exact ⟨_, rfl⟩
theorem slot_vrcp (x) (s : State) : s.core.compl = none →
    ∃ act, exec (.vrcp x) s = s.slotRunWith (.vrcp x) (s.issueFlags (.vrcp x)) act := by
  intro _; rw [exec_vrcp, execVrcp, State.vecSpecial, State.vecOp]; exact ⟨_, rfl⟩
theorem slot_vrsq (x) (s : State) : s.core.compl = none →
    ∃ act, exec (.vrsq x) s = s.slotRunWith (.vrsq x) (s.issueFlags (.vrsq x)) act := by
  intro _; rw [exec_vrsq, execVrsq, State.vecSpecial, State.vecOp]; exact ⟨_, rfl⟩
theorem slot_vsqrt (x) (s : State) : s.core.compl = none →
    ∃ act, exec (.vsqrt x) s = s.slotRunWith (.vsqrt x) (s.issueFlags (.vsqrt x)) act := by
  intro _; rw [exec_vsqrt, execVsqrt, State.vecSpecial, State.vecOp]; exact ⟨_, rfl⟩
theorem slot_vexp2 (x) (s : State) : s.core.compl = none →
    ∃ act, exec (.vexp2 x) s = s.slotRunWith (.vexp2 x) (s.issueFlags (.vexp2 x)) act := by
  intro _; rw [exec_vexp2, execVexp2, State.vecSpecial, State.vecOp]; exact ⟨_, rfl⟩
theorem slot_vlog2 (x) (s : State) : s.core.compl = none →
    ∃ act, exec (.vlog2 x) s = s.slotRunWith (.vlog2 x) (s.issueFlags (.vlog2 x)) act := by
  intro _; rw [exec_vlog2, execVlog2, State.vecSpecial, State.vecOp]; exact ⟨_, rfl⟩
theorem slot_vtanh (x) (s : State) : s.core.compl = none →
    ∃ act, exec (.vtanh x) s = s.slotRunWith (.vtanh x) (s.issueFlags (.vtanh x)) act := by
  intro _; rw [exec_vtanh, execVtanh, State.vecSpecial, State.vecOp]; exact ⟨_, rfl⟩
theorem slot_slld (x) (s : State) : s.core.compl = none →
    ∃ act, exec (.slld x) s = s.slotRunWith (.slld x) (s.issueFlags (.slld x)) act := by
  intro _; rw [exec_slld, execSlld]; exact ⟨_, rfl⟩
theorem slot_mma (x) (s : State) : s.core.compl = none →
    ∃ act, exec (.mma x) s = s.slotRunWith (.mma x) (s.issueFlags (.mma x)) act := by
  intro _; rw [exec_mma, execMma]; exact ⟨_, rfl⟩
theorem slot_mmaz (x) (s : State) : s.core.compl = none →
    ∃ act, exec (.mmaz x) s = s.slotRunWith (.mmaz x) (s.issueFlags (.mmaz x)) act := by
  intro _; rw [exec_mmaz, execMmaz]; exact ⟨_, rfl⟩
theorem slot_hld (x) (s : State) : s.core.compl = none →
    ∃ act, exec (.hld x) s = s.slotRunWith (.hld x) (s.issueFlags (.hld x)) act := by
  intro _; rw [exec_hld, execHld]; exact ⟨_, rfl⟩
theorem slot_hst (x) (s : State) : s.core.compl = none →
    ∃ act, exec (.hst x) s = s.slotRunWith (.hst x) (s.issueFlags (.hst x)) act := by
  intro _; rw [exec_hst, execHst]; exact ⟨_, rfl⟩
theorem slot_hxor (x) (s : State) : s.core.compl = none →
    ∃ act, exec (.hxor x) s = s.slotRunWith (.hxor x) (s.issueFlags (.hxor x)) act := by
  intro _; rw [exec_hxor, execHxor, State.hvOp]; exact ⟨_, rfl⟩
theorem slot_hrot (x) (s : State) : s.core.compl = none →
    ∃ act, exec (.hrot x) s = s.slotRunWith (.hrot x) (s.issueFlags (.hrot x)) act := by
  intro _; rw [exec_hrot, execHrot]; exact ⟨_, rfl⟩
theorem slot_hlog (x) (s : State) : s.core.compl = none →
    ∃ act, exec (.hlog x) s = s.slotRunWith (.hlog x) (s.issueFlags (.hlog x)) act := by
  intro _; rw [exec_hlog, execHlog, State.hvOp]; exact ⟨_, rfl⟩
theorem slot_hbund (x) (s : State) : s.core.compl = none →
    ∃ act, exec (.hbund x) s = s.slotRunWith (.hbund x) (s.issueFlags (.hbund x)) act := by
  intro _; rw [exec_hbund, execHbund]; exact ⟨_, rfl⟩
theorem slot_hmaj (x) (s : State) : s.core.compl = none →
    ∃ act, exec (.hmaj x) s = s.slotRunWith (.hmaj x) (s.issueFlags (.hmaj x)) act := by
  intro _; rw [exec_hmaj, execHmaj]; exact ⟨_, rfl⟩
theorem slot_hcclr (x) (s : State) : s.core.compl = none →
    ∃ act, exec (.hcclr x) s = s.slotRunWith (.hcclr x) (s.issueFlags (.hcclr x)) act := by
  intro _; rw [exec_hcclr, execHcclr]; exact ⟨_, rfl⟩
theorem slot_htie (x) (s : State) : s.core.compl = none →
    ∃ act, exec (.htie x) s = s.slotRunWith (.htie x) (s.issueFlags (.htie x)) act := by
  intro _; rw [exec_htie, execHtie]; exact ⟨_, rfl⟩
theorem slot_hdist (x) (s : State) : s.core.compl = none →
    ∃ act, exec (.hdist x) s = s.slotRunWith (.hdist x) (s.issueFlags (.hdist x)) act := by
  intro _; rw [exec_hdist, execHdist]; exact ⟨_, rfl⟩
theorem slot_hnear (x) (s : State) : s.core.compl = none →
    ∃ act, exec (.hnear x) s = s.slotRunWith (.hnear x) (s.issueFlags (.hnear x)) act := by
  intro _; rw [exec_hnear, execHnear]; exact ⟨_, rfl⟩
theorem slot_hmovv (x) (s : State) : s.core.compl = none →
    ∃ act, exec (.hmovv x) s = s.slotRunWith (.hmovv x) (s.issueFlags (.hmovv x)) act := by
  intro _; rw [exec_hmovv, execHmovv]; exact ⟨_, rfl⟩
theorem slot_cpy (x) (s : State) : s.core.compl = none →
    ∃ act, exec (.cpy x) s = s.slotRunWith (.cpy x) (s.issueFlags (.cpy x)) act := by
  intro _; rw [exec_cpy, execCpy]; exact ⟨_, rfl⟩
theorem slot_chase (x) (s : State) : s.core.compl = none →
    ∃ act, exec (.chase x) s = s.slotRunWith (.chase x) (s.issueFlags (.chase x)) act := by
  intro _; rw [exec_chase, execChase]; exact ⟨_, rfl⟩
theorem slot_gath (x) (s : State) : s.core.compl = none →
    ∃ act, exec (.gath x) s = s.slotRunWith (.gath x) (s.issueFlags (.gath x)) act := by
  intro _; rw [exec_gath, execGath]; exact ⟨_, rfl⟩
theorem slot_send (x) (s : State) : s.core.compl = none →
    ∃ act, exec (.send x) s = s.slotRunWith (.send x) (s.issueFlags (.send x)) act := by
  intro hc; rw [exec_send, execSend, quietOp_issue _ _ _ _ hc]; exact ⟨_, rfl⟩
theorem slot_msend (x) (s : State) : s.core.compl = none →
    ∃ act, exec (.msend x) s = s.slotRunWith (.msend x) (s.issueFlags (.msend x)) act := by
  intro hc; rw [exec_msend, execMsend, quietOp_issue _ _ _ _ hc]; exact ⟨_, rfl⟩
theorem slot_wopen (x) (s : State) : s.core.compl = none →
    ∃ act, exec (.wopen x) s = s.slotRunWith (.wopen x) (s.issueFlags (.wopen x)) act := by
  intro _; rw [exec_wopen, execWopen]; exact ⟨_, rfl⟩
theorem slot_wclose (x) (s : State) : s.core.compl = none →
    ∃ act, exec (.wclose x) s = s.slotRunWith (.wclose x) (s.issueFlags (.wclose x)) act := by
  intro _; rw [exec_wclose, execWclose]; exact ⟨_, rfl⟩
theorem slot_lstat (x) (s : State) : s.core.compl = none →
    ∃ act, exec (.lstat x) s = s.slotRunWith (.lstat x) (s.issueFlags (.lstat x)) act := by
  intro _; rw [exec_lstat, execLstat]; exact ⟨_, rfl⟩
theorem slot_fdset (x) (s : State) : s.core.compl = none →
    ∃ act, exec (.fdset x) s = s.slotRunWith (.fdset x) (s.issueFlags (.fdset x)) act := by
  intro _; rw [exec_fdset, execFdset]; exact ⟨_, rfl⟩
theorem slot_fdget (x) (s : State) : s.core.compl = none →
    ∃ act, exec (.fdget x) s = s.slotRunWith (.fdget x) (s.issueFlags (.fdget x)) act := by
  intro _; rw [exec_fdget, execFdget]; exact ⟨_, rfl⟩
theorem slot_bfmt (x) (s : State) : s.core.compl = none →
    ∃ act, exec (.bfmt x) s = s.slotRunWith (.bfmt x) (s.issueFlags (.bfmt x)) act := by
  intro _; rw [exec_bfmt, execBfmt]; exact ⟨_, rfl⟩

/-- Every slot instruction runs under its guard and its value checks. -/
theorem exec_slot (i : Instr) (s : State) (hs : (slotForm i).isSome = true) (hc : s.core.compl = none) :
    ∃ act, exec i s = s.slotRunWith i (s.issueFlags i) act := by
  cases i with
  | prefetchHint x => exact slot_prefetchHint x s hc
  | branchHint x => exact slot_branchHint x s hc
  | br x => exact slot_br x s hc
  | bri x => exact slot_bri x s hc
  | call x => exact slot_call x s hc
  | calli x => exact slot_calli x s hc
  | ret x => exact slot_ret x s hc
  | loop x => exact slot_loop x s hc
  | lbrk x => exact slot_lbrk x s hc
  | ldrain x => exact slot_ldrain x s hc
  | sysr x => exact slot_sysr x s hc
  | sysw x => exact slot_sysw x s hc
  | trap x => exact slot_trap x s hc
  | tend x => exact slot_tend x s hc
  | yield x => exact slot_yield x s hc
  | tspawn x => exact slot_tspawn x s hc
  | fnew x => exact slot_fnew x s hc
  | fset x => exact slot_fset x s hc
  | ffail x => exact slot_ffail x s hc
  | fwait x => exact slot_fwait x s hc
  | ftest x => exact slot_ftest x s hc
  | ffree x => exact slot_ffree x s hc
  | bara x => exact slot_bara x s hc
  | barw x => exact slot_barw x s hc
  | barx x => exact slot_barx x s hc
  | bari x => exact slot_bari x s hc
  | pbara x => exact slot_pbara x s hc
  | pbarw x => exact slot_pbarw x s hc
  | qput x => exact slot_qput x s hc
  | qget x => exact slot_qget x s hc
  | qpeek x => exact slot_qpeek x s hc
  | add x => exact slot_add x s hc
  | sub x => exact slot_sub x s hc
  | addi x => exact slot_addi x s hc
  | mul x => exact slot_mul x s hc
  | mulh x => exact slot_mulh x s hc
  | mulhn x => exact slot_mulhn x s hc
  | div x => exact slot_div x s hc
  | divn x => exact slot_divn x s hc
  | rem x => exact slot_rem x s hc
  | remn x => exact slot_remn x s hc
  | and x => exact slot_and x s hc
  | or x => exact slot_or x s hc
  | xor x => exact slot_xor x s hc
  | andn x => exact slot_andn x s hc
  | orn x => exact slot_orn x s hc
  | shl x => exact slot_shl x s hc
  | shr x => exact slot_shr x s hc
  | sar x => exact slot_sar x s hc
  | rol x => exact slot_rol x s hc
  | clz x => exact slot_clz x s hc
  | ctz x => exact slot_ctz x s hc
  | popc x => exact slot_popc x s hc
  | min x => exact slot_min x s hc
  | max x => exact slot_max x s hc
  | minn x => exact slot_minn x s hc
  | maxn x => exact slot_maxn x s hc
  | abs x => exact slot_abs x s hc
  | bfx x => exact slot_bfx x s hc
  | bfi x => exact slot_bfi x s hc
  | sext x => exact slot_sext x s hc
  | lea x => exact slot_lea x s hc
  | movi x => exact slot_movi x s hc
  | movh x => exact slot_movh x s hc
  | sel x => exact slot_sel x s hc
  | cmp x => exact slot_cmp x s hc
  | cmpi x => exact slot_cmpi x s hc
  | plog x => exact slot_plog x s hc
  | xcl x => exact slot_xcl x s hc
  | xcp x => exact slot_xcp x s hc
  | mad x => exact slot_mad x s hc
  | fadd x => exact slot_fadd x s hc
  | fsub x => exact slot_fsub x s hc
  | fmul x => exact slot_fmul x s hc
  | fma x => exact slot_fma x s hc
  | fdiv x => exact slot_fdiv x s hc
  | fsqrt x => exact slot_fsqrt x s hc
  | fmin x => exact slot_fmin x s hc
  | fmax x => exact slot_fmax x s hc
  | fcmp x => exact slot_fcmp x s hc
  | fcvt x => exact slot_fcvt x s hc
  | fclass x => exact slot_fclass x s hc
  | fsgn x => exact slot_fsgn x s hc
  | ld x => exact slot_ld x s hc
  | st x => exact slot_st x s hc
  | ldv x => exact slot_ldv x s hc
  | stv x => exact slot_stv x s hc
  | ldt x => exact slot_ldt x s hc
  | stt x => exact slot_stt x s hc
  | pref x => exact slot_pref x s hc
  | ntst x => exact slot_ntst x s hc
  | ntstv x => exact slot_ntstv x s hc
  | amo x => exact slot_amo x s hc
  | amon x => exact slot_amon x s hc
  | acas x => exact slot_acas x s hc
  | mark x => exact slot_mark x s hc
  | fence x => exact slot_fence x s hc
  | ntdrain x => exact slot_ntdrain x s hc
  | lsld x => exact slot_lsld x s hc
  | lsst x => exact slot_lsst x s hc
  | lsldv x => exact slot_lsldv x s hc
  | lsstv x => exact slot_lsstv x s hc
  | migr x => exact slot_migr x s hc
  | pgstat x => exact slot_pgstat x s hc
  | logapply x => exact slot_logapply x s hc
  | asdecl x => exact slot_asdecl x s hc
  | asdrop x => exact slot_asdrop x s hc
  | vadd x => exact slot_vadd x s hc
  | vsub x => exact slot_vsub x s hc
  | vmul x => exact slot_vmul x s hc
  | vfma x => exact slot_vfma x s hc
  | vfms x => exact slot_vfms x s hc
  | vmin x => exact slot_vmin x s hc
  | vmax x => exact slot_vmax x s hc
  | vabs x => exact slot_vabs x s hc
  | vneg x => exact slot_vneg x s hc
  | vand x => exact slot_vand x s hc
  | vor x => exact slot_vor x s hc
  | vxor x => exact slot_vxor x s hc
  | vandn x => exact slot_vandn x s hc
  | vshl x => exact slot_vshl x s hc
  | vshr x => exact slot_vshr x s hc
  | vsar x => exact slot_vsar x s hc
  | vcmp x => exact slot_vcmp x s hc
  | vsel x => exact slot_vsel x s hc
  | vmov x => exact slot_vmov x s hc
  | vsplat x => exact slot_vsplat x s hc
  | vins x => exact slot_vins x s hc
  | vext x => exact slot_vext x s hc
  | vclamp x => exact slot_vclamp x s hc
  | vmad x => exact slot_vmad x s hc
  | vdot4 x => exact slot_vdot4 x s hc
  | vpopc x => exact slot_vpopc x s hc
  | vrotr x => exact slot_vrotr x s hc
  | vrotc x => exact slot_vrotc x s hc
  | vbcr x => exact slot_vbcr x s hc
  | vbcc x => exact slot_vbcc x s hc
  | vredr x => exact slot_vredr x s hc
  | vredc x => exact slot_vredc x s hc
  | vtrn x => exact slot_vtrn x s hc
  | vcvt x => exact slot_vcvt x s hc
  | vrcp x => exact slot_vrcp x s hc
  | vrsq x => exact slot_vrsq x s hc
  | vsqrt x => exact slot_vsqrt x s hc
  | vexp2 x => exact slot_vexp2 x s hc
  | vlog2 x => exact slot_vlog2 x s hc
  | vtanh x => exact slot_vtanh x s hc
  | slld x => exact slot_slld x s hc
  | mma x => exact slot_mma x s hc
  | mmaz x => exact slot_mmaz x s hc
  | hld x => exact slot_hld x s hc
  | hst x => exact slot_hst x s hc
  | hxor x => exact slot_hxor x s hc
  | hrot x => exact slot_hrot x s hc
  | hlog x => exact slot_hlog x s hc
  | hbund x => exact slot_hbund x s hc
  | hmaj x => exact slot_hmaj x s hc
  | hcclr x => exact slot_hcclr x s hc
  | htie x => exact slot_htie x s hc
  | hdist x => exact slot_hdist x s hc
  | hnear x => exact slot_hnear x s hc
  | hmovv x => exact slot_hmovv x s hc
  | cpy x => exact slot_cpy x s hc
  | chase x => exact slot_chase x s hc
  | gath x => exact slot_gath x s hc
  | send x => exact slot_send x s hc
  | msend x => exact slot_msend x s hc
  | wopen x => exact slot_wopen x s hc
  | wclose x => exact slot_wclose x s hc
  | lstat x => exact slot_lstat x s hc
  | fdset x => exact slot_fdset x s hc
  | fdget x => exact slot_fdget x s hc
  | bfmt x => exact slot_bfmt x s hc
  | _ => exact absurd hs Bool.false_ne_true

end Sys2Proof.Machine
end

