-- ==== Sys2Proof/Laws/Tbl.lean ====
section
/-!
SUPPORT. Laws/Tbl.lean: reading a sparse table after a write, and the canonical form that every write keeps.
-/
namespace Sys2Proof.Machine

variable {α : Type}

theorem tget_below [DecidableEq α] {d : α} {k lo : Nat} {t : Tbl α} (h : tsorted d (some lo) t = true) (hk : k ≤ lo) : tget d t k = d := by
  cases t with
  | nil => rfl
  | cons e t =>
    obtain ⟨j, w⟩ := e
    simp only [tsorted, Bool.and_eq_true, decide_eq_true_eq] at h
    rw [tget, if_neg (by omega), if_pos (by omega)]

theorem tsorted_mono [DecidableEq α] {d : α} {lo lo' : Nat} {t : Tbl α} (h : tsorted d (some lo) t = true) (hk : lo' ≤ lo) :
    tsorted d (some lo') t = true := by
  cases t with
  | nil => rfl
  | cons e t =>
    obtain ⟨j, w⟩ := e
    simp only [tsorted, Bool.and_eq_true, decide_eq_true_eq] at h ⊢
    exact ⟨⟨by omega, h.1.2⟩, h.2⟩

theorem tsorted_none [DecidableEq α] {d : α} {lo : Nat} {t : Tbl α} (h : tsorted d (some lo) t = true) : tsorted d none t = true := by
  cases t with
  | nil => rfl
  | cons e t =>
    obtain ⟨j, w⟩ := e
    simp only [tsorted, Bool.and_eq_true, decide_eq_true_eq] at h ⊢
    exact ⟨⟨trivial, h.1.2⟩, h.2⟩

theorem tget_tins (d : α) (t : Tbl α) (k : Nat) (v : α) (k' : Nat) : tget d (tins t k v) k' = if k' = k then v else tget d t k' := by
  induction t with
  | nil =>
    simp only [tins, tget]
    by_cases h1 : k' = k
    · rw [if_pos h1.symm, if_pos h1]
    · rw [if_neg (fun e => h1 e.symm), if_neg h1, ite_self]
  | cons e t ih =>
    obtain ⟨j, w⟩ := e
    simp only [tins]
    split
    · rename_i h; subst h
      simp only [tget]
      by_cases h1 : k' = j
      · rw [if_pos h1.symm, if_pos h1]
      · have h2 : ¬j = k' := fun e => h1 e.symm
        simp only [if_neg h1, if_neg h2]
    · split
      · simp only [tget]
        by_cases h1 : k' = k
        · rw [if_pos h1.symm, if_pos h1]
        · rw [if_neg (fun e => h1 e.symm), if_neg h1]
          by_cases h2 : k' < k
          · rw [if_pos h2, if_neg (by omega), if_pos (by omega)]
          · rw [if_neg h2]
      · simp only [tget, ih]
        by_cases h1 : j = k'
        · rw [if_pos h1, if_pos h1, if_neg (by omega)]
        · rw [if_neg h1, if_neg h1]
          by_cases h2 : k' < j
          · rw [if_pos h2, if_pos h2, if_neg (by omega)]
          · rw [if_neg h2, if_neg h2]

theorem tget_tdel [DecidableEq α] {d : α} {lo : Option Nat} {t : Tbl α} (h : tsorted d lo t = true) (k k' : Nat) :
    tget d (tdel t k) k' = if k' = k then d else tget d t k' := by
  induction t generalizing lo with
  | nil => simp [tdel, tget]
  | cons e t ih =>
    obtain ⟨j, w⟩ := e
    have ht : tsorted d (some j) t = true := by
      simp only [tsorted, Bool.and_eq_true] at h; exact h.2
    simp only [tdel]
    split
    · rename_i hj; subst hj
      by_cases h1 : k' = j
      · rw [if_pos h1, tget_below ht (by omega)]
      · rw [if_neg h1, tget, if_neg (by omega)]
        by_cases h2 : k' < j
        · rw [if_pos h2, tget_below ht (by omega)]
        · rw [if_neg h2]
    · split
      · by_cases h1 : k' = k
        · rw [if_pos h1, tget, if_neg (by omega), if_pos (by omega)]
        · rw [if_neg h1]
      · simp only [tget, ih ht]
        by_cases h1 : j = k'
        · rw [if_pos h1, if_pos h1, if_neg (by omega)]
        · rw [if_neg h1, if_neg h1]
          by_cases h2 : k' < j
          · rw [if_pos h2, if_pos h2, if_neg (by omega)]
          · rw [if_neg h2, if_neg h2]

/-- A table in canonical form reads, after a write, the value written at its number, and what it read elsewhere. -/
theorem tget_tput [DecidableEq α] {d : α} {t : Tbl α} (h : twf d t = true) (k : Nat) (v : α) (k' : Nat) :
    tget d (tput d t k v) k' = if k' = k then v else tget d t k' := by
  unfold tput
  split
  · rename_i e; rw [tget_tdel h, e]
  · exact tget_tins d t k v k'

/-- Whatever the table, a value other than the default reads back. -/
theorem tget_tput_ne [DecidableEq α] {d : α} (t : Tbl α) (k : Nat) {v : α} (hv : v ≠ d) (k' : Nat) :
    tget d (tput d t k v) k' = if k' = k then v else tget d t k' := by
  rw [tput, if_neg hv]; exact tget_tins d t k v k'

theorem tsorted_tins [DecidableEq α] {d : α} {lo : Option Nat} {t : Tbl α} (h : tsorted d lo t = true) {k : Nat} {v : α} (hv : v ≠ d)
    (hk : ∀ l, lo = some l → l < k) : tsorted d lo (tins t k v) = true := by
  induction t generalizing lo with
  | nil =>
    cases lo with
    | none => simp [tins, tsorted, hv]
    | some l => simp [tins, tsorted, hv, hk l rfl]
  | cons e t ih =>
    obtain ⟨j, w⟩ := e
    simp only [tsorted, Bool.and_eq_true, decide_eq_true_eq] at h
    obtain ⟨⟨h1, h2⟩, h3⟩ := h
    simp only [tins]
    split
    · rename_i hj; subst hj
      simp only [tsorted, Bool.and_eq_true, decide_eq_true_eq]
      exact ⟨⟨h1, hv⟩, h3⟩
    · split
      · rename_i hlt
        simp only [tsorted, Bool.and_eq_true, decide_eq_true_eq]
        refine ⟨⟨?_, hv⟩, ⟨hlt, h2⟩, h3⟩
        cases lo with
        | none => rfl
        | some l => simpa using hk l rfl
      · simp only [tsorted, Bool.and_eq_true, decide_eq_true_eq]
        exact ⟨⟨h1, h2⟩, ih h3 (fun l e => by cases e; omega)⟩

theorem tsorted_tdel [DecidableEq α] {d : α} {lo : Option Nat} {t : Tbl α} (h : tsorted d lo t = true) (k : Nat) :
    tsorted d lo (tdel t k) = true := by
  induction t generalizing lo with
  | nil => simpa [tdel] using h
  | cons e t ih =>
    obtain ⟨j, w⟩ := e
    have h0 := h
    simp only [tsorted, Bool.and_eq_true, decide_eq_true_eq] at h
    obtain ⟨⟨h1, h2⟩, h3⟩ := h
    simp only [tdel]
    split
    · cases lo with
      | none => exact tsorted_none h3
      | some l => exact tsorted_mono h3 (by simp at h1; omega)
    · split
      · exact h0
      · simp only [tsorted, Bool.and_eq_true, decide_eq_true_eq]
        exact ⟨⟨h1, h2⟩, ih h3⟩

/-- Every write keeps the canonical form. -/
theorem twf_tput [DecidableEq α] {d : α} {t : Tbl α} (h : twf d t = true) (k : Nat) (v : α) : twf d (tput d t k v) = true := by
  unfold tput
  split
  · exact tsorted_tdel h k
  · rename_i hv; exact tsorted_tins h hv (fun _ e => by cases e)

theorem tsorted_filter [DecidableEq α] {d : α} {lo : Option Nat} {t : Tbl α} (h : tsorted d lo t = true) (p : Nat × α → Bool) :
    tsorted d lo (t.filter p) = true := by
  induction t generalizing lo with
  | nil => simpa using h
  | cons e t ih =>
    obtain ⟨j, w⟩ := e
    have h0 := h
    simp only [tsorted, Bool.and_eq_true, decide_eq_true_eq] at h
    obtain ⟨⟨h1, h2⟩, h3⟩ := h
    rw [List.filter_cons]
    split
    · simp only [tsorted, Bool.and_eq_true, decide_eq_true_eq]
      exact ⟨⟨h1, h2⟩, ih h3⟩
    · cases lo with
      | none => exact tsorted_none (ih h3)
      | some l => exact tsorted_mono (ih h3) (by simp at h1; omega)

/-- A table cut down to the entries that satisfy p. -/
theorem tget_filter [DecidableEq α] {d : α} {lo : Option Nat} {t : Tbl α} (h : tsorted d lo t = true) (p : Nat × α → Bool) (k : Nat) :
    tget d (t.filter p) k = if p (k, tget d t k) = true then tget d t k else d := by
  induction t generalizing lo with
  | nil =>
    show d = if _ then d else d
    split <;> rfl
  | cons e t ih =>
    obtain ⟨j, w⟩ := e
    simp only [tsorted, Bool.and_eq_true, decide_eq_true_eq] at h
    obtain ⟨⟨-, -⟩, h3⟩ := h
    have hi := ih h3
    rw [List.filter_cons]
    by_cases h1 : j = k
    · subst h1
      have hb : tget d t j = d := tget_below h3 (Nat.le_refl _)
      have hf : tget d (t.filter p) j = d := tget_below (tsorted_filter h3 p) (Nat.le_refl _)
      simp only [tget, if_true]
      split
      · simp only [tget, if_true]
      · exact hf
    · by_cases h2 : k < j
      · have hf : tget d (t.filter p) k = d := tget_below (tsorted_filter h3 p) (Nat.le_of_lt h2)
        simp only [tget, if_neg h1, if_pos h2, ite_self]
        split
        · simp only [tget, if_neg h1, if_pos h2]
        · exact hf
      · simp only [tget, if_neg h1, if_neg h2]
        split
        · simp only [tget, if_neg h1, if_neg h2]; exact hi
        · exact hi

theorem twf_filter [DecidableEq α] {d : α} {t : Tbl α} (h : twf d t = true) (p : Nat × α → Bool) : twf d (t.filter p) = true :=
  tsorted_filter h p

theorem twf_nil [DecidableEq α] (d : α) : twf d [] = true := rfl

/-- Two tables in canonical form that read alike everywhere are equal. -/
theorem twf_ext [DecidableEq α] {d : α} {lo : Option Nat} {t u : Tbl α} (ht : tsorted d lo t = true) (hu : tsorted d lo u = true)
    (h : ∀ k, tget d t k = tget d u k) : t = u := by
  induction t generalizing u lo with
  | nil =>
    cases u with
    | nil => rfl
    | cons e u =>
      obtain ⟨j, w⟩ := e
      have := h j
      simp only [tsorted, Bool.and_eq_true, decide_eq_true_eq] at hu
      simp only [tget, if_true] at this
      exact absurd this.symm hu.1.2
  | cons e t ih =>
    obtain ⟨j, w⟩ := e
    simp only [tsorted, Bool.and_eq_true, decide_eq_true_eq] at ht
    cases u with
    | nil =>
      have := h j
      simp only [tget, if_true] at this
      exact absurd this ht.1.2
    | cons e' u =>
      obtain ⟨j', w'⟩ := e'
      simp only [tsorted, Bool.and_eq_true, decide_eq_true_eq] at hu
      have hj : j = j' := by
        have h1 := h j
        have h2 := h j'
        simp only [tget, if_true] at h1 h2
        by_cases hlt : j < j'
        · rw [if_neg (by omega), if_pos hlt] at h1; exact absurd h1 ht.1.2
        · by_cases hgt : j' < j
          · rw [if_neg (by omega), if_pos hgt] at h2; exact absurd h2.symm hu.1.2
          · omega
      subst hj
      have hw : w = w' := by have := h j; simpa [tget] using this
      subst hw
      rw [ih ht.2 hu.2 fun k => ?_]
      have := h k
      simp only [tget] at this
      by_cases h1 : j = k
      · subst h1; rw [tget_below ht.2 (Nat.le_refl _), tget_below hu.2 (Nat.le_refl _)]
      · rw [if_neg h1, if_neg h1] at this
        by_cases h2 : k < j
        · rw [tget_below ht.2 (by omega), tget_below hu.2 (by omega)]
        · rwa [if_neg h2, if_neg h2] at this

end Sys2Proof.Machine
end

