-- ==== Sys2Proof/Laws/State.lean ====
section
/-!
SUPPORT. Laws/State.lean: each named update of the state, field by field, and the objects read after it.
-/
namespace Sys2Proof.Machine

/-! ### What each update leaves -/

@[simp] theorem onCore_cycle (s : State) (f : Core → Core) : (s.onCore f).cycle = s.cycle := rfl
@[simp] theorem onCore_tick (s : State) (f : Core → Core) : (s.onCore f).tick = s.tick := rfl
@[simp] theorem onCore_phase (s : State) (f : Core → Core) : (s.onCore f).phase = s.phase := rfl
@[simp] theorem onCore_cur (s : State) (f : Core → Core) : (s.onCore f).cur = s.cur := rfl
@[simp] theorem onCore_cores (s : State) (f : Core → Core) : (s.onCore f).cores = s.cores := rfl
@[simp] theorem onCore_pairs (s : State) (f : Core → Core) : (s.onCore f).pairs = s.pairs := rfl
@[simp] theorem onCore_mem (s : State) (f : Core → Core) : (s.onCore f).mem = s.mem := rfl
@[simp] theorem onCore_poison (s : State) (f : Core → Core) : (s.onCore f).poison = s.poison := rfl
@[simp] theorem onCore_badCheck (s : State) (f : Core → Core) : (s.onCore f).badCheck = s.badCheck := rfl
@[simp] theorem onCore_tasks (s : State) (f : Core → Core) : (s.onCore f).tasks = s.tasks := rfl
@[simp] theorem onCore_launches (s : State) (f : Core → Core) : (s.onCore f).launches = s.launches := rfl
@[simp] theorem onCore_groups (s : State) (f : Core → Core) : (s.onCore f).groups = s.groups := rfl
@[simp] theorem onCore_ctxs (s : State) (f : Core → Core) : (s.onCore f).ctxs = s.ctxs := rfl
@[simp] theorem onCore_queues (s : State) (f : Core → Core) : (s.onCore f).queues = s.queues := rfl
@[simp] theorem onCore_futs (s : State) (f : Core → Core) : (s.onCore f).futs = s.futs := rfl
@[simp] theorem onCore_devBars (s : State) (f : Core → Core) : (s.onCore f).devBars = s.devBars := rfl
@[simp] theorem onCore_podBars (s : State) (f : Core → Core) : (s.onCore f).podBars = s.podBars := rfl
@[simp] theorem onCore_sets (s : State) (f : Core → Core) : (s.onCore f).sets = s.sets := rfl
@[simp] theorem onCore_pages (s : State) (f : Core → Core) : (s.onCore f).pages = s.pages := rfl
@[simp] theorem onCore_pantries (s : State) (f : Core → Core) : (s.onCore f).pantries = s.pantries := rfl
@[simp] theorem onCore_scheds (s : State) (f : Core → Core) : (s.onCore f).scheds = s.scheds := rfl
@[simp] theorem onCore_windows (s : State) (f : Core → Core) : (s.onCore f).windows = s.windows := rfl
@[simp] theorem onCore_hub (s : State) (f : Core → Core) : (s.onCore f).hub = s.hub := rfl
@[simp] theorem onCore_planeX (s : State) (f : Core → Core) : (s.onCore f).planeX = s.planeX := rfl
@[simp] theorem onCore_planeY (s : State) (f : Core → Core) : (s.onCore f).planeY = s.planeY := rfl
@[simp] theorem onCore_slots (s : State) (f : Core → Core) : (s.onCore f).slots = s.slots := rfl
@[simp] theorem onCore_agenda (s : State) (f : Core → Core) : (s.onCore f).agenda = s.agenda := rfl
@[simp] theorem onCore_inputs (s : State) (f : Core → Core) : (s.onCore f).inputs = s.inputs := rfl
@[simp] theorem onCore_fresh (s : State) (f : Core → Core) : (s.onCore f).fresh = s.fresh := rfl
@[simp] theorem onCore_seqNo (s : State) (f : Core → Core) : (s.onCore f).seqNo = s.seqNo := rfl
@[simp] theorem onCore_outbox (s : State) (f : Core → Core) : (s.onCore f).outbox = s.outbox := rfl

@[simp] theorem modPair_cycle (s : State) (k : Nat) (f : Pair → Pair) : (s.modPair k f).cycle = s.cycle := rfl
@[simp] theorem modPair_tick (s : State) (k : Nat) (f : Pair → Pair) : (s.modPair k f).tick = s.tick := rfl
@[simp] theorem modPair_phase (s : State) (k : Nat) (f : Pair → Pair) : (s.modPair k f).phase = s.phase := rfl
@[simp] theorem modPair_cur (s : State) (k : Nat) (f : Pair → Pair) : (s.modPair k f).cur = s.cur := rfl
@[simp] theorem modPair_core (s : State) (k : Nat) (f : Pair → Pair) : (s.modPair k f).core = s.core := rfl
@[simp] theorem modPair_cores (s : State) (k : Nat) (f : Pair → Pair) : (s.modPair k f).cores = s.cores := rfl
@[simp] theorem modPair_mem (s : State) (k : Nat) (f : Pair → Pair) : (s.modPair k f).mem = s.mem := rfl
@[simp] theorem modPair_poison (s : State) (k : Nat) (f : Pair → Pair) : (s.modPair k f).poison = s.poison := rfl
@[simp] theorem modPair_badCheck (s : State) (k : Nat) (f : Pair → Pair) : (s.modPair k f).badCheck = s.badCheck := rfl
@[simp] theorem modPair_tasks (s : State) (k : Nat) (f : Pair → Pair) : (s.modPair k f).tasks = s.tasks := rfl
@[simp] theorem modPair_launches (s : State) (k : Nat) (f : Pair → Pair) : (s.modPair k f).launches = s.launches := rfl
@[simp] theorem modPair_groups (s : State) (k : Nat) (f : Pair → Pair) : (s.modPair k f).groups = s.groups := rfl
@[simp] theorem modPair_ctxs (s : State) (k : Nat) (f : Pair → Pair) : (s.modPair k f).ctxs = s.ctxs := rfl
@[simp] theorem modPair_queues (s : State) (k : Nat) (f : Pair → Pair) : (s.modPair k f).queues = s.queues := rfl
@[simp] theorem modPair_futs (s : State) (k : Nat) (f : Pair → Pair) : (s.modPair k f).futs = s.futs := rfl
@[simp] theorem modPair_devBars (s : State) (k : Nat) (f : Pair → Pair) : (s.modPair k f).devBars = s.devBars := rfl
@[simp] theorem modPair_podBars (s : State) (k : Nat) (f : Pair → Pair) : (s.modPair k f).podBars = s.podBars := rfl
@[simp] theorem modPair_sets (s : State) (k : Nat) (f : Pair → Pair) : (s.modPair k f).sets = s.sets := rfl
@[simp] theorem modPair_pages (s : State) (k : Nat) (f : Pair → Pair) : (s.modPair k f).pages = s.pages := rfl
@[simp] theorem modPair_pantries (s : State) (k : Nat) (f : Pair → Pair) : (s.modPair k f).pantries = s.pantries := rfl
@[simp] theorem modPair_scheds (s : State) (k : Nat) (f : Pair → Pair) : (s.modPair k f).scheds = s.scheds := rfl
@[simp] theorem modPair_windows (s : State) (k : Nat) (f : Pair → Pair) : (s.modPair k f).windows = s.windows := rfl
@[simp] theorem modPair_hub (s : State) (k : Nat) (f : Pair → Pair) : (s.modPair k f).hub = s.hub := rfl
@[simp] theorem modPair_planeX (s : State) (k : Nat) (f : Pair → Pair) : (s.modPair k f).planeX = s.planeX := rfl
@[simp] theorem modPair_planeY (s : State) (k : Nat) (f : Pair → Pair) : (s.modPair k f).planeY = s.planeY := rfl
@[simp] theorem modPair_slots (s : State) (k : Nat) (f : Pair → Pair) : (s.modPair k f).slots = s.slots := rfl
@[simp] theorem modPair_agenda (s : State) (k : Nat) (f : Pair → Pair) : (s.modPair k f).agenda = s.agenda := rfl
@[simp] theorem modPair_inputs (s : State) (k : Nat) (f : Pair → Pair) : (s.modPair k f).inputs = s.inputs := rfl
@[simp] theorem modPair_fresh (s : State) (k : Nat) (f : Pair → Pair) : (s.modPair k f).fresh = s.fresh := rfl
@[simp] theorem modPair_seqNo (s : State) (k : Nat) (f : Pair → Pair) : (s.modPair k f).seqNo = s.seqNo := rfl
@[simp] theorem modPair_outbox (s : State) (k : Nat) (f : Pair → Pair) : (s.modPair k f).outbox = s.outbox := rfl

@[simp] theorem modTask_cycle (s : State) (k : Nat) (f : Task → Task) : (s.modTask k f).cycle = s.cycle := rfl
@[simp] theorem modTask_tick (s : State) (k : Nat) (f : Task → Task) : (s.modTask k f).tick = s.tick := rfl
@[simp] theorem modTask_phase (s : State) (k : Nat) (f : Task → Task) : (s.modTask k f).phase = s.phase := rfl
@[simp] theorem modTask_cur (s : State) (k : Nat) (f : Task → Task) : (s.modTask k f).cur = s.cur := rfl
@[simp] theorem modTask_core (s : State) (k : Nat) (f : Task → Task) : (s.modTask k f).core = s.core := rfl
@[simp] theorem modTask_cores (s : State) (k : Nat) (f : Task → Task) : (s.modTask k f).cores = s.cores := rfl
@[simp] theorem modTask_pairs (s : State) (k : Nat) (f : Task → Task) : (s.modTask k f).pairs = s.pairs := rfl
@[simp] theorem modTask_mem (s : State) (k : Nat) (f : Task → Task) : (s.modTask k f).mem = s.mem := rfl
@[simp] theorem modTask_poison (s : State) (k : Nat) (f : Task → Task) : (s.modTask k f).poison = s.poison := rfl
@[simp] theorem modTask_badCheck (s : State) (k : Nat) (f : Task → Task) : (s.modTask k f).badCheck = s.badCheck := rfl
@[simp] theorem modTask_launches (s : State) (k : Nat) (f : Task → Task) : (s.modTask k f).launches = s.launches := rfl
@[simp] theorem modTask_groups (s : State) (k : Nat) (f : Task → Task) : (s.modTask k f).groups = s.groups := rfl
@[simp] theorem modTask_ctxs (s : State) (k : Nat) (f : Task → Task) : (s.modTask k f).ctxs = s.ctxs := rfl
@[simp] theorem modTask_queues (s : State) (k : Nat) (f : Task → Task) : (s.modTask k f).queues = s.queues := rfl
@[simp] theorem modTask_futs (s : State) (k : Nat) (f : Task → Task) : (s.modTask k f).futs = s.futs := rfl
@[simp] theorem modTask_devBars (s : State) (k : Nat) (f : Task → Task) : (s.modTask k f).devBars = s.devBars := rfl
@[simp] theorem modTask_podBars (s : State) (k : Nat) (f : Task → Task) : (s.modTask k f).podBars = s.podBars := rfl
@[simp] theorem modTask_sets (s : State) (k : Nat) (f : Task → Task) : (s.modTask k f).sets = s.sets := rfl
@[simp] theorem modTask_pages (s : State) (k : Nat) (f : Task → Task) : (s.modTask k f).pages = s.pages := rfl
@[simp] theorem modTask_pantries (s : State) (k : Nat) (f : Task → Task) : (s.modTask k f).pantries = s.pantries := rfl
@[simp] theorem modTask_scheds (s : State) (k : Nat) (f : Task → Task) : (s.modTask k f).scheds = s.scheds := rfl
@[simp] theorem modTask_windows (s : State) (k : Nat) (f : Task → Task) : (s.modTask k f).windows = s.windows := rfl
@[simp] theorem modTask_hub (s : State) (k : Nat) (f : Task → Task) : (s.modTask k f).hub = s.hub := rfl
@[simp] theorem modTask_planeX (s : State) (k : Nat) (f : Task → Task) : (s.modTask k f).planeX = s.planeX := rfl
@[simp] theorem modTask_planeY (s : State) (k : Nat) (f : Task → Task) : (s.modTask k f).planeY = s.planeY := rfl
@[simp] theorem modTask_slots (s : State) (k : Nat) (f : Task → Task) : (s.modTask k f).slots = s.slots := rfl
@[simp] theorem modTask_agenda (s : State) (k : Nat) (f : Task → Task) : (s.modTask k f).agenda = s.agenda := rfl
@[simp] theorem modTask_inputs (s : State) (k : Nat) (f : Task → Task) : (s.modTask k f).inputs = s.inputs := rfl
@[simp] theorem modTask_fresh (s : State) (k : Nat) (f : Task → Task) : (s.modTask k f).fresh = s.fresh := rfl
@[simp] theorem modTask_seqNo (s : State) (k : Nat) (f : Task → Task) : (s.modTask k f).seqNo = s.seqNo := rfl
@[simp] theorem modTask_outbox (s : State) (k : Nat) (f : Task → Task) : (s.modTask k f).outbox = s.outbox := rfl

@[simp] theorem modLaunch_cycle (s : State) (k : Nat) (f : Launch → Launch) : (s.modLaunch k f).cycle = s.cycle := rfl
@[simp] theorem modLaunch_tick (s : State) (k : Nat) (f : Launch → Launch) : (s.modLaunch k f).tick = s.tick := rfl
@[simp] theorem modLaunch_phase (s : State) (k : Nat) (f : Launch → Launch) : (s.modLaunch k f).phase = s.phase := rfl
@[simp] theorem modLaunch_cur (s : State) (k : Nat) (f : Launch → Launch) : (s.modLaunch k f).cur = s.cur := rfl
@[simp] theorem modLaunch_core (s : State) (k : Nat) (f : Launch → Launch) : (s.modLaunch k f).core = s.core := rfl
@[simp] theorem modLaunch_cores (s : State) (k : Nat) (f : Launch → Launch) : (s.modLaunch k f).cores = s.cores := rfl
@[simp] theorem modLaunch_pairs (s : State) (k : Nat) (f : Launch → Launch) : (s.modLaunch k f).pairs = s.pairs := rfl
@[simp] theorem modLaunch_mem (s : State) (k : Nat) (f : Launch → Launch) : (s.modLaunch k f).mem = s.mem := rfl
@[simp] theorem modLaunch_poison (s : State) (k : Nat) (f : Launch → Launch) : (s.modLaunch k f).poison = s.poison := rfl
@[simp] theorem modLaunch_badCheck (s : State) (k : Nat) (f : Launch → Launch) : (s.modLaunch k f).badCheck = s.badCheck := rfl
@[simp] theorem modLaunch_tasks (s : State) (k : Nat) (f : Launch → Launch) : (s.modLaunch k f).tasks = s.tasks := rfl
@[simp] theorem modLaunch_groups (s : State) (k : Nat) (f : Launch → Launch) : (s.modLaunch k f).groups = s.groups := rfl
@[simp] theorem modLaunch_ctxs (s : State) (k : Nat) (f : Launch → Launch) : (s.modLaunch k f).ctxs = s.ctxs := rfl
@[simp] theorem modLaunch_queues (s : State) (k : Nat) (f : Launch → Launch) : (s.modLaunch k f).queues = s.queues := rfl
@[simp] theorem modLaunch_futs (s : State) (k : Nat) (f : Launch → Launch) : (s.modLaunch k f).futs = s.futs := rfl
@[simp] theorem modLaunch_devBars (s : State) (k : Nat) (f : Launch → Launch) : (s.modLaunch k f).devBars = s.devBars := rfl
@[simp] theorem modLaunch_podBars (s : State) (k : Nat) (f : Launch → Launch) : (s.modLaunch k f).podBars = s.podBars := rfl
@[simp] theorem modLaunch_sets (s : State) (k : Nat) (f : Launch → Launch) : (s.modLaunch k f).sets = s.sets := rfl
@[simp] theorem modLaunch_pages (s : State) (k : Nat) (f : Launch → Launch) : (s.modLaunch k f).pages = s.pages := rfl
@[simp] theorem modLaunch_pantries (s : State) (k : Nat) (f : Launch → Launch) : (s.modLaunch k f).pantries = s.pantries := rfl
@[simp] theorem modLaunch_scheds (s : State) (k : Nat) (f : Launch → Launch) : (s.modLaunch k f).scheds = s.scheds := rfl
@[simp] theorem modLaunch_windows (s : State) (k : Nat) (f : Launch → Launch) : (s.modLaunch k f).windows = s.windows := rfl
@[simp] theorem modLaunch_hub (s : State) (k : Nat) (f : Launch → Launch) : (s.modLaunch k f).hub = s.hub := rfl
@[simp] theorem modLaunch_planeX (s : State) (k : Nat) (f : Launch → Launch) : (s.modLaunch k f).planeX = s.planeX := rfl
@[simp] theorem modLaunch_planeY (s : State) (k : Nat) (f : Launch → Launch) : (s.modLaunch k f).planeY = s.planeY := rfl
@[simp] theorem modLaunch_slots (s : State) (k : Nat) (f : Launch → Launch) : (s.modLaunch k f).slots = s.slots := rfl
@[simp] theorem modLaunch_agenda (s : State) (k : Nat) (f : Launch → Launch) : (s.modLaunch k f).agenda = s.agenda := rfl
@[simp] theorem modLaunch_inputs (s : State) (k : Nat) (f : Launch → Launch) : (s.modLaunch k f).inputs = s.inputs := rfl
@[simp] theorem modLaunch_fresh (s : State) (k : Nat) (f : Launch → Launch) : (s.modLaunch k f).fresh = s.fresh := rfl
@[simp] theorem modLaunch_seqNo (s : State) (k : Nat) (f : Launch → Launch) : (s.modLaunch k f).seqNo = s.seqNo := rfl
@[simp] theorem modLaunch_outbox (s : State) (k : Nat) (f : Launch → Launch) : (s.modLaunch k f).outbox = s.outbox := rfl

@[simp] theorem modGroup_cycle (s : State) (k : Nat) (f : Group → Group) : (s.modGroup k f).cycle = s.cycle := rfl
@[simp] theorem modGroup_tick (s : State) (k : Nat) (f : Group → Group) : (s.modGroup k f).tick = s.tick := rfl
@[simp] theorem modGroup_phase (s : State) (k : Nat) (f : Group → Group) : (s.modGroup k f).phase = s.phase := rfl
@[simp] theorem modGroup_cur (s : State) (k : Nat) (f : Group → Group) : (s.modGroup k f).cur = s.cur := rfl
@[simp] theorem modGroup_core (s : State) (k : Nat) (f : Group → Group) : (s.modGroup k f).core = s.core := rfl
@[simp] theorem modGroup_cores (s : State) (k : Nat) (f : Group → Group) : (s.modGroup k f).cores = s.cores := rfl
@[simp] theorem modGroup_pairs (s : State) (k : Nat) (f : Group → Group) : (s.modGroup k f).pairs = s.pairs := rfl
@[simp] theorem modGroup_mem (s : State) (k : Nat) (f : Group → Group) : (s.modGroup k f).mem = s.mem := rfl
@[simp] theorem modGroup_poison (s : State) (k : Nat) (f : Group → Group) : (s.modGroup k f).poison = s.poison := rfl
@[simp] theorem modGroup_badCheck (s : State) (k : Nat) (f : Group → Group) : (s.modGroup k f).badCheck = s.badCheck := rfl
@[simp] theorem modGroup_tasks (s : State) (k : Nat) (f : Group → Group) : (s.modGroup k f).tasks = s.tasks := rfl
@[simp] theorem modGroup_launches (s : State) (k : Nat) (f : Group → Group) : (s.modGroup k f).launches = s.launches := rfl
@[simp] theorem modGroup_ctxs (s : State) (k : Nat) (f : Group → Group) : (s.modGroup k f).ctxs = s.ctxs := rfl
@[simp] theorem modGroup_queues (s : State) (k : Nat) (f : Group → Group) : (s.modGroup k f).queues = s.queues := rfl
@[simp] theorem modGroup_futs (s : State) (k : Nat) (f : Group → Group) : (s.modGroup k f).futs = s.futs := rfl
@[simp] theorem modGroup_devBars (s : State) (k : Nat) (f : Group → Group) : (s.modGroup k f).devBars = s.devBars := rfl
@[simp] theorem modGroup_podBars (s : State) (k : Nat) (f : Group → Group) : (s.modGroup k f).podBars = s.podBars := rfl
@[simp] theorem modGroup_sets (s : State) (k : Nat) (f : Group → Group) : (s.modGroup k f).sets = s.sets := rfl
@[simp] theorem modGroup_pages (s : State) (k : Nat) (f : Group → Group) : (s.modGroup k f).pages = s.pages := rfl
@[simp] theorem modGroup_pantries (s : State) (k : Nat) (f : Group → Group) : (s.modGroup k f).pantries = s.pantries := rfl
@[simp] theorem modGroup_scheds (s : State) (k : Nat) (f : Group → Group) : (s.modGroup k f).scheds = s.scheds := rfl
@[simp] theorem modGroup_windows (s : State) (k : Nat) (f : Group → Group) : (s.modGroup k f).windows = s.windows := rfl
@[simp] theorem modGroup_hub (s : State) (k : Nat) (f : Group → Group) : (s.modGroup k f).hub = s.hub := rfl
@[simp] theorem modGroup_planeX (s : State) (k : Nat) (f : Group → Group) : (s.modGroup k f).planeX = s.planeX := rfl
@[simp] theorem modGroup_planeY (s : State) (k : Nat) (f : Group → Group) : (s.modGroup k f).planeY = s.planeY := rfl
@[simp] theorem modGroup_slots (s : State) (k : Nat) (f : Group → Group) : (s.modGroup k f).slots = s.slots := rfl
@[simp] theorem modGroup_agenda (s : State) (k : Nat) (f : Group → Group) : (s.modGroup k f).agenda = s.agenda := rfl
@[simp] theorem modGroup_inputs (s : State) (k : Nat) (f : Group → Group) : (s.modGroup k f).inputs = s.inputs := rfl
@[simp] theorem modGroup_fresh (s : State) (k : Nat) (f : Group → Group) : (s.modGroup k f).fresh = s.fresh := rfl
@[simp] theorem modGroup_seqNo (s : State) (k : Nat) (f : Group → Group) : (s.modGroup k f).seqNo = s.seqNo := rfl
@[simp] theorem modGroup_outbox (s : State) (k : Nat) (f : Group → Group) : (s.modGroup k f).outbox = s.outbox := rfl

@[simp] theorem modCtx_cycle (s : State) (k : Nat) (f : Ctx → Ctx) : (s.modCtx k f).cycle = s.cycle := rfl
@[simp] theorem modCtx_tick (s : State) (k : Nat) (f : Ctx → Ctx) : (s.modCtx k f).tick = s.tick := rfl
@[simp] theorem modCtx_phase (s : State) (k : Nat) (f : Ctx → Ctx) : (s.modCtx k f).phase = s.phase := rfl
@[simp] theorem modCtx_cur (s : State) (k : Nat) (f : Ctx → Ctx) : (s.modCtx k f).cur = s.cur := rfl
@[simp] theorem modCtx_core (s : State) (k : Nat) (f : Ctx → Ctx) : (s.modCtx k f).core = s.core := rfl
@[simp] theorem modCtx_cores (s : State) (k : Nat) (f : Ctx → Ctx) : (s.modCtx k f).cores = s.cores := rfl
@[simp] theorem modCtx_pairs (s : State) (k : Nat) (f : Ctx → Ctx) : (s.modCtx k f).pairs = s.pairs := rfl
@[simp] theorem modCtx_mem (s : State) (k : Nat) (f : Ctx → Ctx) : (s.modCtx k f).mem = s.mem := rfl
@[simp] theorem modCtx_poison (s : State) (k : Nat) (f : Ctx → Ctx) : (s.modCtx k f).poison = s.poison := rfl
@[simp] theorem modCtx_badCheck (s : State) (k : Nat) (f : Ctx → Ctx) : (s.modCtx k f).badCheck = s.badCheck := rfl
@[simp] theorem modCtx_tasks (s : State) (k : Nat) (f : Ctx → Ctx) : (s.modCtx k f).tasks = s.tasks := rfl
@[simp] theorem modCtx_launches (s : State) (k : Nat) (f : Ctx → Ctx) : (s.modCtx k f).launches = s.launches := rfl
@[simp] theorem modCtx_groups (s : State) (k : Nat) (f : Ctx → Ctx) : (s.modCtx k f).groups = s.groups := rfl
@[simp] theorem modCtx_queues (s : State) (k : Nat) (f : Ctx → Ctx) : (s.modCtx k f).queues = s.queues := rfl
@[simp] theorem modCtx_futs (s : State) (k : Nat) (f : Ctx → Ctx) : (s.modCtx k f).futs = s.futs := rfl
@[simp] theorem modCtx_devBars (s : State) (k : Nat) (f : Ctx → Ctx) : (s.modCtx k f).devBars = s.devBars := rfl
@[simp] theorem modCtx_podBars (s : State) (k : Nat) (f : Ctx → Ctx) : (s.modCtx k f).podBars = s.podBars := rfl
@[simp] theorem modCtx_sets (s : State) (k : Nat) (f : Ctx → Ctx) : (s.modCtx k f).sets = s.sets := rfl
@[simp] theorem modCtx_pages (s : State) (k : Nat) (f : Ctx → Ctx) : (s.modCtx k f).pages = s.pages := rfl
@[simp] theorem modCtx_pantries (s : State) (k : Nat) (f : Ctx → Ctx) : (s.modCtx k f).pantries = s.pantries := rfl
@[simp] theorem modCtx_scheds (s : State) (k : Nat) (f : Ctx → Ctx) : (s.modCtx k f).scheds = s.scheds := rfl
@[simp] theorem modCtx_windows (s : State) (k : Nat) (f : Ctx → Ctx) : (s.modCtx k f).windows = s.windows := rfl
@[simp] theorem modCtx_hub (s : State) (k : Nat) (f : Ctx → Ctx) : (s.modCtx k f).hub = s.hub := rfl
@[simp] theorem modCtx_planeX (s : State) (k : Nat) (f : Ctx → Ctx) : (s.modCtx k f).planeX = s.planeX := rfl
@[simp] theorem modCtx_planeY (s : State) (k : Nat) (f : Ctx → Ctx) : (s.modCtx k f).planeY = s.planeY := rfl
@[simp] theorem modCtx_slots (s : State) (k : Nat) (f : Ctx → Ctx) : (s.modCtx k f).slots = s.slots := rfl
@[simp] theorem modCtx_agenda (s : State) (k : Nat) (f : Ctx → Ctx) : (s.modCtx k f).agenda = s.agenda := rfl
@[simp] theorem modCtx_inputs (s : State) (k : Nat) (f : Ctx → Ctx) : (s.modCtx k f).inputs = s.inputs := rfl
@[simp] theorem modCtx_fresh (s : State) (k : Nat) (f : Ctx → Ctx) : (s.modCtx k f).fresh = s.fresh := rfl
@[simp] theorem modCtx_seqNo (s : State) (k : Nat) (f : Ctx → Ctx) : (s.modCtx k f).seqNo = s.seqNo := rfl
@[simp] theorem modCtx_outbox (s : State) (k : Nat) (f : Ctx → Ctx) : (s.modCtx k f).outbox = s.outbox := rfl

@[simp] theorem modQueue_cycle (s : State) (k : Nat) (f : Queue → Queue) : (s.modQueue k f).cycle = s.cycle := rfl
@[simp] theorem modQueue_tick (s : State) (k : Nat) (f : Queue → Queue) : (s.modQueue k f).tick = s.tick := rfl
@[simp] theorem modQueue_phase (s : State) (k : Nat) (f : Queue → Queue) : (s.modQueue k f).phase = s.phase := rfl
@[simp] theorem modQueue_cur (s : State) (k : Nat) (f : Queue → Queue) : (s.modQueue k f).cur = s.cur := rfl
@[simp] theorem modQueue_core (s : State) (k : Nat) (f : Queue → Queue) : (s.modQueue k f).core = s.core := rfl
@[simp] theorem modQueue_cores (s : State) (k : Nat) (f : Queue → Queue) : (s.modQueue k f).cores = s.cores := rfl
@[simp] theorem modQueue_pairs (s : State) (k : Nat) (f : Queue → Queue) : (s.modQueue k f).pairs = s.pairs := rfl
@[simp] theorem modQueue_mem (s : State) (k : Nat) (f : Queue → Queue) : (s.modQueue k f).mem = s.mem := rfl
@[simp] theorem modQueue_poison (s : State) (k : Nat) (f : Queue → Queue) : (s.modQueue k f).poison = s.poison := rfl
@[simp] theorem modQueue_badCheck (s : State) (k : Nat) (f : Queue → Queue) : (s.modQueue k f).badCheck = s.badCheck := rfl
@[simp] theorem modQueue_tasks (s : State) (k : Nat) (f : Queue → Queue) : (s.modQueue k f).tasks = s.tasks := rfl
@[simp] theorem modQueue_launches (s : State) (k : Nat) (f : Queue → Queue) : (s.modQueue k f).launches = s.launches := rfl
@[simp] theorem modQueue_groups (s : State) (k : Nat) (f : Queue → Queue) : (s.modQueue k f).groups = s.groups := rfl
@[simp] theorem modQueue_ctxs (s : State) (k : Nat) (f : Queue → Queue) : (s.modQueue k f).ctxs = s.ctxs := rfl
@[simp] theorem modQueue_futs (s : State) (k : Nat) (f : Queue → Queue) : (s.modQueue k f).futs = s.futs := rfl
@[simp] theorem modQueue_devBars (s : State) (k : Nat) (f : Queue → Queue) : (s.modQueue k f).devBars = s.devBars := rfl
@[simp] theorem modQueue_podBars (s : State) (k : Nat) (f : Queue → Queue) : (s.modQueue k f).podBars = s.podBars := rfl
@[simp] theorem modQueue_sets (s : State) (k : Nat) (f : Queue → Queue) : (s.modQueue k f).sets = s.sets := rfl
@[simp] theorem modQueue_pages (s : State) (k : Nat) (f : Queue → Queue) : (s.modQueue k f).pages = s.pages := rfl
@[simp] theorem modQueue_pantries (s : State) (k : Nat) (f : Queue → Queue) : (s.modQueue k f).pantries = s.pantries := rfl
@[simp] theorem modQueue_scheds (s : State) (k : Nat) (f : Queue → Queue) : (s.modQueue k f).scheds = s.scheds := rfl
@[simp] theorem modQueue_windows (s : State) (k : Nat) (f : Queue → Queue) : (s.modQueue k f).windows = s.windows := rfl
@[simp] theorem modQueue_hub (s : State) (k : Nat) (f : Queue → Queue) : (s.modQueue k f).hub = s.hub := rfl
@[simp] theorem modQueue_planeX (s : State) (k : Nat) (f : Queue → Queue) : (s.modQueue k f).planeX = s.planeX := rfl
@[simp] theorem modQueue_planeY (s : State) (k : Nat) (f : Queue → Queue) : (s.modQueue k f).planeY = s.planeY := rfl
@[simp] theorem modQueue_slots (s : State) (k : Nat) (f : Queue → Queue) : (s.modQueue k f).slots = s.slots := rfl
@[simp] theorem modQueue_agenda (s : State) (k : Nat) (f : Queue → Queue) : (s.modQueue k f).agenda = s.agenda := rfl
@[simp] theorem modQueue_inputs (s : State) (k : Nat) (f : Queue → Queue) : (s.modQueue k f).inputs = s.inputs := rfl
@[simp] theorem modQueue_fresh (s : State) (k : Nat) (f : Queue → Queue) : (s.modQueue k f).fresh = s.fresh := rfl
@[simp] theorem modQueue_seqNo (s : State) (k : Nat) (f : Queue → Queue) : (s.modQueue k f).seqNo = s.seqNo := rfl
@[simp] theorem modQueue_outbox (s : State) (k : Nat) (f : Queue → Queue) : (s.modQueue k f).outbox = s.outbox := rfl

@[simp] theorem modFut_cycle (s : State) (k : Nat) (f : Fut → Fut) : (s.modFut k f).cycle = s.cycle := rfl
@[simp] theorem modFut_tick (s : State) (k : Nat) (f : Fut → Fut) : (s.modFut k f).tick = s.tick := rfl
@[simp] theorem modFut_phase (s : State) (k : Nat) (f : Fut → Fut) : (s.modFut k f).phase = s.phase := rfl
@[simp] theorem modFut_cur (s : State) (k : Nat) (f : Fut → Fut) : (s.modFut k f).cur = s.cur := rfl
@[simp] theorem modFut_core (s : State) (k : Nat) (f : Fut → Fut) : (s.modFut k f).core = s.core := rfl
@[simp] theorem modFut_cores (s : State) (k : Nat) (f : Fut → Fut) : (s.modFut k f).cores = s.cores := rfl
@[simp] theorem modFut_pairs (s : State) (k : Nat) (f : Fut → Fut) : (s.modFut k f).pairs = s.pairs := rfl
@[simp] theorem modFut_mem (s : State) (k : Nat) (f : Fut → Fut) : (s.modFut k f).mem = s.mem := rfl
@[simp] theorem modFut_poison (s : State) (k : Nat) (f : Fut → Fut) : (s.modFut k f).poison = s.poison := rfl
@[simp] theorem modFut_badCheck (s : State) (k : Nat) (f : Fut → Fut) : (s.modFut k f).badCheck = s.badCheck := rfl
@[simp] theorem modFut_tasks (s : State) (k : Nat) (f : Fut → Fut) : (s.modFut k f).tasks = s.tasks := rfl
@[simp] theorem modFut_launches (s : State) (k : Nat) (f : Fut → Fut) : (s.modFut k f).launches = s.launches := rfl
@[simp] theorem modFut_groups (s : State) (k : Nat) (f : Fut → Fut) : (s.modFut k f).groups = s.groups := rfl
@[simp] theorem modFut_ctxs (s : State) (k : Nat) (f : Fut → Fut) : (s.modFut k f).ctxs = s.ctxs := rfl
@[simp] theorem modFut_queues (s : State) (k : Nat) (f : Fut → Fut) : (s.modFut k f).queues = s.queues := rfl
@[simp] theorem modFut_devBars (s : State) (k : Nat) (f : Fut → Fut) : (s.modFut k f).devBars = s.devBars := rfl
@[simp] theorem modFut_podBars (s : State) (k : Nat) (f : Fut → Fut) : (s.modFut k f).podBars = s.podBars := rfl
@[simp] theorem modFut_sets (s : State) (k : Nat) (f : Fut → Fut) : (s.modFut k f).sets = s.sets := rfl
@[simp] theorem modFut_pages (s : State) (k : Nat) (f : Fut → Fut) : (s.modFut k f).pages = s.pages := rfl
@[simp] theorem modFut_pantries (s : State) (k : Nat) (f : Fut → Fut) : (s.modFut k f).pantries = s.pantries := rfl
@[simp] theorem modFut_scheds (s : State) (k : Nat) (f : Fut → Fut) : (s.modFut k f).scheds = s.scheds := rfl
@[simp] theorem modFut_windows (s : State) (k : Nat) (f : Fut → Fut) : (s.modFut k f).windows = s.windows := rfl
@[simp] theorem modFut_hub (s : State) (k : Nat) (f : Fut → Fut) : (s.modFut k f).hub = s.hub := rfl
@[simp] theorem modFut_planeX (s : State) (k : Nat) (f : Fut → Fut) : (s.modFut k f).planeX = s.planeX := rfl
@[simp] theorem modFut_planeY (s : State) (k : Nat) (f : Fut → Fut) : (s.modFut k f).planeY = s.planeY := rfl
@[simp] theorem modFut_slots (s : State) (k : Nat) (f : Fut → Fut) : (s.modFut k f).slots = s.slots := rfl
@[simp] theorem modFut_agenda (s : State) (k : Nat) (f : Fut → Fut) : (s.modFut k f).agenda = s.agenda := rfl
@[simp] theorem modFut_inputs (s : State) (k : Nat) (f : Fut → Fut) : (s.modFut k f).inputs = s.inputs := rfl
@[simp] theorem modFut_fresh (s : State) (k : Nat) (f : Fut → Fut) : (s.modFut k f).fresh = s.fresh := rfl
@[simp] theorem modFut_seqNo (s : State) (k : Nat) (f : Fut → Fut) : (s.modFut k f).seqNo = s.seqNo := rfl
@[simp] theorem modFut_outbox (s : State) (k : Nat) (f : Fut → Fut) : (s.modFut k f).outbox = s.outbox := rfl

@[simp] theorem modSet_cycle (s : State) (k : Nat) (f : ASet → ASet) : (s.modSet k f).cycle = s.cycle := rfl
@[simp] theorem modSet_tick (s : State) (k : Nat) (f : ASet → ASet) : (s.modSet k f).tick = s.tick := rfl
@[simp] theorem modSet_phase (s : State) (k : Nat) (f : ASet → ASet) : (s.modSet k f).phase = s.phase := rfl
@[simp] theorem modSet_cur (s : State) (k : Nat) (f : ASet → ASet) : (s.modSet k f).cur = s.cur := rfl
@[simp] theorem modSet_core (s : State) (k : Nat) (f : ASet → ASet) : (s.modSet k f).core = s.core := rfl
@[simp] theorem modSet_cores (s : State) (k : Nat) (f : ASet → ASet) : (s.modSet k f).cores = s.cores := rfl
@[simp] theorem modSet_pairs (s : State) (k : Nat) (f : ASet → ASet) : (s.modSet k f).pairs = s.pairs := rfl
@[simp] theorem modSet_mem (s : State) (k : Nat) (f : ASet → ASet) : (s.modSet k f).mem = s.mem := rfl
@[simp] theorem modSet_poison (s : State) (k : Nat) (f : ASet → ASet) : (s.modSet k f).poison = s.poison := rfl
@[simp] theorem modSet_badCheck (s : State) (k : Nat) (f : ASet → ASet) : (s.modSet k f).badCheck = s.badCheck := rfl
@[simp] theorem modSet_tasks (s : State) (k : Nat) (f : ASet → ASet) : (s.modSet k f).tasks = s.tasks := rfl
@[simp] theorem modSet_launches (s : State) (k : Nat) (f : ASet → ASet) : (s.modSet k f).launches = s.launches := rfl
@[simp] theorem modSet_groups (s : State) (k : Nat) (f : ASet → ASet) : (s.modSet k f).groups = s.groups := rfl
@[simp] theorem modSet_ctxs (s : State) (k : Nat) (f : ASet → ASet) : (s.modSet k f).ctxs = s.ctxs := rfl
@[simp] theorem modSet_queues (s : State) (k : Nat) (f : ASet → ASet) : (s.modSet k f).queues = s.queues := rfl
@[simp] theorem modSet_futs (s : State) (k : Nat) (f : ASet → ASet) : (s.modSet k f).futs = s.futs := rfl
@[simp] theorem modSet_devBars (s : State) (k : Nat) (f : ASet → ASet) : (s.modSet k f).devBars = s.devBars := rfl
@[simp] theorem modSet_podBars (s : State) (k : Nat) (f : ASet → ASet) : (s.modSet k f).podBars = s.podBars := rfl
@[simp] theorem modSet_pages (s : State) (k : Nat) (f : ASet → ASet) : (s.modSet k f).pages = s.pages := rfl
@[simp] theorem modSet_pantries (s : State) (k : Nat) (f : ASet → ASet) : (s.modSet k f).pantries = s.pantries := rfl
@[simp] theorem modSet_scheds (s : State) (k : Nat) (f : ASet → ASet) : (s.modSet k f).scheds = s.scheds := rfl
@[simp] theorem modSet_windows (s : State) (k : Nat) (f : ASet → ASet) : (s.modSet k f).windows = s.windows := rfl
@[simp] theorem modSet_hub (s : State) (k : Nat) (f : ASet → ASet) : (s.modSet k f).hub = s.hub := rfl
@[simp] theorem modSet_planeX (s : State) (k : Nat) (f : ASet → ASet) : (s.modSet k f).planeX = s.planeX := rfl
@[simp] theorem modSet_planeY (s : State) (k : Nat) (f : ASet → ASet) : (s.modSet k f).planeY = s.planeY := rfl
@[simp] theorem modSet_slots (s : State) (k : Nat) (f : ASet → ASet) : (s.modSet k f).slots = s.slots := rfl
@[simp] theorem modSet_agenda (s : State) (k : Nat) (f : ASet → ASet) : (s.modSet k f).agenda = s.agenda := rfl
@[simp] theorem modSet_inputs (s : State) (k : Nat) (f : ASet → ASet) : (s.modSet k f).inputs = s.inputs := rfl
@[simp] theorem modSet_fresh (s : State) (k : Nat) (f : ASet → ASet) : (s.modSet k f).fresh = s.fresh := rfl
@[simp] theorem modSet_seqNo (s : State) (k : Nat) (f : ASet → ASet) : (s.modSet k f).seqNo = s.seqNo := rfl
@[simp] theorem modSet_outbox (s : State) (k : Nat) (f : ASet → ASet) : (s.modSet k f).outbox = s.outbox := rfl

@[simp] theorem modPage_cycle (s : State) (k : Nat) (f : PageX → PageX) : (s.modPage k f).cycle = s.cycle := rfl
@[simp] theorem modPage_tick (s : State) (k : Nat) (f : PageX → PageX) : (s.modPage k f).tick = s.tick := rfl
@[simp] theorem modPage_phase (s : State) (k : Nat) (f : PageX → PageX) : (s.modPage k f).phase = s.phase := rfl
@[simp] theorem modPage_cur (s : State) (k : Nat) (f : PageX → PageX) : (s.modPage k f).cur = s.cur := rfl
@[simp] theorem modPage_core (s : State) (k : Nat) (f : PageX → PageX) : (s.modPage k f).core = s.core := rfl
@[simp] theorem modPage_cores (s : State) (k : Nat) (f : PageX → PageX) : (s.modPage k f).cores = s.cores := rfl
@[simp] theorem modPage_pairs (s : State) (k : Nat) (f : PageX → PageX) : (s.modPage k f).pairs = s.pairs := rfl
@[simp] theorem modPage_mem (s : State) (k : Nat) (f : PageX → PageX) : (s.modPage k f).mem = s.mem := rfl
@[simp] theorem modPage_poison (s : State) (k : Nat) (f : PageX → PageX) : (s.modPage k f).poison = s.poison := rfl
@[simp] theorem modPage_badCheck (s : State) (k : Nat) (f : PageX → PageX) : (s.modPage k f).badCheck = s.badCheck := rfl
@[simp] theorem modPage_tasks (s : State) (k : Nat) (f : PageX → PageX) : (s.modPage k f).tasks = s.tasks := rfl
@[simp] theorem modPage_launches (s : State) (k : Nat) (f : PageX → PageX) : (s.modPage k f).launches = s.launches := rfl
@[simp] theorem modPage_groups (s : State) (k : Nat) (f : PageX → PageX) : (s.modPage k f).groups = s.groups := rfl
@[simp] theorem modPage_ctxs (s : State) (k : Nat) (f : PageX → PageX) : (s.modPage k f).ctxs = s.ctxs := rfl
@[simp] theorem modPage_queues (s : State) (k : Nat) (f : PageX → PageX) : (s.modPage k f).queues = s.queues := rfl
@[simp] theorem modPage_futs (s : State) (k : Nat) (f : PageX → PageX) : (s.modPage k f).futs = s.futs := rfl
@[simp] theorem modPage_devBars (s : State) (k : Nat) (f : PageX → PageX) : (s.modPage k f).devBars = s.devBars := rfl
@[simp] theorem modPage_podBars (s : State) (k : Nat) (f : PageX → PageX) : (s.modPage k f).podBars = s.podBars := rfl
@[simp] theorem modPage_sets (s : State) (k : Nat) (f : PageX → PageX) : (s.modPage k f).sets = s.sets := rfl
@[simp] theorem modPage_pantries (s : State) (k : Nat) (f : PageX → PageX) : (s.modPage k f).pantries = s.pantries := rfl
@[simp] theorem modPage_scheds (s : State) (k : Nat) (f : PageX → PageX) : (s.modPage k f).scheds = s.scheds := rfl
@[simp] theorem modPage_windows (s : State) (k : Nat) (f : PageX → PageX) : (s.modPage k f).windows = s.windows := rfl
@[simp] theorem modPage_hub (s : State) (k : Nat) (f : PageX → PageX) : (s.modPage k f).hub = s.hub := rfl
@[simp] theorem modPage_planeX (s : State) (k : Nat) (f : PageX → PageX) : (s.modPage k f).planeX = s.planeX := rfl
@[simp] theorem modPage_planeY (s : State) (k : Nat) (f : PageX → PageX) : (s.modPage k f).planeY = s.planeY := rfl
@[simp] theorem modPage_slots (s : State) (k : Nat) (f : PageX → PageX) : (s.modPage k f).slots = s.slots := rfl
@[simp] theorem modPage_agenda (s : State) (k : Nat) (f : PageX → PageX) : (s.modPage k f).agenda = s.agenda := rfl
@[simp] theorem modPage_inputs (s : State) (k : Nat) (f : PageX → PageX) : (s.modPage k f).inputs = s.inputs := rfl
@[simp] theorem modPage_fresh (s : State) (k : Nat) (f : PageX → PageX) : (s.modPage k f).fresh = s.fresh := rfl
@[simp] theorem modPage_seqNo (s : State) (k : Nat) (f : PageX → PageX) : (s.modPage k f).seqNo = s.seqNo := rfl
@[simp] theorem modPage_outbox (s : State) (k : Nat) (f : PageX → PageX) : (s.modPage k f).outbox = s.outbox := rfl

@[simp] theorem modWindow_cycle (s : State) (k : Nat) (f : Window → Window) : (s.modWindow k f).cycle = s.cycle := rfl
@[simp] theorem modWindow_tick (s : State) (k : Nat) (f : Window → Window) : (s.modWindow k f).tick = s.tick := rfl
@[simp] theorem modWindow_phase (s : State) (k : Nat) (f : Window → Window) : (s.modWindow k f).phase = s.phase := rfl
@[simp] theorem modWindow_cur (s : State) (k : Nat) (f : Window → Window) : (s.modWindow k f).cur = s.cur := rfl
@[simp] theorem modWindow_core (s : State) (k : Nat) (f : Window → Window) : (s.modWindow k f).core = s.core := rfl
@[simp] theorem modWindow_cores (s : State) (k : Nat) (f : Window → Window) : (s.modWindow k f).cores = s.cores := rfl
@[simp] theorem modWindow_pairs (s : State) (k : Nat) (f : Window → Window) : (s.modWindow k f).pairs = s.pairs := rfl
@[simp] theorem modWindow_mem (s : State) (k : Nat) (f : Window → Window) : (s.modWindow k f).mem = s.mem := rfl
@[simp] theorem modWindow_poison (s : State) (k : Nat) (f : Window → Window) : (s.modWindow k f).poison = s.poison := rfl
@[simp] theorem modWindow_badCheck (s : State) (k : Nat) (f : Window → Window) : (s.modWindow k f).badCheck = s.badCheck := rfl
@[simp] theorem modWindow_tasks (s : State) (k : Nat) (f : Window → Window) : (s.modWindow k f).tasks = s.tasks := rfl
@[simp] theorem modWindow_launches (s : State) (k : Nat) (f : Window → Window) : (s.modWindow k f).launches = s.launches := rfl
@[simp] theorem modWindow_groups (s : State) (k : Nat) (f : Window → Window) : (s.modWindow k f).groups = s.groups := rfl
@[simp] theorem modWindow_ctxs (s : State) (k : Nat) (f : Window → Window) : (s.modWindow k f).ctxs = s.ctxs := rfl
@[simp] theorem modWindow_queues (s : State) (k : Nat) (f : Window → Window) : (s.modWindow k f).queues = s.queues := rfl
@[simp] theorem modWindow_futs (s : State) (k : Nat) (f : Window → Window) : (s.modWindow k f).futs = s.futs := rfl
@[simp] theorem modWindow_devBars (s : State) (k : Nat) (f : Window → Window) : (s.modWindow k f).devBars = s.devBars := rfl
@[simp] theorem modWindow_podBars (s : State) (k : Nat) (f : Window → Window) : (s.modWindow k f).podBars = s.podBars := rfl
@[simp] theorem modWindow_sets (s : State) (k : Nat) (f : Window → Window) : (s.modWindow k f).sets = s.sets := rfl
@[simp] theorem modWindow_pages (s : State) (k : Nat) (f : Window → Window) : (s.modWindow k f).pages = s.pages := rfl
@[simp] theorem modWindow_pantries (s : State) (k : Nat) (f : Window → Window) : (s.modWindow k f).pantries = s.pantries := rfl
@[simp] theorem modWindow_scheds (s : State) (k : Nat) (f : Window → Window) : (s.modWindow k f).scheds = s.scheds := rfl
@[simp] theorem modWindow_hub (s : State) (k : Nat) (f : Window → Window) : (s.modWindow k f).hub = s.hub := rfl
@[simp] theorem modWindow_planeX (s : State) (k : Nat) (f : Window → Window) : (s.modWindow k f).planeX = s.planeX := rfl
@[simp] theorem modWindow_planeY (s : State) (k : Nat) (f : Window → Window) : (s.modWindow k f).planeY = s.planeY := rfl
@[simp] theorem modWindow_slots (s : State) (k : Nat) (f : Window → Window) : (s.modWindow k f).slots = s.slots := rfl
@[simp] theorem modWindow_agenda (s : State) (k : Nat) (f : Window → Window) : (s.modWindow k f).agenda = s.agenda := rfl
@[simp] theorem modWindow_inputs (s : State) (k : Nat) (f : Window → Window) : (s.modWindow k f).inputs = s.inputs := rfl
@[simp] theorem modWindow_fresh (s : State) (k : Nat) (f : Window → Window) : (s.modWindow k f).fresh = s.fresh := rfl
@[simp] theorem modWindow_seqNo (s : State) (k : Nat) (f : Window → Window) : (s.modWindow k f).seqNo = s.seqNo := rfl
@[simp] theorem modWindow_outbox (s : State) (k : Nat) (f : Window → Window) : (s.modWindow k f).outbox = s.outbox := rfl

@[simp] theorem modHub_cycle (s : State) (f : Hub → Hub) : (s.modHub f).cycle = s.cycle := rfl
@[simp] theorem modHub_tick (s : State) (f : Hub → Hub) : (s.modHub f).tick = s.tick := rfl
@[simp] theorem modHub_phase (s : State) (f : Hub → Hub) : (s.modHub f).phase = s.phase := rfl
@[simp] theorem modHub_cur (s : State) (f : Hub → Hub) : (s.modHub f).cur = s.cur := rfl
@[simp] theorem modHub_core (s : State) (f : Hub → Hub) : (s.modHub f).core = s.core := rfl
@[simp] theorem modHub_cores (s : State) (f : Hub → Hub) : (s.modHub f).cores = s.cores := rfl
@[simp] theorem modHub_pairs (s : State) (f : Hub → Hub) : (s.modHub f).pairs = s.pairs := rfl
@[simp] theorem modHub_mem (s : State) (f : Hub → Hub) : (s.modHub f).mem = s.mem := rfl
@[simp] theorem modHub_poison (s : State) (f : Hub → Hub) : (s.modHub f).poison = s.poison := rfl
@[simp] theorem modHub_badCheck (s : State) (f : Hub → Hub) : (s.modHub f).badCheck = s.badCheck := rfl
@[simp] theorem modHub_tasks (s : State) (f : Hub → Hub) : (s.modHub f).tasks = s.tasks := rfl
@[simp] theorem modHub_launches (s : State) (f : Hub → Hub) : (s.modHub f).launches = s.launches := rfl
@[simp] theorem modHub_groups (s : State) (f : Hub → Hub) : (s.modHub f).groups = s.groups := rfl
@[simp] theorem modHub_ctxs (s : State) (f : Hub → Hub) : (s.modHub f).ctxs = s.ctxs := rfl
@[simp] theorem modHub_queues (s : State) (f : Hub → Hub) : (s.modHub f).queues = s.queues := rfl
@[simp] theorem modHub_futs (s : State) (f : Hub → Hub) : (s.modHub f).futs = s.futs := rfl
@[simp] theorem modHub_devBars (s : State) (f : Hub → Hub) : (s.modHub f).devBars = s.devBars := rfl
@[simp] theorem modHub_podBars (s : State) (f : Hub → Hub) : (s.modHub f).podBars = s.podBars := rfl
@[simp] theorem modHub_sets (s : State) (f : Hub → Hub) : (s.modHub f).sets = s.sets := rfl
@[simp] theorem modHub_pages (s : State) (f : Hub → Hub) : (s.modHub f).pages = s.pages := rfl
@[simp] theorem modHub_pantries (s : State) (f : Hub → Hub) : (s.modHub f).pantries = s.pantries := rfl
@[simp] theorem modHub_scheds (s : State) (f : Hub → Hub) : (s.modHub f).scheds = s.scheds := rfl
@[simp] theorem modHub_windows (s : State) (f : Hub → Hub) : (s.modHub f).windows = s.windows := rfl
@[simp] theorem modHub_planeX (s : State) (f : Hub → Hub) : (s.modHub f).planeX = s.planeX := rfl
@[simp] theorem modHub_planeY (s : State) (f : Hub → Hub) : (s.modHub f).planeY = s.planeY := rfl
@[simp] theorem modHub_slots (s : State) (f : Hub → Hub) : (s.modHub f).slots = s.slots := rfl
@[simp] theorem modHub_agenda (s : State) (f : Hub → Hub) : (s.modHub f).agenda = s.agenda := rfl
@[simp] theorem modHub_inputs (s : State) (f : Hub → Hub) : (s.modHub f).inputs = s.inputs := rfl
@[simp] theorem modHub_fresh (s : State) (f : Hub → Hub) : (s.modHub f).fresh = s.fresh := rfl
@[simp] theorem modHub_seqNo (s : State) (f : Hub → Hub) : (s.modHub f).seqNo = s.seqNo := rfl
@[simp] theorem modHub_outbox (s : State) (f : Hub → Hub) : (s.modHub f).outbox = s.outbox := rfl

@[simp] theorem emit_cycle (s : State) (o : Out) : (s.emit o).cycle = s.cycle := rfl
@[simp] theorem emit_tick (s : State) (o : Out) : (s.emit o).tick = s.tick := rfl
@[simp] theorem emit_phase (s : State) (o : Out) : (s.emit o).phase = s.phase := rfl
@[simp] theorem emit_cur (s : State) (o : Out) : (s.emit o).cur = s.cur := rfl
@[simp] theorem emit_core (s : State) (o : Out) : (s.emit o).core = s.core := rfl
@[simp] theorem emit_cores (s : State) (o : Out) : (s.emit o).cores = s.cores := rfl
@[simp] theorem emit_pairs (s : State) (o : Out) : (s.emit o).pairs = s.pairs := rfl
@[simp] theorem emit_mem (s : State) (o : Out) : (s.emit o).mem = s.mem := rfl
@[simp] theorem emit_poison (s : State) (o : Out) : (s.emit o).poison = s.poison := rfl
@[simp] theorem emit_badCheck (s : State) (o : Out) : (s.emit o).badCheck = s.badCheck := rfl
@[simp] theorem emit_tasks (s : State) (o : Out) : (s.emit o).tasks = s.tasks := rfl
@[simp] theorem emit_launches (s : State) (o : Out) : (s.emit o).launches = s.launches := rfl
@[simp] theorem emit_groups (s : State) (o : Out) : (s.emit o).groups = s.groups := rfl
@[simp] theorem emit_ctxs (s : State) (o : Out) : (s.emit o).ctxs = s.ctxs := rfl
@[simp] theorem emit_queues (s : State) (o : Out) : (s.emit o).queues = s.queues := rfl
@[simp] theorem emit_futs (s : State) (o : Out) : (s.emit o).futs = s.futs := rfl
@[simp] theorem emit_devBars (s : State) (o : Out) : (s.emit o).devBars = s.devBars := rfl
@[simp] theorem emit_podBars (s : State) (o : Out) : (s.emit o).podBars = s.podBars := rfl
@[simp] theorem emit_sets (s : State) (o : Out) : (s.emit o).sets = s.sets := rfl
@[simp] theorem emit_pages (s : State) (o : Out) : (s.emit o).pages = s.pages := rfl
@[simp] theorem emit_pantries (s : State) (o : Out) : (s.emit o).pantries = s.pantries := rfl
@[simp] theorem emit_scheds (s : State) (o : Out) : (s.emit o).scheds = s.scheds := rfl
@[simp] theorem emit_windows (s : State) (o : Out) : (s.emit o).windows = s.windows := rfl
@[simp] theorem emit_hub (s : State) (o : Out) : (s.emit o).hub = s.hub := rfl
@[simp] theorem emit_planeX (s : State) (o : Out) : (s.emit o).planeX = s.planeX := rfl
@[simp] theorem emit_planeY (s : State) (o : Out) : (s.emit o).planeY = s.planeY := rfl
@[simp] theorem emit_slots (s : State) (o : Out) : (s.emit o).slots = s.slots := rfl
@[simp] theorem emit_agenda (s : State) (o : Out) : (s.emit o).agenda = s.agenda := rfl
@[simp] theorem emit_inputs (s : State) (o : Out) : (s.emit o).inputs = s.inputs := rfl
@[simp] theorem emit_fresh (s : State) (o : Out) : (s.emit o).fresh = s.fresh := rfl
@[simp] theorem emit_seqNo (s : State) (o : Out) : (s.emit o).seqNo = s.seqNo := rfl

@[simp] theorem plan_cycle (s : State) (l : List Instr) : (s.plan l).cycle = s.cycle := rfl
@[simp] theorem plan_tick (s : State) (l : List Instr) : (s.plan l).tick = s.tick := rfl
@[simp] theorem plan_phase (s : State) (l : List Instr) : (s.plan l).phase = s.phase := rfl
@[simp] theorem plan_cur (s : State) (l : List Instr) : (s.plan l).cur = s.cur := rfl
@[simp] theorem plan_core (s : State) (l : List Instr) : (s.plan l).core = s.core := rfl
@[simp] theorem plan_cores (s : State) (l : List Instr) : (s.plan l).cores = s.cores := rfl
@[simp] theorem plan_pairs (s : State) (l : List Instr) : (s.plan l).pairs = s.pairs := rfl
@[simp] theorem plan_mem (s : State) (l : List Instr) : (s.plan l).mem = s.mem := rfl
@[simp] theorem plan_poison (s : State) (l : List Instr) : (s.plan l).poison = s.poison := rfl
@[simp] theorem plan_badCheck (s : State) (l : List Instr) : (s.plan l).badCheck = s.badCheck := rfl
@[simp] theorem plan_tasks (s : State) (l : List Instr) : (s.plan l).tasks = s.tasks := rfl
@[simp] theorem plan_launches (s : State) (l : List Instr) : (s.plan l).launches = s.launches := rfl
@[simp] theorem plan_groups (s : State) (l : List Instr) : (s.plan l).groups = s.groups := rfl
@[simp] theorem plan_ctxs (s : State) (l : List Instr) : (s.plan l).ctxs = s.ctxs := rfl
@[simp] theorem plan_queues (s : State) (l : List Instr) : (s.plan l).queues = s.queues := rfl
@[simp] theorem plan_futs (s : State) (l : List Instr) : (s.plan l).futs = s.futs := rfl
@[simp] theorem plan_devBars (s : State) (l : List Instr) : (s.plan l).devBars = s.devBars := rfl
@[simp] theorem plan_podBars (s : State) (l : List Instr) : (s.plan l).podBars = s.podBars := rfl
@[simp] theorem plan_sets (s : State) (l : List Instr) : (s.plan l).sets = s.sets := rfl
@[simp] theorem plan_pages (s : State) (l : List Instr) : (s.plan l).pages = s.pages := rfl
@[simp] theorem plan_pantries (s : State) (l : List Instr) : (s.plan l).pantries = s.pantries := rfl
@[simp] theorem plan_scheds (s : State) (l : List Instr) : (s.plan l).scheds = s.scheds := rfl
@[simp] theorem plan_windows (s : State) (l : List Instr) : (s.plan l).windows = s.windows := rfl
@[simp] theorem plan_hub (s : State) (l : List Instr) : (s.plan l).hub = s.hub := rfl
@[simp] theorem plan_planeX (s : State) (l : List Instr) : (s.plan l).planeX = s.planeX := rfl
@[simp] theorem plan_planeY (s : State) (l : List Instr) : (s.plan l).planeY = s.planeY := rfl
@[simp] theorem plan_slots (s : State) (l : List Instr) : (s.plan l).slots = s.slots := rfl
@[simp] theorem plan_inputs (s : State) (l : List Instr) : (s.plan l).inputs = s.inputs := rfl
@[simp] theorem plan_fresh (s : State) (l : List Instr) : (s.plan l).fresh = s.fresh := rfl
@[simp] theorem plan_seqNo (s : State) (l : List Instr) : (s.plan l).seqNo = s.seqNo := rfl
@[simp] theorem plan_outbox (s : State) (l : List Instr) : (s.plan l).outbox = s.outbox := rfl

@[simp] theorem write_cycle (s : State) (pa : Nat) (bs : List Byte) : (s.write pa bs).cycle = s.cycle := rfl
@[simp] theorem write_tick (s : State) (pa : Nat) (bs : List Byte) : (s.write pa bs).tick = s.tick := rfl
@[simp] theorem write_phase (s : State) (pa : Nat) (bs : List Byte) : (s.write pa bs).phase = s.phase := rfl
@[simp] theorem write_cur (s : State) (pa : Nat) (bs : List Byte) : (s.write pa bs).cur = s.cur := rfl
@[simp] theorem write_core (s : State) (pa : Nat) (bs : List Byte) : (s.write pa bs).core = s.core := rfl
@[simp] theorem write_cores (s : State) (pa : Nat) (bs : List Byte) : (s.write pa bs).cores = s.cores := rfl
@[simp] theorem write_pairs (s : State) (pa : Nat) (bs : List Byte) : (s.write pa bs).pairs = s.pairs := rfl
@[simp] theorem write_tasks (s : State) (pa : Nat) (bs : List Byte) : (s.write pa bs).tasks = s.tasks := rfl
@[simp] theorem write_launches (s : State) (pa : Nat) (bs : List Byte) : (s.write pa bs).launches = s.launches := rfl
@[simp] theorem write_groups (s : State) (pa : Nat) (bs : List Byte) : (s.write pa bs).groups = s.groups := rfl
@[simp] theorem write_ctxs (s : State) (pa : Nat) (bs : List Byte) : (s.write pa bs).ctxs = s.ctxs := rfl
@[simp] theorem write_queues (s : State) (pa : Nat) (bs : List Byte) : (s.write pa bs).queues = s.queues := rfl
@[simp] theorem write_futs (s : State) (pa : Nat) (bs : List Byte) : (s.write pa bs).futs = s.futs := rfl
@[simp] theorem write_devBars (s : State) (pa : Nat) (bs : List Byte) : (s.write pa bs).devBars = s.devBars := rfl
@[simp] theorem write_podBars (s : State) (pa : Nat) (bs : List Byte) : (s.write pa bs).podBars = s.podBars := rfl
@[simp] theorem write_sets (s : State) (pa : Nat) (bs : List Byte) : (s.write pa bs).sets = s.sets := rfl
@[simp] theorem write_pages (s : State) (pa : Nat) (bs : List Byte) : (s.write pa bs).pages = s.pages := rfl
@[simp] theorem write_pantries (s : State) (pa : Nat) (bs : List Byte) : (s.write pa bs).pantries = s.pantries := rfl
@[simp] theorem write_scheds (s : State) (pa : Nat) (bs : List Byte) : (s.write pa bs).scheds = s.scheds := rfl
@[simp] theorem write_windows (s : State) (pa : Nat) (bs : List Byte) : (s.write pa bs).windows = s.windows := rfl
@[simp] theorem write_hub (s : State) (pa : Nat) (bs : List Byte) : (s.write pa bs).hub = s.hub := rfl
@[simp] theorem write_planeX (s : State) (pa : Nat) (bs : List Byte) : (s.write pa bs).planeX = s.planeX := rfl
@[simp] theorem write_planeY (s : State) (pa : Nat) (bs : List Byte) : (s.write pa bs).planeY = s.planeY := rfl
@[simp] theorem write_slots (s : State) (pa : Nat) (bs : List Byte) : (s.write pa bs).slots = s.slots := rfl
@[simp] theorem write_agenda (s : State) (pa : Nat) (bs : List Byte) : (s.write pa bs).agenda = s.agenda := rfl
@[simp] theorem write_inputs (s : State) (pa : Nat) (bs : List Byte) : (s.write pa bs).inputs = s.inputs := rfl
@[simp] theorem write_fresh (s : State) (pa : Nat) (bs : List Byte) : (s.write pa bs).fresh = s.fresh := rfl
@[simp] theorem write_seqNo (s : State) (pa : Nat) (bs : List Byte) : (s.write pa bs).seqNo = s.seqNo := rfl
@[simp] theorem write_outbox (s : State) (pa : Nat) (bs : List Byte) : (s.write pa bs).outbox = s.outbox := rfl

@[simp] theorem poisonSectors_cycle (s : State) (l : List Nat) : (s.poisonSectors l).cycle = s.cycle := rfl
@[simp] theorem poisonSectors_tick (s : State) (l : List Nat) : (s.poisonSectors l).tick = s.tick := rfl
@[simp] theorem poisonSectors_phase (s : State) (l : List Nat) : (s.poisonSectors l).phase = s.phase := rfl
@[simp] theorem poisonSectors_cur (s : State) (l : List Nat) : (s.poisonSectors l).cur = s.cur := rfl
@[simp] theorem poisonSectors_core (s : State) (l : List Nat) : (s.poisonSectors l).core = s.core := rfl
@[simp] theorem poisonSectors_cores (s : State) (l : List Nat) : (s.poisonSectors l).cores = s.cores := rfl
@[simp] theorem poisonSectors_pairs (s : State) (l : List Nat) : (s.poisonSectors l).pairs = s.pairs := rfl
@[simp] theorem poisonSectors_mem (s : State) (l : List Nat) : (s.poisonSectors l).mem = s.mem := rfl
@[simp] theorem poisonSectors_badCheck (s : State) (l : List Nat) : (s.poisonSectors l).badCheck = s.badCheck := rfl
@[simp] theorem poisonSectors_tasks (s : State) (l : List Nat) : (s.poisonSectors l).tasks = s.tasks := rfl
@[simp] theorem poisonSectors_launches (s : State) (l : List Nat) : (s.poisonSectors l).launches = s.launches := rfl
@[simp] theorem poisonSectors_groups (s : State) (l : List Nat) : (s.poisonSectors l).groups = s.groups := rfl
@[simp] theorem poisonSectors_ctxs (s : State) (l : List Nat) : (s.poisonSectors l).ctxs = s.ctxs := rfl
@[simp] theorem poisonSectors_queues (s : State) (l : List Nat) : (s.poisonSectors l).queues = s.queues := rfl
@[simp] theorem poisonSectors_futs (s : State) (l : List Nat) : (s.poisonSectors l).futs = s.futs := rfl
@[simp] theorem poisonSectors_devBars (s : State) (l : List Nat) : (s.poisonSectors l).devBars = s.devBars := rfl
@[simp] theorem poisonSectors_podBars (s : State) (l : List Nat) : (s.poisonSectors l).podBars = s.podBars := rfl
@[simp] theorem poisonSectors_sets (s : State) (l : List Nat) : (s.poisonSectors l).sets = s.sets := rfl
@[simp] theorem poisonSectors_pages (s : State) (l : List Nat) : (s.poisonSectors l).pages = s.pages := rfl
@[simp] theorem poisonSectors_pantries (s : State) (l : List Nat) : (s.poisonSectors l).pantries = s.pantries := rfl
@[simp] theorem poisonSectors_scheds (s : State) (l : List Nat) : (s.poisonSectors l).scheds = s.scheds := rfl
@[simp] theorem poisonSectors_windows (s : State) (l : List Nat) : (s.poisonSectors l).windows = s.windows := rfl
@[simp] theorem poisonSectors_hub (s : State) (l : List Nat) : (s.poisonSectors l).hub = s.hub := rfl
@[simp] theorem poisonSectors_planeX (s : State) (l : List Nat) : (s.poisonSectors l).planeX = s.planeX := rfl
@[simp] theorem poisonSectors_planeY (s : State) (l : List Nat) : (s.poisonSectors l).planeY = s.planeY := rfl
@[simp] theorem poisonSectors_slots (s : State) (l : List Nat) : (s.poisonSectors l).slots = s.slots := rfl
@[simp] theorem poisonSectors_agenda (s : State) (l : List Nat) : (s.poisonSectors l).agenda = s.agenda := rfl
@[simp] theorem poisonSectors_inputs (s : State) (l : List Nat) : (s.poisonSectors l).inputs = s.inputs := rfl
@[simp] theorem poisonSectors_fresh (s : State) (l : List Nat) : (s.poisonSectors l).fresh = s.fresh := rfl
@[simp] theorem poisonSectors_seqNo (s : State) (l : List Nat) : (s.poisonSectors l).seqNo = s.seqNo := rfl
@[simp] theorem poisonSectors_outbox (s : State) (l : List Nat) : (s.poisonSectors l).outbox = s.outbox := rfl

@[simp] theorem setPte_cycle (s : State) (a e : Nat) : (s.setPte a e).cycle = s.cycle := rfl
@[simp] theorem setPte_tick (s : State) (a e : Nat) : (s.setPte a e).tick = s.tick := rfl
@[simp] theorem setPte_phase (s : State) (a e : Nat) : (s.setPte a e).phase = s.phase := rfl
@[simp] theorem setPte_cur (s : State) (a e : Nat) : (s.setPte a e).cur = s.cur := rfl
@[simp] theorem setPte_core (s : State) (a e : Nat) : (s.setPte a e).core = s.core := rfl
@[simp] theorem setPte_cores (s : State) (a e : Nat) : (s.setPte a e).cores = s.cores := rfl
@[simp] theorem setPte_pairs (s : State) (a e : Nat) : (s.setPte a e).pairs = s.pairs := rfl
@[simp] theorem setPte_tasks (s : State) (a e : Nat) : (s.setPte a e).tasks = s.tasks := rfl
@[simp] theorem setPte_launches (s : State) (a e : Nat) : (s.setPte a e).launches = s.launches := rfl
@[simp] theorem setPte_groups (s : State) (a e : Nat) : (s.setPte a e).groups = s.groups := rfl
@[simp] theorem setPte_ctxs (s : State) (a e : Nat) : (s.setPte a e).ctxs = s.ctxs := rfl
@[simp] theorem setPte_queues (s : State) (a e : Nat) : (s.setPte a e).queues = s.queues := rfl
@[simp] theorem setPte_futs (s : State) (a e : Nat) : (s.setPte a e).futs = s.futs := rfl
@[simp] theorem setPte_devBars (s : State) (a e : Nat) : (s.setPte a e).devBars = s.devBars := rfl
@[simp] theorem setPte_podBars (s : State) (a e : Nat) : (s.setPte a e).podBars = s.podBars := rfl
@[simp] theorem setPte_sets (s : State) (a e : Nat) : (s.setPte a e).sets = s.sets := rfl
@[simp] theorem setPte_pages (s : State) (a e : Nat) : (s.setPte a e).pages = s.pages := rfl
@[simp] theorem setPte_pantries (s : State) (a e : Nat) : (s.setPte a e).pantries = s.pantries := rfl
@[simp] theorem setPte_scheds (s : State) (a e : Nat) : (s.setPte a e).scheds = s.scheds := rfl
@[simp] theorem setPte_windows (s : State) (a e : Nat) : (s.setPte a e).windows = s.windows := rfl
@[simp] theorem setPte_hub (s : State) (a e : Nat) : (s.setPte a e).hub = s.hub := rfl
@[simp] theorem setPte_planeX (s : State) (a e : Nat) : (s.setPte a e).planeX = s.planeX := rfl
@[simp] theorem setPte_planeY (s : State) (a e : Nat) : (s.setPte a e).planeY = s.planeY := rfl
@[simp] theorem setPte_slots (s : State) (a e : Nat) : (s.setPte a e).slots = s.slots := rfl
@[simp] theorem setPte_agenda (s : State) (a e : Nat) : (s.setPte a e).agenda = s.agenda := rfl
@[simp] theorem setPte_inputs (s : State) (a e : Nat) : (s.setPte a e).inputs = s.inputs := rfl
@[simp] theorem setPte_fresh (s : State) (a e : Nat) : (s.setPte a e).fresh = s.fresh := rfl
@[simp] theorem setPte_seqNo (s : State) (a e : Nat) : (s.setPte a e).seqNo = s.seqNo := rfl
@[simp] theorem setPte_outbox (s : State) (a e : Nat) : (s.setPte a e).outbox = s.outbox := rfl

@[simp] theorem setRes_cycle (s : State) (a r : Nat) : (s.setRes a r).cycle = s.cycle := rfl
@[simp] theorem setRes_tick (s : State) (a r : Nat) : (s.setRes a r).tick = s.tick := rfl
@[simp] theorem setRes_phase (s : State) (a r : Nat) : (s.setRes a r).phase = s.phase := rfl
@[simp] theorem setRes_cur (s : State) (a r : Nat) : (s.setRes a r).cur = s.cur := rfl
@[simp] theorem setRes_core (s : State) (a r : Nat) : (s.setRes a r).core = s.core := rfl
@[simp] theorem setRes_cores (s : State) (a r : Nat) : (s.setRes a r).cores = s.cores := rfl
@[simp] theorem setRes_pairs (s : State) (a r : Nat) : (s.setRes a r).pairs = s.pairs := rfl
@[simp] theorem setRes_tasks (s : State) (a r : Nat) : (s.setRes a r).tasks = s.tasks := rfl
@[simp] theorem setRes_launches (s : State) (a r : Nat) : (s.setRes a r).launches = s.launches := rfl
@[simp] theorem setRes_groups (s : State) (a r : Nat) : (s.setRes a r).groups = s.groups := rfl
@[simp] theorem setRes_ctxs (s : State) (a r : Nat) : (s.setRes a r).ctxs = s.ctxs := rfl
@[simp] theorem setRes_queues (s : State) (a r : Nat) : (s.setRes a r).queues = s.queues := rfl
@[simp] theorem setRes_futs (s : State) (a r : Nat) : (s.setRes a r).futs = s.futs := rfl
@[simp] theorem setRes_devBars (s : State) (a r : Nat) : (s.setRes a r).devBars = s.devBars := rfl
@[simp] theorem setRes_podBars (s : State) (a r : Nat) : (s.setRes a r).podBars = s.podBars := rfl
@[simp] theorem setRes_sets (s : State) (a r : Nat) : (s.setRes a r).sets = s.sets := rfl
@[simp] theorem setRes_pages (s : State) (a r : Nat) : (s.setRes a r).pages = s.pages := rfl
@[simp] theorem setRes_pantries (s : State) (a r : Nat) : (s.setRes a r).pantries = s.pantries := rfl
@[simp] theorem setRes_scheds (s : State) (a r : Nat) : (s.setRes a r).scheds = s.scheds := rfl
@[simp] theorem setRes_windows (s : State) (a r : Nat) : (s.setRes a r).windows = s.windows := rfl
@[simp] theorem setRes_hub (s : State) (a r : Nat) : (s.setRes a r).hub = s.hub := rfl
@[simp] theorem setRes_planeX (s : State) (a r : Nat) : (s.setRes a r).planeX = s.planeX := rfl
@[simp] theorem setRes_planeY (s : State) (a r : Nat) : (s.setRes a r).planeY = s.planeY := rfl
@[simp] theorem setRes_slots (s : State) (a r : Nat) : (s.setRes a r).slots = s.slots := rfl
@[simp] theorem setRes_agenda (s : State) (a r : Nat) : (s.setRes a r).agenda = s.agenda := rfl
@[simp] theorem setRes_inputs (s : State) (a r : Nat) : (s.setRes a r).inputs = s.inputs := rfl
@[simp] theorem setRes_fresh (s : State) (a r : Nat) : (s.setRes a r).fresh = s.fresh := rfl
@[simp] theorem setRes_seqNo (s : State) (a r : Nat) : (s.setRes a r).seqNo = s.seqNo := rfl
@[simp] theorem setRes_outbox (s : State) (a r : Nat) : (s.setRes a r).outbox = s.outbox := rfl

@[simp] theorem setCore_cycle (s : State) (k : Nat) (c : Core) : (s.setCore k c).cycle = s.cycle := by unfold State.setCore; split <;> rfl
@[simp] theorem setCore_tick (s : State) (k : Nat) (c : Core) : (s.setCore k c).tick = s.tick := by unfold State.setCore; split <;> rfl
@[simp] theorem setCore_phase (s : State) (k : Nat) (c : Core) : (s.setCore k c).phase = s.phase := by unfold State.setCore; split <;> rfl
@[simp] theorem setCore_cur (s : State) (k : Nat) (c : Core) : (s.setCore k c).cur = s.cur := by unfold State.setCore; split <;> rfl
@[simp] theorem setCore_pairs (s : State) (k : Nat) (c : Core) : (s.setCore k c).pairs = s.pairs := by unfold State.setCore; split <;> rfl
@[simp] theorem setCore_mem (s : State) (k : Nat) (c : Core) : (s.setCore k c).mem = s.mem := by unfold State.setCore; split <;> rfl
@[simp] theorem setCore_poison (s : State) (k : Nat) (c : Core) : (s.setCore k c).poison = s.poison := by unfold State.setCore; split <;> rfl
@[simp] theorem setCore_badCheck (s : State) (k : Nat) (c : Core) : (s.setCore k c).badCheck = s.badCheck := by unfold State.setCore; split <;> rfl
@[simp] theorem setCore_tasks (s : State) (k : Nat) (c : Core) : (s.setCore k c).tasks = s.tasks := by unfold State.setCore; split <;> rfl
@[simp] theorem setCore_launches (s : State) (k : Nat) (c : Core) : (s.setCore k c).launches = s.launches := by unfold State.setCore; split <;> rfl
@[simp] theorem setCore_groups (s : State) (k : Nat) (c : Core) : (s.setCore k c).groups = s.groups := by unfold State.setCore; split <;> rfl
@[simp] theorem setCore_ctxs (s : State) (k : Nat) (c : Core) : (s.setCore k c).ctxs = s.ctxs := by unfold State.setCore; split <;> rfl
@[simp] theorem setCore_queues (s : State) (k : Nat) (c : Core) : (s.setCore k c).queues = s.queues := by unfold State.setCore; split <;> rfl
@[simp] theorem setCore_futs (s : State) (k : Nat) (c : Core) : (s.setCore k c).futs = s.futs := by unfold State.setCore; split <;> rfl
@[simp] theorem setCore_devBars (s : State) (k : Nat) (c : Core) : (s.setCore k c).devBars = s.devBars := by unfold State.setCore; split <;> rfl
@[simp] theorem setCore_podBars (s : State) (k : Nat) (c : Core) : (s.setCore k c).podBars = s.podBars := by unfold State.setCore; split <;> rfl
@[simp] theorem setCore_sets (s : State) (k : Nat) (c : Core) : (s.setCore k c).sets = s.sets := by unfold State.setCore; split <;> rfl
@[simp] theorem setCore_pages (s : State) (k : Nat) (c : Core) : (s.setCore k c).pages = s.pages := by unfold State.setCore; split <;> rfl
@[simp] theorem setCore_pantries (s : State) (k : Nat) (c : Core) : (s.setCore k c).pantries = s.pantries := by unfold State.setCore; split <;> rfl
@[simp] theorem setCore_scheds (s : State) (k : Nat) (c : Core) : (s.setCore k c).scheds = s.scheds := by unfold State.setCore; split <;> rfl
@[simp] theorem setCore_windows (s : State) (k : Nat) (c : Core) : (s.setCore k c).windows = s.windows := by unfold State.setCore; split <;> rfl
@[simp] theorem setCore_hub (s : State) (k : Nat) (c : Core) : (s.setCore k c).hub = s.hub := by unfold State.setCore; split <;> rfl
@[simp] theorem setCore_planeX (s : State) (k : Nat) (c : Core) : (s.setCore k c).planeX = s.planeX := by unfold State.setCore; split <;> rfl
@[simp] theorem setCore_planeY (s : State) (k : Nat) (c : Core) : (s.setCore k c).planeY = s.planeY := by unfold State.setCore; split <;> rfl
@[simp] theorem setCore_slots (s : State) (k : Nat) (c : Core) : (s.setCore k c).slots = s.slots := by unfold State.setCore; split <;> rfl
@[simp] theorem setCore_agenda (s : State) (k : Nat) (c : Core) : (s.setCore k c).agenda = s.agenda := by unfold State.setCore; split <;> rfl
@[simp] theorem setCore_inputs (s : State) (k : Nat) (c : Core) : (s.setCore k c).inputs = s.inputs := by unfold State.setCore; split <;> rfl
@[simp] theorem setCore_fresh (s : State) (k : Nat) (c : Core) : (s.setCore k c).fresh = s.fresh := by unfold State.setCore; split <;> rfl
@[simp] theorem setCore_seqNo (s : State) (k : Nat) (c : Core) : (s.setCore k c).seqNo = s.seqNo := by unfold State.setCore; split <;> rfl
@[simp] theorem setCore_outbox (s : State) (k : Nat) (c : Core) : (s.setCore k c).outbox = s.outbox := by unfold State.setCore; split <;> rfl

@[simp] theorem modCore_cycle (s : State) (k : Nat) (f : Core → Core) : (s.modCore k f).cycle = s.cycle := setCore_cycle _ _ _
@[simp] theorem modCore_tick (s : State) (k : Nat) (f : Core → Core) : (s.modCore k f).tick = s.tick := setCore_tick _ _ _
@[simp] theorem modCore_phase (s : State) (k : Nat) (f : Core → Core) : (s.modCore k f).phase = s.phase := setCore_phase _ _ _
@[simp] theorem modCore_cur (s : State) (k : Nat) (f : Core → Core) : (s.modCore k f).cur = s.cur := setCore_cur _ _ _
@[simp] theorem modCore_pairs (s : State) (k : Nat) (f : Core → Core) : (s.modCore k f).pairs = s.pairs := setCore_pairs _ _ _
@[simp] theorem modCore_mem (s : State) (k : Nat) (f : Core → Core) : (s.modCore k f).mem = s.mem := setCore_mem _ _ _
@[simp] theorem modCore_poison (s : State) (k : Nat) (f : Core → Core) : (s.modCore k f).poison = s.poison := setCore_poison _ _ _
@[simp] theorem modCore_badCheck (s : State) (k : Nat) (f : Core → Core) : (s.modCore k f).badCheck = s.badCheck := setCore_badCheck _ _ _
@[simp] theorem modCore_tasks (s : State) (k : Nat) (f : Core → Core) : (s.modCore k f).tasks = s.tasks := setCore_tasks _ _ _
@[simp] theorem modCore_launches (s : State) (k : Nat) (f : Core → Core) : (s.modCore k f).launches = s.launches := setCore_launches _ _ _
@[simp] theorem modCore_groups (s : State) (k : Nat) (f : Core → Core) : (s.modCore k f).groups = s.groups := setCore_groups _ _ _
@[simp] theorem modCore_ctxs (s : State) (k : Nat) (f : Core → Core) : (s.modCore k f).ctxs = s.ctxs := setCore_ctxs _ _ _
@[simp] theorem modCore_queues (s : State) (k : Nat) (f : Core → Core) : (s.modCore k f).queues = s.queues := setCore_queues _ _ _
@[simp] theorem modCore_futs (s : State) (k : Nat) (f : Core → Core) : (s.modCore k f).futs = s.futs := setCore_futs _ _ _
@[simp] theorem modCore_devBars (s : State) (k : Nat) (f : Core → Core) : (s.modCore k f).devBars = s.devBars := setCore_devBars _ _ _
@[simp] theorem modCore_podBars (s : State) (k : Nat) (f : Core → Core) : (s.modCore k f).podBars = s.podBars := setCore_podBars _ _ _
@[simp] theorem modCore_sets (s : State) (k : Nat) (f : Core → Core) : (s.modCore k f).sets = s.sets := setCore_sets _ _ _
@[simp] theorem modCore_pages (s : State) (k : Nat) (f : Core → Core) : (s.modCore k f).pages = s.pages := setCore_pages _ _ _
@[simp] theorem modCore_pantries (s : State) (k : Nat) (f : Core → Core) : (s.modCore k f).pantries = s.pantries := setCore_pantries _ _ _
@[simp] theorem modCore_scheds (s : State) (k : Nat) (f : Core → Core) : (s.modCore k f).scheds = s.scheds := setCore_scheds _ _ _
@[simp] theorem modCore_windows (s : State) (k : Nat) (f : Core → Core) : (s.modCore k f).windows = s.windows := setCore_windows _ _ _
@[simp] theorem modCore_hub (s : State) (k : Nat) (f : Core → Core) : (s.modCore k f).hub = s.hub := setCore_hub _ _ _
@[simp] theorem modCore_planeX (s : State) (k : Nat) (f : Core → Core) : (s.modCore k f).planeX = s.planeX := setCore_planeX _ _ _
@[simp] theorem modCore_planeY (s : State) (k : Nat) (f : Core → Core) : (s.modCore k f).planeY = s.planeY := setCore_planeY _ _ _
@[simp] theorem modCore_slots (s : State) (k : Nat) (f : Core → Core) : (s.modCore k f).slots = s.slots := setCore_slots _ _ _
@[simp] theorem modCore_agenda (s : State) (k : Nat) (f : Core → Core) : (s.modCore k f).agenda = s.agenda := setCore_agenda _ _ _
@[simp] theorem modCore_inputs (s : State) (k : Nat) (f : Core → Core) : (s.modCore k f).inputs = s.inputs := setCore_inputs _ _ _
@[simp] theorem modCore_fresh (s : State) (k : Nat) (f : Core → Core) : (s.modCore k f).fresh = s.fresh := setCore_fresh _ _ _
@[simp] theorem modCore_seqNo (s : State) (k : Nat) (f : Core → Core) : (s.modCore k f).seqNo = s.seqNo := setCore_seqNo _ _ _
@[simp] theorem modCore_outbox (s : State) (k : Nat) (f : Core → Core) : (s.modCore k f).outbox = s.outbox := setCore_outbox _ _ _

@[simp] theorem modPlane_cycle (s : State) (p : Plane) (f : PlaneSt → PlaneSt) : (s.modPlane p f).cycle = s.cycle := by cases p <;> rfl
@[simp] theorem modPlane_tick (s : State) (p : Plane) (f : PlaneSt → PlaneSt) : (s.modPlane p f).tick = s.tick := by cases p <;> rfl
@[simp] theorem modPlane_phase (s : State) (p : Plane) (f : PlaneSt → PlaneSt) : (s.modPlane p f).phase = s.phase := by cases p <;> rfl
@[simp] theorem modPlane_cur (s : State) (p : Plane) (f : PlaneSt → PlaneSt) : (s.modPlane p f).cur = s.cur := by cases p <;> rfl
@[simp] theorem modPlane_core (s : State) (p : Plane) (f : PlaneSt → PlaneSt) : (s.modPlane p f).core = s.core := by cases p <;> rfl
@[simp] theorem modPlane_cores (s : State) (p : Plane) (f : PlaneSt → PlaneSt) : (s.modPlane p f).cores = s.cores := by cases p <;> rfl
@[simp] theorem modPlane_pairs (s : State) (p : Plane) (f : PlaneSt → PlaneSt) : (s.modPlane p f).pairs = s.pairs := by cases p <;> rfl
@[simp] theorem modPlane_mem (s : State) (p : Plane) (f : PlaneSt → PlaneSt) : (s.modPlane p f).mem = s.mem := by cases p <;> rfl
@[simp] theorem modPlane_poison (s : State) (p : Plane) (f : PlaneSt → PlaneSt) : (s.modPlane p f).poison = s.poison := by cases p <;> rfl
@[simp] theorem modPlane_badCheck (s : State) (p : Plane) (f : PlaneSt → PlaneSt) : (s.modPlane p f).badCheck = s.badCheck := by cases p <;> rfl
@[simp] theorem modPlane_tasks (s : State) (p : Plane) (f : PlaneSt → PlaneSt) : (s.modPlane p f).tasks = s.tasks := by cases p <;> rfl
@[simp] theorem modPlane_launches (s : State) (p : Plane) (f : PlaneSt → PlaneSt) : (s.modPlane p f).launches = s.launches := by cases p <;> rfl
@[simp] theorem modPlane_groups (s : State) (p : Plane) (f : PlaneSt → PlaneSt) : (s.modPlane p f).groups = s.groups := by cases p <;> rfl
@[simp] theorem modPlane_ctxs (s : State) (p : Plane) (f : PlaneSt → PlaneSt) : (s.modPlane p f).ctxs = s.ctxs := by cases p <;> rfl
@[simp] theorem modPlane_queues (s : State) (p : Plane) (f : PlaneSt → PlaneSt) : (s.modPlane p f).queues = s.queues := by cases p <;> rfl
@[simp] theorem modPlane_futs (s : State) (p : Plane) (f : PlaneSt → PlaneSt) : (s.modPlane p f).futs = s.futs := by cases p <;> rfl
@[simp] theorem modPlane_devBars (s : State) (p : Plane) (f : PlaneSt → PlaneSt) : (s.modPlane p f).devBars = s.devBars := by cases p <;> rfl
@[simp] theorem modPlane_podBars (s : State) (p : Plane) (f : PlaneSt → PlaneSt) : (s.modPlane p f).podBars = s.podBars := by cases p <;> rfl
@[simp] theorem modPlane_sets (s : State) (p : Plane) (f : PlaneSt → PlaneSt) : (s.modPlane p f).sets = s.sets := by cases p <;> rfl
@[simp] theorem modPlane_pages (s : State) (p : Plane) (f : PlaneSt → PlaneSt) : (s.modPlane p f).pages = s.pages := by cases p <;> rfl
@[simp] theorem modPlane_pantries (s : State) (p : Plane) (f : PlaneSt → PlaneSt) : (s.modPlane p f).pantries = s.pantries := by cases p <;> rfl
@[simp] theorem modPlane_scheds (s : State) (p : Plane) (f : PlaneSt → PlaneSt) : (s.modPlane p f).scheds = s.scheds := by cases p <;> rfl
@[simp] theorem modPlane_windows (s : State) (p : Plane) (f : PlaneSt → PlaneSt) : (s.modPlane p f).windows = s.windows := by cases p <;> rfl
@[simp] theorem modPlane_hub (s : State) (p : Plane) (f : PlaneSt → PlaneSt) : (s.modPlane p f).hub = s.hub := by cases p <;> rfl
@[simp] theorem modPlane_slots (s : State) (p : Plane) (f : PlaneSt → PlaneSt) : (s.modPlane p f).slots = s.slots := by cases p <;> rfl
@[simp] theorem modPlane_agenda (s : State) (p : Plane) (f : PlaneSt → PlaneSt) : (s.modPlane p f).agenda = s.agenda := by cases p <;> rfl
@[simp] theorem modPlane_inputs (s : State) (p : Plane) (f : PlaneSt → PlaneSt) : (s.modPlane p f).inputs = s.inputs := by cases p <;> rfl
@[simp] theorem modPlane_fresh (s : State) (p : Plane) (f : PlaneSt → PlaneSt) : (s.modPlane p f).fresh = s.fresh := by cases p <;> rfl
@[simp] theorem modPlane_seqNo (s : State) (p : Plane) (f : PlaneSt → PlaneSt) : (s.modPlane p f).seqNo = s.seqNo := by cases p <;> rfl
@[simp] theorem modPlane_outbox (s : State) (p : Plane) (f : PlaneSt → PlaneSt) : (s.modPlane p f).outbox = s.outbox := by cases p <;> rfl

@[simp] theorem focus_cycle (s : State) (k : Nat) : (s.focus k).cycle = s.cycle := by unfold State.focus; split <;> rfl
@[simp] theorem focus_tick (s : State) (k : Nat) : (s.focus k).tick = s.tick := by unfold State.focus; split <;> rfl
@[simp] theorem focus_phase (s : State) (k : Nat) : (s.focus k).phase = s.phase := by unfold State.focus; split <;> rfl
@[simp] theorem focus_pairs (s : State) (k : Nat) : (s.focus k).pairs = s.pairs := by unfold State.focus; split <;> rfl
@[simp] theorem focus_mem (s : State) (k : Nat) : (s.focus k).mem = s.mem := by unfold State.focus; split <;> rfl
@[simp] theorem focus_poison (s : State) (k : Nat) : (s.focus k).poison = s.poison := by unfold State.focus; split <;> rfl
@[simp] theorem focus_badCheck (s : State) (k : Nat) : (s.focus k).badCheck = s.badCheck := by unfold State.focus; split <;> rfl
@[simp] theorem focus_tasks (s : State) (k : Nat) : (s.focus k).tasks = s.tasks := by unfold State.focus; split <;> rfl
@[simp] theorem focus_launches (s : State) (k : Nat) : (s.focus k).launches = s.launches := by unfold State.focus; split <;> rfl
@[simp] theorem focus_groups (s : State) (k : Nat) : (s.focus k).groups = s.groups := by unfold State.focus; split <;> rfl
@[simp] theorem focus_ctxs (s : State) (k : Nat) : (s.focus k).ctxs = s.ctxs := by unfold State.focus; split <;> rfl
@[simp] theorem focus_queues (s : State) (k : Nat) : (s.focus k).queues = s.queues := by unfold State.focus; split <;> rfl
@[simp] theorem focus_futs (s : State) (k : Nat) : (s.focus k).futs = s.futs := by unfold State.focus; split <;> rfl
@[simp] theorem focus_devBars (s : State) (k : Nat) : (s.focus k).devBars = s.devBars := by unfold State.focus; split <;> rfl
@[simp] theorem focus_podBars (s : State) (k : Nat) : (s.focus k).podBars = s.podBars := by unfold State.focus; split <;> rfl
@[simp] theorem focus_sets (s : State) (k : Nat) : (s.focus k).sets = s.sets := by unfold State.focus; split <;> rfl
@[simp] theorem focus_pages (s : State) (k : Nat) : (s.focus k).pages = s.pages := by unfold State.focus; split <;> rfl
@[simp] theorem focus_pantries (s : State) (k : Nat) : (s.focus k).pantries = s.pantries := by unfold State.focus; split <;> rfl
@[simp] theorem focus_scheds (s : State) (k : Nat) : (s.focus k).scheds = s.scheds := by unfold State.focus; split <;> rfl
@[simp] theorem focus_windows (s : State) (k : Nat) : (s.focus k).windows = s.windows := by unfold State.focus; split <;> rfl
@[simp] theorem focus_hub (s : State) (k : Nat) : (s.focus k).hub = s.hub := by unfold State.focus; split <;> rfl
@[simp] theorem focus_planeX (s : State) (k : Nat) : (s.focus k).planeX = s.planeX := by unfold State.focus; split <;> rfl
@[simp] theorem focus_planeY (s : State) (k : Nat) : (s.focus k).planeY = s.planeY := by unfold State.focus; split <;> rfl
@[simp] theorem focus_slots (s : State) (k : Nat) : (s.focus k).slots = s.slots := by unfold State.focus; split <;> rfl
@[simp] theorem focus_agenda (s : State) (k : Nat) : (s.focus k).agenda = s.agenda := by unfold State.focus; split <;> rfl
@[simp] theorem focus_inputs (s : State) (k : Nat) : (s.focus k).inputs = s.inputs := by unfold State.focus; split <;> rfl
@[simp] theorem focus_fresh (s : State) (k : Nat) : (s.focus k).fresh = s.fresh := by unfold State.focus; split <;> rfl
@[simp] theorem focus_seqNo (s : State) (k : Nat) : (s.focus k).seqNo = s.seqNo := by unfold State.focus; split <;> rfl
@[simp] theorem focus_outbox (s : State) (k : Nat) : (s.focus k).outbox = s.outbox := by unfold State.focus; split <;> rfl

/-! ### What each update changes -/

theorem tget_tmod {α : Type} [DecidableEq α] {d : α} {t : Tbl α} (h : twf d t = true) (k : Nat) (f : α → α) (j : Nat) :
    tget d (tmod d t k f) j = if j = k then f (tget d t k) else tget d t j := tget_tput h k _ j
theorem twf_tmod {α : Type} [DecidableEq α] {d : α} {t : Tbl α} (h : twf d t = true) (k : Nat) (f : α → α) :
    twf d (tmod d t k f) = true := twf_tput h k _

/-- The listed numbers of a canonical table are those with a value other than the default. -/
theorem mem_tkeys {α : Type} [DecidableEq α] {d : α} {lo : Option Nat} {t : Tbl α} (h : tsorted d lo t = true) (k : Nat) :
    k ∈ tkeys t ↔ tget d t k ≠ d := by
  induction t generalizing lo with
  | nil => simp [tkeys, tget]
  | cons e t ih =>
    obtain ⟨j, w⟩ := e
    simp only [tsorted, Bool.and_eq_true, decide_eq_true_eq] at h
    have hi := ih h.2
    simp only [tkeys, List.map_cons, List.mem_cons, tget] at hi ⊢
    by_cases h1 : j = k
    · subst h1; simp [h.1.2]
    · rw [if_neg h1]
      by_cases h2 : k < j
      · rw [if_pos h2]
        have := tget_below h.2 (Nat.le_of_lt h2)
        rw [hi, this]; simp [Ne.symm h1]
      · rw [if_neg h2, hi]; simp [Ne.symm h1]

theorem tkeys_above {α : Type} [DecidableEq α] {d : α} {lo : Nat} {t : Tbl α} (h : tsorted d (some lo) t = true) : ∀ k ∈ tkeys t, lo < k := by
  intro k hk
  by_contra hn
  exact (mem_tkeys h k).1 hk (tget_below h (by omega))

theorem tkeys_nodup {α : Type} [DecidableEq α] {d : α} {lo : Option Nat} {t : Tbl α} (h : tsorted d lo t = true) : (tkeys t).Nodup := by
  induction t generalizing lo with
  | nil => exact List.nodup_nil
  | cons e t ih =>
    obtain ⟨j, w⟩ := e
    simp only [tsorted, Bool.and_eq_true, decide_eq_true_eq] at h
    refine List.nodup_cons.2 ⟨fun hm => ?_, ih h.2⟩
    exact absurd (tkeys_above h.2 j hm) (Nat.lt_irrefl j)

theorem task_modTask {s : State} (h : twf {} s.tasks = true) (k : Nat) (f : Task → Task) (j : Nat) :
    (s.modTask k f).task j = if j = k then f (s.task k) else s.task j := tget_tmod h k f j
theorem twf_modTask {s : State} (h : twf {} s.tasks = true) (k : Nat) (f : Task → Task) : twf {} (s.modTask k f).tasks = true :=
  twf_tmod h k f
theorem fut_modFut {s : State} (h : twf {} s.futs = true) (k : Nat) (f : Fut → Fut) (j : Nat) :
    (s.modFut k f).fut j = if j = k then f (s.fut k) else s.fut j := tget_tmod h k f j
theorem launchOf_modLaunch {s : State} (h : twf {} s.launches = true) (k : Nat) (f : Launch → Launch) (j : Nat) :
    (s.modLaunch k f).launchOf j = if j = k then f (s.launchOf k) else s.launchOf j := tget_tmod h k f j
theorem group_modGroup {s : State} (h : twf {} s.groups = true) (k : Nat) (f : Group → Group) (j : Nat) :
    (s.modGroup k f).group j = if j = k then f (s.group k) else s.group j := tget_tmod h k f j
theorem ctx_modCtx {s : State} (h : twf {} s.ctxs = true) (k : Nat) (f : Ctx → Ctx) (j : Nat) :
    (s.modCtx k f).ctx j = if j = k then f (s.ctx k) else s.ctx j := tget_tmod h k f j
theorem queue_modQueue {s : State} (h : twf {} s.queues = true) (k : Nat) (f : Queue → Queue) (j : Nat) :
    (s.modQueue k f).queue j = if j = k then f (s.queue k) else s.queue j := tget_tmod h k f j
theorem aset_modSet {s : State} (h : twf {} s.sets = true) (k : Nat) (f : ASet → ASet) (j : Nat) :
    (s.modSet k f).aset j = if j = k then f (s.aset k) else s.aset j := tget_tmod h k f j
theorem page_modPage {s : State} (h : twf {} s.pages = true) (k : Nat) (f : PageX → PageX) (j : Nat) :
    (s.modPage k f).page j = if j = k then f (s.page k) else s.page j := tget_tmod h k f j
theorem window_modWindow {s : State} (h : twf {} s.windows = true) (k : Nat) (f : Window → Window) (j : Nat) :
    (s.modWindow k f).window j = if j = k then f (s.window k) else s.window j := tget_tmod h k f j
theorem pairAt_modPair {s : State} (h : twf Pair.reset s.pairs = true) (k : Nat) (f : Pair → Pair) (j : Nat) :
    (s.modPair k f).pairAt j = if j = k then f (s.pairAt k) else s.pairAt j := tget_tmod h k f j

/-- A core written is the core read, and no other core changes. -/
theorem coreAt_setCore {s : State} (h : twf Core.reset s.cores = true) (k : Nat) (c : Core) (j : Nat) :
    (s.setCore k c).coreAt j = if j = k then c else s.coreAt j := by
  unfold State.setCore
  split
  · rename_i e; subst e; simp only [State.coreAt]; split <;> rfl
  · rename_i e
    simp only [State.coreAt, tget_tput h]
    by_cases h1 : j = s.cur
    · rw [if_pos h1, if_pos h1, if_neg (fun e' => e (by rw [← e', h1]))]
    · rw [if_neg h1, if_neg h1]
theorem coreAt_modCore {s : State} (h : twf Core.reset s.cores = true) (k : Nat) (f : Core → Core) (j : Nat) :
    (s.modCore k f).coreAt j = if j = k then f (s.coreAt k) else s.coreAt j := coreAt_setCore h k _ j
theorem twf_setCore {s : State} (h : twf Core.reset s.cores = true) (k : Nat) (c : Core) : twf Core.reset (s.setCore k c).cores = true := by
  unfold State.setCore; split
  · exact h
  · exact twf_tput h k c
theorem twf_modCore {s : State} (h : twf Core.reset s.cores = true) (k : Nat) (f : Core → Core) : twf Core.reset (s.modCore k f).cores = true :=
  twf_setCore h k _
/-- Bringing a core into focus changes no core. -/
theorem coreAt_focus {s : State} (h : twf Core.reset s.cores = true) (k j : Nat) : (s.focus k).coreAt j = s.coreAt j := by
  unfold State.focus
  split
  · rfl
  · rename_i e
    have h1 := twf_tput h s.cur s.core
    simp only [State.coreAt, tget_tput h1, tget_tput h]
    by_cases h2 : j = k
    · subst h2; rw [if_pos rfl, if_neg e]
    · rw [if_neg h2, if_neg h2]
theorem focus_core (s : State) (k : Nat) : (s.focus k).core = s.coreAt k ∧ (s.focus k).cur = k := by
  unfold State.focus State.coreAt
  split
  · rename_i e; exact ⟨rfl, e.symm⟩
  · exact ⟨rfl, rfl⟩
theorem focus_cur (s : State) : s.focus s.cur = s := if_pos rfl

theorem plane_modPlane (s : State) (p q : Plane) (f : PlaneSt → PlaneSt) :
    (s.modPlane p f).plane q = if q = p then f (s.plane p) else s.plane q := by cases p <;> cases q <;> rfl

/-! ### Memory -/

theorem twf_putBytes {m : Memory} (h : m.wf = true) (a : Nat) (bs : List Byte) : Memory.wf (putBytes m a bs) = true := by
  induction bs generalizing m a with
  | nil => exact h
  | cons b bs ih => exact ih (twf_tput h a b) (a + 1)
theorem tget_putBytes {m : Memory} (h : m.wf = true) (a : Nat) (bs : List Byte) (k : Nat) :
    tget 0 (putBytes m a bs) k = if a ≤ k ∧ k < a + bs.length then bs.getD (k - a) 0 else tget 0 m k := by
  induction bs generalizing m a with
  | nil => rw [putBytes, if_neg (by simp only [List.length_nil]; omega)]
  | cons b bs ih =>
    rw [putBytes, ih (twf_tput h a b), tget_tput h]
    simp only [List.length_cons]
    by_cases h1 : a + 1 ≤ k ∧ k < a + 1 + bs.length
    · rw [if_pos h1, if_pos (by omega)]
      obtain ⟨d, hd⟩ : ∃ d, k - a = d + 1 := ⟨k - a - 1, by omega⟩
      rw [hd, show k - (a + 1) = d by omega]; rfl
    · rw [if_neg h1]
      by_cases h2 : k = a
      · subst h2; rw [if_pos rfl, if_pos (by omega), Nat.sub_self]; rfl
      · rw [if_neg h2, if_neg (by omega)]
/-- A write keeps the canonical form (R3). -/
theorem write_wf {s : State} (h : s.mem.wf = true) (pa : Nat) (bs : List Byte) : (s.write pa bs).mem.wf = true := twf_putBytes h pa bs
theorem write_byte {s : State} (h : s.mem.wf = true) (pa : Nat) (bs : List Byte) (k : Nat) :
    tget 0 (s.write pa bs).mem k = if pa ≤ k ∧ k < pa + bs.length then bs.getD (k - pa) 0 else tget 0 s.mem k := tget_putBytes h pa bs k
theorem getBytes_length (m : Memory) (a n : Nat) : (getBytes m a n).length = n := by
  induction n generalizing a with
  | zero => rfl
  | succ n ih => simp [getBytes, ih]
theorem getBytes_getD (m : Memory) (a n k : Nat) (h : k < n) : (getBytes m a n).getD k 0 = tget 0 m (a + k) := by
  induction n generalizing a k with
  | zero => omega
  | succ n ih =>
    cases k with
    | zero => rfl
    | succ k => simp only [getBytes, List.getD_cons_succ]; rw [ih (a + 1) k (by omega)]; congr 1; omega
theorem leBytes_length (w n : Nat) : (leBytes w n).length = n := by
  induction n generalizing w with
  | zero => rfl
  | succ n ih => simp [leBytes, ih]
theorem natOfBytes_leBytes (w n : Nat) : natOfBytes (leBytes w n) = w % 2 ^ (8 * n) := by
  induction n generalizing w with
  | zero => simp [leBytes, natOfBytes, Nat.mod_one]
  | succ n ih =>
    simp only [leBytes, natOfBytes, ih, BitVec.toNat_ofNat]
    rw [show 8 * (n + 1) = 8 + 8 * n by ring, Nat.pow_add, Nat.mod_mul]

/-! ### Waking -/

theorem wake_eq (s : State) (i : Nat) : s.wake i = { s with tasks := (s.wake i).tasks } := by
  obtain ⟨ts, h⟩ : ∃ ts, s.wake i = { s with tasks := ts } := by
    unfold State.wake
    simp only
    split
    · split
      · split <;> exact ⟨_, rfl⟩
      · exact ⟨_, rfl⟩
    · exact ⟨_, rfl⟩
  rw [h]
theorem wake_other {s : State} (h : twf {} s.tasks = true) (i j : Nat) (hj : j ≠ i) : (s.wake i).task j = s.task j := by
  unfold State.wake
  simp only
  split
  · split
    · split <;> exact (task_modTask h _ _ _).trans (if_neg hj)
    · exact (task_modTask h _ _ _).trans (if_neg hj)
  · rfl
theorem twf_wake {s : State} (h : twf {} s.tasks = true) (i : Nat) : twf {} (s.wake i).tasks = true := by
  unfold State.wake
  simp only
  split
  · split
    · split <;> exact twf_modTask h _ _
    · exact twf_modTask h _ _
  · exact h
theorem wake_self {s : State} (h : twf {} s.tasks = true) (i : Nat) (hs : (s.task i).state = .suspended ∨ (s.task i).state = .aborted)
    (hw : (s.task i).wounder = none) : (s.wake i).task i = (s.task i).woken := by
  unfold State.wake
  have : ((s.task i).state == .suspended || (s.task i).state == .aborted) = true := by rcases hs with h | h <;> simp [h]
  simp only [this, if_true, hw]
  rw [task_modTask h, if_pos rfl]
  simp only [Task.woken, hw]
theorem wakeAll_eq (s : State) (l : List Nat) : s.wakeAll l = { s with tasks := (s.wakeAll l).tasks } := by
  obtain ⟨ts, h⟩ : ∃ ts, s.wakeAll l = { s with tasks := ts } := by
    induction l generalizing s with
    | nil => exact ⟨_, rfl⟩
    | cons i l ih =>
      obtain ⟨ts, h⟩ := ih (s.wake i)
      refine ⟨ts, ?_⟩
      show (s.wake i).wakeAll l = _
      rw [h, wake_eq]
  rw [h]
theorem twf_wakeAll {s : State} (h : twf {} s.tasks = true) (l : List Nat) : twf {} (s.wakeAll l).tasks = true := by
  induction l generalizing s with
  | nil => exact h
  | cons i l ih => exact ih (twf_wake h i)
theorem wakeAll_other {s : State} (h : twf {} s.tasks = true) (l : List Nat) (j : Nat) (hj : j ∉ l) : (s.wakeAll l).task j = s.task j := by
  induction l generalizing s with
  | nil => rfl
  | cons i l ih =>
    simp only [List.mem_cons, not_or] at hj
    exact (ih (twf_wake h i) hj.2).trans (wake_other h i j hj.1)
theorem wakeAll_listed {s : State} (h : twf {} s.tasks = true) (l : List Nat) (hn : l.Nodup) (j : Nat) (hj : j ∈ l)
    (hs : (s.task j).state = .suspended ∨ (s.task j).state = .aborted) (hw : (s.task j).wounder = none) :
    (s.wakeAll l).task j = (s.task j).woken := by
  induction l generalizing s with
  | nil => cases hj
  | cons i l ih =>
    obtain ⟨h1, h2⟩ := List.nodup_cons.1 hn
    by_cases e : j = i
    · subst e
      exact (wakeAll_other (twf_wake h j) l j h1).trans (wake_self h j hs hw)
    · have he := wake_other h i j e
      have := ih (twf_wake h i) h2 ((List.mem_cons.1 hj).resolve_left e) (by rw [he]; exact hs) (by rw [he]; exact hw)
      exact this.trans (by rw [he])
/-- Waking the waiting tasks that a predicate selects (R131, R132). -/
theorem wakes_filter (s : State) (q : Nat → Bool) (p : Task → Prop)
    (hq : ∀ j, ((s.task j).state = .suspended ∨ (s.task j).state = .aborted) → (q j = true ↔ p (s.task j)))
    (hs : ∀ j, q j = true → (s.task j).state = .suspended ∨ (s.task j).state = .aborted) :
    Wakes s (s.wakeAll (s.taskList.filter q)) p := by
  intro h j w waits
  have hn : (s.taskList.filter q).Nodup := (tkeys_nodup h).filter _
  have hmem : j ∈ s.taskList.filter q ↔ waits := by
    rw [List.mem_filter]
    constructor
    · rintro ⟨-, h2⟩; exact ⟨hs j h2, (hq j (hs j h2)).1 h2⟩
    · rintro ⟨h1, h2⟩
      refine ⟨(mem_tkeys h j).2 fun e => ?_, (hq j h1).2 h2⟩
      have : w.state = .free := congrArg Task.state e
      rcases h1 with h1 | h1 <;> rw [this] at h1 <;> cases h1
  exact ⟨fun hw hwo => wakeAll_listed h _ hn j (hmem.2 hw) hw.1 hwo, fun hw => wakeAll_other h _ j (fun hm => hw (hmem.1 hm))⟩

@[simp] theorem wake_cycle (s : State) (i : Nat) : (s.wake i).cycle = s.cycle := by rw [wake_eq]
@[simp] theorem wake_tick (s : State) (i : Nat) : (s.wake i).tick = s.tick := by rw [wake_eq]
@[simp] theorem wake_phase (s : State) (i : Nat) : (s.wake i).phase = s.phase := by rw [wake_eq]
@[simp] theorem wake_cur (s : State) (i : Nat) : (s.wake i).cur = s.cur := by rw [wake_eq]
@[simp] theorem wake_core (s : State) (i : Nat) : (s.wake i).core = s.core := by rw [wake_eq]
@[simp] theorem wake_cores (s : State) (i : Nat) : (s.wake i).cores = s.cores := by rw [wake_eq]
@[simp] theorem wake_pairs (s : State) (i : Nat) : (s.wake i).pairs = s.pairs := by rw [wake_eq]
@[simp] theorem wake_mem (s : State) (i : Nat) : (s.wake i).mem = s.mem := by rw [wake_eq]
@[simp] theorem wake_poison (s : State) (i : Nat) : (s.wake i).poison = s.poison := by rw [wake_eq]
@[simp] theorem wake_badCheck (s : State) (i : Nat) : (s.wake i).badCheck = s.badCheck := by rw [wake_eq]
@[simp] theorem wake_launches (s : State) (i : Nat) : (s.wake i).launches = s.launches := by rw [wake_eq]
@[simp] theorem wake_groups (s : State) (i : Nat) : (s.wake i).groups = s.groups := by rw [wake_eq]
@[simp] theorem wake_ctxs (s : State) (i : Nat) : (s.wake i).ctxs = s.ctxs := by rw [wake_eq]
@[simp] theorem wake_queues (s : State) (i : Nat) : (s.wake i).queues = s.queues := by rw [wake_eq]
@[simp] theorem wake_futs (s : State) (i : Nat) : (s.wake i).futs = s.futs := by rw [wake_eq]
@[simp] theorem wake_devBars (s : State) (i : Nat) : (s.wake i).devBars = s.devBars := by rw [wake_eq]
@[simp] theorem wake_podBars (s : State) (i : Nat) : (s.wake i).podBars = s.podBars := by rw [wake_eq]
@[simp] theorem wake_sets (s : State) (i : Nat) : (s.wake i).sets = s.sets := by rw [wake_eq]
@[simp] theorem wake_pages (s : State) (i : Nat) : (s.wake i).pages = s.pages := by rw [wake_eq]
@[simp] theorem wake_pantries (s : State) (i : Nat) : (s.wake i).pantries = s.pantries := by rw [wake_eq]
@[simp] theorem wake_scheds (s : State) (i : Nat) : (s.wake i).scheds = s.scheds := by rw [wake_eq]
@[simp] theorem wake_windows (s : State) (i : Nat) : (s.wake i).windows = s.windows := by rw [wake_eq]
@[simp] theorem wake_hub (s : State) (i : Nat) : (s.wake i).hub = s.hub := by rw [wake_eq]
@[simp] theorem wake_planeX (s : State) (i : Nat) : (s.wake i).planeX = s.planeX := by rw [wake_eq]
@[simp] theorem wake_planeY (s : State) (i : Nat) : (s.wake i).planeY = s.planeY := by rw [wake_eq]
@[simp] theorem wake_slots (s : State) (i : Nat) : (s.wake i).slots = s.slots := by rw [wake_eq]
@[simp] theorem wake_agenda (s : State) (i : Nat) : (s.wake i).agenda = s.agenda := by rw [wake_eq]
@[simp] theorem wake_inputs (s : State) (i : Nat) : (s.wake i).inputs = s.inputs := by rw [wake_eq]
@[simp] theorem wake_fresh (s : State) (i : Nat) : (s.wake i).fresh = s.fresh := by rw [wake_eq]
@[simp] theorem wake_seqNo (s : State) (i : Nat) : (s.wake i).seqNo = s.seqNo := by rw [wake_eq]
@[simp] theorem wake_outbox (s : State) (i : Nat) : (s.wake i).outbox = s.outbox := by rw [wake_eq]
@[simp] theorem wakeAll_cycle (s : State) (l : List Nat) : (s.wakeAll l).cycle = s.cycle := by rw [wakeAll_eq]
@[simp] theorem wakeAll_tick (s : State) (l : List Nat) : (s.wakeAll l).tick = s.tick := by rw [wakeAll_eq]
@[simp] theorem wakeAll_phase (s : State) (l : List Nat) : (s.wakeAll l).phase = s.phase := by rw [wakeAll_eq]
@[simp] theorem wakeAll_cur (s : State) (l : List Nat) : (s.wakeAll l).cur = s.cur := by rw [wakeAll_eq]
@[simp] theorem wakeAll_core (s : State) (l : List Nat) : (s.wakeAll l).core = s.core := by rw [wakeAll_eq]
@[simp] theorem wakeAll_cores (s : State) (l : List Nat) : (s.wakeAll l).cores = s.cores := by rw [wakeAll_eq]
@[simp] theorem wakeAll_pairs (s : State) (l : List Nat) : (s.wakeAll l).pairs = s.pairs := by rw [wakeAll_eq]
@[simp] theorem wakeAll_mem (s : State) (l : List Nat) : (s.wakeAll l).mem = s.mem := by rw [wakeAll_eq]
@[simp] theorem wakeAll_poison (s : State) (l : List Nat) : (s.wakeAll l).poison = s.poison := by rw [wakeAll_eq]
@[simp] theorem wakeAll_badCheck (s : State) (l : List Nat) : (s.wakeAll l).badCheck = s.badCheck := by rw [wakeAll_eq]
@[simp] theorem wakeAll_launches (s : State) (l : List Nat) : (s.wakeAll l).launches = s.launches := by rw [wakeAll_eq]
@[simp] theorem wakeAll_groups (s : State) (l : List Nat) : (s.wakeAll l).groups = s.groups := by rw [wakeAll_eq]
@[simp] theorem wakeAll_ctxs (s : State) (l : List Nat) : (s.wakeAll l).ctxs = s.ctxs := by rw [wakeAll_eq]
@[simp] theorem wakeAll_queues (s : State) (l : List Nat) : (s.wakeAll l).queues = s.queues := by rw [wakeAll_eq]
@[simp] theorem wakeAll_futs (s : State) (l : List Nat) : (s.wakeAll l).futs = s.futs := by rw [wakeAll_eq]
@[simp] theorem wakeAll_devBars (s : State) (l : List Nat) : (s.wakeAll l).devBars = s.devBars := by rw [wakeAll_eq]
@[simp] theorem wakeAll_podBars (s : State) (l : List Nat) : (s.wakeAll l).podBars = s.podBars := by rw [wakeAll_eq]
@[simp] theorem wakeAll_sets (s : State) (l : List Nat) : (s.wakeAll l).sets = s.sets := by rw [wakeAll_eq]
@[simp] theorem wakeAll_pages (s : State) (l : List Nat) : (s.wakeAll l).pages = s.pages := by rw [wakeAll_eq]
@[simp] theorem wakeAll_pantries (s : State) (l : List Nat) : (s.wakeAll l).pantries = s.pantries := by rw [wakeAll_eq]
@[simp] theorem wakeAll_scheds (s : State) (l : List Nat) : (s.wakeAll l).scheds = s.scheds := by rw [wakeAll_eq]
@[simp] theorem wakeAll_windows (s : State) (l : List Nat) : (s.wakeAll l).windows = s.windows := by rw [wakeAll_eq]
@[simp] theorem wakeAll_hub (s : State) (l : List Nat) : (s.wakeAll l).hub = s.hub := by rw [wakeAll_eq]
@[simp] theorem wakeAll_planeX (s : State) (l : List Nat) : (s.wakeAll l).planeX = s.planeX := by rw [wakeAll_eq]
@[simp] theorem wakeAll_planeY (s : State) (l : List Nat) : (s.wakeAll l).planeY = s.planeY := by rw [wakeAll_eq]
@[simp] theorem wakeAll_slots (s : State) (l : List Nat) : (s.wakeAll l).slots = s.slots := by rw [wakeAll_eq]
@[simp] theorem wakeAll_agenda (s : State) (l : List Nat) : (s.wakeAll l).agenda = s.agenda := by rw [wakeAll_eq]
@[simp] theorem wakeAll_inputs (s : State) (l : List Nat) : (s.wakeAll l).inputs = s.inputs := by rw [wakeAll_eq]
@[simp] theorem wakeAll_fresh (s : State) (l : List Nat) : (s.wakeAll l).fresh = s.fresh := by rw [wakeAll_eq]
@[simp] theorem wakeAll_seqNo (s : State) (l : List Nat) : (s.wakeAll l).seqNo = s.seqNo := by rw [wakeAll_eq]
@[simp] theorem wakeAll_outbox (s : State) (l : List Nat) : (s.wakeAll l).outbox = s.outbox := by rw [wakeAll_eq]

end Sys2Proof.Machine
end

