-- ==== Sys2Proof/Laws/Held.lean ====
section
/-!
SUPPORT. Laws/Held.lean: what an operation of a completion step does (R52), and what resolving a future changes (R153).
-/
namespace Sys2Proof.Machine

/-- The operation at the head of a performing completion step performs, and is gone from the step. -/
theorem quietOp_performs {s : State} {i j : Instr} {h : HeldOp} {q : Completion} (hp : s.Performing j h q) (vals : State → List Word)
    (perform : HeldOp → State → State) : s.quietOp i vals perform = .next (perform h (s.performed q)) := by
  obtain ⟨h1, h2, h3, h4, h5⟩ := hp
  obtain ⟨ops, hops⟩ : ∃ r, q.ops = h :: r := by
    cases ho : q.ops with
    | nil => rw [ho] at h3; cases h3
    | cons a r => rw [ho] at h3; cases h3; exact ⟨r, rfl⟩
  unfold State.quietOp
  simp only [h1, hops, h2, if_true, State.modCompl, State.onCore, Option.map_some, State.performed, List.tail_cons]

/-- The completion step left by an operation that has performed. -/
theorem performed_compl (s : State) (q : Completion) : (s.performed q).core.compl = some { q with ops := q.ops.tail } := rfl

theorem performed_with {s : State} {q : Completion} (f : Completion → Completion) :
    (s.performed q).modCompl f = { s with core := { s.core with compl := some (f { q with ops := q.ops.tail }) } } := rfl

/-- A failing operation of a step that does not commit is a fatal fault of its bundle (R49, R141). -/
theorem opFailed_fatal {s : State} {q : Completion} (hc : q.committing = false) (h : HeldOp) (code : Nat) (a0 a1 a2 : Word) :
    (s.performed q).opFailed h 2 code a0 a1 a2 = (s.performed q).fatal s.cur q.bseq q.baddr (2 ^ h.slot) code a0 a1 a2 := by
  unfold State.opFailed
  rw [performed_compl]
  simp only [hc, Bool.false_eq_true, if_false]
  rfl

theorem ask_performed (s : State) (q : Completion) (a : Ask) :
    (s.performed q).ask a = s.performed { q with ask := if q.ask = .none then a else q.ask } := by
  unfold State.ask
  rw [performed_with]
  simp only [State.performed]
  split <;> rfl

/-- A stale handle is one that no live future has (R149, R150). -/
theorem futStale_iff (s : State) (h c : Nat) : s.futStale h c = true ↔ ¬s.FutLive h c := by
  unfold State.futStale State.FutLive futIndex futGen
  simp only [Bool.or_eq_true, beq_iff_eq, bne_iff_ne, ne_eq]
  tauto
theorem futStale_false {s : State} {h c : Nat} (hl : s.FutLive h c) : s.futStale h c = false := by
  rw [← Bool.not_eq_true, futStale_iff]; exact fun h => h hl

/-- The tasks that wait for a future become READY (R153). -/
theorem wakeFut_wakes (s : State) (i c : Nat) : Wakes s (s.wakeFut i c) fun w => w.wkind = 1 ∧ w.wobj % 2 ^ 20 = i ∧ w.ctx = c :=
  wakes_filter s _ _ (fun j hs => by simp only [Bool.and_eq_true, Bool.or_eq_true, beq_iff_eq, futIndex]; tauto)
    (fun j hj => by simp only [Bool.and_eq_true, Bool.or_eq_true, beq_iff_eq] at hj; exact hj.2)

/-- What resolving an EMPTY future does (R153): its entry, and the tasks that wait for it. -/
theorem endFuture_spec (s : State) (i : Nat) (r : Fate) (n : Nat) :
    s.endFuture i r n = { s with futs := (s.endFuture i r n).futs, tasks := (s.endFuture i r n).tasks } ∧
    (twf {} s.futs = true → (∀ j, j ≠ i → (s.endFuture i r n).fut j = s.fut j) ∧ (s.endFuture i r n).fut i =
      match r with
      | .set v => { s.fut i with state := .set, value := v, rscope := n }
      | .failed st => { s.fut i with state := .failed, status := BitVec.ofNat 16 st, rscope := n }) ∧
    Wakes s (s.endFuture i r n) fun w => w.wkind = 1 ∧ w.wobj % 2 ^ 20 = i ∧ w.ctx = (s.fut i).ctx := by
  unfold State.endFuture
  refine ⟨?_, ?_, ?_⟩
  · simp only [State.wakeFut]
    rw [wakeAll_eq]
    rfl
  · intro h
    simp only [State.fut, State.wakeFut, wakeAll_futs]
    exact ⟨fun j hj => (fut_modFut h _ _ _).trans (if_neg hj), (fut_modFut h _ _ _).trans (if_pos rfl)⟩
  · exact wakeFut_wakes (s.modFut i _) i _

/-- What freeing an entry does (R153). -/
theorem freeFuture_spec (s : State) (i : Nat) :
    s.freeFuture i = { s with futs := (s.freeFuture i).futs, tasks := (s.freeFuture i).tasks } ∧
    (twf {} s.futs = true → (∀ j, j ≠ i → (s.freeFuture i).fut j = s.fut j) ∧ (s.freeFuture i).fut i = { gen := (s.fut i).gen + 1 }) ∧
    Wakes s (s.freeFuture i) fun w => w.wkind = 1 ∧ w.wobj % 2 ^ 20 = i ∧ w.ctx = (s.fut i).ctx := by
  unfold State.freeFuture
  refine ⟨?_, ?_, ?_⟩
  · simp only [State.wakeFut]
    rw [wakeAll_eq]
    rfl
  · intro h
    simp only [State.fut, State.wakeFut, wakeAll_futs]
    exact ⟨fun j hj => (fut_modFut h _ _ _).trans (if_neg hj), (fut_modFut h _ _ _).trans (if_pos rfl)⟩
  · exact wakeFut_wakes (s.modFut i _) i _

/-- An acquire of the core in focus (R317). -/
theorem acquired_invalidate (s : State) : Acquired s (s.modCore s.cur Core.invalidate) := by
  have e : s.modCore s.cur Core.invalidate = { s with core := s.core.invalidate } := by
    simp only [State.modCore, State.setCore, State.coreAt, if_true]
  rw [e]
  refine ⟨rfl, fun h a => ?_⟩
  show tget none (List.filter _ _) a = _
  rw [tget_filter h]
  show _ = (tget none s.core.l1 a).filter _
  cases tget none s.core.l1 a with
  | none => simp
  | some b => simp [Option.filter]

end Sys2Proof.Machine
end

