-- ==== Sys2Proof/Laws/Integer.lean ====
section
/-!
SUPPORT. Laws/Integer.lean: the integer functions of R228 to R239 as operations on n-bit words.
-/
namespace Sys2Proof.Machine

theorem lowBits_eq (n : Nat) (w : Word) : lowBits n w = (w.setWidth n).toNat := by simp [lowBits]

theorem signedOf_eq {n : Nat} (h : 0 < n) (r : BitVec n) : signedOf n r.toNat = r.toInt := by
  obtain ⟨m, rfl⟩ : ∃ m, n = m + 1 := ⟨n - 1, by omega⟩
  have : 2 ^ (m + 1) = 2 * 2 ^ m := by rw [Nat.pow_succ]; omega
  unfold signedOf
  rw [BitVec.toInt_eq_toNat_cond]
  simp only [Nat.add_sub_cancel]
  have e : ((2 ^ (m + 1) : Nat) : Int) = (2 : Int) ^ (m + 1) := by norm_cast
  split <;> split <;> omega

theorem readInt_true {n : Nat} (h : 0 < n) (w : Word) : readInt true n w = (w.setWidth n).toInt := by
  unfold readInt
  rw [if_pos rfl, lowBits_eq, signedOf_eq h]

theorem readInt_false (n : Nat) (w : Word) : readInt false n w = ((w.setWidth n).toNat : Int) := by
  simp [readInt, lowBits_eq]

/-- The extension of R228 is that of the n-bit word. -/
theorem extendTo64_eq {n : Nat} (h : 0 < n) (sg : Bool) (r : Int) : extendTo64 sg n r = widen sg (BitVec.ofInt n r) := by
  have e : (r % 2 ^ n).toNat = (BitVec.ofInt n r).toNat := by rw [BitVec.toNat_ofInt]; norm_cast
  unfold extendTo64 widen
  simp only [e, signedOf_eq h]
  cases sg
  · simp only [Bool.false_eq_true, if_false]
    apply BitVec.eq_of_toNat_eq
    simp
  · rfl

theorem tyWidth_pos (t : Ty) : 0 < tyWidth t := by cases t <;> simp [tyWidth]
theorem intShape_eq (t : Ty) (h : t.isInt = true) : intShape t = (tySigned t, tyWidth t) := by cases t <;> simp_all [Ty.isInt, intShape, tySigned, tyWidth]

/-! ### The functions of R231 and R232 on n-bit words -/

theorem ofInt_natCast' (n k : Nat) : BitVec.ofInt n (k : Int) = BitVec.ofNat n k := BitVec.ofInt_natCast n k
theorem ofNat_toNat' {n : Nat} (v : BitVec n) : BitVec.ofNat n v.toNat = v := BitVec.eq_of_toNat_eq (by simp)
theorem ofInt_lowBits (n : Nat) (w : Word) : BitVec.ofInt n (lowBits n w : Int) = w.setWidth n := by
  rw [ofInt_natCast', lowBits_eq, ofNat_toNat']

theorem ofInt_toInt' {n : Nat} (v : BitVec n) : BitVec.ofInt n v.toInt = v := by simp

theorem aluAdd_word (n : Nat) (a b : Word) : BitVec.ofInt n (aluAdd n a b) = a.setWidth n + b.setWidth n := by
  rw [aluAdd, BitVec.ofInt_add, ofInt_lowBits, ofInt_lowBits]
theorem aluSub_word (n : Nat) (a b : Word) : BitVec.ofInt n (aluSub n a b) = a.setWidth n - b.setWidth n := by
  rw [aluSub, Int.sub_eq_add_neg, BitVec.ofInt_add, BitVec.ofInt_neg, ofInt_lowBits, ofInt_lowBits, BitVec.sub_eq_add_neg]
theorem aluMul_word (n : Nat) (a b : Word) : BitVec.ofInt n (aluMul n a b) = a.setWidth n * b.setWidth n := by
  rw [aluMul, BitVec.ofInt_mul, ofInt_lowBits, ofInt_lowBits]
theorem aluMad_word (n : Nat) (a b c : Word) : BitVec.ofInt n (aluMad n a b c) = a.setWidth n * b.setWidth n + c.setWidth n := by
  rw [aluMad, BitVec.ofInt_add, BitVec.ofInt_mul, ofInt_lowBits, ofInt_lowBits, ofInt_lowBits]

theorem aluMulh_word {n : Nat} (h : 0 < n) (a b : Word) :
    BitVec.ofInt n (aluMulHigh true n a b) = BitVec.ofInt n ((a.setWidth n).toInt * (b.setWidth n).toInt / 2 ^ n) := by
  rw [aluMulHigh, readInt_true h, readInt_true h]
theorem aluMulhn_word (n : Nat) (a b : Word) :
    BitVec.ofInt n (aluMulHigh false n a b) = BitVec.ofNat n ((a.setWidth n).toNat * (b.setWidth n).toNat / 2 ^ n) := by
  rw [aluMulHigh, readInt_false, readInt_false, ← ofInt_natCast']
  norm_cast

theorem toInt_eq_zero {n : Nat} (v : BitVec n) : v.toInt = 0 ↔ v = 0 := by
  constructor
  · intro h; apply BitVec.eq_of_toInt_eq; rw [h]; simp
  · intro h; rw [h]; simp
theorem toNat_eq_zero {n : Nat} (v : BitVec n) : v.toNat = 0 ↔ v = 0 := by
  constructor
  · intro h; apply BitVec.eq_of_toNat_eq; rw [h]; simp
  · intro h; rw [h]; simp

theorem ofInt_allOnes (n : Nat) : BitVec.ofInt n (2 ^ n - 1) = BitVec.allOnes n := by
  have h1 : 1 ≤ 2 ^ n := Nat.one_le_two_pow
  have e : (2 : Int) ^ n - 1 = ((2 ^ n - 1 : Nat) : Int) := by
    rw [Int.natCast_sub h1]; norm_cast
  rw [e, ofInt_natCast']
  apply BitVec.eq_of_toNat_eq
  rw [BitVec.toNat_ofNat, BitVec.toNat_allOnes, Nat.mod_eq_of_lt (by omega)]

theorem aluDiv_word {n : Nat} (h : 0 < n) (a b : Word) : BitVec.ofInt n (aluDiv true n a b) =
    if b.setWidth n = 0 then BitVec.allOnes n else BitVec.ofInt n ((a.setWidth n).toInt.tdiv (b.setWidth n).toInt) := by
  simp only [aluDiv, readInt_true h, toInt_eq_zero]
  split
  · exact ofInt_allOnes n
  · rfl
theorem aluDivn_word (n : Nat) (a b : Word) : BitVec.ofInt n (aluDiv false n a b) =
    if b.setWidth n = 0 then BitVec.allOnes n else a.setWidth n / b.setWidth n := by
  simp only [aluDiv, readInt_false, Int.natCast_eq_zero, toNat_eq_zero]
  split
  · exact ofInt_allOnes n
  · rw [Int.tdiv_eq_ediv_of_nonneg (by omega), ← Int.natCast_ediv, ofInt_natCast']
    apply BitVec.eq_of_toNat_eq
    rw [BitVec.toNat_ofNat, BitVec.toNat_udiv]
    exact Nat.mod_eq_of_lt (Nat.lt_of_le_of_lt (Nat.div_le_self _ _) (BitVec.isLt _))
theorem aluRem_word {n : Nat} (h : 0 < n) (a b : Word) : BitVec.ofInt n (aluRem true n a b) =
    if b.setWidth n = 0 then a.setWidth n else BitVec.ofInt n ((a.setWidth n).toInt.tmod (b.setWidth n).toInt) := by
  simp only [aluRem, readInt_true h, toInt_eq_zero]
  split
  · exact ofInt_toInt' _
  · rw [Int.tmod_def, Int.mul_comm]
theorem aluRemn_word (n : Nat) (a b : Word) : BitVec.ofInt n (aluRem false n a b) =
    if b.setWidth n = 0 then a.setWidth n else a.setWidth n % b.setWidth n := by
  simp only [aluRem, readInt_false, Int.natCast_eq_zero, toNat_eq_zero]
  split
  · rw [ofInt_natCast', ofNat_toNat']
  · rw [Int.tdiv_eq_ediv_of_nonneg (by omega), Int.mul_comm, ← Int.emod_def, ← Int.natCast_emod, ofInt_natCast']
    apply BitVec.eq_of_toNat_eq
    rw [BitVec.toNat_ofNat, BitVec.toNat_umod]
    exact Nat.mod_eq_of_lt (Nat.lt_of_le_of_lt (Nat.mod_le _ _) (BitVec.isLt _))

theorem aluMin_word {n : Nat} (h : 0 < n) (a b : Word) : BitVec.ofInt n (aluMin true n a b) =
    if (b.setWidth n).slt (a.setWidth n) then b.setWidth n else a.setWidth n := by
  simp only [aluMin, readInt_true h, BitVec.slt, decide_eq_true_eq, Int.min_def]
  by_cases c : (b.setWidth n).toInt < (a.setWidth n).toInt
  · rw [if_neg (by omega), if_pos c, ofInt_toInt']
  · rw [if_pos (by omega), if_neg c, ofInt_toInt']
theorem aluMax_word {n : Nat} (h : 0 < n) (a b : Word) : BitVec.ofInt n (aluMax true n a b) =
    if (a.setWidth n).slt (b.setWidth n) then b.setWidth n else a.setWidth n := by
  simp only [aluMax, readInt_true h, BitVec.slt, decide_eq_true_eq, Int.max_def]
  by_cases c : (a.setWidth n).toInt ≤ (b.setWidth n).toInt
  · rw [if_pos c]
    by_cases d : (a.setWidth n).toInt < (b.setWidth n).toInt
    · rw [if_pos d, ofInt_toInt']
    · rw [if_neg d, ofInt_toInt']; exact BitVec.eq_of_toInt_eq (by omega)
  · rw [if_neg c, if_neg (by omega), ofInt_toInt']
theorem aluMinn_word (n : Nat) (a b : Word) : BitVec.ofInt n (aluMin false n a b) =
    if b.setWidth n < a.setWidth n then b.setWidth n else a.setWidth n := by
  simp only [aluMin, readInt_false, Int.min_def, Int.ofNat_le, BitVec.lt_def]
  by_cases c : (b.setWidth n).toNat < (a.setWidth n).toNat
  · rw [if_neg (by omega), if_pos c, ofInt_natCast', ofNat_toNat']
  · rw [if_pos (by omega), if_neg c, ofInt_natCast', ofNat_toNat']
theorem aluMaxn_word (n : Nat) (a b : Word) : BitVec.ofInt n (aluMax false n a b) =
    if a.setWidth n < b.setWidth n then b.setWidth n else a.setWidth n := by
  simp only [aluMax, readInt_false, Int.max_def, Int.ofNat_le, BitVec.lt_def]
  by_cases d : (a.setWidth n).toNat < (b.setWidth n).toNat
  · rw [if_pos (by omega), if_pos d, ofInt_natCast', ofNat_toNat']
  · rw [if_neg d]
    by_cases c : (a.setWidth n).toNat ≤ (b.setWidth n).toNat
    · rw [if_pos c, ofInt_natCast']
      apply BitVec.eq_of_toNat_eq
      simp only [BitVec.toNat_ofNat, BitVec.toNat_setWidth] at *
      rw [Nat.mod_mod]; omega
    · rw [if_neg c, ofInt_natCast', ofNat_toNat']
theorem aluAbs_word {n : Nat} (h : 0 < n) (a : Word) : BitVec.ofInt n (aluAbs n a) =
    if (a.setWidth n).msb then -(a.setWidth n) else a.setWidth n := by
  simp only [aluAbs, readInt_true h, BitVec.msb_eq_toInt, decide_eq_true_eq]
  by_cases c : (a.setWidth n).toInt < 0
  · rw [if_pos c, Int.ofNat_natAbs_of_nonpos (by omega), BitVec.ofInt_neg, ofInt_toInt']
  · rw [if_neg c, Int.natAbs_of_nonneg (by omega), ofInt_toInt']

/-! ### R232 on n-bit words -/

theorem aluAnd_word (n : Nat) (a b : Word) : BitVec.ofInt n (aluAnd n a b) = a.setWidth n &&& b.setWidth n := by
  rw [aluAnd, ofInt_lowBits, BitVec.setWidth_and]
theorem aluOr_word (n : Nat) (a b : Word) : BitVec.ofInt n (aluOr n a b) = a.setWidth n ||| b.setWidth n := by
  rw [aluOr, ofInt_lowBits, BitVec.setWidth_or]
theorem aluXor_word (n : Nat) (a b : Word) : BitVec.ofInt n (aluXor n a b) = a.setWidth n ^^^ b.setWidth n := by
  rw [aluXor, ofInt_lowBits, BitVec.setWidth_xor]
theorem aluAndn_word {n : Nat} (h : n ≤ 64) (a b : Word) : BitVec.ofInt n (aluAndn n a b) = a.setWidth n &&& ~~~b.setWidth n := by
  rw [aluAndn, ofInt_lowBits, BitVec.setWidth_and, BitVec.setWidth_not h]
theorem aluOrn_word {n : Nat} (h : n ≤ 64) (a b : Word) : BitVec.ofInt n (aluOrn n a b) = a.setWidth n ||| ~~~b.setWidth n := by
  rw [aluOrn, ofInt_lowBits, BitVec.setWidth_or, BitVec.setWidth_not h]
theorem aluShl_word (n : Nat) (a b : Word) : BitVec.ofInt n (aluShl n a b) =
    if n ≤ b.toNat then 0 else a.setWidth n <<< b.toNat := by
  unfold aluShl
  split
  · simp
  · rw [ofInt_natCast', lowBits_eq]
    apply BitVec.eq_of_toNat_eq
    rw [BitVec.toNat_ofNat, BitVec.toNat_shiftLeft]
theorem aluShr_word (n : Nat) (a b : Word) : BitVec.ofInt n (aluShr n a b) =
    if n ≤ b.toNat then 0 else a.setWidth n >>> b.toNat := by
  unfold aluShr
  split
  · simp
  · rw [ofInt_natCast', lowBits_eq]
    apply BitVec.eq_of_toNat_eq
    rw [BitVec.toNat_ofNat, BitVec.toNat_ushiftRight]
    exact Nat.mod_eq_of_lt (Nat.lt_of_le_of_lt (by rw [Nat.shiftRight_eq_div_pow]; exact Nat.div_le_self _ _) (BitVec.isLt _))
theorem aluSar_word {n : Nat} (h : 0 < n) (a b : Word) : BitVec.ofInt n (aluSar n a b) =
    if n ≤ b.toNat then (if (a.setWidth n).msb then BitVec.allOnes n else 0) else (a.setWidth n).sshiftRight b.toNat := by
  unfold aluSar
  rw [readInt_true h]
  split
  · rename_i c
    rw [Nat.min_eq_right c]
    have lt := BitVec.toInt_lt (x := a.setWidth n)
    have le := BitVec.le_toInt (x := a.setWidth n)
    have hp : (2 : Int) ^ n = 2 * 2 ^ (n - 1) := by
      obtain ⟨m, rfl⟩ : ∃ m, n = m + 1 := ⟨n - 1, by omega⟩
      rw [Int.pow_succ, Nat.add_sub_cancel]; omega
    have h0 : (0 : Int) < 2 ^ (n - 1) := Int.pow_pos (by decide)
    simp only [BitVec.msb_eq_toInt, decide_eq_true_eq]
    split
    · rename_i neg
      have : (a.setWidth n).toInt / 2 ^ n = -1 := by
        rw [Int.ediv_eq_neg_one_of_neg_of_le neg (by omega)]
      rw [this, BitVec.neg_one_eq_allOnes.symm, BitVec.ofInt_neg]
      rfl
    · have : (a.setWidth n).toInt / 2 ^ n = 0 := Int.ediv_eq_zero_of_lt (by omega) (by omega)
      rw [this]; simp
  · rename_i c
    rw [Nat.min_eq_left (by omega)]
    rw [BitVec.sshiftRight, Int.shiftRight_eq_div_pow]
    norm_cast

theorem aluRol_word (n : Nat) (a b : Word) : BitVec.ofInt n (aluRol n a b) = (a.setWidth n).rotateLeft (b.toNat % n) := by
  unfold aluRol
  simp only [lowBits_eq, ofInt_natCast']
  apply BitVec.eq_of_toNat_eq
  rw [BitVec.toNat_ofNat, BitVec.toNat_rotateLeft, Nat.mod_mod, Nat.mod_mod, Nat.or_mod_two_pow]
  congr 1
  exact Nat.mod_eq_of_lt (Nat.lt_of_le_of_lt (by rw [Nat.shiftRight_eq_div_pow]; exact Nat.div_le_self _ _) (BitVec.isLt _))

/-! ### Counts (R232) -/

theorem ctzFrom_spec (k v : Nat) :
    ctzFrom k v ≤ k ∧ (∀ j, j < ctzFrom k v → v.testBit j = false) ∧ (ctzFrom k v < k → v.testBit (ctzFrom k v) = true) := by
  induction k generalizing v with
  | zero => simp [ctzFrom]
  | succ k ih =>
    unfold ctzFrom
    split
    · rename_i h
      refine ⟨by omega, fun j hj => by omega, fun _ => ?_⟩
      simp [Nat.testBit_zero, h]
    · rename_i h
      obtain ⟨h1, h2, h3⟩ := ih (v / 2)
      refine ⟨by omega, fun j hj => ?_, fun hk => ?_⟩
      · cases j with
        | zero => simp only [Nat.testBit_zero, decide_eq_false_iff_not]; omega
        | succ j => rw [Nat.testBit_succ]; exact h2 j (by omega)
      · rw [Nat.add_comm, Nat.testBit_succ]; exact h3 (by omega)

theorem popFrom_spec (k v : Nat) : popFrom k v = ((List.range k).filter fun j => v.testBit j).length := by
  induction k generalizing v with
  | zero => rfl
  | succ k ih =>
    have e : ((fun j => v.testBit j) ∘ Nat.succ) = fun j => (v / 2).testBit j := funext fun j => Nat.testBit_succ v j
    rw [List.range_succ_eq_map, List.filter_cons, List.filter_map, e, popFrom, ih]
    simp only [Nat.testBit_zero]
    have : v % 2 = 0 ∨ v % 2 = 1 := by omega
    rcases this with h | h <;> simp [h] 
    all_goals omega

theorem clz_spec {n : Nat} {v : Nat} (h : v < 2 ^ n) : bitLen v ≤ n ∧
    (v ≠ 0 → 0 < bitLen v ∧ v.testBit (bitLen v - 1) = true) ∧ (∀ j, bitLen v ≤ j → v.testBit j = false) := by
  unfold bitLen
  by_cases c : v = 0
  · subst c; simp
  · rw [if_neg c]
    refine ⟨(Nat.log2_lt c).2 h, fun _ => ⟨by omega, ?_⟩, fun j hj => ?_⟩
    · rw [Nat.add_sub_cancel]; exact Nat.testBit_log2 c
    · exact Nat.testBit_lt_two_pow ((Nat.log2_lt c).1 (by omega))

end Sys2Proof.Machine
end

