-- ==== Sys2Proof/Laws/Vector.lean ====
section
/-!
SUPPORT. Laws/Vector.lean: the elements of registers built from lists and functions (R200, R250), and what `vecMap` gives.
-/
namespace Sys2Proof.Machine

theorem packList_at {st : Nat} (cs : List Nat) (i : Nat) (h : i < cs.length) :
    packList st cs / 2 ^ (st * i) % 2 ^ st = cs[i] % 2 ^ st := by
  induction cs generalizing i with
  | nil => exact absurd h (by simp)
  | cons c cs ih =>
    have hp : 0 < 2 ^ st := Nat.two_pow_pos st
    rw [packList, Nat.shiftLeft_eq]
    cases i with
    | zero => simp
    | succ i =>
      rw [Nat.mul_succ, Nat.add_comm (st * i) st, Nat.pow_add, ← Nat.div_div_eq_div_mul, Nat.add_mul_div_right _ _ hp,
        Nat.div_eq_of_lt (Nat.mod_lt _ hp), Nat.zero_add]
      exact ih i (by simpa using h)

/-- Element i of a register packed from a list (R200). -/
theorem elemAt_vecOfList {st : Nat} (cs : List Nat) (i : Nat) (h : i < cs.length) (hw : st * i + st ≤ 32768) :
    elemAt st (vecOfList st cs) i = BitVec.ofNat st cs[i] := by
  have e := packList_at (st := st) cs i h
  apply BitVec.eq_of_toNat_eq
  rw [elemAt, vecOfList, BitVec.extractLsb'_toNat, BitVec.toNat_ofNat, BitVec.toNat_ofNat, ← e, Nat.shiftRight_eq_div_pow]
  apply Nat.eq_of_testBit_eq
  intro j
  simp only [Nat.testBit_mod_two_pow, Nat.testBit_div_two_pow]
  by_cases c : j < st
  · simp only [c, decide_true, Bool.true_and, show j + st * i < 32768 by omega]
  · simp [c]

theorem vecElem_eq (st : Nat) (v : VecReg) (i : Nat) : vecElem st v i = (elemAt st v i).toNat := rfl

theorem elem_bound {st i : Nat} (h : i < 32768 / st) : st * i + st ≤ 32768 := by
  have h0 : 0 < st := Nat.pos_of_ne_zero fun e => by subst e; simp at h
  have : (i + 1) * st ≤ 32768 := (Nat.le_div_iff_mul_le h0).1 h
  rw [Nat.mul_comm, Nat.mul_add] at this
  omega

theorem elemAt_vecMap {st : Nat} (qen : BitVec 4) (f : Nat → Nat × FpFlags × FpCounts) {i : Nat} (h : i < 32768 / st) :
    elemAt st (vecMap st qen f).val i = BitVec.ofNat st (f i).1 := by
  unfold vecMap
  rw [elemAt_vecOfList _ i (by simpa using h) (elem_bound h)]
  simp

/-- Container (r, c) of a register built from a function of rows and columns. -/
theorem contAt_vecOfFn (f : Nat → Nat → Nat) {r c : Nat} (hr : r < 16) (hc : c < 64) :
    contAt (vecOfFn f) r c = BitVec.ofNat 32 (f r c) := by
  unfold contAt vecOfFn
  rw [elemAt_vecOfList _ (64 * r + c) (by simp; omega) (by omega)]
  simp only [List.getElem_map, List.getElem_range]
  rw [show (64 * r + c) / 64 = r by omega, show (64 * r + c) % 64 = c by omega]

theorem elemAt_splat {st : Nat} (code : Nat) {i : Nat} (h : i < 32768 / st) : elemAt st (vecSplat st code) i = BitVec.ofNat st code := by
  unfold vecSplat
  rw [elemAt_vecOfList _ i (by simpa using h) (elem_bound h)]
  simp

theorem flags_or_empty : FpFlags.or {} {} = {} := rfl
theorem counts_add_empty : FpCounts.add {} {} = {} := rfl

theorem orFlags_quiet {α : Type} (l : List α) : orFlags (l.map fun _ => ({} : FpFlags)) = {} := by
  unfold orFlags
  induction l with
  | nil => rfl
  | cons a l ih => simpa [flags_or_empty] using ih
theorem addCounts_quiet {α : Type} (l : List α) : addCounts (l.map fun _ => ({} : FpCounts)) = {} := by
  unfold addCounts
  induction l with
  | nil => rfl
  | cons a l ih => simpa [counts_add_empty] using ih

/-- A vector instruction that acts issues its result. -/
theorem issuesVector_of {s : State} {i : Instr} {x : OpA} {f : Core → VecResult} (he : exec i s = s.vecOp i x f)
    (hg : instrGuard i = (x.cl, x.g)) (h : s.core.guard x.cl x.g = true) (hf : s.slotFault s.issuesQuiet {} i = none) :
    IssuesVector s i x.cl x.d (f s.core) :=
  issuesResult_of _ he ⟨by unfold State.Guarded; rw [hg]; exact h, hf⟩ x.cl _ _ _ _ _ rfl

theorem issuesElems_map {s : State} {i : Instr} {cl : Cluster} {d : Opnd} {qen : BitVec 4} {n : Nat} {f : Nat → Nat}
    {g : Nat → BitVec n} (h : IssuesVector s i cl d (vecMap n qen fun k => (f k, {}, {})))
    (hg : ∀ k, k < 32768 / n → BitVec.ofNat n (f k) = g k) : IssuesElems s i cl d qen n g := by
  refine ⟨_, h, rfl, ?_, ?_, fun k hk => by rw [elemAt_vecMap _ _ hk, hg k hk]⟩
  · unfold vecMap
    simp only [List.map_map, Function.comp_def, ite_self]
    exact orFlags_quiet _
  · unfold vecMap
    simp only [List.map_map, Function.comp_def, ite_self]
    exact addCounts_quiet _

theorem issuesFloats_map {s : State} {i : Instr} {cl : Cluster} {d : Opnd} {qen : BitVec 4} {n : Nat}
    {f : Nat → Nat × FpFlags × FpCounts} (h : IssuesVector s i cl d (vecMap n qen f)) : IssuesFloats s i cl d qen n f := by
  refine ⟨_, h, rfl, fun k hk => elemAt_vecMap _ _ hk, ?_, ?_⟩
  · unfold vecMap elemOn; simp only [List.map_map, Function.comp_def]
  · unfold vecMap elemOn; simp only [List.map_map, Function.comp_def]

/-! ### Types of a vector instruction (R253) -/

theorem fmt_int {c : Core} {t : Ty} (h : t.vInt = true) : c.fmt t = .int (tySigned t) (tyWidth t) := by
  cases t <;> simp_all [Ty.vInt, Ty.isInt, Ty.is64] <;> rfl
theorem tyWidth_vInt {t : Ty} (h : t.vInt = true) : tyWidth t = 8 ∨ tyWidth t = 16 ∨ tyWidth t = 32 := by
  cases t <;> simp_all [Ty.vInt, Ty.isInt, Ty.is64, tyWidth]
theorem stride_int (sg : Bool) {t : Ty} (h : t.vInt = true) : (Fmt.int sg (tyWidth t)).stride = tyWidth t := by
  rcases tyWidth_vInt h with e | e | e <;> simp [Fmt.stride, Fmt.epc, e]
theorem fmt_flt {c : Core} {t : Ty} (h : t.vFloat = true) : c.fmt t = .std (stdOf t) := by
  cases t <;> simp_all [Ty.vFloat, Ty.isFloat, Ty.is64] <;> rfl
theorem stride_flt {t : Ty} (h : t.vFloat = true) : (Fmt.std (stdOf t)).stride = (stdOf t).width := by
  cases t <;> simp_all [Ty.vFloat, Ty.isFloat, Ty.is64] <;> rfl

/-! ### Integer elements (R255) -/

theorem rd_eq {n : Nat} (h : 0 < n) (sg : Bool) (e : BitVec n) :
    (if sg = true then signedOf n e.toNat else (e.toNat : Int)) = asInt sg e := by
  unfold asInt; rw [signedOf_eq h]
theorem wrap_eq (n : Nat) (z : Int) : BitVec.ofNat n (z % 2 ^ n).toNat = BitVec.ofInt n z := by
  apply BitVec.eq_of_toNat_eq
  rw [BitVec.toNat_ofNat, BitVec.toNat_ofInt]
  have h2 : (0 : Int) < 2 ^ n := Int.pow_pos (by decide)
  have h3 : (0 : Int) ≤ z % 2 ^ n := Int.emod_nonneg _ (by omega)
  have h4 : (z % 2 ^ n).toNat < 2 ^ n := by
    have := Int.emod_lt_of_pos z h2
    have e : ((2 ^ n : Nat) : Int) = 2 ^ n := by norm_cast
    omega
  rw [Nat.mod_eq_of_lt h4]
  norm_cast
theorem ofInt_asInt {n : Nat} (sg : Bool) (e : BitVec n) : BitVec.ofInt n (asInt sg e) = e := by
  unfold asInt; split <;> simp
theorem asInt_inj {n : Nat} {sg : Bool} {a b : BitVec n} (h : asInt sg a = asInt sg b) : a = b := by
  rw [← ofInt_asInt sg a, h, ofInt_asInt]
theorem intoBits_eq (sat sg : Bool) (n : Nat) (z : Int) :
    BitVec.ofNat n ((if sat = true then satInt z (if sg = true then -2 ^ (n - 1) else 0)
      (if sg = true then 2 ^ (n - 1) - 1 else 2 ^ n - 1) else z) % 2 ^ n).toNat = intoBits sat sg n z := by
  rw [wrap_eq]; unfold intoBits
  have h1 : (0 : Int) < 2 ^ (n - 1) := Int.pow_pos (by decide)
  have h2 : (0 : Int) < 2 ^ n := Int.pow_pos (by decide)
  congr 1
  cases sat
  · rfl
  · simp only [if_true, satInt]
    cases sg <;> simp only [if_true, Bool.false_eq_true, if_false, Int.max_def, Int.min_def] <;> split_ifs <;> omega

theorem vIntElem_sum {n : Nat} (h : 0 < n) (sg sat : Bool) (a b c : BitVec n) :
    BitVec.ofNat n (vIntElem .add sg n sat a.toNat b.toNat c.toNat) = intoBits sat sg n (asInt sg a + asInt sg b) ∧
    BitVec.ofNat n (vIntElem .sub sg n sat a.toNat b.toNat c.toNat) = intoBits sat sg n (asInt sg a - asInt sg b) ∧
    BitVec.ofNat n (vIntElem .mul sg n sat a.toNat b.toNat c.toNat) = intoBits sat sg n (asInt sg a * asInt sg b) ∧
    BitVec.ofNat n (vIntElem .mad sg n sat a.toNat b.toNat c.toNat) = intoBits sat sg n (asInt sg a * asInt sg b + asInt sg c) := by
  simp only [vIntElem, rd_eq h, intoBits_eq, and_self]

theorem ofInt_min {n : Nat} (sg : Bool) (a b : BitVec n) :
    BitVec.ofInt n (min (asInt sg a) (asInt sg b)) = if asInt sg b < asInt sg a then b else a := by
  rw [Int.min_def]
  split_ifs with h1 h2 h2
  · omega
  · exact ofInt_asInt _ _
  · exact ofInt_asInt _ _
  · omega
theorem ofInt_max {n : Nat} (sg : Bool) (a b : BitVec n) :
    BitVec.ofInt n (max (asInt sg a) (asInt sg b)) = if asInt sg a < asInt sg b then b else a := by
  rw [Int.max_def]
  split_ifs with h1 h2 h2
  · exact ofInt_asInt _ _
  · rw [ofInt_asInt]; exact asInt_inj (sg := sg) (by omega)
  · omega
  · exact ofInt_asInt _ _
theorem asInt_max {n : Nat} (sg : Bool) (a b : BitVec n) :
    max (asInt sg a) (asInt sg b) = asInt sg (if asInt sg a < asInt sg b then b else a) := by
  rw [Int.max_def]; split_ifs <;> omega

theorem vIntElem_order {n : Nat} (h : 0 < n) (sg sat : Bool) (a b c : BitVec n) :
    BitVec.ofNat n (vIntElem .min sg n sat a.toNat b.toNat c.toNat) = (if asInt sg b < asInt sg a then b else a) ∧
    BitVec.ofNat n (vIntElem .max sg n sat a.toNat b.toNat c.toNat) = (if asInt sg a < asInt sg b then b else a) ∧
    BitVec.ofNat n (vIntElem .clamp sg n sat a.toNat b.toNat c.toNat) =
      (let m := if asInt sg a < asInt sg b then b else a
       if asInt sg c < asInt sg m then c else m) := by
  simp only [vIntElem, rd_eq h, wrap_eq]
  refine ⟨ofInt_min _ _ _, ofInt_max _ _ _, ?_⟩
  rw [asInt_max, ofInt_min]

theorem vIntElem_sign {n : Nat} (h : 0 < n) (sg sat : Bool) (a b c : BitVec n) :
    BitVec.ofNat n (vIntElem .abs sg n sat a.toNat b.toNat c.toNat) = (if asInt sg a < 0 then -a else a) ∧
    BitVec.ofNat n (vIntElem .neg sg n sat a.toNat b.toNat c.toNat) = -a := by
  simp only [vIntElem, rd_eq h, wrap_eq]
  constructor
  · split_ifs with hc
    · rw [Int.ofNat_natAbs_of_nonpos (by omega), BitVec.ofInt_neg, ofInt_asInt]
    · rw [Int.natAbs_of_nonneg (by omega), ofInt_asInt]
  · rw [BitVec.ofInt_neg, ofInt_asInt]

/-- The arithmetic shift of R232 and R255 on n bits. -/
theorem sar_eq {n : Nat} (h : 0 < n) (a : BitVec n) (k : Nat) : BitVec.ofInt n (a.toInt / 2 ^ min k n) =
    if n ≤ k then (if a.msb then BitVec.allOnes n else 0) else a.sshiftRight k := by
  split
  · rename_i c
    rw [Nat.min_eq_right c]
    have lt := BitVec.toInt_lt (x := a)
    have le := BitVec.le_toInt (x := a)
    have hp : (2 : Int) ^ n = 2 * 2 ^ (n - 1) := by
      obtain ⟨m, rfl⟩ : ∃ m, n = m + 1 := ⟨n - 1, by omega⟩
      rw [Int.pow_succ, Nat.add_sub_cancel]; omega
    have h0 : (0 : Int) < 2 ^ (n - 1) := Int.pow_pos (by decide)
    simp only [BitVec.msb_eq_toInt, decide_eq_true_eq]
    split
    · have : a.toInt / 2 ^ n = -1 := Int.ediv_eq_neg_one_of_neg_of_le (by omega) (by omega)
      rw [this, BitVec.neg_one_eq_allOnes.symm, BitVec.ofInt_neg]
      rfl
    · have : a.toInt / 2 ^ n = 0 := Int.ediv_eq_zero_of_lt (by omega) (by omega)
      rw [this]; simp
  · rename_i c
    rw [Nat.min_eq_left (by omega), BitVec.sshiftRight, Int.shiftRight_eq_div_pow]
    norm_cast

theorem vIntElem_shift {n : Nat} (h : 0 < n) (sg sat : Bool) (a b c : BitVec n) :
    BitVec.ofNat n (vIntElem .shl sg n sat a.toNat b.toNat c.toNat) = (if n ≤ b.toNat then 0 else a <<< b.toNat) ∧
    BitVec.ofNat n (vIntElem .shr sg n sat a.toNat b.toNat c.toNat) = (if n ≤ b.toNat then 0 else a >>> b.toNat) ∧
    BitVec.ofNat n (vIntElem .sar sg n sat a.toNat b.toNat c.toNat) =
      (if n ≤ b.toNat then (if a.msb then BitVec.allOnes n else 0) else a.sshiftRight b.toNat) ∧
    BitVec.ofNat n (vIntElem .popc sg n sat a.toNat b.toNat c.toNat) =
      BitVec.ofNat n ((List.range n).filter fun j => a.getLsbD j).length := by
  simp only [vIntElem, wrap_eq, signedOf_eq h, sar_eq h, popFrom_spec]
  refine ⟨?_, ?_, trivial, rfl⟩
  · split_ifs
    · rfl
    · apply BitVec.eq_of_toNat_eq; simp
  · split_ifs
    · rfl
    · apply BitVec.eq_of_toNat_eq
      rw [BitVec.toNat_ofNat, BitVec.toNat_ushiftRight]
      exact Nat.mod_eq_of_lt (Nat.lt_of_le_of_lt (by rw [Nat.shiftRight_eq_div_pow]; exact Nat.div_le_self _ _) a.isLt)

/-- An elementwise integer instruction that acts issues its elements. -/
theorem issuesElems_of {s : State} {i : Instr} {x : OpA} {op : VOp} {g : Nat → BitVec (tyWidth x.ty)}
    (he : exec i s = s.vecElemOp i x op) (hg : instrGuard i = (x.cl, x.g)) (h : s.core.guard x.cl x.g = true)
    (hf : s.slotFault s.issuesQuiet {} i = none) (hv : x.ty.vInt = true)
    (hgk : ∀ k, let e (o : Opnd) := elemAt (tyWidth x.ty) (s.core.vsrc x.cl (s.core.fmt x.ty) o) k
      BitVec.ofNat (tyWidth x.ty) (vIntElem op (tySigned x.ty) (tyWidth x.ty) (x.md.getLsbD 4) (e x.a).toNat (e x.b).toNat
        (e x.c).toNat) = g k) : IssuesElems s i x.cl x.d (x.md.extractLsb' 0 4) (tyWidth x.ty) g := by
  have := issuesVector_of (f := fun c => vecElementwise op (c.fmt x.ty) c.vecEnv (satOf x) (qenOf x) (c.vsrc x.cl (c.fmt x.ty) x.a)
    (c.vsrc x.cl (c.fmt x.ty) x.b) (c.vsrc x.cl (c.fmt x.ty) x.c)) (he.trans rfl) hg h hf
  simp only [vecElementwise, fmt_int (c := s.core) hv] at this
  have hs' := stride_int (tySigned x.ty) hv
  generalize hq : (Fmt.int (tySigned x.ty) (tyWidth x.ty)).stride = q at this
  obtain rfl : q = tyWidth x.ty := hq.symm.trans hs'
  refine issuesElems_map this fun k hk => ?_
  have := hgk k
  simp only [fmt_int (c := s.core) hv] at this
  exact this

/-- An elementwise floating-point instruction that acts issues its elements. -/
theorem issuesFloats_of {s : State} {i : Instr} {x : OpA} {op : VOp} {g : Nat → Nat × FpFlags × FpCounts}
    (he : exec i s = s.vecElemOp i x op) (hg : instrGuard i = (x.cl, x.g)) (h : s.core.guard x.cl x.g = true)
    (hf : s.slotFault s.issuesQuiet {} i = none) (hv : x.ty.vFloat = true)
    (hgk : ∀ k, let e (o : Opnd) := (elemAt (stdOf x.ty).width (s.core.vsrc x.cl (s.core.fmt x.ty) o) k).toNat
      vFloatElem op (stdOf x.ty) (FpEnv.ofFpcr s.core.fpcr) (e x.a) (e x.b) (e x.c) = g k) :
    IssuesFloats s i x.cl x.d (x.md.extractLsb' 0 4) (stdOf x.ty).width g := by
  have := issuesVector_of (f := fun c => vecElementwise op (c.fmt x.ty) c.vecEnv (satOf x) (qenOf x) (c.vsrc x.cl (c.fmt x.ty) x.a)
    (c.vsrc x.cl (c.fmt x.ty) x.b) (c.vsrc x.cl (c.fmt x.ty) x.c)) (he.trans rfl) hg h hf
  simp only [vecElementwise, fmt_flt (c := s.core) hv] at this
  have hs' := stride_flt hv
  generalize hq : (Fmt.std (stdOf x.ty)).stride = q at this
  obtain rfl : q = (stdOf x.ty).width := hq.symm.trans hs'
  have e : g = fun k => vFloatElem op (stdOf x.ty) (FpEnv.ofFpcr s.core.fpcr)
      (elemAt (stdOf x.ty).width (s.core.vsrc x.cl (s.core.fmt x.ty) x.a) k).toNat
      (elemAt (stdOf x.ty).width (s.core.vsrc x.cl (s.core.fmt x.ty) x.b) k).toNat
      (elemAt (stdOf x.ty).width (s.core.vsrc x.cl (s.core.fmt x.ty) x.c) k).toNat := funext fun k => (hgk k).symm
  rw [e]
  simp only [fmt_flt (c := s.core) hv]
  exact issuesFloats_map this

/-! ### Whole containers (R258, R260) -/

theorem elemAt_and (a b : VecReg) (n k : Nat) : elemAt n (a &&& b) k = elemAt n a k &&& elemAt n b k := by
  apply BitVec.eq_of_getLsbD_eq; intro j hj; simp [elemAt, hj]
theorem elemAt_or (a b : VecReg) (n k : Nat) : elemAt n (a ||| b) k = elemAt n a k ||| elemAt n b k := by
  apply BitVec.eq_of_getLsbD_eq; intro j hj; simp [elemAt, hj]
theorem elemAt_xor (a b : VecReg) (n k : Nat) : elemAt n (a ^^^ b) k = elemAt n a k ^^^ elemAt n b k := by
  apply BitVec.eq_of_getLsbD_eq; intro j hj; simp [elemAt, hj]
theorem elemAt_not (a : VecReg) {n k : Nat} (h : n * k + n ≤ 32768) : elemAt n (~~~a) k = ~~~elemAt n a k := by
  apply BitVec.eq_of_getLsbD_eq; intro j hj; simp [elemAt, hj]; omega
theorem elemAt_ofFn (f : Nat → Nat → Nat) {k : Nat} (h : k < 1024) :
    elemAt 32 (vecOfFn f) k = BitVec.ofNat 32 (f (k / 64) (k % 64)) := by
  have := contAt_vecOfFn f (r := k / 64) (c := k % 64) (by omega) (by omega)
  rwa [contAt, show 64 * (k / 64) + k % 64 = k by omega] at this
theorem ofNat_vecCont (a : VecReg) (r c : Nat) : BitVec.ofNat 32 (vecCont a r c) = contAt a r c := by
  simp [vecCont, vecElem_eq, contAt]

/-- An instruction that writes a whole register without flags issues its containers. -/
theorem issuesElems_plain {s : State} {i : Instr} {x : OpA} {v : Core → VecReg} {g : Nat → BitVec 32}
    (he : exec i s = s.vecOp i x fun c => vecPlain (qenOf x) (v c)) (hg : instrGuard i = (x.cl, x.g))
    (h : s.core.guard x.cl x.g = true) (hf : s.slotFault s.issuesQuiet {} i = none)
    (hk : ∀ k, k < 1024 → elemAt 32 (v s.core) k = g k) : IssuesElems s i x.cl x.d (x.md.extractLsb' 0 4) 32 g :=
  ⟨_, issuesVector_of he hg h hf, rfl, rfl, rfl, fun k h => hk k h⟩

/-- Bit j of the containers QEN enables (R252). -/
theorem qenMask_bit (qen : BitVec 4) {j : Nat} (h : j < 32768) : (qenMask qen).getLsbD j = qenOn qen (j / 32 % 64 / 16) := by
  have e := contAt_vecOfFn (fun _ c => if qenOn qen (c / 16) then 2 ^ 32 - 1 else 0) (r := j / 32 / 64) (c := j / 32 % 64)
    (by omega) (by omega)
  have e2 := congrArg (fun v => v.getLsbD (j % 32)) e
  simp only [contAt, elemAt, BitVec.getLsbD_extractLsb'] at e2
  rw [show 32 * (64 * (j / 32 / 64) + j / 32 % 64) + j % 32 = j by omega] at e2
  simp only [show j % 32 < 32 by omega, decide_true, Bool.true_and] at e2
  show (vecOfFn _).getLsbD j = _
  rw [e2]
  split
  · rename_i h1; rw [h1]; simp only [BitVec.getLsbD_ofNat, Nat.testBit_two_pow_sub_one]; simp; omega
  · rename_i h1; simp at h1; rw [h1]; simp

end Sys2Proof.Machine
end

