-- ==== Sys2Proof/Tests/Slice0.lean ====
section
/-!
SUPPORT. Tests/Slice0.lean: words of the spec decoded, ill-formed terms refused, small steps, and witnesses that meet the
hypotheses of the statements.
-/
namespace Sys2Proof.Tests

open Sys2Proof.Machine

-- One test after another: together they would all stand waiting for the kernel at once.
set_option Elab.async false

/-! ### Words written out from the encodings (R61 to R83) -/

/-- C class: SYSR sa5, LCNT; `br` with NEG and a negative displacement; `br start` of R83; RET; LBRK; LDRAIN. -/
theorem test_decode_control :
    decodeSlot 0 0x120015FC00000030#64 = .ok (.sysr { dflI with d := .sreg 5, imm := 0x030 }) ∧
    decodeSlot 0 0x0203FFFFFE900000#64 = .ok (.br { dflC with disp := 0x3FFFFFE9 }) ∧
    decodeSlot 0 0x0A0000000003F000#64 = .ok (.ret { dflC with a := .sreg 63 }) ∧
    decodeSlot 0 0x0E00000000000000#64 = .ok (.lbrk dflC) ∧ decodeSlot 0 0x1000000000000000#64 = .ok (.ldrain dflC) := by
  decide +kernel

/-- Tasks, futures, barriers: TEND, YIELD, FTEST sa5, sa9, BARX with its result discarded. -/
theorem test_decode_tasks :
    decodeSlot 0 0x200000000007F000#64 = .ok (.tend dflC) ∧ decodeSlot 0 0x220000000007F000#64 = .ok (.yield dflC) ∧
    decodeSlot 0 0x2E001425FDFC0000#64 = .ok (.ftest { dflA with d := .sreg 5, a := .sreg 9 }) ∧
    decodeSlot 0 0x4405FE01FDFC0000#64 = .ok (.barx { dflA with a := .imm 0 }) := by
  decide +kernel

/-- S class: `cmp.lt.i32 pa3, sa1, sa2`; M class: LSSTV of vb1 to word 2 from bank 0 without an index. -/
theorem test_decode_scalar_and_store :
    decodeSlot 1 0x4601580409FC4100#64 =
      .ok (.cmp { dflA with d := .pred 2, a := .sreg 1, b := .sreg 2, ty := .i32, sub := 2 }) ∧
    decodeSlot 4 0x760105FC000BE000#64 = .ok (.lsstv { dflL with cl := .b, v := .vreg 1, n := 15, spread := true, word := 2 }) := by
  decide +kernel

/-- T class: SEND, CPY from the local store with a scalar length, WOPEN, WCLOSE. -/
theorem test_decode_units :
    decodeSlot 7 0x800030282C340000#64 =
      .ok (.send { dflSend with d := .sreg 12, a := .sreg 10, b := .sreg 11, c := .sreg 13 }) ∧
    decodeSlot 7 0x600074887E000013#64 =
      .ok (.cpy { dflCpy with d := .sreg 29, a := .sreg 34, b := .sreg 31, c := .imm 0, scope := .device, sls := true }) ∧
    decodeSlot 7 0x840014181C200000#64 =
      .ok (.wopen { dflA with cl := .b, d := .sreg 5, a := .sreg 6, b := .sreg 7, c := .sreg 8 }) ∧
    decodeSlot 7 0x86002415FDFC0000#64 = .ok (.wclose { dflA with cl := .b, d := .sreg 9, a := .sreg 5 }) := by
  decide +kernel

/-- The worked words of chapters 7, 10, 12 and 15: TRAP 5, BARA, BARW, FDSET, FDGET, SLLD. -/
theorem test_decode_worked :
    decodeSlot 0 0x1600201C00000005#64 = .ok (.trap { dflI with d := .sreg 8, a := .sreg 7, imm := 5 }) ∧
    decodeSlot 0 0x40001025FDFC0000#64 = .ok (.bara { dflA with d := .sreg 4, a := .sreg 9 }) ∧
    decodeSlot 0 0x4201FC2411FC0000#64 = .ok (.barw { dflA with a := .sreg 9, b := .sreg 4 }) ∧
    decodeSlot 7 0xA001FC1DFDFC0004#64 = .ok (.fdset { dflA with cl := .b, a := .sreg 7, md := 4 }) ∧
    decodeSlot 7 0xA20015FDFDFC000C#64 = .ok (.fdget { dflA with cl := .b, d := .sreg 5, md := 12 }) ∧
    decodeSlot 7 0x020184298403E000#64 = .ok (.slld { dflL with
      cl := .b, v := .sl 1, x := .sreg 10, grp := 1, bank := 4, word := 256, n := 15, spread := true }) := by
  decide +kernel

/-- R61, R78: a selector that names nothing, and an OP that is not assigned, are refused. -/
theorem test_decode_refuses :
    (match decodeSlot 1 0x4601580409FC4100#64 with
      | .ok _ => true
      | .error _ => false) = true ∧
    (match decodeSlot 1 0x46016C0409FC4100#64 with
      | .ok _ => true
      | .error _ => false) = false ∧
    (match decodeSlot 1 0xDE00000000000000#64 with
      | .ok _ => true
      | .error _ => false) = false := by decide +kernel

/-! ### A sample of every slot instruction -/

def xA : OpA := { dflA with d := .sreg 3, a := .sreg 1, b := .sreg 2 }
def xA3 : OpA := { xA with c := .sreg 4 }
def xB : OpA := { dflA with cl := .b, d := .sreg 3, a := .sreg 1, b := .sreg 2 }
def xF : OpA := { xA with ty := .f32 }
def xV : OpA := { dflA with d := .vreg 3, a := .vreg 1, b := .vreg 2, ty := .i16 }
def xVF : OpA := { xV with ty := .f32 }
def xC : OpC := dflC
def xI : OpI := { dflI with d := .sreg 3, a := .sreg 1 }
def xM : OpM := { dflM with v := .sreg 3, b := .sreg 2 }
def xMV : OpM := { dflM with v := .vreg 3, b := .sreg 2 }
def xL : OpL := { dflL with v := .sreg 3, x := .nil }
def xLV : OpL := { dflL with v := .vreg 3, x := .nil, n := 15, spread := true }
def xH : OpA := { dflA with cl := .b, d := .hv 3, a := .hv 1, b := .hv 2 }
def noB (x : OpA) : OpA := { x with b := .nil }

def samplesC : List Instr :=
  [.nop 0, .branchHint xC, .br { xC with disp := 4 }, .bri { xC with a := .sreg 1 }, .call { xC with disp := 4 },
   .calli { xC with a := .sreg 1 }, .ret { xC with a := .sreg 63 }, .lbrk xC, .ldrain xC, .sysr { xI with a := .nil }, .sysw { xI with d := .nil, imm := 0x20 },
   .trap { xI with imm := 111 }, .tend xC, .yield xC, .tspawn { xA with c := .imm 0 }, .fnew { dflA with d := .sreg 3 },
   .fset { xA with d := .nil }, .ffail { xA with d := .nil }, .fwait { dflA with a := .sreg 1 }, .ftest (noB xA), .ffree { dflA with a := .sreg 1 },
   .bara (noB xA), .barw { xA with d := .nil }, .barx (noB xA), .bari { xA with d := .nil, a := .sreg 5, b := .imm 3, c := .imm 1 },
   .pbara { noB xA with a := .sreg 6 }, .pbarw { xA with d := .nil, a := .sreg 6 }, .qput { xI with d := .sreg 2, a := .sreg 2 }, .qget { xI with d := .sreg 2, a := .sreg 2, imm := 100 },
   .qpeek { xI with a := .sreg 2 }]

def samplesS : List Instr :=
  [.add xA, .sub xA, .addi { xI with imm := 0x7FFFFFFF }, .mul xA, .mulh xA, .mulhn xA, .div xA, .divn xA, .rem xA, .remn xA,
   .and xA, .or xA, .xor xA, .andn xA, .orn xA, .shl xA, .shr xA, .sar xA, .rol xA, .clz (noB xA), .ctz (noB xA), .popc (noB xA),
   .min xA, .max xA, .minn xA, .maxn xA, .abs (noB xA)] ++
  [.bfx xA3, .bfi { xA3 with md := 64 }, .sext xA, .lea { xA3 with md := 7 }, .movi { xI with a := .nil }, .movh xI, .sel xA3,
   .cmp { xA with d := .pred 6, sub := 11 }, .cmpi { xI with isub := 3 }, .plog { xA with d := .pred 6, sub := 5 }, .xcl (noB xA),
   .xcp { noB xA with d := .pred 1, a := .pred 6 }, .mad xA3, .fadd xF, .fsub xF, .fmul xF, .fma { xF with c := .sreg 4 }, .fdiv xF, .fsqrt (noB xF),
   .fmin xF, .fmax xF, .fcmp { xF with sub := 7 }, .fcvt { noB xF with sub := 2 }, .fclass { noB xF with ty := .fd 14 }, .fsgn { xF with sub := 3 }]

def samplesM : List Instr :=
  [.prefetchHint { dflM with b := .sreg 2, off := 5 }, .ld xM, .st { xM with sz := .d64 }, .ldv xMV, .stv { xMV with ord := .release }, .ldt { xMV with fd := 10 },
   .stt xMV, .pref { dflM with b := .sreg 2, sz := .sector, scope := .device }, .ntst xM, .ntstv xMV, .amo { xM with sz := .n32, fd := 11 },
   .amon { xM with sz := .n32, fd := 10, ord := .release, scope := .pod }, .acas { xM with v := .sreg 62, sz := .d64 }, .mark dflM,
   .fence { dflM with ord := .acquire, scope := .pod }, .ntdrain { dflM with scope := .device }, .lsld { xL with md := 5 }, .lsst { xL with word := 2047 },
   .lsldv xLV, .lsstv { xLV with md := 0x40 }, .migr { xA3 with d := .nil }, .pgstat (noB xA), .logapply { noB xA3 with d := .nil },
   .asdecl { xA with a := .sreg 2 }, .asdrop (noB xA)]

def samplesV : List Instr :=
  [.vadd { xV with md := 0x1F }, .vsub xV, .vmul xV, .vfma { xVF with c := .vreg 4 }, .vfms { xVF with c := .vreg 4 }, .vmin xV, .vmax xV, .vabs (noB xV),
   .vneg (noB xV), .vand { xV with ty := .i64 }, .vor { xV with ty := .i64 }, .vxor { xV with ty := .i64 }, .vandn { xV with ty := .i64 }, .vshl xV, .vshr xV,
   .vsar xV, .vcmp { xV with sub := 11 }, .vsel { xV with ty := .i64, c := .vreg 4 }, .vmov { noB xV with ty := .i64 }, .vsplat { noB xV with a := .sreg 1 },
   .vins { xV with a := .sreg 1, b := .sreg 2, c := .vreg 4 }, .vext { xV with d := .sreg 3, b := .sreg 2 }, .vclamp { xV with c := .vreg 4 }] ++
  [.vmad { xV with c := .vreg 4 }, .vdot4 { xV with c := .vreg 4 }, .vpopc (noB xV), .vrotr { xV with ty := .i64, b := .imm 3 }, .vrotc { xV with ty := .i64, b := .imm 3 },
   .vbcr { xV with ty := .i64, b := .imm 3 }, .vbcc { xV with ty := .i64, b := .imm 3 }, .vredr { noB xV with sub := 13 }, .vredc { noB xV with sub := 8 },
   .vtrn { noB xV with ty := .i64 }, .vcvt { noB xVF with c := .nil, md := 0x0A }, .vrcp (noB xVF), .vrsq (noB xVF), .vsqrt (noB xVF), .vexp2 (noB xVF),
   .vlog2 (noB xVF), .vtanh (noB xVF)]

def samplesT : List Instr :=
  [.slld { dflL with cl := .b, v := .sl 3, n := 15, spread := true }, .mma { dflMma with d := .vreg 3, q := 3 }, .mmaz { dflMma with d := .nil },
   .hld { dflL with cl := .b, v := .hv 3, n := 15, spread := true }, .hst { dflL with cl := .b, v := .ht, n := 15, spread := true }, .hxor xH,
   .hrot { xH with b := .sreg 2 }, .hlog { xH with sub := 3 }, .hbund { xH with d := .hc 3, a := .hc 3, b := .hv 1, md := 0x1F },
   .hmaj { xH with a := .hc 3 }, .hcclr { dflA with cl := .b, d := .hc 3 }, .htie { dflA with cl := .b, d := .ht, a := .sreg 1 }, .hdist { xH with d := .sreg 3 },
   .hnear { xH with d := .sreg 62, b := .imm 0, c := .imm 1 }, .hmovv { xH with d := .hc 1, a := .vreg 3, b := .nil, sub := 3, md := 1 }] ++
  [.cpy { dflCpy with d := .sreg 2, a := .sreg 2, b := .sreg 1, c := .imm 0, scope := .pod },
   .chase { dflChase with d := .sreg 2, a := .sreg 2, b := .sreg 2, c := .imm 0 },
   .gath { dflGath with d := .sreg 2, a := .sreg 2, b := .sreg 2, c := .imm 0, n := .sreg 1, gsz := 3, isz := true },
   .send { dflSend with d := .sreg 8, a := .sreg 2, b := .sreg 2, c := .imm 0 },
   .msend { dflSend with d := .sreg 1, a := .sreg 2, b := .sreg 2, c := .imm 0, e := .imm 0 }, .wopen { xB with a := .sreg 2, b := .sreg 2, c := .imm 0 }, .wclose (noB xB),
   .lstat { noB xB with sub := 3 }, .fdset { dflA with cl := .b, a := .imm 0, md := 10 }, .fdget { dflA with cl := .b, d := .sreg 3, md := 15 },
   .bfmt { dflL with cl := .b, spread := true, md := 0x0A }]

/-- A LOOP of one stage over a four-word body. -/
def xLoop : Instr := .loop { dflC with a := .sreg 1, disp := 4 }

def samples : List Instr := samplesC ++ (samplesS ++ (samplesM ++ (samplesV ++ samplesT)))

/-- The word of a slot instruction, and whether decoding it gives the instruction back. -/
def roundTrip (i : Instr) : Bool :=
  slotWf i && (match encode i with
    | some (n, w) => (match decodeSlot n w with
      | .ok j => i == j
      | .error _ => false)
    | none => false)

/-- Every slot instruction has a well-formed form whose word decodes to it. -/
theorem test_samples_round_trip : (xLoop :: samples).all roundTrip = true := by decide +kernel

/-! ### A core with a bundle in issue -/

/-- Registers of the core below: sa1 and sb1 hold 7, sa2 and sb2 4,096, and so on. -/
def witRegs : Regs :=
  { sa := [(1, 7), (2, 4096), (3, 0x8000000000000000), (5, 0x40000001), (6, 0x80000000)],
    sb := [(1, 7), (2, 4096), (3, 0x8000000000000000), (8, 0x40001)] }

/-- Core 0 runs task 0, whose faults a handler takes (FPOL 1); bundle 1, at word 16, is in issue. -/
def atIssue (quiet : Bool) : State :=
  let s := State.reset.runsBundle { header := 0, words := [] }
  { s with
    agenda := []
    launches := [(0, { loadedLaunch with img := { loadedLaunch.img with fpol := 1 } })]
    core := { s.core with
      pc := 16, bseq := 1, regs := witRegs,
      iss := some { baddr := 16, bseq := 1, len := 2, wait := 0, quiet := quiet, redir := .seq, sysw := [], ops := [], lsw := [] } } }

def acts (s : State) (i : Instr) : Bool :=
  s.core.guard (instrGuard i).1 (instrGuard i).2 && (s.slotFault s.issuesQuiet {} i).isNone
theorem acts_of {s : State} {i : Instr} (h : acts s i = true) : s.Acts i := by
  simpa [acts, State.Acts, State.Guarded] using h

theorem test_samples_act : samples.all (acts (atIssue true)) = true ∧ acts (atIssue false) xLoop = true := by decide +kernel

/-! ### Ill-formed terms, one for each check -/

/-- Form A: cluster, SUB, D, A, B, C, TY unused, SUB and MOD bits unused, the entry's own check, WBS where it is illegal. -/
theorem test_ill_formed_A : (([.fset { xA with d := .nil, cl := .b }, .hxor { xH with cl := .a }, .cmp { xA with sub := 12 }, .add { xA with d := .vreg 0 },
    .fset { xA with d := .sreg 0 }, .add { xA with a := .vreg 0 }, .clz xA, .mad { xA3 with c := .ht }, .sext { xA with ty := .i32 },
    .add { xA with sub := 1 }, .add { xA with md := 1 }, .lea { xA3 with md := 8 }, .add { xA with ty := .f32 }, .bfi { xA3 with md := 65 },
    .bfi { xA3 with md := 0 }] : List Instr) ++ [.hcclr { dflA with cl := .b }, .ftest { xA with d := .sreg 63, b := .nil }, .vadd { xVF with md := 0x10 },
    .vsplat { xV with b := .nil, a := .imm 1, ty := .fd 0 }, .hbund { xH with d := .hc 3, a := .hc 3, b := .hv 1, md := 0x10 },
    .vcvt { noB xVF with c := .nil, md := 0x4A }, .fdset { dflA with cl := .b, a := .imm 0, md := 11 }] : List Instr).any slotWf = false := by decide +kernel

/-- Form I: cluster, D, A, ISUB, IMM32, and the register number of the map. -/
theorem test_ill_formed_I : (([.sysr { xI with a := .nil, cl := .b }, .addi { xI with d := .vreg 0 }, .movi xI, .addi { xI with isub := 1 },
    .qput { xI with imm := 1 }, .sysr { xI with a := .nil, imm := 4 }, .trap { xI with imm := 112 }, .qget { xI with d := .nil }] : List Instr)).any slotWf = false := by
  decide +kernel

/-- Form M: V, WBS, B and OFF unused, FD, SZ, ORD, SCOPE, the operation of an atomic, SZ of PREF. -/
theorem test_ill_formed_M : (([.ld { xM with v := .vreg 0 }, .ld { xM with wbs := true }, .ld { xM with b := .vreg 0 }, .mark { dflM with b := .sreg 0 },
    .mark { dflM with off := 1 }, .ld { xM with fd := 1 }, .ld { xM with sz := .sector }, .ldv { xMV with sz := .d64 }, .ld { xM with ord := .release },
    .ld { xM with scope := .pod }, .amo { xM with sz := .n32, fd := 12 }, .amo { xM with sz := .d64, fd := 1 }, .acas { xM with sz := .d64, v := .sreg 63 },
    .pref { dflM with b := .sreg 2, sz := .d64 }, .mark { dflM with v := .sreg 0 }] : List Instr)).any slotWf = false := by decide +kernel

/-- Form L: cluster, SUB, V, X, BANK, WORD, N, SPREAD, SUB and MOD bits, rows without SPREAD, a type of 64 bits. -/
theorem test_ill_formed_L : (([.slld { dflL with v := .sl 3, spread := true }, .lsldv { xLV with sub := 4 }, .lsld { xL with v := .vreg 0 },
    .lsld { xL with x := .vreg 0 }, .lsldv { dflL with v := .vreg 3, sub := 3, bank := 1 }, .lsldv { dflL with v := .vreg 3, sub := 3, word := 1 },
    .lsld { xL with n := 1 }, .lsld { xL with spread := true }, .slld { dflL with cl := .b, v := .sl 3, spread := true, sub := 1 }, .lsld { xL with md := 8 },
    .lsld { xL with md := 6 }, .lsldv { xLV with spread := false }, .lsldv { xLV with sub := 1, md := 0 }, .bfmt { dflL with cl := .b, md := 0 },
    .hld { dflL with cl := .b, v := .hv 3, n := 14, spread := true }] : List Instr)).any slotWf = false := by decide +kernel

/-- Form C: A, DISP, WBS, SUB and MOD where the entry has none. -/
theorem test_ill_formed_C : (([.bri { xC with a := .vreg 0 }, .br { xC with a := .sreg 0 }, .bri { xC with a := .sreg 0, disp := 1 }, .br { xC with wbs := true },
    .br { xC with sub := 1 }, .br { xC with md := 1 }, .branchHint { xC with a := .sreg 0 }] : List Instr)).any slotWf = false := by decide +kernel

/-- The T class's own forms, and the hints. -/
theorem test_ill_formed_T : (([.mma { dflMma with d := .nil }, .mma { dflMma with d := .sreg 0 }, .mma { dflMma with d := .vreg 0, x := .imm 0x40 },
    .mma { dflMma with d := .vreg 0, m := .imm 0 }, .cpy { dflCpy with d := .vreg 0 }, .cpy { dflCpy with a := .vreg 0 }, .cpy { dflCpy with b := .vreg 0 },
    .cpy { dflCpy with c := .vreg 0 }, .cpy { dflCpy with cvt := true }, .cpy { dflCpy with fm := .f32 }, .chase { dflChase with d := .vreg 0 },
    .chase { dflChase with a := .pred 0 }, .chase { dflChase with b := .pred 0 }, .chase { dflChase with c := .pred 0 }] : List Instr) ++
    [.gath { dflGath with d := .pred 0 }, .gath { dflGath with a := .pred 0 }, .gath { dflGath with b := .pred 0 }, .gath { dflGath with c := .pred 0 },
     .gath { dflGath with n := .pred 0 }, .send { dflSend with d := .pred 0 }, .send { dflSend with a := .pred 0 }, .send { dflSend with b := .pred 0 },
     .send { dflSend with c := .pred 0 }, .send { dflSend with e := .sreg 0 }, .msend { dflSend with e := .pred 0 }, .prefetchHint { dflM with off := 1 },
     .prefetchHint { dflM with b := .imm 0 }, .prefetchHint { dflM with fd := 1 }] : List Instr).any slotWf = false := by decide +kernel

/-- Bundles with a word too few or too many, lines and steps beyond what the device has. -/
theorem test_ill_formed_steps :
    ([{ header := 0x01, words := [] }, { header := 0x00, words := [0] }, { header := 0x81, words := [0, 0, 0] }] : List RawBundle).any RawBundle.wf = false ∧
    LineId.wf { plane := .x, residue := 32, band := 0 } = false ∧ LineId.wf { plane := .y, residue := 0, band := 10 } = false ∧
    Instr.wf (.bundleIssue 1152 { header := 0, words := [] }) = false ∧ Instr.wf (.bundleIssue 0 { header := 1, words := [] }) = false ∧
    Instr.wf (.resultVisible 1152) = false ∧ Instr.wf (.queuePerform 1152 true) = false ∧ Instr.wf (.taskPick 8) = false ∧
    Instr.wf (.launchAccept 4096) = false ∧ Instr.wf (.launch 1024) = false ∧ Instr.wf (.queueAppend 1024 0 []) = false ∧ Instr.wf (.build 64) = false ∧
    Instr.wf (.thermalRetune { plane := .x, residue := 0, band := 10 }) = false ∧ Instr.wf (.pairRetirement 576) = false ∧
    Instr.wf (.add { xA with d := .vreg 0 }) = false := by decide +kernel

/-! ### One step against the spec's worked values -/

def stateOf (r : Host.Outcome State Fault Refusal) : State :=
  match r with
  | .next t => t
  | _ => State.reset

/-- The word that the last result issued gives. -/
def gave (r : Host.Outcome State Fault Refusal) : Option Word :=
  match (stateOf r).core.pend.getLast? with
  | some p => (match p.latch with
    | .word v => some v
    | _ => none)
  | none => none

/-- The core of `atIssue` with other values in sa1 and sa2. -/
def with2 (a b : Word) : State :=
  let s := atIssue false
  { s with core := { s.core with regs := { s.core.regs with sa := tput 0 (tput 0 [] 1 a) 2 b } } }
def xT (ty : Ty) : OpA := { xA with ty := ty }

/-- R232's table of borderline values. -/
theorem test_borderline_values :
    gave (exec (.add (xT .i8)) (with2 100 100)) = some 0xFFFFFFFFFFFFFFC8 ∧
    gave (exec (.div (xT .i32)) (with2 7 0)) = some 0xFFFFFFFFFFFFFFFF ∧
    gave (exec (.rem (xT .i32)) (with2 7 0)) = some 7 ∧
    gave (exec (.divn (xT .n32)) (with2 7 0)) = some 0x00000000FFFFFFFF ∧
    gave (exec (.div (xT .i32)) (with2 0x80000000 (-1))) = some 0xFFFFFFFF80000000 ∧
    gave (exec (.rem (xT .i32)) (with2 (-7) 2)) = some (-1) ∧
    gave (exec (.div (xT .i32)) (with2 (-7) 2)) = some (-3) ∧
    gave (exec (.mulhn (xT .n32)) (with2 0xFFFFFFFF 0xFFFFFFFF)) = some 0xFFFFFFFE ∧
    gave (exec (.abs (noB (xT .i8))) (with2 (-128) 0)) = some 0xFFFFFFFFFFFFFF80 ∧
    gave (exec (.shl (xT .i32)) (with2 1 32)) = some 0 ∧
    gave (exec (.sar (xT .i32)) (with2 (-8) 40)) = some (-1) ∧
    gave (exec (.rol (xT .n8)) (with2 0x81 9)) = some 3 ∧
    gave (exec (.clz (noB (xT .i32))) (with2 0 0)) = some 32 ∧
    gave (exec (.popc (noB (xT .i8))) (with2 0xFFFFFFFFFFFFFF0F 0)) = some 4 := by decide +kernel

/-- The worked CMP of chapter 13: the low 32 bits compare, not the 64. -/
theorem test_cmp_low_bits :
    gave (exec (.cmp { xT .i32 with d := .pred 2, sub := 2 }) (with2 0x00000001FFFFFFFF 0)) = some 1 := by decide +kernel

/-- The conversion table of chapter 12: 300.0, 500.0, 5.0, −0.3, 0.001, +∞ and a quiet NaN into fd12, fd13, fd15 and 0x000A0471. -/
theorem test_conversion_table :
    ([0x01790739#32, 0x01700F2B#32, 0x017A0115#32, 0x000A0471#32].map fun d =>
      [0x43960000, 0x43FA0000, 0x40A00000, 0xBE99999A, 0x3A83126F, 0x7F800000, 0x7FC00000].map fun a =>
        let r := convertElem (.std .f32) (Fmt.ofDesc d) (FpEnv.ofFpcr 0) false 0 0 a
        (r.1, r.2.1.toBits.toNat)) =
    [[(0x79, 0x10), (0x7E, 0x30), (0x4A, 0), (0xAA, 0x10), (0x01, 0x18), (0x7E, 0x20), (0x7F, 0)],
     [(0x5D, 0x10), (0x60, 0x10), (0x45, 0), (0xB5, 0x10), (0x14, 0x10), (0x7C, 0), (0x7E, 0)],
     [(0x7, 0x30), (0x7, 0x30), (0x6, 0x10), (0x9, 0x18), (0x0, 0x18), (0x7, 0x20), (0x7, 0x20)],
     [(0x7F, 0x30), (0x7F, 0x30), (0x50, 0), (0xFB, 0x10), (0x00, 0x10), (0x7F, 0x20), (0x7F, 0x20)]] := by decide +kernel

/-- R15's core 241: tower 1, layer 1, pair 25. -/
theorem test_coreid :
    gave (exec (.sysr { xI with a := .nil, imm := 2 }) { (atIssue false).focus 241 with core := (atIssue false).core }) =
      some (BitVec.ofNat 64 (25 + 128 + 256 + 241 * 2048)) := by decide +kernel

/-- R77, R83: a bundle that places `br start` at word 23 goes back to word 0. -/
theorem test_branch_back :
    (let s := atIssue false
     let t := stateOf (exec (.br { dflC with disp := 0x3FFFFFE9 }) { s with core := { s.core with iss := s.core.iss.map fun b => { b with baddr := 0x17 } } })
     t.core.iss.map fun b => b.redir) = some (.xfer 0 true) := by decide +kernel

/-- R224's FDSET of 0x000A0471, and the fatal fault of SPEC 3 with the arguments the example gives. -/
theorem test_fdset :
    let at_ (v : Word) : State := let s := atIssue false
      { s with core := { s.core with regs := { s.core.regs with sb := [(7, v)] } } }
    let i : Instr := .fdset { dflA with cl := .b, a := .sreg 7, md := 4 }
    (stateOf (exec i (at_ 0xA0471))).core.pend.map (fun p => p.writes) = [[.fd 4 0xA0471]] ∧
    (let t := stateOf (exec i (at_ 0x30471))
     (t.task 0).ecode = 0x25 ∧ (t.task 0).earg0 = 0x30471 ∧ (t.task 0).earg1 = 4 ∧ (t.task 0).emask = 128) := by decide +kernel

/-- The first step after a bundle is placed issues it; the next runs its slot (R48, R61). -/
theorem test_step_issues :
    (stateOf (step (State.reset.withFetchWord 128 (0x0000000000000002 + 0x400015FC89ABCDEF * 2 ^ 64)))).slots =
      [.movi { dflI with d := .sreg 5, imm := 0x89ABCDEF }] := by decide +kernel

/-- R231: the sum wraps. -/
theorem test_add_wraps : gave (exec (.add xA) (with2 0xFFFFFFFFFFFFFFFF 1)) = some 0 := by decide +kernel

/-! ### Witnesses: states and operands that meet the hypotheses of each statement, clause by clause -/

def w0 : State := atIssue true
def intTypes : List Ty := [.i64, .n64, .i32, .n32, .i16, .n16, .i8, .n8]
def vIntTypes : List Ty := [.i32, .n32, .i16, .n16, .i8, .n8]
def fltTypes : List Ty := [.f64, .f32, .f16, .bf16]

theorem witness_IntegerArithmetic : ∀ ty ∈ intTypes, w0.core.guard (xT ty).cl (xT ty).g = true ∧ (xT ty).ty.isInt = true := by
  decide +kernel

theorem witness_LogicAndShifts :
    (∀ ty ∈ intTypes, w0.core.guard (xT ty).cl (xT ty).g = true ∧ (xT ty).ty.isInt = true) ∧ (with2 0 32).core.guard .a Guard.always = true ∧
    (0#32 = 0 ∧ 1#32 ≠ 0) := by decide +kernel

theorem witness_FieldsAndCompares :
    w0.core.guard .a Guard.always = true ∧ w0.core.guard .b Guard.always = true ∧ (xT .i64).ty = .i64 ∧ (xT .n64).ty = .n64 ∧
    (∀ m ∈ [1#7, 64#7], 1 ≤ m.toNat ∧ m.toNat ≤ 64) ∧ (xT .n8).ty.isInt = true ∧ (∀ u ∈ [0#6, 11#6], u.toNat < 12) ∧
    (∀ u ∈ [0#6, 5#6], u.toNat < 6) ∧ xA.cl = .a ∧ xB.cl = .b := by decide +kernel

theorem witness_FloatScalars :
    (∀ ty ∈ fltTypes, w0.core.guard (xT ty).cl (xT ty).g = true ∧ ∀ k : Fin 15, (xT ty).ty ≠ .fd k) ∧ (xT (.fd 14)).ty = .fd 14 ∧
    (1 : Nat) ≠ 0 ∧ (Val.inf false).isNan = false ∧ (Val.inf false).isZero = false ∧ (Val.num false 1 0).isNan = false ∧
    (Val.num false 1 0).isZero = false ∧ ({ xF with sub := 1 } : OpA).sub = 1 ∧
    (∀ u ∈ [0#6, 2#6], u ≠ 1) ∧ decTy ((0x1F#7).extractLsb' 0 5) = some (.fd 14) ∧ decTy ((0#7).extractLsb' 0 5) = some .i64 := by decide +kernel

theorem witness_VectorOperands : ∀ ty ∈ vIntTypes, ty.vInt = true ∧ 0 < 32768 / tyWidth ty ∧ 32768 / tyWidth ty - 1 < 32768 / tyWidth ty := by decide +kernel

theorem witness_VectorIntegers :
    (∀ ty ∈ vIntTypes, w0.core.guard .a Guard.always = true ∧ ty.vInt = true) ∧
    (∀ u ∈ [0#6, 5#6, 10#6, 11#6], u.toNat < 6 ∨ u = 10 ∨ u = 11) ∧ Ty.vFloat .f32 = true ∧ Ty.vFloat .bf16 = true := by decide +kernel

theorem witness_VectorFloats : ∀ ty ∈ [Ty.f32, .f16, .bf16], w0.core.guard .a Guard.always = true ∧ ty.vFloat = true := by decide +kernel

theorem witness_VectorElements : ∀ ty ∈ vIntTypes, w0.core.guard xV.cl xV.g = true ∧ ty.vInt = true := by decide +kernel

theorem witness_VectorReductions :
    (∀ ty ∈ vIntTypes ++ [Ty.f32, .f16, .bf16], w0.core.guard xV.cl xV.g = true ∧ (ty.vInt = true ∨ ty.vFloat = true)) ∧
    (∀ u ∈ [0#6, 8#6], u.getLsbD 3 = true ∨ u.getLsbD 3 = false) ∧ qenOn 0 0 = true ∧ qenOn 2 0 = false ∧ 0 < 8 ∧
    (List.replicate 16 255).length = 16 ∧ ∀ m ∈ List.replicate 16 255, m < 2 ^ 8 := by decide +kernel

/-- VCVT from f16 to f32, PART 0 and 1; from f32 to fd12, PART 0 and 3. -/
theorem witness_VectorConversion :
    w0.core.guard .a Guard.always = true ∧ ({ xVF with sub := 1 } : OpA).sub = 1 ∧ xVF.ty.vFloat = true ∧ xVF.sub ≠ 1 ∧
    (∀ m ∈ [0x0A#7, 0x2A#7], decTy (m.extractLsb' 0 5) = some .f16 ∧ partOk (w0.core.fmt .f16) (w0.core.fmt .f32) (m.extractLsb' 5 2).toNat = true) ∧
    (∀ m ∈ [0x09#7, 0x69#7], decTy (m.extractLsb' 0 5) = some .f32 ∧
      partOk (w0.core.fmt .f32) (w0.core.fmt (.fd 11)) (m.extractLsb' 5 2).toNat = true) := by decide +kernel

theorem witness_SpecialFunctions :
    (∀ ty ∈ [Ty.f32, .f16, .bf16], w0.core.guard (xVF).cl xVF.g = true ∧ ty.vFloat = true) ∧ (1 : Nat) ≠ 0 ∧
    (SfuOp.rsq = .rsq ∨ SfuOp.rsq = .sqrt ∨ SfuOp.rsq = .log2) := by decide +kernel

/-- SLLD of one column and of sixteen; MMA into the last quarter, MMAZ with no destination. -/
theorem witness_MatrixSteps :
    (∀ n ∈ [0#4, 15#4], w0.Acts (.slld { dflL with cl := .b, v := .sl 3, n := n, spread := true })) ∧
    w0.Acts (.mma { dflMma with d := .vreg 3, q := 3 }) ∧ w0.Acts (.mmaz { dflMma with d := .nil }) := by
  refine ⟨fun n h => acts_of ?_, acts_of (by decide +kernel), acts_of (by decide +kernel)⟩
  revert n
  decide +kernel

theorem witness_Hypervectors :
    w0.core.guard xH.cl xH.g = true ∧ xH.cl = .b ∧ (∀ u ∈ [0#6, 1#6, 2#6, 3#6], u.toNat < 4) ∧ (0 : Nat) < 16 ∧ 15 < 16 ∧ 383 < 384 := by
  decide +kernel

theorem witness_LocalStores :
    twf 0 Pair.reset.data = true ∧ twf 0 Pair.reset.scale = true ∧
    (∀ q ∈ [0#7, 5#7], w0.Acts (.lsld { xL with md := q }) ∧ w0.Acts (.lsst { xL with word := 2047, md := q })) ∧
    w0.Acts (.lsldv xLV) ∧ xLV.sub = 0 ∧ w0.Acts (.lsstv xLV) ∧ w0.Acts (.lsstv { xLV with md := 0x40 }) ∧
    w0.Acts (.hld { dflL with cl := .b, v := .hv 15, n := 15, spread := true }) ∧
    w0.Acts (.hst { dflL with cl := .b, v := .ht, n := 15, spread := true }) := by
  refine ⟨by decide, by decide, fun q h => ?_, acts_of (by decide +kernel), by decide, acts_of (by decide +kernel), acts_of (by decide +kernel),
    acts_of (by decide +kernel), acts_of (by decide +kernel)⟩
  have : ∀ q ∈ [0#7, 5#7], acts w0 (.lsld { xL with md := q }) = true ∧ acts w0 (.lsst { xL with word := 2047, md := q }) = true := by decide +kernel
  exact ⟨acts_of (this q h).1, acts_of (this q h).2⟩

/-- `atIssue` with an image of 20 words, the bundle standing at word 16. -/
def wSmall : State :=
  { atIssue false with launches := [(0, { loadedLaunch with img := { words := 20 } })] }
def loopA : Loop := { start := 10, stop := 16, neff := 3, pass := 0, stages := 1, base := 0, exit := 0, drain := false }

/-- Targets at the first word and the last, one before the section and one behind it; a loop that goes on, ends, and exits early. -/
theorem witness_Transfers :
    w0.core.guard .a Guard.always = true ∧ w0.Acts (.lbrk dflC) ∧ (atIssue false).Acts xLoop ∧
    wSmall.core.bundle.1 = 16 ∧ wSmall.image.words = 20 ∧ (16 : Int) + (0x3FFFFFF0#30).toInt = 0 ∧ (16 : Int) + (0x3FFFFFEF#30).toInt < 0 ∧
    (16 : Int) + (3#30).toInt = 19 ∧ (16 : Int) + (4#30).toInt = 20 ∧ (19#64).toNat < 20 ∧ 20 ≤ (20#64).toNat := by
  exact ⟨by decide +kernel, acts_of (by decide +kernel), acts_of (by decide +kernel), by decide +kernel⟩

theorem witness_Transfers_loops :
    loopA.stop = 16 ∧ loopA.stop ≠ 17 ∧ ¬((0 : Int) ≥ 3 + 1 - 2) ∧ ((2 : Int) ≥ 3 + 1 - 2) ∧ loopA.pass = 0 ∧ loopA.neff = 3 ∧ loopA.stages = 1 ∧
    ({ loopA with exit := 4 } : Loop).exit ≠ 0 ∧ loopA.exit = 0 ∧ loopA.drain = false ∧ ({ loopA with drain := true } : Loop).drain = true := by
  decide

def xR (n : BitVec 32) : OpI := { xI with a := .nil, imm := n }
/-- Task 0 in group slot 3 of tower 7, a group of 16. -/
def wGroup : State := { w0 with tasks := [(0, { state := .running, gslot := 7 * 2048 + 3 })], groups := [(7 * 256 + 3, { size := 16 })] }

theorem witness_RegistersAndTags :
    ([0x000, 0x001, 0x002, 0x003, 0x010, 0x011, 0x012, 0x013, 0x014, 0x020, 0x021, 0x022, 0x030, 0x031, 0x040, 0x041, 0x042, 0x043, 0x050].all
      fun n => (xR n).imm.toNat % 4096 == n.toNat && acts w0 (.sysr (xR n)) && acts w0 (.sysw { xI with d := .nil, imm := n })) = true ∧
    ({ w0 with cur := 1151 } : State).cur < 1152 ∧ w0.hub.seat < 32 ∧ w0.hub.pod < 32 ∧ w0.curTask < 2 ^ 24 ∧ (w0.task w0.curTask).ctx < 64 ∧
    (w0.task w0.curTask).launch < 2 ^ 32 ∧ (w0.task w0.curTask).gslot = 65535 ∧ (wGroup.task wGroup.curTask).gslot < 32768 ∧
    (wGroup.group (groupKey (wGroup.task wGroup.curTask).gslot)).size ≤ 16 ∧ w0.core.loops = [] ∧
    ({ w0.core with loops := [loopA] } : Core).loops = loopA :: [] ∧ w0.core.loops.length ≤ 4 ∧ w0.core.cnt.limit < 4096 ∧
    w0.core.cnt.pub < 4096 ∧ w0.core.cnt.used < 4096 ∧ w0.core.cnt.step < 1024 ∧ w0.core.cnt.prev < 1024 ∧ w0.core.cnt.cur < 1024 ∧
    w0.core.cnt.skip < 64 ∧ (0x022 : Nat) ∉ [0x020, 0x021, 0x040, 0x041, 0x042, 0x043, 0x050] := by decide +kernel

theorem witness_RegistersAndTags_units :
    (∀ m ∈ [0x0A#7, 0x20#7], w0.Acts (.bfmt { dflL with cl := .b, spread := true, md := m })) ∧ (0x20#7).getLsbD 5 = true ∧ (0x0A#7).getLsbD 5 = false ∧
    decTy ((0x0A#7).extractLsb' 0 5) = some .f16 ∧ (∀ k : Fin 15, Ty.f16 ≠ .fd k) ∧ twf 0 (w0.pairAt (pairOf w0.cur)).tags = true ∧
    (∀ m ∈ [1#7, 10#7], w0.Acts (.fdset { dflA with cl := .b, a := .imm 0, md := m })) ∧
    ∀ m ∈ [0#7, 15#7], w0.Acts (.fdget { dflA with cl := .b, d := .sreg 3, md := m }) := by
  refine ⟨fun m h => acts_of ?_, by decide, by decide, by decide, by decide, by decide +kernel, fun m h => acts_of ?_, fun m h => acts_of ?_⟩ <;>
    (revert m; decide +kernel)

/-- An entry of the queues. -/
def mqOf (i : Instr) : MqEntry :=
  { seq := 5, bseq := 1, baddr := 16, slot := instrSlot i, instr := i, inLoad := true, inStore := false, ea := 4096, vals := [], vec := 0, fpcr := 0,
    desc := 0, tagD := 0, tagS := 0, scD := [], scS := [], st := .ready, xl := [], inSet := [] }
def acting (l : List Instr) : Prop := ∀ i ∈ l, w0.Acts i

theorem lem_acting {l : List Instr} (h : l.all (acts w0) = true) : acting l := fun i hi => acts_of (List.all_eq_true.mp h i hi)

/-- Every access; a load queue one short of full and full. -/
theorem witness_MemoryAccesses :
    acting [.ld xM, .st xM, .ldv xMV, .ldt xMV, .stv xMV, .ntst xM, .ntstv xMV, .amo { xM with sz := .n32 }, .amon { xM with sz := .n32 },
      .acas { xM with v := .sreg 62, sz := .d64 }, .mark dflM, .fence dflM, .fence { dflM with ord := .release }, .ntdrain dflM,
      .pref { dflM with b := .sreg 2 }, .stt xMV] ∧
    ((List.replicate 2047 (mqOf (.ld xM))).filter fun e => e.inLoad).length < 2048 ∧
    2048 ≤ ((List.replicate 2048 (mqOf (.ld xM))).filter fun e => e.inLoad).length := by
  exact ⟨lem_acting (by decide +kernel), by decide +kernel, by decide +kernel⟩

/-- Core 0 with every trap enabled, 300.0 in the first container of va3. -/
def wTrap : State := { w0 with core := { w0.core with fpcr := 0x7E0, regs := { w0.core.regs with va := [(3, 0x43960000)] } } }
theorem witness_MemoryAccesses_tile :
    w0.Guarded (.stt xMV) ∧ w0.core.fdValue xMV.fd.toNat = 0 ∧ w0.core.fdValue (10#4).toNat = 0 ∧ w0.core.fdValue (12#4).toNat ≠ 0 ∧
    (w0.core.src .a (.sreg 2)).toNat < 2 ^ 57 ∧ (w0.core.src .a (.sreg 2)).toNat % 128 = 0 ∧
    (∀ fl, trapping (FpEnv.ofFpcr w0.core.fpcr).enables fl = false) ∧
    trapping (FpEnv.ofFpcr wTrap.core.fpcr).enables (orFlags ((List.range 1024).map fun k =>
      (convertElem (.std .f32) (Fmt.ofDesc (wTrap.core.fdValue 12)) (FpEnv.ofFpcr wTrap.core.fpcr) false 0 0
        (elemAt 32 (wTrap.core.vraw .a (.vreg 3)) k).toNat).2.1)) = true := by
  have e : (FpEnv.ofFpcr w0.core.fpcr).enables = 0#5 := by decide +kernel
  refine ⟨by show w0.core.guard _ _ = true; decide +kernel, by decide +kernel, by decide +kernel, by decide +kernel, by decide +kernel, by decide +kernel,
    fun fl => ?_, by decide +kernel⟩
  rw [e]
  simp [trapping]

theorem witness_MemoryAccesses_faults :
    (Instr.ld xM ∈ [Instr.ld xM, .st xM, .ntst xM, .amo xM, .amon xM, .acas xM] ∧ 1 = 1) ∧ w0.core.guard .a Guard.always = true ∧
    2 ^ 57 ≤ (0x0200000000000000#64).toNat ∧ (0x01FFFFFFFFFFFFFF#64).toNat < 2 ^ 57 ∧ (0x01FFFFFFFFFFFFFF#64).toNat % 128 ≠ 0 := by decide +kernel

theorem witness_MemoryAndEngineRequests :
    acting [.fnew { dflA with d := .sreg 3 }, .ftest (noB xA), .ffree { dflA with a := .sreg 1 }, .bari { xA with d := .nil, a := .sreg 5, b := .imm 3, c := .imm 1 },
      .migr { xA3 with d := .nil }, .pgstat (noB xA), .logapply { noB xA3 with d := .nil }, .asdecl { xA with a := .sreg 2 }, .asdrop (noB xA),
      .hnear { xH with d := .sreg 62, b := .imm 0, c := .imm 1 }, .qpeek { xI with a := .sreg 2 }, .cpy { dflCpy with a := .sreg 2, b := .sreg 1 },
      .chase { dflChase with a := .sreg 2, b := .sreg 2 }, .gath { dflGath with a := .sreg 2, n := .sreg 1 }] ∧
    xA.cl = .a ∧ xH.cl = .b ∧ (∀ m ∈ w0.core.mq, m.seq ≠ w0.seqNo) ∧ twf Pair.reset w0.pairs = true := by
  exact ⟨lem_acting (by decide +kernel), by decide +kernel⟩

theorem witness_RecordedOperations :
    acting [.fset xA, .ffail xA, .fwait xA, .bara xA, .barw xA, .barx xA, .pbara { xA with a := .sreg 6 }, .pbarw { xA with a := .sreg 6 },
      .tspawn { xA with c := .imm 8 }, .qput { xI with d := .sreg 2, a := .sreg 2 }, .qget { xI with d := .sreg 2, a := .sreg 2 }, .trap xI, .yield dflC, .tend dflC,
      .send { dflSend with d := .sreg 8, a := .sreg 2, b := .sreg 2 }, .msend { dflSend with d := .sreg 1, a := .sreg 2, b := .sreg 2 }] ∧
    w0.core.compl = none := by
  exact ⟨lem_acting (by decide +kernel), by decide +kernel⟩

/-- The windows with entry 255 open for 4,096 bytes at 4,096 of peer 0, with every entry open, and with none. -/
def winA : Window := { isOpen := true, base := 4096, len := 4096 }
def allOpen : Tbl Window := (List.range 256).map fun e => (e, { isOpen := true })
def xW : OpA := { xB with a := .sreg 2, b := .sreg 2, c := .imm 0 }
/-- The fields of a WOPEN of sb2, sb2, c that an open window is compared with. -/
def sameA (w : Window) : Bool := w.isOpen && w.ctx == 0 && w.base == 4096 && w.len == 4096 && w.peer == 0 && w.pmask == 0

theorem witness_FabricWindows :
    acting [.wopen xW, .wclose (noB xB), .lstat { noB xB with sub := 1 }, .lstat { noB xB with sub := 3 }] ∧
    sameA (({ w0 with windows := [(255, winA)] } : State).window 255) = true ∧
    (∀ k, k < 255 → sameA (({ w0 with windows := [(255, winA)] } : State).window k) = false) ∧ (∀ k, k < 256 → sameA (w0.window k) = false) ∧
    (∀ k, k < 256 → sameA (({ w0 with windows := allOpen } : State).window k) = false ∧ (({ w0 with windows := allOpen } : State).window k).isOpen = true) ∧
    2 ^ 60 / 2 ^ 60 % 2 = 1 ∧ 0 / 2 ^ 60 % 2 = 0 ∧ (w0.window 255).isOpen = false ∧ twf {} allOpen = true ∧
    (∀ k, k < 1 → (({ w0 with windows := [(0, winA)] } : State).window k).isOpen = true) ∧
    (({ w0 with windows := [(0, winA)] } : State).window 1).isOpen = false := by
  exact ⟨lem_acting (by decide +kernel), by decide +kernel⟩

theorem witness_FabricWindows_close :
    let s : State := { w0 with windows := [(7, { winA with fut := 3, notices := 4095, peer := 1023, expect := 4095, pmask := 1023, wgen := 15 })], futs := [(3, { state := .empty })] }
    (s.window 7).isOpen = true ∧ (s.window 7).ctx = (s.task (s.core.task.getD 0)).ctx ∧ (s.window 7).wgen = (0xF07 : Nat) / 256 % 16 ∧
    (w0.window 7).isOpen = false ∧ winA.fut = 0 ∧ s.futStale (s.window 7).fut 0 = false ∧ (s.fut (3 % 2 ^ 20)).state = .empty ∧ (s.window 7).peer < 1024 ∧
    (s.window 7).wgen < 16 ∧ (s.window 7).ctx < 64 ∧ (s.window 7).pmask < 1024 ∧ (s.window 7).expect < 4096 ∧ (s.window 7).notices < 4096 ∧
    twf {} s.windows = true ∧ twf {} s.futs = true ∧ (s.window 7).ctx ≠ 1 ∧ (0 : Nat) < 512 ∧ (512 : Nat) ≤ 512 := by decide +kernel

/-! A completion step of core 0 that performs one operation. -/

/-- A completion step of the bundle at word 16 with these operations to perform. -/
def complOf (performing : Bool) (ops : List HeldOp) : Completion :=
  { baddr := 16, bseq := 1, cyc := 0, next := 18, ops := ops, performing := performing, committing := false, heldArrival := none,
    arrivedGen := none, stall := none, ask := .none, trap := none, failed := none, more := 0 }
def opOf (i : Instr) (vals : List Word) : HeldOp := { slot := instrSlot i, instr := i, vals := vals }
/-- Core 0 in that step. -/
def wPerf (i : Instr) (vals : List Word) : State :=
  { w0 with core := { w0.core with iss := none, compl := some (complOf true [opOf i vals]) } }
def performs (s : State) (i : Instr) (vals : List Word) : Prop := s.Performing i (opOf i vals) (complOf true [opOf i vals])

theorem lem_performs (i : Instr) (vals : List Word) : performs (wPerf i vals) i vals := ⟨rfl, rfl, rfl, rfl, rfl⟩

theorem witness_CompletionSteps :
    let q := complOf false [opOf (.fset xA) [7, 9]]
    let s : State := { w0 with core := { w0.core with iss := none, compl := some q } }
    (s.focus 0).core.compl = some q ∧ q.performing = false ∧ q.ask ≠ .tend ∧ (s.focus 0).core.pend = [] ∧ (s.focus 0).core.mq = [] ∧
    (s.focus 0).core.fifo = [] ∧ (s.focus 0).core.nt = [] ∧ (s.focus 0).heldSets (s.focus 0).curTask = [] ∧
    (∀ h ∈ q.ops, ∀ x y, h.instr ∉ [.send x, .msend x, .bara y, .barx y, .pbara y]) ∧ (∀ k, (s.aset k).next ≠ some s.curTask) := by
  refine ⟨by decide +kernel, by decide +kernel, by decide +kernel, by decide +kernel, by decide +kernel, by decide +kernel, by decide +kernel, by decide +kernel, ?_, ?_⟩
  · intro h hh x y
    simp only [complOf, List.mem_singleton] at hh
    subst hh
    simp [opOf]
  · intro k hk
    exact absurd (show (({} : ASet)).next = some _ from hk) (by simp)

/-- Each end of a completion step: TEND, YIELD, a wait, a trap of slot 7, a request, and none of them. -/
theorem witness_CompletionSteps_ends :
    let q := complOf true []
    ({ q with ask := .tend } : Completion).ask = .tend ∧ ({ q with ask := .yield } : Completion).ask = .yield ∧
    ({ q with ask := .suspend 1 7 0 } : Completion).ask = .suspend 1 7 0 ∧ q.ask = .none ∧ q.trap = none ∧
    ({ q with trap := some (0x41, 1, 2, 3, 7) } : Completion).trap = some (0x41, 1, 2, 3, 7) ∧
    ({ w0.core with preq := some 0 } : Core).preq ≠ none ∧ w0.heldSets w0.curTask = [] ∧ w0.core.preq = none := by decide +kernel

theorem witness_TaskOperations :
    performs (wPerf (.tend dflC) []) (.tend dflC) [] ∧ performs (wPerf (.yield dflC) []) (.yield dflC) [] ∧
    performs (wPerf (.trap { xI with imm := 111 }) [7, 9]) (.trap { xI with imm := 111 }) [7, 9] ∧
    performs (wPerf (.tspawn xA3) [0, 1, 8, 2, 3, 4, 5]) (.tspawn xA3) [0, 1, 8, 2, 3, 4, 5] ∧
    Config.poolSize ≤ (List.replicate 65472 (0, ({ state := .ready } : Task))).length + 64 ∧
    w0.tasks.length + 64 < Config.poolSize ∧ 1 < Config.poolSize ∧ (w0.task 1).state = .free ∧ (∀ j, j < 1 → (w0.task j).state ≠ .free) ∧
    twf 0 w0.core.regs.lat = true ∧ twf 0 w0.core.regs.sa = true ∧ twf {} w0.tasks = true := by
  exact ⟨lem_performs _ _, lem_performs _ _, lem_performs _ _, lem_performs _ _, by rw [List.length_replicate]; decide, by decide +kernel⟩

/-- Future 7 of context 0, generation 3, in a state and with a scope. -/
def wFut (s : State) (f : FState) (scope : Nat) : State := { s with futs := [(7, { state := f, gen := 3, rscope := scope })] }

theorem witness_FutureOperations :
    (∀ i ∈ [Instr.fset xA, .ffail xA, .fwait xA], ∀ f ∈ [FState.empty, .set, .failed],
      performs (wFut (wPerf i [0x00300007, 5]) f 3) i [0x00300007, 5] ∧ (wFut (wPerf i [0x00300007, 5]) f 3).FutLive 0x00300007 0) ∧
    ¬w0.FutLive 0x00300007 0 ∧ (wFut w0 .empty 0).curCtx = 0 ∧ ((wFut w0 .empty 0).fut 7).state = .empty ∧ ((wFut w0 .set 0).fut 7).state ≠ .empty ∧
    ((wFut w0 .set 0).fut 7).rscope = 0 ∧ ((wFut w0 .failed 3).fut 7).rscope ≠ 0 ∧ (0x00300007#64).toNat % 2 ^ 32 = 0x00300007 ∧
    twf {} (wFut w0 .set 3).futs = true ∧ twf {} w0.tasks = true := by
  refine ⟨fun i _ f hf => ⟨⟨rfl, rfl, rfl, rfl, rfl⟩, ?_⟩, by unfold State.FutLive; decide +kernel, by decide +kernel⟩
  show _ ∧ (f ≠ .free) ∧ _ ∧ _
  refine ⟨by decide, ?_, rfl, rfl⟩
  revert f
  decide

/-- Barriers: of the group in slot 5 of tower 0, device 4095, pod 255; two expected and none or one arrived. -/
def barA : Barrier := { expect := 2, bound := true }
def wBar (i : Instr) (vals : List Word) (arrived gslot : Nat) : State :=
  let b : Barrier := { barA with arrived := arrived }
  { wPerf i vals with groups := [(5, { bar := b })], devBars := [(4095, b)], podBars := [(255, b)], tasks := [(0, { state := .running, gslot := gslot })] }
def idG : Word := 0
def idD : Word := 0x40000FFF
def idP : Word := 0x800000FF

theorem witness_BarrierOperations :
    (idG.toNat % 2 ^ 32 / 2 ^ 30 = 0 ∧ BarRef.group 5 = .group (groupKey ((wBar (.bara xA) [idG] 0 5).task 0).gslot)) ∧
    (idD.toNat % 2 ^ 32 / 2 ^ 30 = 1 ∧ idD.toNat % 2 ^ 32 % 4096 = 4095) ∧ (idP.toNat % 2 ^ 32 / 2 ^ 30 = 2 ∧ idP.toNat % 2 ^ 32 % 256 = 255) ∧
    (∀ id ∈ [idG, idD, idP], ∀ n ∈ [0, 1], ∀ i ∈ [Instr.bara xA, .pbara xA, .barw xA, .pbarw xA, .barx xA], performs (wBar i [id, 9] n 5) i [id, 9]) ∧
    (wBar (.bara xA) [idG] 0 5).curCtx = 0 ∧ ((wBar (.bara xA) [idG] 0 5).task 0).gslot ≠ 65535 ∧ ((wBar (.bara xA) [idG] 0 65535).task 0).gslot = 65535 ∧
    barA.bound = true ∧ barA.ctx = 0 ∧ barA.lost = false ∧ ({ barA with lost := true } : Barrier).lost = true ∧ barA.expect ≠ 0 ∧
    ({ barA with expect := 0 } : Barrier).expect = 0 ∧ 0 + 1 < barA.expect ∧ barA.expect ≤ 1 + 1 ∧ (complOf true []).arrivedGen = none ∧
    ((1#16).toNat + 2 ^ 17 - 0 % 2 ^ 16 - 1) % 2 ^ 16 < 2 ^ 15 ∧ ¬((0#16).toNat + 2 ^ 17 - 0 % 2 ^ 16 - 1) % 2 ^ 16 < 2 ^ 15 ∧
    twf {} (wBar (.bara xA) [idG] 0 5).groups = true ∧ twf {} (wBar (.bara xA) [idG] 0 5).devBars = true ∧ twf {} (wBar (.bara xA) [idG] 0 5).podBars = true := by
  exact ⟨by decide +kernel, by decide +kernel, by decide +kernel, fun id _ n _ i _ => ⟨rfl, rfl, rfl, rfl, rfl⟩, by decide +kernel⟩

/-- A core that faults with a store still in its queues; a task on its way out. -/
theorem witness_LeavingAndArrivals :
    let s : State := { w0 with core := { w0.core with mq := [{ mqOf (.st xM) with bseq := 0 }] } }
    s.core.task = some 0 ∧ s.heldSets 0 = [] ∧ (∀ k, (s.aset k).next ≠ some 0) ∧ (∀ e ∈ s.core.mq, ∀ x, e.instr ≠ .hnear x) ∧
    (s.core.mq.filter fun e => e.survives 1) ≠ [] ∧ s.core.wound = none ∧
    ({ s.core with wound := some (4096, 3) } : Core).wound = some (4096, 3) := by
  refine ⟨by decide +kernel, by decide +kernel, fun k hk => absurd (show (({} : ASet)).next = some _ from hk) (by simp), ?_, by decide +kernel, by decide +kernel, by decide +kernel⟩
  intro e he x
  rw [List.mem_singleton.mp he]
  simp [mqOf]

theorem witness_LeavingAndArrivals_records :
    let lv (d : Dest) : State := { w0 with core := { w0.core with leave := some { dest := d, mask := 128, epc := 16 } } }
    twf {} (lv .ready).tasks = true ∧ (lv .ready).core.task = some 0 ∧ (∀ d ∈ [Dest.ready, .suspended 1 7 0, .suspended 4 0 4096,
      .aborted 3 0 0 0 6 9 0, .faulted 3 0x81 1 2 3], (lv d).core.leave = some { dest := d, mask := 128, epc := 16 }) ∧
    (w0.task 0).gslot = 65535 ∧ (w0.launchOf (slotOfHandle (w0.task 0).launch)).abort = false ∧
    ((wFut w0 .empty 0).fut ((7 + 3 * 2 ^ 20) % 2 ^ 20)).state = .empty ∧ ((wFut w0 .empty 0).fut 7).gen.toNat = (7 + 3 * 2 ^ 20) / 2 ^ 20 % 4096 ∧
    ((wFut w0 .empty 0).fut 7).ctx = (w0.task 0).ctx ∧ (w0.fut 7).state ≠ .empty ∧ (w0.task 0).wounder = none ∧
    ({ w0 with sets := [(4, { state := .held, holder := some 9 })] } : State).heldSets 9 ≠ [] ∧ (w0.task 0).h = false ∧
    (w0.launchOf (slotOfHandle (w0.task 0).launch)).img.fpol ≠ 0 := by decide +kernel

theorem witness_LeavingAndArrivals_arrivals :
    let c : Core := { w0.core with iss := none, preqIn := some 5, woundIn := some (5, 4096, 3) }
    let s (n : Nat) (c : Core) : State := { w0 with cycle := n, core := c }
    twf Core.reset w0.cores = true ∧ ((s 5 c).coreAt 0).preqIn = some 5 ∧ (s 5 c).cycle ≤ 5 ∧ 5 < (s 6 c).cycle ∧
    ((s 6 c).coreAt 0).woundIn = some (5, 4096, 3) ∧ ((s 6 c).coreAt 0).task = some 0 ∧ c.leave = none ∧ c.iss = none ∧ c.compl = none ∧
    ({ c with compl := some (complOf false []) } : Core).compl = some (complOf false []) ∧ (complOf false []).committing = false ∧
    (complOf false []).ask ≠ .tend ∧ (complOf false []).ops = [] ∧ (complOf true []).performing = true ∧
    ({ complOf false [] with ask := .tend } : Completion).ask = .tend ∧ (s 6 c).wounders (0 * 4096 + 4096 % 4096) = [] := by decide +kernel

/-- A page table of context 0 with its root at 4 KiB: the page of address 0 is in the cellar at frame 65,536, and writable. -/
def pageMem (leaf : Byte) : Memory :=
  [(0x1000, 0x0F), (0x1001, 0x20), (0x2000, 0x0F), (0x2001, 0x30), (0x3000, 0x0F), (0x3001, 0x40), (0x4000, leaf), (0x4002, 0x01)]
def withPages (s : State) (leaf : Byte) : State := { s with mem := pageMem leaf, ctxs := [(0, { state := .active, ptroot := 1 })] }

/-- A ring descriptor at address 4,096: base 8,192, two records' room, HEAD 0 and this TAIL. -/
def withRing (s : State) (tail : Byte) : State :=
  { withPages s 0x42 with mem := putBytes (pageMem 0x42) 0x11000 (leBytes 0x2000 8 ++ leBytes 1 8 ++ leBytes 0 8 ++ leBytes tail.toNat 8) }

def qpI : Instr := .qput { xI with d := .sreg 2, a := .sreg 2 }
def qgI : Instr := .qget { xI with d := .sreg 2, a := .sreg 2 }
def isOk (p : Except RingStop Nat × State) (n : Nat) : Bool :=
  match p.1 with
  | .ok k => k == n
  | .error _ => false

/-- QPUT and QGET of the record at 0x3000, with none, one and two records in a ring of two, and with a malformed descriptor. -/
theorem witness_DeviceQueues :
    ([0, 1, 2] : List Byte).all (fun n =>
      let s := withRing (wPerf qpI [0x1000, 0x3000]) n
      let done := s.performed (complOf true [opOf qpI [0x1000, 0x3000]])
      let a := done.ringAt s.curCtx (towerOf s.cur) 0x1000 true true
      let b := a.2.ringAt a.2.curCtx (towerOf a.2.cur) 0x3000 true false
      let z := b.2.ringAt b.2.curCtx (towerOf b.2.cur) (0x2000 + n.toNat % 2 * 64) false true
      isOk a 0x11000 && isOk b 0x13000 && isOk z (0x12000 + n.toNat % 2 * 64) && (a.2.ringDesc 0x11000).ok &&
        a.2.core.compl == some { complOf true [opOf qpI [0x1000, 0x3000]] with ops := [] } && b.2.core.compl == a.2.core.compl &&
        b.2.ringWaiters 0x11000 == [] && (a.2.ringDesc 0x11000).tail == BitVec.ofNat 64 n.toNat && (a.2.ringDesc 0x11000).head == 0) = true ∧
    ((withPages w0 0x42).ringDesc 0x11000).ok = false ∧
    (0 : Nat) < 2 ∧ 2 ≤ (2 : Nat) ∧ twf {} w0.tasks = true ∧ (complOf true []).ask = .none ∧ (complOf true []).trap = none := by decide +kernel

theorem witness_DeviceQueues_performs (n : Byte) (i : Instr) (vals : List Word) : performs (withRing (wPerf i vals) n) i vals := ⟨rfl, rfl, rfl, rfl, rfl⟩

/-- A task that waits at the ring with its destination present; one whose limit has come. -/
theorem witness_DeviceQueues_waiter :
    let t : Task := { state := .suspended, wkind := 4, waddr := 0x1000, qdest := 0x4000, qlimit := some 64, launch := 0 }
    let s : State := { withRing w0 0 with tasks := [(0, { state := .running }), (9, t)], cycle := 64 }
    s.oldest (s.ringWaiters 0x11000) = some 9 ∧ s.destReady (s.task 9).ctx (s.task 9).qdest = true ∧
    isOk (s.ringAt (s.task 9).ctx (towerOf s.cur) (s.task 9).qdest false true) 0x14000 = true ∧
    (s.task 9).qlimit = some 64 ∧ 64 ≤ s.cycle ∧ (s.task 9).state = .suspended ∧ (s.task 9).wkind = 4 ∧ (s.task 9).gslot = 65535 ∧
    (s.task 9).h = false ∧ (s.launchOf (slotOfHandle (s.task 9).launch)).img.fpol ≠ 0 := by decide +kernel

/-- Core 0 at word 16 of an image, nothing in issue. -/
def wIssue (c : Core → Core) (words : Nat) : State :=
  let s := atIssue false
  { s with launches := [(0, { loadedLaunch with img := { words := words } })], core := c { s.core with iss := none } }
/-- A bundle of one slot. -/
def bOf (slot : Nat) (w : Word) : RawBundle := { header := BitVec.ofNat 64 (2 ^ slot), words := [w] }
def bMov : RawBundle := bOf 1 0x400015FC89ABCDEF
def bMma : RawBundle := bOf 7 0x060101FD8030014A
/-- `ma: ld sa3, [sa2]`. -/
def bLd : RawBundle := bOf 3 ((encode (.ld xM)).elim 0 fun x => x.2)
/-- What the checks of a bundle find. -/
def checked (s : State) (b : RawBundle) : Checked :=
  let c := s.core
  let open_ : State := { s with core := { c with iss := some { baddr := c.pc, bseq := c.bseq + 1, len := b.len, wait := b.wait, quiet := b.quiet,
                                                               redir := .seq, sysw := [], ops := [], lsw := [] } } }
  (b.slotWords.map fun x => (x.1, x.2, decodeSlot x.1 x.2)).foldl (open_.checkSlot b.quiet (!(s.heldSets s.curTask).isEmpty) b.len) {}

theorem witness_BundleIssue :
    let s := (wIssue id 2000).focus 0
    s.core.task ≠ none ∧ (s.task s.curTask).recheck = none ∧ s.core.iss = none ∧ s.core.compl = none ∧ s.core.leave = none ∧
    s.core.startAt ≤ s.cycle ∧ s.core.nextIc ≤ s.core.ic ∧ bMov.words.length = spmCount bMov.header ∧ bMma.words.length = spmCount bMma.header ∧
    s.core.memFrozen = false ∧ (checked s bMov).stall = none ∧ (checked s bMov).faults = [] ∧ (checked s bMov).steps = 0 ∧
    (checked s bMma).stall = none ∧ (checked s bMma).faults = [] ∧ (checked s bMma).steps = 1 ∧
    (s.core.pc + bMov.len < s.image.words) ∧ ((wIssue id 18).core.pc + bMov.len ≥ (wIssue id 18).image.words) ∧
    (checked s (bOf 1 0xDE00000000000000)).faults = [(1, 0x10, 0xDE00000000000000, 0)] := by decide +kernel

theorem witness_BundleIssue_freezes :
    let n (f : Counters → Counters) : State := wIssue (fun c => { c with cnt := f c.cnt }) 2000
    (checked (wIssue (fun c => { c with mq := List.replicate 2048 (mqOf (.ld xM)) }) 2000) bLd).stall = some 2 ∧
    (checked (wIssue (fun c => { c with cnt := { c.cnt with dummyUntil := 5 } }) 2000) bMma).stall = some 5 ∧
    (let s := n fun c => { c with used := 2048 }
     min s.core.cnt.limit (s.core.cnt.pub * (8 - tget 0 s.hub.inForce (s.cur / 144)) / 8) < s.core.cnt.used + (checked s bMov).weight) ∧
    (let s := n fun c => { c with used := 0 }
     s.core.cnt.used + (checked s bMov).weight ≤ min s.core.cnt.limit (s.core.cnt.pub * (8 - tget 0 s.hub.inForce (s.cur / 144)) / 8)) ∧
    (let s := n fun c => { c with cur := 64 }
     (checked s bMma).steps ≠ 0 ∧ s.core.cnt.prev + s.core.cnt.step < s.core.cnt.cur + (checked s bMma).steps) ∧
    (let s := n fun c => { c with cur := 63 }
     s.core.cnt.cur + (checked s bMma).steps ≤ s.core.cnt.prev + s.core.cnt.step) := by decide +kernel

/-- A result in flight: `sb9 := 1`, visible after 4 counts. -/
def pendA (fl : FpFlags) (enables : BitVec 5) : Pending :=
  { seq := 0, baddr := 16, bseq := 1, slot := 1, ic := 0, cyc := 0, lh := 4, lc := 4, ready := true, chain := false, locked := false, dests := [.sreg 9], cl := .b,
    writes := [.sreg .b 9 1], latch := .word 1, fl := fl, cnt := {}, enables := enables }

theorem witness_BundleIssue_interlock :
    (checked (wIssue (fun c => { c with pend := [{ pendA {} 0 with locked := true, dests := [.sreg 2], cl := .a, writes := [] }] }) 2000) bLd).stall = some 1 := by
  decide +kernel

theorem witness_BundleIssue_closes :
    let b : Issue := { baddr := 16, bseq := 1, len := 2, wait := 31, quiet := true, redir := .xfer 0 true, sysw := [(0x20, 5)], ops := [],
                       lsw := [{ key := 7, clock := 0, val := 1, mask := 1, scale := none }] }
    let s : State := { w0 with core := { w0.core with iss := some b } }
    s.core.iss = some b ∧ b.quiet = true ∧ ({ b with quiet := false } : Issue).quiet = false ∧ twf Pair.reset s.pairs = true ∧
    twf 0 (s.pairAt (pairOf s.cur)).data = true ∧ (∀ w ∈ b.lsw, w.key ≠ 8) ∧
    b.lsw = [{ key := 7, clock := 0, val := 1, mask := 1, scale := none }] := by decide +kernel

theorem witness_SnapshotAddress :
    let b : Issue := { baddr := 16, bseq := 1, len := 2, wait := 0, quiet := true, redir := .seq, sysw := [], ops := [], lsw := [] }
    ({ w0 with core := { w0.core with iss := some b } } : State).core.iss = some b ∧ b.quiet = true ∧ b.redir = .seq ∧
    ({ b with redir := .xfer 9 false } : Issue).redir = .xfer 9 false := by decide +kernel

theorem witness_ResultsBecomeVisible :
    let s (n : Nat) (p : Pending) : State := { w0 with cycle := n, core := { w0.core with ic := n, pend := [p] } }
    let due (s : State) (p : Pending) : Bool := p.ready && decide (p.ic + p.lh ≤ (s.coreAt 0).ic) && decide (p.cyc + p.lc ≤ s.cycle)
    ((s 3 (pendA {} 0)).coreAt 0).pend.filter (due (s 3 (pendA {} 0))) = [] ∧
    ((s 4 (pendA {} 0)).coreAt 0).pend.filter (due (s 4 (pendA {} 0))) = [pendA {} 0] ∧
    trapping (pendA {} 0).enables (pendA {} 0).fl = false ∧ trapping (pendA { nx := true } 0x10).enables (pendA { nx := true } 0x10).fl = true ∧
    twf 0 w0.core.regs.sa = true ∧ twf 0 w0.core.regs.sb = true ∧ twf false w0.core.regs.pa = true ∧ twf false w0.core.regs.pb = true ∧
    twf 0 w0.core.regs.va = true ∧ twf 0 w0.core.regs.vb = true ∧ twf 0 w0.core.regs.lat = true ∧ twf 0 w0.core.regs.latv = true ∧ 4 < 5 ∧ 5 ≤ 5 := by
  decide +kernel

/-- A window ends at cycle 1,024; 64 MMAs fewer than in the last window; the limit at its edge. -/
theorem witness_Windows :
    let s (cyc cur used : Nat) : State := { w0 with cycle := cyc, core := { w0.core with cnt := { w0.core.cnt with prev := 512, cur := cur, used := used } } }
    (s 1024 0 0).cycle % 64 = 0 ∧ (s 1024 0 0).cycle % 1024 = 0 ∧
    2 * (((512 : Nat) : Int) - (64 : Nat) - (0 : Nat)) ≥ 1024 - ((s 1023 0 0).cycle % 1024 : Nat) ∧ (s 1023 0 0).core.cnt.prev = 512 ∧ (s 1023 0 0).core.cnt.step = 64 ∧
    ¬(2 * (((512 : Nat) : Int) - (64 : Nat) - (448 : Nat)) ≥ 1024 - ((s 1023 448 0).cycle % 1024 : Nat)) ∧ tget 0 (s 1023 0 0).core.busy 20 ≤ (s 1023 0 0).cycle ∧
    (s 1023 0 0).core.cnt.dummyUntil ≤ (s 1023 0 0).cycle ∧ (s 0 0 2008).core.cnt.used + 40 ≤ min 2048 (2048 * (8 - tget 0 w0.hub.inForce 0) / 8) ∧
    min 2048 (2048 * (8 - tget 0 w0.hub.inForce 0) / 8) < (s 0 0 2009).core.cnt.used + 40 := by decide +kernel

theorem witness_HammingDistance : w0.core.guard xH.cl xH.g = true ∧ xH.cl = .b ∧ twf 0 w0.core.regs.latv = true := by decide +kernel

theorem witness_SignExtension :
    w0.core.guard .a Guard.always = true ∧ ((with2 5 0).core.src .a (.sreg 2)).toNat = 0 ∧ ((with2 5 1).core.src .a (.sreg 2)).toNat = 1 ∧
    ((with2 5 63).core.src .a (.sreg 2)).toNat = 63 ∧ ((with2 5 64).core.src .a (.sreg 2)).toNat = 64 := by decide +kernel

theorem lem_apart (s : State) (pa n : Nat) (h : s.hub.poolAt = none) : s.Apart pa n := by
  intro b hb
  rw [h] at hb
  cases hb

theorem lem_no_next (s : State) (i : Nat) (h : s.sets = []) : ∀ k, (s.aset k).next ≠ some i := by
  intro k hk
  simp [State.aset, h, tget] at hk

theorem lem_range {α : Type} (d v : α) (a n k : Nat) : a ≤ k → k < a + n → tget d ((List.range' a n).map fun e => (e, v)) k = v := by
  induction n generalizing a with
  | zero => omega
  | succ n ih =>
    intro h1 h2
    simp only [List.range'_succ, List.map_cons, tget]
    split
    · rfl
    · rw [if_neg (by omega)]
      exact ih (a + 1) (by omega) (by omega)

theorem witness_MemoryBytes :
    (pageMem 0x42).wf = true ∧ twf false w0.badCheck = true ∧ twf false w0.poison = true ∧ (0 < 32 ∧ 2 ^ 32 - 1 < 2 ^ 32 ∧ 2 ^ 31 < 2 ^ 32) ∧
    (withPages w0 0x42).Apart 0x11000 64 ∧ ((0x11000 ≤ 0x11000 ∧ 0x1103F < 0x11000 + 64) ∧ 0x10FFF + 1 ≤ 0x11000 ∧ 0x11000 + 64 ≤ 0x11040) := by
  exact ⟨by decide +kernel, by decide +kernel, by decide +kernel, by decide, lem_apart _ _ _ rfl, by decide⟩

/-- The four levels of the walk to address 4,096, and a last entry of every RES and W. -/
theorem witness_Translations :
    (w0.ctx 0).ptroot = 0 ∧ (withPages w0 0x42).poisoned 0x1000 8 = false ∧ (withPages w0 0x42).poisoned 0x4000 8 = false ∧
    (let s := withPages w0 0x42
     (s.ctx 0).ptroot ≠ 0 ∧ s.readWord 0x1000 = 0x200F ∧ s.readWord 0x2000 = 0x300F ∧ s.readWord 0x3000 = 0x400F ∧ s.readWord 0x4000 = 0x10042 ∧
     0x200F / 2 ^ 8 % 16 = 0 ∧ 0x300F / 2 ^ 8 % 16 = 0 ∧ 0x200F / 2 ^ 8 % 2 ^ 49 * 2 ^ 8 = 0x2000) ∧
    (withPages w0 0x40).walk 0 4096 = .absent ∧ (withPages w0 0x4A).walk 0 4096 = .format ∧
    ([0x42, 0x43, 0x45, 0x46, 0x47, 0x48, 0x49, 0x41, 0x02] : List Byte).all (fun b =>
      (withPages w0 b).walk 0 4096 == .leaf 0x4000 0 (0x10000 + b.toNat)) = true ∧ ((withPages w0 0x41).pantry 0).frames = [] := by decide +kernel

/-- An access of core 0 at address 4,096 that has not been translated yet. -/
def walking (i : Instr) : MqEntry := { mqOf i with st := .walk }

theorem witness_Translations_accesses :
    let s (leaf : Byte) (i : Instr) : State := { withPages w0 leaf with core := { w0.core with mq := [walking i] } }
    let x : OpM := { xM with sz := .d64 }
    ((s 0x42 (.ld x)).coreAt 0).mq.find? (fun m => m.seq == 5) = some (walking (.ld x)) ∧ (walking (.ld x)).st = .walk ∧ 0 < (walking (.ld x)).len ∧
    (walking (.ld x)).ea % 65536 + (walking (.ld x)).len ≤ 65536 ∧
    ((s 0x42 (.ld x)).translate 0 4096 8 false 0 0).1 = .ok { vpage := 0, base := 0x10000, leaf := 0x4000, size := 0 } ∧
    ((s 0x40 (.ld x)).translate 0 4096 8 false 0 0).1 = .absent ∧ ((s 0x02 (.st x)).translate 0 4096 8 true 0 0).1 = .readonly ∧
    ((s 0x49 (.ld x)).translate 0 4096 8 false 0 0).1 = .poison 0x10000 ∧ ((s 0x41 (.ld x)).translate 0 4096 8 false 0 0).1 = .pantry 0 ∧
    ((s 0x45 (.ld x)).translate 0 4096 8 false 0 0).1 = .transit 0x4000 ∧ (walking (.ld x)).acquiring = true ∧
    (s 0x42 (.ld x)).setsTouching 0 4096 8 (fun a => a.state == .declared || a.state == .held) = [] ∧
    ({ s 0x42 (.ld x) with sets := [(9, { state := .declared, base := 4096, lines := 1 })] } : State).setsTouching 0 4096 8
      (fun a => a.state == .declared || a.state == .held) ≠ [] := by decide +kernel

theorem witness_Translations_waits :
    let e : MqEntry := { mqOf (.ld xM) with st := .transit 64 0x4000 }
    let s (n : Nat) : State := { w0 with cycle := n, core := { w0.core with mq := [e] } }
    (∀ x, (walking (.ld xM)).instr ≠ .hnear x) ∧ (∀ x, (walking (.ld xM)).instr ≠ .amon x) ∧ w0.hub.tlimit ≠ 0 ∧ ((s 0).coreAt 0).mq = [e] ∧
    e.st = .transit 64 0x4000 ∧ 64 + w0.hub.tlimit * 64 ≤ (s 65600).cycle ∧ (s 65599).cycle < 64 + w0.hub.tlimit * 64 ∧ ((s 65599).coreAt 0).compl = none := by
  exact ⟨fun x => by simp [walking, mqOf], fun x => by simp [walking, mqOf], by decide +kernel⟩

/-- Eight bytes at address 4,096, translated; the L1 holds them, or nothing. -/
def xQ : OpM := { xM with sz := .d64 }
def ready (i : Instr) (l st : Bool) : MqEntry :=
  { mqOf i with inLoad := l, inStore := st, vals := [7], xl := [{ vpage := 0, base := 0x10000, leaf := 0x4000, size := 0 }] }
def wQueue (i : Instr) (l st : Bool) (l1 : Tbl (Option L1Byte)) : State :=
  { withPages w0 0x42 with core := { w0.core with iss := none, mq := [ready i l st], l1 := l1 } }
def l1Line : Tbl (Option L1Byte) := (List.range 8).map fun k => (0x11000 + k, some { val := BitVec.ofNat 8 k, dirty := true })

theorem witness_QueuePerforms :
    (∀ w ∈ [wQueue (.ld xQ) true false l1Line, wQueue (.st xQ) false true [], wQueue (.amo xQ) true true []],
      twf Core.reset w.cores = true ∧ w.mem.wf = true ∧ twf none (w.coreAt 0).l1 = true ∧ w.hub.poolAt = none ∧ (w.coreAt 0).leave = none ∧
      w.heldSets ((w.coreAt 0).task.getD 0) = [] ∧ (w.coreAt 0).fifo = [] ∧ w.logBlocked 0x4000 = false ∧ (w.coreAt 0).bseq = 1 ∧
      w.poisoned 0x11000 8 = false) ∧
    (∀ e ∈ [ready (.ld xQ) true false, ready (.st xQ) false true, ready (.amo xQ) true true],
      e.st = .ready ∧ e.xl = [{ vpage := 0, base := 0x10000, leaf := 0x4000, size := 0 }] ∧ 0 = e.ea / 65536 ∧ e.ea % 8 = 0 ∧ e.bseq ≤ 1) ∧
    xQ.ord = .plain ∧ xQ.sz = .d64 ∧ 0x10000 % 65536 = 0 ∧ ((wQueue (.ld xQ) true false l1Line).coreAt 0).mq = [ready (.ld xQ) true false] ∧
    (wQueue (.ld xQ) true false l1Line).moved 0 (ready (.ld xQ) true false) = false ∧ (wQueue (.st xQ) false true []).moved 0 (ready (.st xQ) false true) = false ∧
    (∀ k, k < 8 → ((wQueue (.ld xQ) true false l1Line).coreAt 0).l1At (0x11000 + k) ≠ none) ∧
    ((wQueue (.st xQ) false true []).coreAt 0).bundleSafe (ready (.st xQ) false true) = true ∧
    ((wQueue (.amo xQ) true true []).coreAt 0).bundleSafe (ready (.amo xQ) true true) = true ∧ ((wQueue (.amo xQ) true true []).coreAt 0).l1 = [] := by
  decide +kernel

theorem witness_QueuePerforms_line :
    let s : State := { w0 with core := { w0.core with l1 := l1Line, fifo := [.line 544] } }
    twf Core.reset s.cores = true ∧ s.mem.wf = true ∧ twf none (s.coreAt 0).l1 = true ∧ (s.coreAt 0).leave = none ∧ (s.coreAt 0).fifo = .line 544 :: [] ∧
    s.logPageAt (128 * 544) = none ∧ 0x11000 / 128 = 544 := by decide +kernel

/-- Set 9 of context 0 over the line at 4,096, and an access that asks for it. -/
def setA (h n : Option Nat) : ASet := { state := if h = none then .declared else .held, base := 4096, lines := 1, holder := h, next := n }
def asking : MqEntry := { mqOf (.ld xQ) with st := .sets [9] }
def wSet (h n : Option Nat) : State :=
  { w0 with
    core := { w0.core with iss := none, mq := [asking] }
    sets := [(9, setA h n)]
    tasks := [(0, { state := .running, age := 5 }), (3, { state := .running, age := 9 }), (4, { state := .running, age := 1 })]
    cores := [(7, { w0.core with task := some 3 })] }

theorem witness_SetRequests :
    twf Core.reset (wSet none none).cores = true ∧ ((wSet none none).coreAt 0).mq.find? (fun m => m.seq == 5) = some asking ∧
    ((wSet none none).coreAt 0).task = some 0 ∧ asking.st = .sets [9] ∧ ({ wSet none none with sets := [] } : State).wanted 0 0 asking = [] ∧
    (wSet none none).wanted 0 0 asking = 9 :: [] ∧ ((wSet (some 0) none).aset 9).holder = some 0 ∧ ((wSet none none).aset 9).holder = none ∧
    ((wSet none (some 0)).aset 9).next = some 0 ∧ (wSet none (some 3)).older 0 3 = true ∧ ((wSet none none).heldSets 0).length + ((((wSet none none).coreAt 0).wounded 5).filter fun y => y != 9).length < 8 ∧
    8 ≤ (({ wSet none none with sets := (List.range 8).map fun k => (4096 + k, setA (some 0) none) } : State).heldSets 0).length +
      (((wSet none none).coreAt 0).wounded 5 |>.filter fun y => y != 9).length ∧
    ((wSet (some 3) none).aset 9).holder = some 3 ∧ (wSet (some 3) none).coreOfTask 3 = some 7 ∧ ((wSet (some 3) none).coreAt 7).woundIn = none ∧
    ((wSet (some 3) none).coreAt 7).wound = none ∧ (wSet (some 4) none).older 0 4 = false ∧ ((wSet none (some 4)).aset 9).next = some 4 := by decide +kernel

/-- ASDECL of a set that stands, of one that meets it, with a free entry and with none; ASDROP of a live, a busy and a stale id. -/
theorem witness_SetRequests_declare :
    let s : State := { w0 with sets := [(9, setA none none)] }
    let full : State := { w0 with sets := (List.range' 0 4096).map fun k => (k, ({ state := .declared } : ASet)) }
    twf {} s.sets = true ∧ (∀ j, j < 4096 → ((s.aset (0 * 4096 + j)).state ≠ .free ∧ (s.aset (0 * 4096 + j)).base < 4096 + 128 ∧
      4096 < (s.aset (0 * 4096 + j)).base + 128 * (s.aset (0 * 4096 + j)).lines) → j = 9) ∧
    (s.aset 9).base = 4096 ∧ (s.aset 9).lines = 1 ∧ (s.aset 9).state ≠ .dropping ∧ (s.aset 9).lines ≠ 2 ∧
    (s.aset 0).state = .free ∧ (∀ k, k < 4096 → (full.aset (0 * 4096 + k)).state ≠ .free) ∧ (9 : Nat) < 2 ^ 24 ∧ (s.aset 9).gen.toNat = 9 / 4096 ∧
    (s.aset 9).holder = none ∧ (s.aset 9).next = none ∧ s.waiters 2 9 0 = [] ∧ (({ w0 with sets := [(9, setA (some 0) none)] } : State).aset 9).holder ≠ none ∧
    ¬(s.aset 9).gen.toNat = (4096 + 9) / 4096 := by
  refine ⟨by decide +kernel, ?_, by decide +kernel, by decide +kernel, by decide +kernel, by decide +kernel, by decide +kernel, ?_, by decide +kernel⟩
  · intro j _ h
    by_contra hj
    apply h.1
    have : (9 : Nat) ≠ j := fun e => hj e.symm
    simp [State.aset, tget, this]
  · intro k hk
    have : (tget ({} : ASet) ((List.range' 0 4096).map fun k => (k, ({ state := .declared } : ASet))) k) = { state := .declared } :=
      lem_range _ _ 0 4096 k (by omega) (by omega)
    simp only [State.aset, Nat.zero_mul, Nat.zero_add, this]
    simp

/-- An engine operation of task 0 that has started, with its future 7. -/
def engOf (i : Instr) (vals : List Word) (started : Bool) : EngOp :=
  { id := 5, instr := i, vals := vals, fpcr := 0, desc := 0, tagD := 0, tagS := 0, scD := [], scS := [], lin := 0, task := 0, launch := 0, ctx := 0,
    started := started, pins := [], pantry := none }
def wEng (o : EngOp) : State := { withPages w0 0x42 with pairs := [(0, { eng := [o] })] }
def xl0 : List Xlat := [{ vpage := 0, base := 0x10000, leaf := 0x4000, size := 0 }]
def gotXl (r : Except Stop (List Xlat) × State) : Bool :=
  match r.1 with
  | .ok l => l == xl0
  | .error _ => false

/-- CPY of 64 bytes within the page, of 47 within the local store, of none, and one that waits; GATH of two sectors; CHASE. -/
theorem witness_EngineCompletion :
    let x : OpCpy := { dflCpy with scope := .device }
    let o := engOf (.cpy x) [0x2000, 0x1000, 64, 7] true
    let s := wEng o
    s.engine 5 = some (0, o) ∧ s.engReady o = true ∧ (wEng { o with started := false }).engReady { o with started := false } = false ∧ x.cvt = false ∧
    x.sls = false ∧ x.dls = false ∧ 0 < 64 ∧ gotXl (s.agentXlat 0 false 0 1 0x1000 64) = true ∧
    gotXl ((s.agentXlat 0 false 0 1 0x1000 64).2.agentXlat 0 true 0 1 0x2000 64) = true ∧ s.badSectors xl0 0x1000 64 = [] ∧
    (LsAddr.of 0x0100).isSome = true ∧ (LsAddr.of 0x0800).isSome = true ∧ 47 < 48 ∧
    (match ({ s with mem := pageMem 0x45 } : State).agentXlat 0 false 0 1 0x1000 64 with
      | (.error .wait, _) => true
      | _ => false) = true ∧ o.pins = [] ∧ twf Pair.reset s.pairs = true := by decide +kernel

theorem witness_EngineCompletion_lists :
    let o := engOf (.gath { dflGath with gsz := 1 }) [0x3000, 0x5000, 0x1000, 7, 1] true
    let s := wEng o
    s.engine 5 = some (0, o) ∧ s.engReady o = true ∧ gotXl (s.agentXlat 0 false 0 1 0x1000 4) = true ∧ s.badSectors xl0 0x1000 4 = [] ∧
    gotXl (s.agentXlat 0 true 0 1 0x3000 64) = true ∧
    (match (s.gathAll o false [0x5000, 0x5020]).1 with
      | .ok l => l.length == 2 && l.all fun q => q.2.isNone
      | .error _ => false) = true := by decide +kernel

/-- The chase block at 4,096: START 8,192, one record sector that holds the next pointer and is delivered, END 0, two hops. -/
def wChase (stop : Nat) : State :=
  let s := wEng (engOf (.chase dflChase) [0x3000, 0x1000, 64, 7] true)
  { s with mem := putBytes s.mem 0x11000 (leBytes 0x2000 8 ++ leBytes (0 + 1 * 2 ^ 12 + 2 * 2 ^ 32) 8 ++ leBytes stop 8) }
theorem witness_EngineCompletion_chase :
    let s := wChase 0
    let o := engOf (.chase dflChase) [0x3000, 0x1000, 64, 7] true
    s.engine 5 = some (0, o) ∧ s.engReady o = true ∧ gotXl (s.agentXlat 0 true 0 1 0x1000 32) = true ∧ s.badSectors xl0 0x1000 32 = [] ∧
    (let word (k : Nat) : Nat := natOfBytes ((s.readVia xl0 0x1000 32).drop (8 * k) |>.take 8)
     word 0 % 2 ^ 57 = 0x2000 ∧ word 1 / 2 ^ 20 % 2 ^ 12 = 0 ∧ word 1 % 2 ^ 12 = 0 ∧ word 1 / 2 ^ 12 % 2 ^ 4 = 1 ∧ word 1 / 2 ^ 16 % 2 ^ 3 = 0 ∧
     word 1 / 2 ^ 32 % 2 ^ 32 = 2 ∧ word 1 / 2 ^ 19 % 2 = 0 ∧ word 2 = 0) ∧
    (match (s.chaseLoop o 0 0 64 0 false false 2 { p := 0x2000, prev := 0x2000, h := 0, out := [], last := [], stack := 0 }).1 with
      | .ok c => c.h == 1 && c.p == 0
      | .error _ => false) = true ∧ gotXl (s.agentXlat 0 true 0 1 0x3000 32) = true ∧ (0x2000 : Nat) ≠ 0 ∧ 0 + 32 ≤ 64 ∧ 0x2000 % 32 = 0 ∧ 0x2001 % 32 ≠ 0 ∧
    gotXl (s.agentXlat 0 false 0 1 0x2000 32) = true ∧ s.badSectors xl0 0x2000 32 = [] ∧
    ({ s with poison := [(0x12000 / 32, true)] } : State).badSectors xl0 0x2000 32 ≠ [] := by decide +kernel

/-! Queues, launches, schedulers, contexts. -/

/-- Queue 3, ENABLED for context 0, with one record of these words at 0x20000; the image header of LAUNCH stands at address 0x3000. -/
def wRec (rec : List Nat) (f : Queue → Queue) : State :=
  let s := withPages w0 0x42
  { s with
    mem := putBytes (putBytes s.mem 0x13000 (leBytes 0x14B585331 8 ++ leBytes (0x40 + 8 * 2 ^ 32) 8)) 0x20000 (rec.flatMap fun w => leBytes w 8)
    queues := [(3, f { state := .enabled, rbase := 0x20000, appended := 1 })] }

theorem witness_HostQueueCommands :
    let s (f : Queue → Queue) : State := wRec [] f
    (∀ f ∈ [fun x : Queue => x, fun x => { x with state := .disabled }, fun x => { x with state := .stopped }], twf {} (s f).queues = true) ∧
    (List.replicate 64 (0 : Byte)).length = 64 ∧ 128 % 64 = 0 ∧ (List.replicate 63 (0 : Byte)).length ≠ 64 ∧ 127 % 64 ≠ 0 ∧
    ((s id).queue 3).state = .enabled ∧ ((s id).ctx ((s id).queue 3).ctx).state = .active ∧ ¬((w0.queue 3).state = .enabled ∨ (w0.queue 3).state = .blocked ∨ (w0.queue 3).state = .stopped) ∧
    (let x := (s fun x => { x with appended := 64 }).queue 3
     2 ^ x.log2n ≤ (x.appended - x.taken).toNat) ∧
    (let x := (s fun x => { x with appended := 63 }).queue 3
     (x.appended - x.taken).toNat < 2 ^ x.log2n) ∧
    ((s id).ctx 0).maxpri < ((s fun x => { x with pri := 1 }).queue 3).pri ∧ twf {} (s id).ctxs = true ∧
    ((s fun x => { x with state := .disabled }).queue 3).state = .disabled ∧ ¬((s id).ctx 0).maxpri < ((s id).queue 3).pri ∧ ((s id).queue 3).privq = false ∧
    ¬((s id).queue 3).log2n < 6 ∧ ¬16 < ((s id).queue 3).log2n ∧ ((s fun x => { x with state := .stopped }).queue 3).waitf = none ∧
    (s id).launchesOf 3 = [] ∧ ({ s id with launches := [(5, { state := .walking, queue := 3 })] } : State).launchesOf 3 ≠ [] ∧
    ((s id).queue 3).state ≠ .disabled := by
  refine ⟨?_, by decide +kernel⟩
  intro f hf
  simp only [List.mem_cons, List.not_mem_nil, or_false] at hf
  rcases hf with rfl | rfl | rfl <;> decide +kernel

/-- A record of each kind at the head of queue 3, with its future in each state. -/
theorem witness_QueueRecords :
    let h := 0x00300007 * 2 ^ 32
    let s (rec : List Nat) (priv : Bool) : State := wFut (wRec rec fun x => { x with privq := priv }) .empty 0
    ([([0], false), ([32], false), ([8], false), ([3 + h, 5, 1 * 2 ^ 8], false), ([4 + h, 1], false), ([5, 0x1000, 1], false), ([7], false), ([7, 0x1000], true)].all
      fun r => (s r.1 r.2).canTake 3 && twf {} (s r.1 r.2).queues && twf {} (s r.1 r.2).futs &&
        ((s r.1 r.2).record 3 == r.1 ++ List.replicate (8 - r.1.length) 0)) = true ∧
    (wFut w0 .empty 0).FutLive 0x00300007 0 ∧ ¬w0.FutLive 0x00300007 0 ∧ ((wFut w0 .empty 0).fut 7).state = .empty ∧ ((wFut w0 .set 0).fut 7).state = .set ∧
    ((wFut w0 .failed 0).fut 7).state = .failed ∧ twf 0 w0.hub.robin = true ∧ ((s [7, 0x1000] true).queue 3).privq = true ∧
    ((s [7, 0x1000] true).queue 3).stalled = false ∧ gotXl ((s [7, 0x1000] true).agentXlat 0 false 0 3 0x1000 128) = true ∧
    (s [7, 0x1000] true).badSectors xl0 0x1000 128 = [] ∧ twf {} (s [7, 0x1000] true).ctxs = true ∧ twf 0 ((s [7, 0x1000] true).ctx 0).mcast = true := by
  refine ⟨by decide +kernel, by unfold State.FutLive; decide +kernel, by unfold State.FutLive; decide +kernel, by decide +kernel⟩

def gotReach (r : Except Took (List Xlat) × State) : Bool :=
  match r.1 with
  | .ok l => l == xl0
  | .error _ => false
/-- LAUNCH, and GLAUNCH of two, of the image at 0x3000 with the status block at 0x4000. -/
theorem witness_LaunchRecords :
    ([[1, 0x3000, 64, 0x4000], [2, 0x3000, 64, 0x4000, 0, 0, 0, 2]] : List (List Nat)).all (fun rec =>
      let s := wRec rec id
      let u := (s.hubReach 3 0x3000 256 false).2
      let z := (u.hubReach 3 0x4000 64 true).2
      let header := Machine.wordsOfBytes (u.readVia xl0 0x3000 256) 32
      s.canTake 3 && decide (max (s.tick - s.hub.ageBase) (s.hub.sPrev + 1) ≤ 0xFFFFFFFFFFF) && s.recordError 3 (s.record 3) == 0 &&
        gotReach (s.hubReach 3 0x3000 256 false) && u.badSectors xl0 0x3000 256 == [] && u.tick == s.tick && u.hub.ageBase == s.hub.ageBase &&
        u.hub.sPrev == s.hub.sPrev && headerOk header [0, 0, 0, 0] && !(imageOfHeader 0x3000 header [0, 0, 0, 0]).persist &&
        (imageOfHeader 0x3000 header [0, 0, 0, 0]).levels == [] && gotReach (u.hubReach 3 0x4000 64 true) && z.tick == s.tick &&
        z.hub.ageBase == s.hub.ageBase && z.hub.sPrev == s.hub.sPrev && (z.launchOf 1).state == .free && (z.launchOf 0).state != .free && twf {} z.launches) = true ∧
    headerOk (Machine.wordsOfBytes ((wRec [1, 0x1000, 64, 0x4000] id).readVia xl0 0x1000 256) 32) [0, 0, 0, 0] = false := by decide +kernel

theorem witness_LaunchRecords_ages :
    let s : State := { wRec [1, 0x3000, 64, 0x4000] id with tasks := [], hub := { w0.hub with sPrev := 0xFFFFFFFFFFF } }
    s.tasks = [] ∧ 0xFFFFFFFFFFF < max (s.tick - s.hub.ageBase) (s.hub.sPrev + 1) ∧ tkeys s.queues = 3 :: [] ∧ s.canTake 3 = true ∧
    (s.record 3).getD 0 0 % 16 = 1 ∧ ∀ j, w0.canTake j = false := by
  refine ⟨rfl, by decide +kernel, by decide +kernel, by decide +kernel, by decide +kernel, fun j => ?_⟩
  have : w0.queue j = {} := rfl
  simp [State.canTake, State.servable, this]

/-- Launch 0 loaded, walked, quiet, aborting, and with a fault to handle. -/
def wLaunch (f : Launch → Launch) : State :=
  { withPages w0 0x42 with launches := [(0, f loadedLaunch)], tasks := [(2, { state := .faulted, eclass := 3, age := 4 })] }

theorem witness_LaunchLife :
    (∀ f ∈ [fun l : Launch => { l with state := .loaded }, fun l => { l with state := .quiet }],
      twf {} (wLaunch f).launches = true ∧ twf {} (wLaunch f).tasks = true) ∧
    (let s := wLaunch fun l => { l with state := .loaded }
     (s.launchOf 0).state = .loaded ∧ (s.ctx (s.launchOf 0).ctx).state = .active ∧ ∀ t, t < 8 → (s.walkerHolds t).length < 16) ∧
    ((wLaunch id).launchOf 0).state ≠ .loaded ∧
    (let s := wLaunch fun l => { l with state := .walking, walkers := [{ tower := 0, order := 0, next := 0, succ := [] }] }
     tget 0 s.hub.walkAt 0 ≤ s.cycle ∧ s.walkerChoices 0 = (0, false) :: [] ∧
     (s.launchOf 0).walkers.find? (fun w => w.tower == 0) = some { tower := 0, order := 0, next := 0, succ := [] } ∧ s.readyIn 0 0 < 256 ∧
     (s.launchOf 0).gsize = 0 ∧ (s.launchOf 0).headAt { tower := 0, order := 0, next := 0, succ := [] } = some 0 ∧ s.freeEntry 64 = some 0) ∧
    (let s := wLaunch fun l => { l with state := .quiet }
     (s.launchOf 0).state = .quiet ∧ s.launchWork 0 = false) ∧
    (let s : State := { (wLaunch fun l => { l with abort := true }) with tasks := [] }
     (s.launchOf 0).state = .draining ∧ (s.launchOf 0).abort = true ∧ s.tasksOf 0 = [] ∧ s.launchWork 0 = false) ∧
    (let s := wLaunch fun l => { l with abort := true }
     s.tasksOf 0 ≠ []) ∧
    (let s := wLaunch fun l => { l with img := { l.img with fpol := 1 }, himg := some { entry := 9 } }
     (s.launchOf 0).img.fpol = 1 ∧ (s.launchOf 0).abort = false ∧ (s.launchOf 0).handling = none ∧ (s.launchOf 0).state = .draining ∧
     s.oldest (s.faultsOf 0) = some 2 ∧ (s.launchOf 0).himg = some { entry := 9 } ∧ s.freeEntry 0 = some 0) := by
  refine ⟨?_, by decide +kernel⟩
  intro f hf
  simp only [List.mem_cons, List.not_mem_nil, or_false] at hf
  rcases hf with rfl | rfl <;> decide +kernel

/-- Task 5 is READY for the idle tower 0; a group of one placed on core 0. -/
def wIdle : State :=
  { withPages State.reset 0x42 with tasks := [(5, { state := .ready })], launches := [(0, loadedLaunch)] }

theorem witness_Schedulers :
    let s := wIdle
    tget 0 s.hub.pickAt 0 ≤ s.cycle ∧ s.groups = [] ∧ twf Core.reset s.cores = true ∧ twf {} s.tasks = true ∧ s.idleCore 0 = true ∧ s.mayRun 0 5 = true ∧
    (s.imageOf 5).lsuse = false ∧ (∀ j, j ≠ 5 → s.mayRun 0 j = false) ∧
    s.cycle < tget 0 ({ s.hub with pickAt := [(0, 1)] } : Hub).pickAt 0 := by
  refine ⟨by decide +kernel, by decide +kernel, by decide +kernel, by decide +kernel, by decide +kernel, by decide +kernel, by decide +kernel, ?_, by decide +kernel⟩
  intro j hj
  have : wIdle.task j = {} := by
    simp [State.task, wIdle, withPages, tget, Ne.symm hj]
  simp [State.mayRun, this]

theorem witness_Schedulers_groups :
    let g : Machine.Group := { state := .placed, size := 1, members := [(5, 0)], cores := [(0, 0)] }
    let s : State := { wIdle with groups := [(3, g)], tasks := [(5, { state := .ready, gslot := 3, bound := some 0 })] }
    (s.group 4).state ≠ .placed ∧ (s.group (256 * 0 + 3)).state = .placed ∧ (s.ctx (s.groupCtx 3)).state = .active ∧ (s.groupImage 3).lsuse = false ∧
    (∀ c ∈ g.cores, (s.coreAt c.2).task = none) ∧ (s.group 3).members = [(5, 0)] ∧ (s.task 5).bound = some 0 ∧ (s.task 5).state = .ready ∧
    twf Core.reset s.cores = true ∧ twf {} s.tasks = true ∧ twf {} s.groups = true := by decide +kernel

theorem witness_EncodeDecode : slotWf (.cmp { xA with d := .pred 6, sub := 11 }) = true ∧ bMov.words.length = spmCount bMov.header := by decide +kernel

/-- The bundle of `bMov` in memory at the core's pc. -/
def wFetch : State :=
  let s := withPages (atIssue false) 0x42
  { s with
    core := { s.core with pc := 0, iss := none }
    mem := putBytes s.mem 0x10000 ((bMov.header :: bMov.words).flatMap bytesOfWord)
    launches := [(0, loadedLaunch)] }

theorem witness_StepRunsDecoded :
    w0.hub.tripped = false ∧ w0.slots = [] ∧ w0.agenda = [] ∧ ({ w0 with slots := [.nop 0] } : State).slots = .nop 0 :: [] ∧
    ({ w0 with agenda := [.nop 0] } : State).agenda = .nop 0 :: [] ∧ bMov.words.length = spmCount bMov.header ∧
    ([0, 1].all fun k => wFetch.walk wFetch.curCtx (wFetch.image.text + 8 * (wFetch.core.pc + k)) == .leaf 0x4000 0 0x10042 &&
      !wFetch.poisoned (wFetch.physOf 0 0 0x10042 (8 * k)) 8 && some (BitVec.ofNat 64 (wFetch.readWord (wFetch.physOf 0 0 0x10042 (8 * k)))) == (bMov.header :: bMov.words)[k]?) = true ∧
    0x10042 % 16 = 2 ∧ wFetch.logBlocked 0x4000 = false ∧ (wFetch.focus 0).fetch = some bMov ∧ (wFetch.coreAt 0).iss = none ∧ (wFetch.coreAt 0).leave = none ∧
    (wFetch.coreAt 0).compl = none ∧ (wFetch.coreAt 0).startAt ≤ wFetch.cycle ∧ (wFetch.coreAt 0).nextIc ≤ (wFetch.coreAt 0).ic ∧
    bundleOfNat 128 (2 + 0x400015FC89ABCDEF * 2 ^ 64) = some bMov := by decide +kernel

theorem witness_NothingStops :
    w0.CanStep ∧ ({ w0 with hub := { w0.hub with tripped := true }, inputs := [(9, .warmReset)] } : State).CanStep ∧
    ¬({ w0 with hub := { w0.hub with tripped := true } } : State).CanStep ∧ (slotForm (.add xA)).isSome = true ∧ w0.core.compl = none ∧
    ¬w0.Guarded (.add { xA with g := { sel := .pred 0, neg := false } }) ∧ w0.Guarded (.ld { xM with v := .sreg 3, b := .sreg 1, sz := .n32 }) ∧
    (w0.slotFault w0.issuesQuiet (w0.issueFlags (.ld { xM with v := .sreg 3, b := .sreg 1, sz := .n32 })) (.ld { xM with v := .sreg 3, b := .sreg 1, sz := .n32 })) =
      some (0x28, 7, 0) := by
  refine ⟨Or.inl (by decide +kernel), Or.inr (by simp [firstReset]), ?_, by decide +kernel, by decide +kernel, ?_, ?_, by decide +kernel⟩
  · rintro (h | h)
    · exact absurd h (by decide)
    · exact h rfl
  · show ¬(w0.core.guard _ _ = true)
    decide +kernel
  · show w0.core.guard _ _ = true
    decide +kernel

/-- Context 0 in a state, with nothing that belongs to it. -/
def wCtx (st : CtxState) (f : Ctx → Ctx) : State := { State.reset with ctxs := [(0, f { state := st, ptroot := 1 })] }

theorem witness_Contexts :
    ([CtxState.building, .active, .quiescing, .suspended, .faulted, .destroyed].all fun st =>
      twf {} (wCtx st id).ctxs && twf Core.reset (wCtx st id).cores && ((wCtx st id).ctx 0).state == st) = true ∧ (State.reset.ctx 0).state = .free ∧
    ((wCtx .building id).ctx 0).respol ≠ 3 ∧ ((wCtx .building id).ctx 0).ptroot ≠ 0 ∧ ((wCtx .building fun x => { x with ptroot := 0 }).ctx 0).ptroot = 0 ∧
    ((wCtx .faulted id).ctx 0).drained = false ∧ ((wCtx .faulted fun x => { x with drained := true }).ctx 0).drained = true ∧
    CtxState.active ∉ [CtxState.building, .suspended, .faulted] ∧ (wCtx .suspended id).launches = [] ∧ (wCtx .suspended id).tasks = [] ∧
    (wCtx .suspended id).devBars = [] ∧ (wCtx .suspended id).podBars = [] ∧ (wCtx .suspended id).pages = [] ∧ (wCtx .suspended id).pairs = [] ∧
    ((wCtx .faulted id).ctx 0).held = false ∧ ((0#64).extractLsb' 0 6).toNat = 0 ∧ ((wCtx .active id).pairAt 575).service = .inService ∧
    (wCtx .active id).groups = [] ∧ ((wCtx .active id).pairAt 575).owner = none ∧ 575 < 576 := by
  decide +kernel

/-- A core runs a task of context 0. -/
theorem witness_Contexts_runs : (w0.coreAt 0).task = some 0 ∧ (w0.task 0).ctx = 0 ∧ ¬(∀ l i, (w0.coreAt l).task = some i → (w0.task i).ctx ≠ 0) :=
  ⟨rfl, rfl, fun h => h 0 0 rfl rfl⟩

/-- A context with no task, copy or send is idle; its teardown waits for no launch and no store. -/
theorem witness_Contexts_idle :
    let s := wCtx .quiescing id
    (∀ l i, (s.coreAt l).task = some i → (s.task i).ctx ≠ 0) ∧ (∀ p, ∀ o ∈ (s.pairAt p).eng, o.ctx ≠ 0) ∧ (∀ d ∈ s.planeX.sends ++ s.planeY.sends, d.ctx ≠ 0) ∧
    (∀ k, (s.launchOf k).state ≠ .free → (s.launchOf k).ctx ≠ 0) ∧ ∀ p, (s.pairAt p).ownerCtx = some 0 → (s.pairAt p).zeroUntil ≤ s.cycle := by
  refine ⟨fun l i h => ?_, fun p o h => ?_, by decide, fun k h => absurd rfl h, fun p h => ?_⟩
  · have : (wCtx .quiescing id).coreAt l = Core.reset := by
      unfold State.coreAt wCtx
      split <;> rfl
    rw [this] at h
    cases h
  · exact absurd (show o ∈ ([] : List EngOp) from h) (by simp)
  · exact absurd (show (none : Option Nat) = some 0 from h) (by simp)

/-! Pages, the fabric, the hub. -/

/-- Context 0's page of address 0 with this leaf byte and what the controller holds of it; a page command in progress. -/
def wPage (leaf : Byte) (y : PageX) : State := { withPages w0 leaf with pages := [(0x4000, y)] }
def cmdOf (op level entry : Nat) : PageCmd := { op := op, ctx := 0, tower := 3, va := 0x1000, entry := entry, level := level }
def wCmd (leaf : Byte) (y : PageX) (q : PageCmd) : State := { wPage leaf y with hub := { w0.hub with pwStatus := 1, pwCmd := some q } }
def nexts (r : Host.Outcome State Fault Refusal) : Bool :=
  match r with
  | .next _ => true
  | _ => false
def pinned : PageX := { pins := 1 }
def noLeaf : Memory := [(0x1000, 0x0F), (0x1001, 0x20), (0x2000, 0x0F), (0x2001, 0x30)]

/-- MAP, UNMAP, CHMOD and REMAP of a page that suits each, of one that does not, and under a table that is not there; PANTRY with room and full. -/
theorem witness_PageCommands :
    (wCmd 0x42 pinned (cmdOf 1 0 0)).hub.pwCmd = some (cmdOf 1 0 0) ∧ (wCmd 0x42 pinned (cmdOf 1 0 0)).hub.pwStatus = 1 ∧
    (wPage 0x42 pinned).walk 0 0x1000 = .leaf 0x4000 0 0x10042 ∧ ((wPage 0x42 pinned).entryAt 0 0x1000 0).1 = some 0x4000 ∧
    (({ wPage 0x42 pinned with mem := noLeaf } : State).entryAt 0 0x1000 0).1 = none ∧ (({ wPage 0x42 pinned with mem := noLeaf } : State).entryAt 0 0x1000 1).1 = some 0x3000 ∧
    ({ wPage 0x42 pinned with mem := noLeaf } : State).readWord 0x3000 % 16 = 0 ∧ (wPage 0x42 pinned).readWord 0x4000 % 16 ≠ 0 ∧
    (wPage 0x10 pinned).readWord 0x4000 % 16 = 0 ∧ leafOk 0 0x20042 = true ∧ leafOk 0 1 = true ∧ leafOk 0 0x10004 = true ∧ 0x400F % 16 = 15 ∧ 3 ∉ [1, 2, 4, 15] ∧
    leafOk 0 ((wPage 0x42 pinned).readWord 0x4000) = true ∧ leafOk 1 ((wPage 0x42 pinned).readWord 0x4000) = false ∧ pinned.pins ≠ 0 ∧
    ({ count := 5 } : PageX).pins = 0 ∧ ({ count := 5 } : PageX).mig = none ∧ ({ count := 5 } : PageX).app = none ∧ (wPage 0x42 { count := 5 }).leafBusy 0x4000 0 = false ∧
    (wPage 0x42 { count := 5 }).page 0x4000 = { count := 5 } ∧ ({ count := 5 } : PageX).waiting = [] ∧ twf {} (wPage 0x42 pinned).pages = true ∧
    ((wPage 0x45 pinned).readWord 0x4000 % 16) ∈ [5, 6, 8] ∧ leafOk 0 (setBits 0x10042 6 5 3) = true ∧ leafOk 0 (setBits 0x10042 6 5 24) = false ∧
    0xC0 / 2 ^ 7 % 2 = 1 ∧ (wPage 0x49 pinned).readWord 0x4000 % 16 = 9 ∧ 2 ∈ [2, 4] ∧ leafOk 0 (setBits (setBits 0x10049 0 4 2) 16 41 3) = true ∧ 5 ∉ [2, 4] ∧
    ((wPage 0x42 pinned).pantry 3).frames.length < 4096 ∧ 4096 ≤ ({ frames := List.replicate 4096 0 } : Pantry).frames.length ∧
    (wPage 0x42 pinned).mem.wf = true ∧ twf false (wPage 0x42 pinned).poison = true ∧ twf {} (wPage 0x42 pinned).pantries = true := by decide +kernel

def migA (k : Nat) (fs : List Nat) : Migration := { target := k, deadlines := [], futs := fs, sched := 0 }

/-- A migration that starts upward, one downward, one that must wait; their ends, with a future and without. -/
theorem witness_PageMoves :
    (∀ (leaf : Byte) y, (wPage leaf y).Apart 0x4000 8 ∧ (wPage leaf y).page 0x4000 = y) ∧
    twf {} (wPage 0x42 pinned).pages = true ∧ twf Core.reset (wPage 0x42 pinned).cores = true ∧ (wPage 0x42 pinned).mem.wf = true ∧
    ({ waiting := [migA 3 []] } : PageX).waiting = migA 3 [] :: [] ∧ ({ waiting := [migA 3 []] } : PageX).mig = none ∧
    ({ waiting := [migA 3 []] } : PageX).pins = 0 ∧ ({ waiting := [migA 3 []] } : PageX).cmd = false ∧ 0x10042 / 2 ^ 9 % 4 ≠ 2 ∧
    (wPage 0x42 pinned).readWord 0x4000 % 16 = 2 ∧ (wPage 0x47 pinned).readWord 0x4000 % 16 = 7 ∧ (wPage 0x43 pinned).readWord 0x4000 % 16 = 3 ∧
    (wPage 0x44 pinned).readWord 0x4000 % 16 ∉ [2, 3, 7] ∧ ((wPage 0x42 { waiting := [migA 3 []] }).atticPages 3).length < 7168 ∧ (migA 8 []).target = 8 ∧
    (8 : Nat) ≠ 2 ∧ pinned.pins ≠ 0 ∧
    (wPage 0x45 pinned).readWord 0x4000 % 16 = 5 ∧ (wPage 0x46 pinned).readWord 0x4000 % 16 = 6 ∧ ({ mig := some (migA 3 []) } : PageX).mig = some (migA 3 []) ∧
    (migA 3 []).deadlines = [] ∧ (migA 3 [7]).futs = [7] ∧ (wPage 0x45 pinned).poisonIn 0x10000 65536 = false ∧ ({ mig := some (migA 3 []) } : PageX).log = [] ∧
    ({ mig := some (migA 3 []) } : PageX).logFuts = [] ∧ 0x300007 < 2 ^ 32 ∧
    (wFut (wPage 0x45 { mig := some (migA 3 [0x300007]) }) .empty 0).FutLive 0x300007 0 ∧
    ((wFut (wPage 0x45 { mig := some (migA 3 [0x300007]) }) .empty 0).fut 7).state = .empty ∧
    twf {} (wFut (wPage 0x45 { mig := some (migA 3 [0x300007]) }) .empty 0).futs = true ∧
    nexts (exec (.migrationComplete 0x4000) (wFut (wPage 0x45 { mig := some (migA 3 [0x300007]) }) .empty 0)) = true := by
  refine ⟨fun leaf y => ⟨lem_apart _ _ _ rfl, rfl⟩, ?_⟩
  unfold State.FutLive
  decide +kernel

/-- A schedule of two entries at address 0x3000 whose first asks for a move to tower 3 at this deadline. -/
def wSched (index deadline : Nat) : State :=
  let s := wPage 0x42 { count := 2 }
  { s with
    mem := putBytes s.mem 0x13000 (leBytes (3 * 2 ^ 57) 8 ++ leBytes deadline 8)
    scheds := [{ ctx := 0, addr := 0x3000, count := 2, index := index, last := 0 }] }
theorem witness_PageMoves_schedules :
    ([0, 1, 2].all fun n => ([0, 9, 100].all fun dl =>
      let s := wSched n dl
      let d : Sched := { ctx := 0, addr := 0x3000, count := 2, index := n, last := 0 }
      let r := s.schedEntry d
      s.scheds == [d] && (match r.1 with
        | .ok pa => pa == 0x13000 + 16 * n
        | .error _ => false) && r.2.scheds == s.scheds && r.2.tick == s.tick && r.2.hub.lead == s.hub.lead && twf {} r.2.pages &&
        (n != 0 || (r.2.readWord 0x13000 / 2 ^ 57 % 8 == 3 && r.2.readWord 0x13008 % 2 ^ 48 == dl && r.2.walk 0 0 == .leaf 0x4000 0 0x10042 &&
          (r.2.page 0x4000).mig == none && (r.2.page 0x4000).waiting == [] && r.2.place 0x4000 != 3 && (dl != 100 || decide (s.tick + s.hub.lead < dl)) &&
          (dl != 9 || decide (¬s.tick + s.hub.lead < dl)))))) = true ∧ 2 ≤ 2 ∧ (0 : Nat) < 2 ∧ 0 + 1 < 2 := by decide +kernel

theorem witness_PageMoves_decay :
    (∀ b ∈ tkeys (wPage 0x42 { count := 9 }).pages, (wPage 0x42 { count := 9 }).readWord b % 16 ≠ 3) ∧
    (let p : PageX := { count := 9, tower := some 2 }
     let s : State := { wPage 0x43 p with mem := tput 0 (pageMem 0x43) 0x4001 0x02 }
     tkeys s.pages = [0x4000] ∧ s.readWord 0x4000 % 16 = 3 ∧ s.readWord 0x4000 / 2 ^ 9 % 4 = 1 ∧ (p.count >>> 1).toNat < s.hub.demth ∧ p.mig = none ∧ p.waiting = [] ∧
      2 < 8 ∧ p.tower = some 2) := by decide +kernel

def amonI : OpM := { xM with sz := .n32 }
/-- An AMON of the page that stands at its controller. -/
def wAmon (leaf : Byte) (y : PageX) : State :=
  let q : MqEntry := { mqOf (.amon amonI) with st := .slice, vals := [5], xl := xl0 }
  { wPage leaf y with core := { w0.core with mq := [q] } }
theorem witness_PageMoves_log :
    ([0xC2, 0xC7, 0xC5, 0x42] : List Byte).all (fun n =>
      let y : PageX := { log := [{ operand := 1, offset := 0, op := 0, w64 := false, mrg := false, seq := 0 }], appends := 1, chunks := [7] }
      let s := wAmon n y
      let q : MqEntry := { mqOf (.amon amonI) with st := .slice, vals := [5], xl := xl0 }
      s.atController 0x4000 == [(0, q)] && (s.readWord 0x4000 / 2 ^ 7 % 2 == (if n = 0x42 then 0 else 1)) && s.readWord 0x4000 / 2 ^ 4 % 4 == 0 &&
        s.setsTouching (s.ctxOf 0) q.ea q.len (fun y => y.state == .declared || y.state == .held || y.state == .dropping) == [] &&
        decide (y.log.length < y.chunks.length * 256)) = true := by decide +kernel

theorem lem_cores (s : State) (l : Nat) (hc : s.cores = []) : s.coreAt l = s.core ∨ s.coreAt l = Core.reset := by
  unfold State.coreAt
  split
  · exact Or.inl rfl
  · exact Or.inr (by rw [hc]; rfl)

/-- An application of one record that ends; a memory error in a page of the cellar. -/
theorem witness_PageMoves_ends :
    let y : PageX := { log := [{ operand := 1, offset := 65528, op := 0, w64 := true, mrg := false, seq := 0 }], appends := 1, chunks := [7], pins := 1, app := some (0, false, []) }
    let s := wPage 0x48 y
    y.app = some (0, false, []) ∧ (∀ l, ∀ m ∈ (s.coreAt l).mq, m.st ≠ .overflow) ∧ s.Apart 0x10000 65536 ∧ 0x4000 + 8 ≤ 0x10000 ∧ (∀ r ∈ y.log, r.offset + 8 ≤ 65536) ∧
    ({ y with app := none }).app = none ∧ ((wPage 0x42 pinned).leaves 0 = [(0x4000, 0, 0)]) ∧ (wPage 0x42 pinned).readWord 0x4000 % 16 ∈ [2, 3, 5, 6, 7, 8] ∧
    0x10000 ≤ 0x1FFFF ∧ 0x1FFFF < 0x10000 + pageBytes 0 ∧ (∀ j, j < 64 → j ≠ 0 → ((wPage 0x42 pinned).ctx j).ptroot = 0) ∧
    (∀ l, ((wPage 0x42 pinned).coreAt l).mq = []) ∧ pinned.mig = none ∧ pinned.waiting = [] ∧ pinned.app = none ∧ pinned.logFuts = [] := by
  refine ⟨rfl, fun l => ?_, lem_apart _ _ _ rfl, by decide, by decide, rfl, by decide +kernel, by decide +kernel, by decide, by decide, by decide +kernel, fun l => ?_,
    rfl, rfl, rfl, rfl⟩
  · obtain h | h := lem_cores (wPage 0x48 _) l rfl <;> rw [h] <;> exact fun m hm => absurd (show m ∈ ([] : List MqEntry) from hm) (by simp)
  · obtain h | h := lem_cores (wPage 0x42 pinned) l rfl <;> rw [h] <;> rfl

/-- A table of period 1 that lights lines of band 0, and a receiver of the same. -/
def tableA (ks : List Nat) : SlotTable :=
  { period := 1, id := 0, codes := ks.map (fun k => (k, BitVec.ofNat 16 (0x8000 + k))) ++ ks.map fun k => (128 + k, BitVec.ofNat 16 (0x8000 + k)) }
/-- Both planes light residues 1 and 2 and their links are in this state. -/
def onFabric (s : State) (l : LinkState) : State :=
  let p : PlaneSt := { active := some (tableA [1, 2]), links := [(1, l), (2, l), (32, l)] }
  { s with planeX := p, planeY := p, ctxs := [(0, { state := .active, ptroot := 1, mcast := [(0, 6), (33, 1)] })] }
def xSend : OpSend := { dflSend with d := .sreg 8, a := .sreg 2, b := .sreg 2, c := .imm 0 }
def xSls : OpSend := { xSend with sls := true }

/-- To this device, along a lit and an unlit residue, over a link that serves and one that failed; to members of this pod and of another. -/
theorem witness_Sends :
    (∀ x v l, performs (onFabric (wPerf (.send x) v) l) (.send x) v ∧ performs (onFabric (wPerf (.msend x) v) l) (.msend x) v) ∧
    w0.hub.peer = 0 ∧ (0#64).toNat % 1024 = w0.hub.peer % 1024 ∧ (1 % 32 + 32 - 0 % 32) % 32 = 1 ∧ (32 / 32 % 32 + 32 - 0) % 32 = 1 ∧
    ((onFabric w0 .inService).plane .x).routed 1 = true ∧ ((onFabric w0 .inService).plane .x).routed 2 = true ∧ ((onFabric w0 .inService).plane .x).routed 3 = false ∧
    ((onFabric w0 .inService).plane .y).routed 1 = true ∧ ((onFabric w0 .failed).plane .x).link (neighbour 0 .x 1) = .failed ∧
    ((onFabric w0 .inService).plane .x).link (neighbour 0 .x 1) ≠ .failed ∧ ((onFabric w0 .inService).plane .x).link (neighbour 0 .x 2) ≠ .failed ∧
    ((onFabric w0 .inService).plane .y).link (neighbour 0 .y 1) ≠ .failed ∧ ((onFabric w0 .inService).lsOperand 0x0100).isSome = true ∧ xSls.sls = true ∧ xSend.sls = false ∧
    (onFabric w0 .inService).multicast 0 0 = [1, 2] ∧ (∀ m ∈ [1, 2], m / 32 = 0 / 32 ∧ m % 32 ≠ 0 % 32 ∧ (m % 32 + 32 - 0 % 32) % 32 = m) ∧
    (onFabric w0 .inService).multicast 0 1 = [32] ∧ 32 / 32 = 1 := by
  refine ⟨fun x v l => ⟨⟨rfl, rfl, rfl, rfl, rfl⟩, ⟨rfl, rfl, rfl, rfl, rfl⟩⟩, ?_⟩
  decide +kernel

/-- A SEND in the engine of plane X: its source still to be read; and read, one copy and one answer outstanding. -/
def sendA (sls read multi : Bool) (va : Word) : Send :=
  { id := 4, multi := multi, num := 9, vals := [1, va, 256, 7, 0], sls := sls, lin := 0, ctx := 0, task := 0, launch := 0, fut := 7, len := 256, win := 2, wgen := 1,
    offset := 0, read := read, payload := [], copies := [{ plane := .x, residue := 1, dest := 1, left := 2, notice := false, queued := false }], masks := [],
    members := if multi then [(1, none), (2, none)] else [(1, none)], failed := none }
def wSend (d : Send) (leaf : Byte) : State := { withPages w0 leaf with planeX := { sends := [d] } }

theorem witness_Sends_reading :
    ([sendA true false false 0x0100, sendA false false false 0x1000].all fun d =>
      let s := wSend d 0x42
      s.planeX.sends == [d] && s.planeY.sends == [] && d.copies.length == 1 && !d.multi && !d.read && d.failed.isNone && !d.marked && d.len % 128 == 0 &&
        twf {} (s.plane .x).streams) = true ∧ (LsAddr.of 0x0100).isSome = true ∧
    (let s := wSend (sendA false false false 0x1000) 0x42
     let r := s.agentXlat 0 false (0 / 144) 1 0x1000 256
     gotXl r = true ∧ r.2.planeX = s.planeX ∧ r.2.planeY = s.planeY ∧ r.2.hub.seat = s.hub.seat ∧ r.2.hub.pod = s.hub.pod ∧
      r.2.countVia xl0 0 0x1000 256 0 = r.2 ∧ r.2.verify (physSectors xl0 0x1000 256) 3 (some 0) = r.2 ∧ r.2.badSectors xl0 0x1000 256 = []) ∧
    (match (wSend (sendA false false false 0x1000) 0x40).agentXlat 0 false (0 / 144) 1 0x1000 256 with
      | (.error (.fail _), _) => true
      | _ => false) = true := by decide +kernel

/-- DONE for send 9 of this device: the only member answers, and the first of two. -/
theorem witness_Sends_done :
    let m : CtlMsg := { plane := .x, hop := 1, bits := ctlWord 4 0 1 0 9 0 }
    let w := m.bits.toNat
    w % 16 = 4 ∧ w / 2 ^ 4 % 1024 = w0.hub.peer ∧ Plane.x = ctlPlane m.bits ∧ w / 2 ^ 25 % 2 ^ 16 = 9 ∧ w / 2 ^ 14 % 1024 = 1 ∧
    ((wSend (sendA false true false 0) 0x42).plane .x).sends = [sendA false true false 0] ∧ (sendA false true false 0).read = true ∧
    (sendA false true false 0).multi = false ∧ (sendA false true false 0).members = [(1, none)] ∧ (sendA false true true 0).multi = true ∧
    (1, none) ∈ (sendA false true true 0).members ∧ (2, none) ∈ (sendA false true true 0).members ∧ (2 : Nat) ≠ 1 ∧ (sendA false true true 0).failed = none := by
  decide +kernel

def msg (type dest src fields w1 : Nat) : CtlMsg := { plane := .x, hop := 1, bits := ctlWord type dest src 0 fields w1 }
def unA : Unacked := { tick := 0, band := 0, items := [(0, { flit := Flit.ofBits 0 0, send := some 4, pitch := none })] }
/-- Residue 1 with a slot to acknowledge. -/
def wUn (l : Line) : State := { w0 with planeX := { streams := [(1, { unacked := [unA] })], lines := [(16, l)], active := some (tableA [1]) } }

theorem witness_FlitsAndMessages :
    (∀ n ∈ [0, 1, 2, 3, 4, 5, 8], (msg n 0 1 1 0).bits.toNat % 16 = n ∧ (msg n 0 1 1 0).bits.toNat / 2 ^ 4 % 1024 = w0.hub.peer ∧
      (msg n 5 1 1 0).bits.toNat / 2 ^ 4 % 1024 ≠ w0.hub.peer) ∧
    hopFrom 0 5 = some (.x, 5) ∧ hopFrom 0 37 = some (.y, 1) ∧ neighbour 0 (ctlPlane (msg 2 0 1 1 0).bits) ((msg 2 0 1 1 0).bits.toNat / 2 ^ 25 % 2 ^ 5) = 1 ∧
    ((wUn {}).planeX.stream 1).unacked.find? (fun u => u.band == 0 && u.tick % 65536 == 0) = some unA ∧ w0.planeY.camps = [] ∧
    (msg 3 0 1 (2 ^ 8) 0).bits.toNat / 2 ^ 33 % 2 ^ 4 ≠ 0 ∧ (sendA false true false 0).copies ≠ [] ∧
    ((wSend (sendA false true false 0) 0x42).send 4) = some (.x, sendA false true false 0) := by decide +kernel

def noticeA : Notice := { seq := 0, src := 1, dest := 0, win := 2, wgen := 1, num := 9, plane := 0, flits := 2, fan := false }
def wNotice (w : Window) : State := { w0 with planeX := { notices := [noticeA] }, windows := [(2, w)] }

theorem witness_FlitsAndMessages_notices :
    (wNotice {}).planeX.notices = [noticeA] ∧ noticeA.dest = (wNotice {}).hub.peer ∧ noticeA.wgen ≠ 0 ∧ (wNotice {}).planeX.camps = [] ∧ (wNotice {}).planeY.camps = [] ∧
    (∀ m ∈ (wNotice {}).planeX.marks, m.1 ≠ 1) ∧ ((wNotice { isOpen := true, expect := 2 }).window 2).isOpen = true ∧
    noticeA.wgen = ((wNotice { isOpen := true }).window 2).wgen ∧ min (0 + 1) 4095 ≠ max 2 1 ∧ 0 < max 1 1 ∧ min (0 + 1) 4095 = max 1 1 ∧ max 1 1 ≤ 1 ∧ min (4095 + 1) 4095 ≠ 1 ∧
    ((wNotice { wgen := 3 }).window 2).isOpen = false ∧ noticeA.wgen ≠ ((wNotice { isOpen := true, wgen := 3 }).window 2).wgen := by decide +kernel

/-- A flit of zeros from peer 1 to window 0 of this device: with its checks, and with one check wrong. -/
def flitA (chk : BitVec 64) : Flit := { tag := 9, dest := 0, src := 1, poison := 0, win := 0, wgen := 1, offset := 0, seq := 0, chk := chk, data := 0 }

theorem witness_FlitsAndMessages_flits :
    let s : State := { w0 with planeX := { active := some (tableA [1]) }, hub := { w0.hub with lock := true } }
    s.listener .x 1 0 = some 1 ∧ s.hub.lock = true ∧ 31 < 32 ∧ twf {} s.planeX.camps = true ∧ (∀ y ∈ (s.planeX.camp 1).pitches, y.write = true) ∧
    (Flit.ofBits (flitA (chkOf (List.replicate 128 0))).toBits 9).dest = s.hub.peer ∧ (Flit.ofBits (flitA (chkOf (List.replicate 128 0))).toBits 9).checks = true ∧
    (Flit.ofBits (flitA 0).toBits 9).checks = false ∧ (flitA 0).wgen ≠ 0 ∧ (s.planeX.camp 1).pitches.length < 8192 ∧ tget none s.planeX.rx 16 = none ∧ twf 0 s.planeX.live = true ∧
    (flitA 0).dest < 1024 ∧ (flitA 0).src < 1024 ∧ (flitA 0).win < 256 ∧ (flitA 0).wgen < 16 ∧ (flitA 0).offset < 2 ^ 20 ∧ (flitA 0).seq < 256 := by decide +kernel

/-- A pitch to be written, through an open window of this base, length and peer. -/
def pitchA : Pitch := { seq := 1, flit := flitA 0, write := true, copies := 0, fanWait := false }
def wPitch (w : Window) : State := { withPages w0 0x42 with planeX := { camps := [(1, { pitches := [pitchA] })] }, windows := [(0, w)] }

theorem witness_FlitsAndMessages_writes :
    let w : Window := { isOpen := true, base := 0x1000, len := 256, peer := 1, pmask := 0x3FF }
    ((wPitch w).planeX.camp 1).pitches = pitchA :: [] ∧ pitchA.write = true ∧ pitchA.fanWait = false ∧ twf {} (wPitch w).planeX.camps = true ∧
    ((wPitch { w with isOpen := false }).window 0).isOpen = false ∧ ((wPitch w).window 0).isOpen = true ∧ (flitA 0).wgen = ((wPitch w).window 0).wgen ∧
    (flitA 0).src &&& w.pmask = w.peer &&& w.pmask ∧ ¬((flitA 0).src &&& 0x3FF = 2 &&& 0x3FF) ∧ 127 < 128 * ((flitA 0).offset + 1) ∧ 128 * ((flitA 0).offset + 1) ≤ w.len ∧
    ((wPitch w).planeX.camp 1).blocked = false ∧ gotXl ((wPitch w).agentXlat 0 true (0x1000 / 2 ^ 16 % 8) 2 0x1000 128) = true ∧
    ((wPitch w).agentXlat 0 true (0x1000 / 2 ^ 16 % 8) 2 0x1000 128).2.planeX = (wPitch w).planeX ∧
    ((wPitch w).agentXlat 0 true (0x1000 / 2 ^ 16 % 8) 2 0x1000 128).2.planeY = (wPitch w).planeY ∧ (flitA 0).poison = 0 := by decide +kernel

/-- A slot with no ACK after 12 ticks, and the fourth of a run. -/
theorem witness_FlitsAndMessages_timeout :
    let s (n : Nat) : State := { wUn { unheard := n } with tick := 11 }
    (((s 0).planeX.stream 1).unacked.filter fun v => v.tick == 0) = [unA] ∧ 0 + 12 ≤ (s 0).tick + 1 ∧
    (s 0).planeX.active.elim 0 (fun t => (t.entriesOf 1 0).length) = 1 ∧ ¬(4 * max 1 1 ≤ ((s 0).planeX.line 1 0).unheard + 1) ∧
    4 * max 1 1 ≤ ((s 3).planeX.line 1 0).unheard + 1 ∧ ((s 3).planeX.line 1 0).raised = false := by decide +kernel

/-- Plane X lights residue 1, whose line of band 0 is this one and whose link to peer 1 is in this state. -/
def wLine (l : Line) (k : LinkState) : State := { w0 with planeX := { active := some (tableA [1]), lines := [(16, l)], links := [(1, k)] } }

/-- A link and its lines; a line checked, drifting, retuning, given up and restored; power at its limit and below it. -/
theorem witness_LineLife :
    linkAfter .inService [.lit] false = (wLine {} .inService).planeX.link 1 ∧ neighbour w0.hub.peer .x 1 = 1 ∧
    linkAfter ((wLine { state := .lit } .inService).planeX.link 1) ((wLine { state := .lit } .inService).planeX.linesOf 1) false = .inService ∧
    linkAfter ((wLine { state := .parked } .inService).planeX.link 1) ((wLine { state := .parked } .inService).planeX.linesOf 1) false = .parked ∧
    linkAfter ((wLine { state := .substituted } .inService).planeX.link 1) ((wLine { state := .substituted } .inService).planeX.linesOf 1) true = .degraded ∧
    LineState.lit ∈ [LineState.lit, .parked] ∧ (∀ x ∈ [LineState.lit, .parked], x = .lit ∨ x = .parked) ∧ LineState.waking ∈ [LineState.waking] ∧
    ((wLine {} .inService).planeX.stream 1).unacked.filter (fun u => u.band == 0) = [] ∧ ((wLine {} .dark).planeX.line 1 0).state ≠ .lit ∧
    ((wLine { state := .lit } .dark).planeX.line 1 0).state = .lit ∧ (20 : Int).natAbs ≤ (wLine {} .dark).planeX.pol.driftth ∧
    (wLine {} .dark).planeX.pol.driftth < (0 - 21 : Int).natAbs ∧ ((wLine { state := .lit } .dark).planeX.line 1 0).drifts = 0 ∧
    ((wLine { state := .lit, drifts := 1 } .dark).planeX.line 1 0).drifts ≠ 0 ∧ ({ subst := true } : FabPol).subst = true ∧ (0 : Nat) ≠ 9 ∧
    (wLine {} .dark).planeX.lightsLine 1 9 = false ∧ (wLine {} .dark).planeX.lightsLine 1 0 = true ∧ (wLine {} .dark).planeX.pol.subst = false ∧
    ((wLine { state := .retuning, since := 0 } .dark).planeX.line 1 0).state = .retuning ∧ ((wLine { state := .retuning } .dark).planeX.line 1 0).lantern = false ∧
    ({ w0 with tick := 7 } : State).tick + 1 ≤ 0 + 8 ∧ 0 + 8 ≤ ({ w0 with tick := 7 } : State).tick + 1 ∧ 0 + 8 < ({ w0 with tick := 8 } : State).tick + 1 ∧
    ({ w0 with tick := 6 } : State).tick + 1 < 0 + 8 ∧ (wLine {} .dark).planeX.repS.all (fun r => !(r.residue == 1 && r.band == 0)) = true ∧
    ((wLine { state := .substituted } .dark).planeX.line 1 0).state = .substituted ∧ ((wLine { state := .failed } .dark).planeX.line 1 0).state = .failed ∧
    (wLine { state := .lit } .dark).planeY.lines = [] ∧ (wLine { state := .lit } .dark).planeX.lines = [(16 * 1 + 0, { state := .lit })] ∧
    tkeys w0.planeX.lines ++ tkeys w0.planeY.lines = [] := by decide +kernel

theorem witness_LineLife_power :
    (Config.lanternLimit - 1) + 1 ≤ Config.lanternLimit ∧ Config.lanternLimit < Config.lanternLimit + 1 ∧
    ((wLine { state := .lit, power := some (Config.lanternLimit - 1) } .dark).planeX.line 1 0).power.getD 0 = Config.lanternLimit - 1 := ⟨by omega, by omega, rfl⟩

/-- A repair message to this device from peer 1 about its residue `k`, band 0: phase, repair 9, SWITCH 30, entry 0. -/
def repMsg (phase k : Nat) : CtlMsg :=
  { plane := .x, hop := 1, bits := ctlWord 7 0 1 0 (phase + k * 2 ^ 3 + 9 * 2 ^ 12) 30 }
def repS1 : RepairS := { id := 9, residue := 1, band := 0, switch := 30, commits := [(0, 1)] }
def repD1 : RepairD := { receiver := 1, id := 9, residue := 1, band := 0, switch := 30, entry := 0, committed := false }
def pickA : Pick := { entry := 0, lane := 1, giver := some (1, 1, 0), ready := false }
def repV1 (committed : Bool) (ps : List Pick) : RepairV := { sender := 1, id := 9, residue := 31, band := 0, switch := 30, picks := ps, committed := committed }
/-- A plane with one lit line to peer 1, one listened to, and every other lane listening. -/
def fullTable : SlotTable :=
  { period := 1, id := 0, codes := (1, 0x8001) :: (129, 0x801F) :: (List.range' 130 126).map fun n => (n, 0x801F) }
def wRep (f : PlaneSt → PlaneSt) : State :=
  { wLine { state := .drifting } .inService with planeX := f { active := some fullTable, lines := [(16, { state := .drifting })], links := [(1, .inService)] } }

theorem witness_Repairs :
    (∀ n ∈ [0, 1, 2, 3, 4, 5], (repMsg n 1).bits.toNat / 2 ^ 25 % 2 ^ 3 = n ∧ (repMsg n 1).bits.toNat % 16 = 7 ∧
      (repMsg n 1).bits.toNat / 2 ^ 4 % 2 ^ 10 = w0.hub.peer ∧ (repMsg n 1).bits.toNat / 2 ^ 14 % 2 ^ 10 = 1 ∧ (repMsg n 1).bits.toNat / 2 ^ 28 % 2 ^ 5 = 1 ∧
      (repMsg n 1).bits.toNat / 2 ^ 33 % 2 ^ 4 = 0 ∧ (repMsg n 1).bits.toNat / 2 ^ 37 % 2 ^ 16 = 9 ∧ (repMsg n 1).bits.toNat / 2 ^ 64 % 2 ^ 48 = 30 ∧
      (repMsg n 1).bits.toNat / 2 ^ 112 % 2 ^ 9 = 0 ∧ ctlPlane (repMsg n 1).bits = .x) ∧
    (repMsg 0 31).bits.toNat / 2 ^ 28 % 2 ^ 5 = 31 ∧ neighbour 0 .x 1 = 1 ∧ sourceOf 0 .x 1 ≠ 1 ∧ neighbour 0 .x 31 ≠ 1 ∧
    (wRep id).planeX.repV = none ∧ (wRep fun q => { q with repV := some (repV1 false [pickA]) }).planeX.repV = some (repV1 false [pickA]) ∧
    (wRep id).planeX.active = some fullTable ∧ fullTable.period = 1 ∧ (31, 0, 1) ∈ fullTable.lit 0 true ∧
    (List.range 128).filter (fun j => !codeLit (fullTable.detCode 0 j)) = [0] ∧ (repV1 false [pickA]).id = 9 ∧ (repV1 false []).committed = false ∧
    (repV1 true []).committed = true ∧ (wRep id).planeX.repD = [] ∧ (wRep id).planeX.repS = [] ∧ repD1.receiver = 1 ∧ repD1.id = 9 ∧ repD1.entry = 0 ∧ repD1.residue = 1 ∧
    repD1.band = 0 ∧ (∀ r ∈ (wRep id).planeX.repS, r.id ≠ 9) ∧ repS1.id = 9 ∧ repS1.residue = 1 ∧ repS1.band = 0 := by decide +kernel

theorem witness_Repairs_ends :
    twf {} (wRep id).planeX.lines = true ∧ 2 ≤ ((wRep fun q => { q with lines := [(16, { aborts := 1 })] }).planeX.line 1 0).aborts + 1 ∧
    ¬(2 ≤ ((wRep id).planeX.line 1 0).aborts + 1) ∧ [pickA].any (fun x => !x.ready) = true ∧ ({ pickA with giver := none, ready := true } : Pick).ready = true ∧
    ({ pickA with giver := none } : Pick).giver = none ∧ (wRep id).planeY.repV = none ∧ (wRep id).planeY.repS = [] ∧ (wRep id).planeY.repD = [] ∧
    (repV1 false [{ pickA with giver := none }]).switch ≤ ({ wRep id with tick := 25 } : State).tick + 5 ∧ (repV1 false [{ pickA with giver := none }]).picks.filterMap (fun x => x.giver) = [] ∧
    ({ wRep id with tick := 24 } : State).tick + 5 < (repV1 false []).switch ∧ repS1.switch ≤ ({ wRep id with tick := 29 } : State).tick + 1 ∧ repS1.commits ≠ [] ∧
    repS1.commits = [(0, 1)] ∧ ((wRep id).planeX.line 1 0).state = .drifting ∧ (wRep id).planeX.modLanes 0 1 0 = [1] ∧ repD1.committed = false ∧
    (wRep fun q => { q with repS := [repS1] }).planeX.repS = [repS1] ∧ (wRep fun q => { q with repD := [repD1] }).planeX.repD = [repD1] := by decide +kernel

/-- Lanterns, bands, calibration, tables. -/
def wPlane (p : PlaneSt) : State := { w0 with planeX := p }
def idle (autopark : Bool) (x : Band) (l : LineState) : State :=
  { wPlane { pol := { autopark := autopark, parkidle := 1 }, bands := [(2, x)], lines := [(18, { state := l })] } with tick := 9 }

theorem witness_PlaneLife_bands :
    let lit (s : State) (st : LineState) := (s.planeX.lines.filter fun e => e.1 % 16 == 2 && e.2.state == st).map fun e => e.1 / 16
    (idle true {} .lit).planeX.pol.autopark = true ∧ (2 : Nat) < 8 ∧ 1 ≤ (idle true {} .lit).tick - max 0 0 ∧ lit (idle true {} .lit) .lit ≠ [] ∧ ({} : Band).parkAt = none ∧
    ({} : Band).wakeAt = none ∧ (idle false {} .lit).planeX.pol.autopark = false ∧ ¬(idle true { lastFlit := 9 } .lit).tick - max 9 0 ≥ 1 ∧
    ((idle true { parkAt := some 10 } .lit).planeX.band 2).parkAt = some 10 ∧ 10 ≤ (idle true {} .lit).tick + 1 ∧
    ((idle true { wakeAt := some 10 } .waking).planeX.band 2).wakeAt = some 10 ∧ lit (idle true {} .waking) .waking = [1] ∧
    (let s := wPlane { pol := { wakeq := 0 }, bands := [(2, { parked := true, auto := true })], streams := [(1, { loc := [{ flit := flitA 0, send := none, pitch := none }] })] }
     s.planeX.wakeDue = true ∧ (s.planeX.bands.filter fun e => e.2.parked && e.2.auto).map (fun e => e.1) = [2]) ∧ w0.planeX.wakeDue = false := by decide +kernel

theorem witness_PlaneLife :
    (wPlane { snapReq := true }).planeX.snapReq = true ∧ (wPlane {}).planeX.snapReq = false ∧ (wPlane { lanternLost := true }).planeX.lanternLost = true ∧
    (wPlane {}).planeX.lanternLost = false ∧ (wPlane {}).planeX.pol.lantern = false ∧ (wPlane { pol := { lantern := true } }).planeX.pol.lantern = true ∧
    (wPlane {}).planeX.onStandby = false ∧ (wPlane {}).planeX.lines = [] ∧ (wPlane {}).planeX.takeover = none ∧ (wPlane { takeover := some 4 }).planeX.takeover = some 4 ∧
    (wPlane {}).planeX.links = [] ∧ (0#11).getLsbD 10 = false ∧ (0x400#11).getLsbD 10 = true ∧ w0.hub.lock = false ∧
    (let s := wPlane { links := [(1, .calibrating)], calib := [(1, some 0)], lines := calBands.map fun b => (16 + b, { power := some 5 }) }
     s.planeX.link 1 = .calibrating ∧ s.measured .x 1 = true ∧ residueTo 0 .x 1 = 1 ∧ tget none s.planeX.calib 1 = some 0 ∧ 0 + 500000 ≤ ({ s with tick := 499999 } : State).tick + 1) ∧
    ({ w0.hub with lock := true } : Hub).lock = true ∧ (wPlane {}).planeX.link 1 ≠ .calibrating ∧ tget none (wPlane {}).planeX.calib 1 = none ∧
    (let s := wPlane { links := [(1, .trained)], active := some (tableA [1]) }
     s.planeX.link (neighbour 0 .x 1) = .trained ∧ s.planeX.routed 1 = true) ∧ (wPlane {}).planeX.routed 1 = false ∧
    (let m : CtlMsg := repMsg 6 1
     let w := m.bits.toNat
     w / 2 ^ 25 % 2 ^ 3 = 6 ∧ w / 2 ^ 0 % 2 ^ 4 = 7 ∧ w / 2 ^ 4 % 2 ^ 10 = w0.hub.peer ∧ ctlPlane m.bits = .x ∧ neighbour 0 .x (w / 2 ^ 28 % 2 ^ 5) = w / 2 ^ 14 % 2 ^ 10 ∧
      (wPlane { links := [(1, .calibrating)] }).planeX.link (w / 2 ^ 14 % 2 ^ 10) = .calibrating ∧ w / 2 ^ 33 % 2 ^ 4 ∈ [0, 1, 2, 3, 4, 5, 6, 7, 9]) ∧
    (wPlane {}).planeX.streams = [] ∧ (wPlane {}).planeX.sends = [] ∧ w0.planeY.sends = [] ∧ w0.podBars = [] ∧ (wPlane { loading := some (tableA [1]) }).planeX.loading = some (tableA [1]) ∧
    (wPlane {}).planeX.loading = none ∧ (wPlane {}).planeX.switchAt = none ∧ (wPlane { switchAt := some 1 }).planeX.switchAt = some 1 ∧ 1 ≤ w0.tick + 1 ∧
    (wPlane {}).planeX.repS = [] ∧ (wPlane {}).planeX.repD = [] ∧ (wPlane {}).planeX.repV = none := by decide +kernel

/-- SLOTTAB from the privileged queue: a switch with the standby and without, a load of a table of period 1 that is sound and of one that is not. -/
theorem witness_PlaneLife_tables :
    let s (rec : List Nat) : State :=
      let t := wRec rec fun q => { q with privq := true }
      { t with mem := putBytes t.mem 0x16000 (leBytes 0x53544254 8), planeX := { standby := some (tableA [1]) }, ctxs := [(0, { state := .active, ptroot := 1, priv := true })] }
    ([[6, 0, 2, 9], [6, 0x1000, 0, 0], [6, 0x6000, 0, 0]].all fun rec => (s rec).canTake 3 && (s rec).recordError 3 ((s rec).record 3) == 0 &&
      twf {} (s rec).queues && ((s rec).record 3).getD 0 0 % 16 == 6 && ((s rec).record 3).getD 2 0 % 2 == 0) = true ∧
    ((s [6, 0, 2, 9]).record 3).getD 2 0 / 2 % 2 = 1 ∧ (s [6, 0, 2, 9]).planeX.standby ≠ none ∧ (s [6, 0, 2, 9]).tick + 2 ≤ ((s [6, 0, 2, 9]).record 3).getD 3 0 ∧
    ((s [6, 0, 2, 1]).record 3).getD 3 0 < (s [6, 0, 2, 1]).tick + 2 ∧
    ([0x1000, 0x6000].all fun a =>
      let r := (s [6, a, 0, 0]).hubReach 3 a 64 false
      let z := r.2.hubReach 3 a 576 false
      gotReach r && gotReach z && natOfBytes (r.2.readVia xl0 a 8) / 2 ^ 32 % 2 ^ 9 + 1 == 1 && z.2.badSectors xl0 a 576 == [] &&
        (tableOf (z.2.readVia xl0 a 576)).isSome == (a == 0x6000)) = true := by
  decide +kernel

theorem witness_PegsAndTicks :
    ({ w0.hub with resNext := some 5 } : Hub).resNext = some 5 ∧ w0.hub.lock = false ∧ ({ w0.hub with lock := true } : Hub).lock = true ∧ w0.planeX.polNext = none ∧
    w0.planeX.pol.parkmask = 0 ∧ w0.planeX.snapReq = false ∧ (w0.tick + 1) % 1024 ≠ 0 ∧ nexts (exec .peg w0) = true ∧
    ({ sent := 8191 } : Stream).shadow ≠ 0 ∧ ({ sent := 8192 } : Stream).shadow = 0 ∧ ({} : Stream).retr = [] ∧
    (msg 6 0 1 0 41).bits.toNat % 16 = 6 ∧ (wPlane { locking := true }).planeX.locking = true ∧ (msg 6 0 1 0 41).plane = .x ∧
    (msg 6 0 1 0 41).bits.toNat / 2 ^ 4 % 1024 = (w0.hub.fabid.extractLsb' 0 10).toNat ∧ (msg 6 0 1 0 41).bits.toNat / 2 ^ 4 % 1024 = w0.hub.peer ∧
    (msg 6 3 1 0 41).bits.toNat / 2 ^ 4 % 1024 ≠ (w0.hub.fabid.extractLsb' 0 10).toNat ∧ (wPlane {}).planeX.locking = false := by decide +kernel

/-- Futures 1 to 2^20 − 1 all in use. -/
def wFull : State := { w0 with futs := (List.range' 1 (2 ^ 20 - 1)).map fun k => (k, ({ state := .set } : Fut)) }

theorem lem_full : ∀ k, 1 ≤ k → k < 2 ^ 20 → (wFull.fut k).state ≠ .free := by
  intro k h0 h1
  have : tget ({} : Fut) ((List.range' 1 (2 ^ 20 - 1)).map fun k => (k, ({ state := .set } : Fut))) k = { state := .set } :=
    lem_range _ _ 1 _ k h0 (by omega)
  simp only [State.fut, wFull, this]
  simp

theorem witness_HostAndTemperature_futures :
    (∀ k, 1 ≤ k → k < 2 ^ 20 → (wFull.fut k).state ≠ .free) ∧ (w0.fut 1).state = .free ∧ twf {} w0.futs = true ∧ (wFut w0 .empty 0).FutLive 0x300007 0 ∧
    ((wFut w0 .empty 0).fut 7).ctx = 0 ∧ ((wFut w0 .empty 0).fut 7).state = .empty ∧ ((wFut w0 .set 0).fut 7).state ≠ .empty ∧ ¬w0.FutLive 0x300007 0 := by
  refine ⟨lem_full, by decide +kernel, by decide +kernel, by unfold State.FutLive; decide +kernel, by decide +kernel, by decide +kernel, by decide +kernel,
    by unfold State.FutLive; decide +kernel⟩

def wBarDev (b : Barrier) : State := { w0 with devBars := [(4095, b)], podBars := [(255, b)] }

theorem witness_HostAndTemperature :
    4095 < 4096 ∧ 255 < 256 ∧ (w0.devBar 4095).bound = false ∧ ((wBarDev { bound := true }).devBar 4095).bound = true ∧ ((wBarDev { bound := true }).podBar 255).bound = true ∧
    twf {} (wBarDev { bound := true }).devBars = true ∧ twf {} (wBarDev { bound := true }).podBars = true ∧ (3#64).toNat % 4 = 3 ∧ (4#64).toNat / 4 % 4 = 1 ∧ (4#64).toNat % 4 ≠ 3 ∧
    w0.planeX.links = [] ∧ w0.planeY.links = [] ∧ (wPlane { links := [(1, .dark)] }).planeX.links ≠ [] ∧ w0.hub.boot ≠ .recovery ∧ 0x12 % 8 ≠ 0 ∧
    (0x10#64).toNat / 16 % 16 = 1 ∧ 5 < (0x60#64).toNat / 16 % 16 ∧ 0x10000 + 32 * 63 = 0x107E0 ∧ ((wCtx .building id).ctx 0).state = .building ∧
    (w0.ctx 0).state ≠ .building ∧ (w0.queue 1023).state = .disabled ∧ ((wRec [0] id).queue 3).state ≠ .disabled ∧ (0x4000000000000000#64).getLsbD 62 = true ∧
    (0#64).getLsbD 62 = false ∧ w0.hub.pwStatus ≠ 1 ∧ 1 ≤ (5#64).toNat % 8 ∧ (5#64).toNat % 8 ≤ 5 ∧ w0.pages = [] ∧
    (∀ k ∈ sectorsOf 0 64, tget false w0.badCheck k = false) ∧ 0x7FFFFF + [(1 : Byte)].length ≤ 0x800000 ∧ twf 0 w0.hub.staging = true := by decide +kernel

theorem witness_HostAndTemperature_cellar :
    (Config.cellarBytes < Config.cellarBytes + 1) ∧ (0 + 64 ≤ Config.cellarBytes) ∧ 0 + [(1 : Byte)].length ≤ Config.cellarBytes := by
  refine ⟨by omega, by decide +kernel, by decide +kernel⟩

/-- A tower at, above and below THROT; a tile read plausibly, out of range, too far from its last reading, and the same for 64 samples. -/
def wWarm (t : BitVec 12) (step : Nat) : State :=
  { w0 with hub := { w0.hub with throttle := [(0, step)], tiles := (List.range 384).map fun n => (n, { temp := t }) } }

theorem witness_HostAndTemperature_tiles :
    twf {} w0.hub.tiles = true ∧ ((-161 : Int) < -160 ∨ 1200 < (-161 : Int)) ∧ ({ run := 1 } : Tile).implausible 41 41 41 = some 1 ∧
    ({ run := 63 } : Tile).implausible 0 0 0 = some 2 ∧ ({} : Tile).implausible 1200 1200 1200 = none ∧ ({} : Tile).failed = false ∧ w0.hub.tripen = true ∧ w0.hub.throten = true ∧
    ({ w0.hub with tripen := false, throten := false } : Hub).tripen = false ∧
    w0.hub.throt.toInt < ((wWarm 761 3).hub.hottest ((List.range 48).map (· + 48 * 0))).2 ∧ tget 0 (wWarm 761 3).hub.throttle 0 < 4 ∧ tget 0 (wWarm 761 4).hub.throttle 0 = 4 ∧
    ((wWarm 760 3).hub.hottest ((List.range 48).map (· + 48 * 0))).2 ≤ w0.hub.throt.toInt ∧
    w0.hub.throt.toInt - 40 ≤ ((wWarm 720 3).hub.hottest ((List.range 48).map (· + 48 * 0))).2 ∧
    ((wWarm 719 1).hub.hottest ((List.range 48).map (· + 48 * 0))).2 < w0.hub.throt.toInt - 40 ∧ 0 < tget 0 (wWarm 719 1).hub.throttle 0 := by decide +kernel

/-- An entry of core 0 with these operands. -/
def asks (i : Instr) (vals : List Word) : MqEntry := { mqOf i with vals := vals, ea := 0x1000 }

theorem witness_HubAnswers :
    twf Core.reset w0.cores = true ∧ w0.core.leave = none ∧ (asks (.fnew xB) []).instr = .fnew xB ∧ (w0.fut 1).state = .free ∧
    (∀ k, 1 ≤ k → k < 2 ^ 20 → (wFull.fut k).state ≠ .free) ∧ twf {} w0.futs = true ∧ (wFut w0 .empty 0).FutLive 0x300007 0 ∧ ¬w0.FutLive 0x300007 0 ∧
    (∀ f ∈ [FState.empty, .set, .failed], ((wFut w0 f 0).fut 7).state = f) ∧ 0x40000FFF / 2 ^ 30 = 1 ∧
    ((wBarDev { bound := true }).barRef ((wBarDev { bound := true }).core.task.getD 0) 0x40000FFF).isSome = true ∧
    (w0.barRef (w0.core.task.getD 0) 0x40000FFF).isNone = true ∧ ((wBarDev { bound := true }).devBar 4095).lost = false ∧ ({} : Barrier).expect = 0 ∧
    ({ expect := 2, arrived := 1 } : Barrier).expect ≠ 0 ∧ ({ expect := 2, arrived := 1 } : Barrier).arrived ≠ 0 ∧ ({ expect := 2 } : Barrier).arrived = 0 := by
  refine ⟨by decide +kernel, by decide +kernel, rfl, by decide +kernel, lem_full, by decide +kernel, by unfold State.FutLive; decide +kernel,
    by unfold State.FutLive; decide +kernel, by decide +kernel⟩

/-- MIGR, QPEEK, PGSTAT, LOGAPPLY and ACAS at a page of each residency they ask about. -/
theorem witness_HubAnswers_pages :
    ([(0x42, 2), (0x41, 1), (0x44, 4), (0x49, 9), (0x46, 6), (0x47, 7), (0x43, 3)] : List (Byte × Nat)).all (fun n =>
      let s := wPage n.1 { count := 2 }
      let u := s.dequeue 0 5
      u.core.task == s.core.task && u.tasks == s.tasks && u.walk 0 0 == .leaf 0x4000 0 (0x10000 + n.1.toNat) && s.walk 0 0x1000 == .leaf 0x4000 0 (0x10000 + n.1.toNat) &&
        (0x10000 + n.1.toNat) % 16 == n.2) = true ∧
    ({ wPage 0x42 {} with mem := noLeaf } : State).walk 0 0 = .absent ∧ (0x20400 / 2 ^ 9 % 4 = 2 ∨ 0x20400 / 2 ^ 4 % 4 ≠ 0) ∧
    isOk ((withRing w0 1).ringAt 0 0 0x1000 true false) 0x11000 = true ∧ (((withRing w0 1).ringAt 0 0 0x1000 true false).2.ringDesc 0x11000).ok = true ∧
    (w0.ringDesc 0x11000).ok = false ∧ isOk ((withPages w0 0x42).ringAt 0 0 0x1000 true false) 0x11000 = true ∧ ((withPages w0 0x42).ringDesc 0x11000).ok = false ∧
    (7#64).toNat % 2 ^ 32 ≠ 0 ∧ twf {} (wPage 0x47 { count := 2 }).pages = true := by decide +kernel

/-- ACAS of 8 bytes that finds 0, expecting 0 and 1; HNEAR with a tie; MARK with nothing to wait for. -/
theorem witness_HubAnswers_compares :
    let s := withPages w0 0x42
    let e : MqEntry := { asks (.acas { xM with v := .sreg 62, sz := .d64 }) [0, 5] with xl := xl0 }
    e.xl = xl0 ∧ e.len = 8 ∧ (s.heldSetAt ((s.coreAt 0).task.getD 0) 0x1000).isNone = true ∧ twf Core.reset s.cores = true ∧ (s.coreAt 0).l1 = [] ∧ (s.coreAt 0).fifo = [] ∧
    (s.coreAt 0).leave = none ∧ e.acquires = false ∧ s.logBlocked 0x4000 = false ∧ s.readWord 0x4000 / 2 ^ 9 % 4 ≠ 1 ∧ 0 = 0x1000 / 65536 ∧ 0x10000 % 65536 = 0 ∧
    s.poisoned 0x11000 8 = false ∧ natOfBytes (s.read 0x11000 8) = (0#64).toNat % 2 ^ (8 * 8) ∧ natOfBytes (s.read 0x11000 8) ≠ (1#64).toNat % 2 ^ (8 * 8) ∧
    ([0, 0] : List HyperVec) ≠ [] ∧ (s.coreAt 0).nt = [] := by decide +kernel

theorem witness_MemoryStaysCanonical :
    w0.mem.wf = true ∧ (withPages w0 0x42).mem.wf = true ∧ nexts (step w0) = true ∧ (∀ a, tget 0 (pageMem 0x42) a = tget 0 (pageMem 0x42) a) := by
  exact ⟨by decide +kernel, by decide +kernel, by decide +kernel, fun _ => rfl⟩

/-! More witnesses. -/

/-- An answer of slot 7 still out, eight counts after its issue. -/
def pendOut (ic : Nat) : Pending :=
  { pendA {} 0 with slot := 7, lh := 8, lc := 8, ready := false, writes := [], latch := .none, ic := ic }

/-- Windows of context 0 and of context 1; a table of the longest period. -/
theorem witness_FabricWindows_held :
    let c : Core := { w0.core with ic := 8, pend := [pendOut 0] }
    (∃ p ∈ c.pend, p.ready = false ∧ p.locked = false ∧ p.ic + p.lh ≤ c.ic) ∧ w0.ctxOf 0 = 0 ∧ winA.ctx = w0.ctxOf 0 ∧
    ({ winA with ctx := 1 } : Window).ctx ≠ w0.ctxOf 0 ∧ (asks (.wopen xW) [4096, 4096, 0]).instr = .wopen xW ∧
    (asks (.wclose (noB xB)) [0xF07]).instr = .wclose (noB xB) ∧ (asks (.lstat (noB xB)) [0]).instr = .lstat (noB xB) ∧
    ({ fullTable with period := 512 } : SlotTable).period ≤ 512 ∧ (wRep id).planeX.active = some fullTable := by
  refine ⟨⟨_, List.mem_singleton.mpr rfl, by decide⟩, by decide +kernel, by decide +kernel, by decide +kernel, rfl, rfl, rfl, by decide +kernel⟩

/-- No wound of task 0 anywhere; the kept store is no engine operation; a FIFO line and a held non-temporal store count as kept. -/
theorem witness_LeavingAndArrivals_begins :
    let s : State := { w0 with core := { w0.core with mq := [{ mqOf (.st xM) with bseq := 0 }] } }
    twf Core.reset s.cores = true ∧
    (∀ lin, (∀ x, (s.coreAt lin).woundIn = some x → x.2.2 ≠ 0) ∧ ∀ x, (s.coreAt lin).wound = some x → x.2 ≠ 0) ∧
    (∀ e ∈ s.core.mq, ∀ x y z w, e.instr ∉ [.hnear x, .cpy y, .chase z, .gath w]) ∧ ({ s.core with fifo := [.line 3] } : Core).fifo ≠ [] ∧
    w0.core.woundDone = false ∧ (∀ g, (w0.group g).state ≠ .waiting) := by
  refine ⟨by decide +kernel, fun lin => ?_, fun e he x y z w => ?_, by decide +kernel, by decide +kernel, fun g => ?_⟩
  · have h : (({ w0 with core := { w0.core with mq := [{ mqOf (.st xM) with bseq := 0 }] } } : State).coreAt lin).woundIn = none ∧
        (({ w0 with core := { w0.core with mq := [{ mqOf (.st xM) with bseq := 0 }] } } : State).coreAt lin).wound = none := by
      unfold State.coreAt
      split <;> exact ⟨rfl, rfl⟩
    exact ⟨fun x hx => absurd (h.1.symm.trans hx) (by simp), fun x hx => absurd (h.2.symm.trans hx) (by simp)⟩
  · rw [List.mem_singleton.mp he]
    simp [mqOf]
  · exact fun h => absurd (show (({} : Group)).state = .waiting from h) (by decide)

/-- A completion step that is past the point of no return: its operation is TEND and no result is out. -/
theorem witness_LeavingAndArrivals_ending :
    let q := complOf false [opOf (.tend dflC) []]
    (w0.core.pend = [] ∧ ∃ h ∈ q.ops, ∃ x, h.instr = .tend x) ∧ ({ q with committing := true } : Completion).committing = true ∧
    ({ complOf false [] with arrivedGen := some 5 } : Completion).arrivedGen ≠ none :=
  ⟨⟨rfl, _, List.mem_singleton.mpr rfl, dflC, rfl⟩, rfl, by decide⟩

/-- A LOOP with a count of 0 whose END has not been fetched, and bundles that need no END. -/
def bLoop : RawBundle := bOf 0 ((encode (.loop { dflC with a := .sreg 9, disp := 4 })).elim 0 fun x => x.2)
theorem witness_BundleIssue_ends :
    let s := (wIssue id 2000).focus 0
    (s.endNeeded bLoop).isSome = true ∧ s.endNeeded bMov = none ∧ s.endNeeded bMma = none ∧ s.endNeeded bLd = none ∧
    s.endNeeded (bOf 1 0xDE00000000000000) = none ∧ (checked s (bOf 1 0xDE00000000000000)).faults.find? (fun f => f.2.1 == 0x10) = some (1, 0x10, 0xDE00000000000000, 0) := by
  decide +kernel

/-- Two results due at once: of two slots to one register; an older one beside one that traps. -/
theorem witness_ResultsBecomeVisible_pairs :
    let s (l : List Pending) : State := { w0 with cycle := 4, core := { w0.core with ic := 4, pend := l } }
    let due (s : State) (p : Pending) : Bool := p.ready && decide (p.ic + p.lh ≤ (s.coreAt 0).ic) && decide (p.cyc + p.lc ≤ s.cycle)
    let p := pendA {} 0
    let q : Pending := { p with slot := 2, seq := 1, writes := [.sreg .b 9 2] }
    let t : Pending := { pendA { nx := true } 0x10 with bseq := 2, seq := 2 }
    ((s [p, q]).coreAt 0).pend.filter (due (s [p, q])) = [p, q] ∧ ((s [p, t]).coreAt 0).pend.filter (due (s [p, t])) = [p, t] ∧
    p.writes = [.sreg .b 9 1] ∧ q.writes = [.sreg .b 9 2] ∧ p.slot < q.slot ∧ trapping q.enables q.fl = false ∧ p.bseq < t.bseq ∧
    trapping t.enables t.fl = true ∧ twf 0 w0.core.regs.hv = true ∧ twf 0 w0.core.regs.hc = true ∧ twf 0 w0.core.regs.fd = true ∧ twf [] w0.core.regs.sl = true ∧
    twf MatRow.zero (tget [] w0.core.regs.sl 3) = true ∧ (0 : Nat) < 2 ∧ (1 : Nat) < 2 := by decide +kernel

theorem witness_SpecialFunctions_values :
    (FpEnv.ofFpcr 0).rm = .rne ∧ (3 : Nat) ≠ 0 ∧ (0 < 1 ∧ 4095 < 4096 ∧ 400 ≤ 400) ∧ (SfuOp.log2 = .rsq ∨ SfuOp.log2 = .sqrt ∨ SfuOp.log2 = .log2) := by
  decide +kernel

/-- A load behind an ASDECL of its core, and one that asks for no set; a write to a page that is not mapped. -/
theorem witness_Translations_behind :
    let x : OpM := { xM with sz := .d64 }
    let s (l : List MqEntry) : State := { withPages w0 0x42 with core := { w0.core with mq := l } }
    let e := walking (.ld x)
    ((s [{ mqOf (.asdecl xA) with seq := 4 }, e]).coreAt 0).setOpAhead e = true ∧ ((s [e]).coreAt 0).setOpAhead e = false ∧
    ((s [{ mqOf (.asdecl xA) with seq := 4 }, e]).coreAt 0).mq.find? (fun m => m.seq == 5) = some e ∧ (walking (.pref { dflM with b := .sreg 2 })).acquiring = false ∧
    (∀ w ∈ [true, false], (withPages w0 0x40).walk 0 0 = .absent ∧ ((withPages w0 0x40).translate 0 0 8 w 0 0).1 = .absent) ∧
    (0x10040 % 16 = 0 ∧ 0x10040 / 2 ^ 4 % 4 ≠ 3 ∧ 0x10040 / 2 ^ 9 % 4 ≠ 3) ∧ 0x10042 / 2 ^ 4 % 4 = 0 ∧ 10 ≤ 0x1004A % 16 := by decide +kernel

/-- The task pool stands at the end of the cellar, clear of the bytes accessed. -/
theorem witness_QueuePerforms_apart :
    (∀ w ∈ [wQueue (.ld xQ) true false l1Line, wQueue (.st xQ) false true [], wQueue (.amo xQ) true true []], w.Apart (0x10000 + 4096 % 65536) 8) ∧
    ((wQueue (.st xQ) false true []).coreAt 0).hasWay ((0x10000 + 4096 % 65536) / 128) = true := by
  refine ⟨fun w hw => lem_apart w _ _ ?_, by decide +kernel⟩
  simp only [List.mem_cons, List.not_mem_nil, or_false] at hw
  rcases hw with rfl | rfl | rfl <;> rfl

theorem witness_SetRequests_behind :
    let s (l : List MqEntry) : State := { wSet none none with core := { w0.core with iss := none, mq := l } }
    ((s [{ mqOf (.asdrop xA) with seq := 4 }, asking]).coreAt 0).setOpAhead asking = true ∧ ((s [asking]).coreAt 0).setOpAhead asking = false ∧
    ((s [{ mqOf (.asdrop xA) with seq := 4 }, asking]).coreAt 0).mq.find? (fun m => m.seq == 5) = some asking ∧ (s [asking]).wanted 0 0 asking = 9 :: [] := by
  decide +kernel

/-- A chase whose START is its END, and one of no hops; a destination that is present. -/
theorem witness_EngineCompletion_empty :
    let o := engOf (.chase dflChase) [0x3000, 0x1000, 64, 7] true
    let word (s : State) (k : Nat) : Nat := natOfBytes ((s.readVia xl0 0x1000 32).drop (8 * k) |>.take 8)
    let ran (stop n : Nat) := ((wChase stop).chaseLoop o 0 0 64 stop false false n { p := 0x2000, prev := 0x2000, h := 0, out := [], last := [], stack := 0 })
    (match (ran 0x2000 2).1 with
      | .ok c => c.out == [] && c.h == 0
      | .error _ => false) = true ∧ word (wChase 0x2000) 2 = 0x2000 ∧ word (wChase 0x2000) 0 % 2 ^ 57 = 0x2000 ∧
    (match (ran 0 2).1 with
      | .ok c => c.out.length == 32 && gotXl ((ran 0 2).2.agentXlat 0 true 0 1 0x3000 c.out.length)
      | .error _ => false) = true ∧
    (let s : State := { wChase 0 with mem := putBytes (wChase 0).mem 0x1100C (leBytes 0 4) }
     gotXl (s.agentXlat 0 true 0 1 0x1000 32) = true ∧ (s.agentXlat 0 true 0 1 0x1000 32).2.badSectors xl0 0x1000 32 = [] ∧ word s 1 / 2 ^ 32 % 2 ^ 32 = 0) ∧
    (wChase 0).freshSectors (physSectors xl0 0x2000 32) = false ∧ (0x2000 : Nat) % 32 = 0 ∧ dflChase.dls = false := by decide +kernel

/-- CPY from the local store to the local store; futures and pins of an operation that ends. -/
theorem witness_EngineCompletion_locals :
    let o := engOf (.cpy { dflCpy with sls := true, dls := true, scope := .device }) [0x0200, 0x0100, 47, 7] true
    (wEng o).engine 5 = some (0, o) ∧ (wEng o).engReady o = true ∧ (LsAddr.of (o.vals.getD 1 0)).isSome = true ∧ (LsAddr.of (o.vals.getD 0 0)).isSome = true ∧
    ((LsAddr.of 0x0100).map fun a => a.remote) = some false ∧ ((LsAddr.of 0x0200).map fun a => a.remote) = some false ∧ o.pins = [] := by decide +kernel

/-- A BLOCKED queue; DRAIN with no launch and an ACTIVE context. -/
theorem witness_HostQueueCommands_blocked :
    let s := wRec [] fun x => { x with state := .blocked, waitf := some (7, false) }
    twf {} s.queues = true ∧ (s.queue 3).state = .blocked ∧ s.launchesOf 3 = [] ∧ (s.ctx (s.queue 3).ctx).state = .active ∧ (s.queue 3).state ≠ .disabled ∧
    (let t := wRec [] fun x => { x with state := .disabled, log2n := 17 }
     (t.queue 3).state = .disabled ∧ 16 < (t.queue 3).log2n) := by decide +kernel

/-- WAITF with and without W1, SIGNAL that sets and that fails, and a kind that no record has. -/
theorem witness_QueueRecords_fields :
    let h := 0x00300007 * 2 ^ 32
    let s (rec : List Nat) : State := wFut (wRec rec id) .failed 0
    ([[4 + h, 0], [4 + h, 1], [3 + h, 5, 2 ^ 8 + 1], [15]].all fun r => (s r).canTake 3 && ((s r).record 3 == r ++ List.replicate (8 - r.length) 0)) = true ∧
    (4 + h) / 32 % 2 ^ 27 = 0 ∧ (2 ^ 8 + 1) / 2 % 2 ^ 7 = 0 ∧ 2 ^ 8 + 1 < 2 ^ 24 ∧ 8 ≤ 15 % 16 ∧ 0x1000 % 64 = 0 ∧ 0x1000 % 128 = 0 := by decide +kernel

theorem witness_LaunchRecords_slots :
    (∀ j, j < 1 → (({ w0 with launches := [(0, { state := .loaded })] } : State).launchOf j).state ≠ .free) ∧
    (({ w0 with launches := [(0, { state := .loaded })] } : State).launchOf 1).state = .free ∧ 1 < 4096 ∧
    (let s : State := { wRec [2, 0x3000, 64, 0x4000, 0, 0, 0, 2] id with tasks := [], hub := { w0.hub with sPrev := 0xFFFFFFFFFFF } }
     tkeys s.queues = 3 :: [] ∧ s.canTake 3 = true ∧ (s.record 3).getD 0 0 % 16 = 2) := by decide +kernel

/-- The status block of a launch stands on a present page, and on a ZERO page with no frame in the pantry. -/
theorem witness_LaunchLife_status :
    let f (b : Bool) : Launch → Launch := fun l => { l with state := if b then .draining else .quiet, abort := b }
    let on (leaf : Byte) (b : Bool) : State := { wLaunch (f b) with mem := pageMem leaf, tasks := [] }
    (∀ b ∈ [true, false], (on 0x42 b).statusBlocked 0 = false ∧ (on 0x41 b).statusBlocked 0 = true ∧
      twf {} (on 0x41 b).launches = true ∧ (on 0x41 b).launchWork 0 = false ∧ (on 0x41 b).tasksOf 0 = []) ∧
    ((on 0x41 false).launchOf 0).state = .quiet ∧ ((on 0x41 true).launchOf 0).state = .draining ∧ ((on 0x41 true).launchOf 0).abort = true ∧
    ((wLaunch id).launchOf 0).state ≠ .quiet ∧ twf 0 w0.hub.walkAt = true := by decide +kernel

/-- Two tasks READY of one launch, the older first; the first core of tower 1. -/
theorem witness_Schedulers_two :
    let s : State := { wIdle with tasks := [(5, { state := .ready, age := 1 }), (6, { state := .ready, age := 2 })] }
    s.mayRun 0 5 = true ∧ s.mayRun 0 6 = true ∧ s.older 5 6 = true ∧ (0 : Nat) / 144 = 0 ∧ 144 / 144 = 1 ∧ (0 : Nat) < 8 ∧
    (tget 0 s.hub.picks 0 + 1) % 64 ≠ 0 ∧ s.prio (s.task 6).launch = s.prio (s.task 5).launch := by decide +kernel

/-- No group of the context; a context that is no more DESTROYED, and one that drains. -/
theorem witness_Contexts_groups :
    (∀ g ∈ tkeys (wCtx .active id).groups, ((wCtx .active id).groupLaunch g).ctx ≠ 0) ∧ ((wCtx .active id).ctx 0).state = .active ∧
    (∀ st ∈ [CtxState.active, .quiescing, .free, .destroyed], st ∉ [CtxState.building, .suspended, .faulted]) ∧
    (wCtx .faulted fun x => { x with drained := true }).launches = [] ∧ twf {} (wCtx .suspended id).windows = true ∧ twf {} (wCtx .suspended id).queues = true ∧
    twf {} (wCtx .suspended id).sets = true ∧ twf {} (wCtx .destroyed id).futs = true ∧ twf Pair.reset (wCtx .destroyed id).pairs = true ∧
    ((wCtx .destroyed id).pairAt 0).ownerCtx ≠ some 0 := by decide +kernel

/-- The entry a command names, with the state as it was; UNMAP of a page with a log; a table in place of a missing entry; CHMOD of each kind. -/
theorem witness_PageCommands_entries :
    (∀ leaf ∈ [(0x42 : Byte), 0x10, 0x47, 0x49, 0x45], (wCmd leaf pinned (cmdOf 2 0 0)).entryAt 0 0x1000 0 = (some 0x4000, wCmd leaf pinned (cmdOf 2 0 0))) ∧
    (let s : State := { wCmd 0x42 pinned (cmdOf 1 1 0x400F) with mem := noLeaf }
     s.entryAt 0 0x1000 1 = (some 0x3000, s) ∧ s.readWord 0x3000 % 16 = 0 ∧ (cmdOf 1 1 0x400F).entry % 16 = 15 ∧ (cmdOf 1 1 0x400F).level ≠ 0) ∧
    (let y : PageX := { log := [{ operand := 1, offset := 0, op := 0, w64 := false, mrg := false, seq := 0 }], appends := 1, chunks := [7] }
     let s := wCmd 0x47 y (cmdOf 2 0 0)
     (s.readWord 0x4000) % 16 = 7 ∧ leafOk 0 (s.readWord 0x4000) = true ∧ y.pins = 0 ∧ y.mig = none ∧ y.app = none ∧ s.amonsAt 0x4000 MqState.queued = [] ∧
      s.leafBusy 0x4000 0 = false) ∧
    (let s := wCmd 0x42 { count := 5 } (cmdOf 2 0 0)
     s.amonsAt 0x4000 MqState.queued = [] ∧ s.leafBusy 0x4000 0 = false) ∧
    leafOk 0 (setBits 0x10042 6 5 (0xC0 / 2 ^ 6 % 2 ^ 5)) = true ∧ 0xC0 / 2 ^ 9 % 4 ≠ 2 ∧ 0x440 / 2 ^ 9 % 4 = 2 ∧ 0x440 / 2 ^ 7 % 2 = 0 ∧
    leafOk 0 (setBits 0x10042 6 5 (0x440 / 2 ^ 6 % 2 ^ 5)) = true ∧ ({ count := 5 } : PageX).mig = none ∧ (3 ≠ 1 ∧ 3 ∉ [1, 2, 4, 15]) ∧
    ((1 % 16 = 1 ∧ 1 / 2 ^ 16 % 2 ^ 41 = 0) ∧ leafOk 0 1 = true) := by decide +kernel

/-- Migrations of every kind: one that starts over, one upward from the cellar and from a page with a log, one from an attic to the cellar
and to another attic. -/
theorem witness_PageMoves_kinds :
    (∀ leaf ∈ [(0x42 : Byte), 0x47], let s := wPage leaf { mig := some (migA 3 []) }
      (s.page 0x4000).mig = some (migA 3 []) ∧ (s.page 0x4000).pins = 0 ∧ (s.page 0x4000).cmd = false ∧ s.amonsAt 0x4000 MqState.queued = [] ∧
      s.readWord 0x4000 / 2 ^ 9 % 4 ≠ 2 ∧ (migA 3 []).target < 8 ∧ (s.atticPages 3).length < 7168) ∧
    (∀ t ∈ [8, 5], let s := wPage 0x43 { tower := some 2, waiting := [migA t []] }
      s.readWord 0x4000 % 16 = 3 ∧ (s.page 0x4000).waiting = migA t [] :: [] ∧ (s.page 0x4000).mig = none ∧ (s.page 0x4000).tower = some 2 ∧
      (migA t []).target ≠ 2 ∧ (t = 8 ∨ t < 8) ∧ s.amonsAt 0x4000 MqState.queued = []) ∧
    (let s := wPage 0x43 { mig := some (migA 3 []) }
     (s.page 0x4000).mig ≠ none ∧ s.readWord 0x4000 % 16 = 3) ∧
    (∀ t ∈ [8, 5], let s := wPage 0x46 { mig := some (migA t []), tower := some 2 }
      (s.page 0x4000).mig = some (migA t []) ∧ s.poisonIn 0x10000 65536 = false ∧ s.readWord 0x4000 % 16 = 6 ∧ (s.page 0x4000).log = [] ∧ (s.page 0x4000).logFuts = []) ∧
    (wPage 0x42 {}).place 0x4000 ≠ 3 ∧ 0x10042 % 16 ∉ [1, 4, 9] ∧ 0x10042 / 2 ^ 4 % 4 = 0 := by decide +kernel

/-- A log that a command clears; the first record of a log with a chunk; an AMON of a page without LOG. -/
theorem witness_PageMoves_appends :
    let q : MqEntry := { mqOf (.amon amonI) with st := .slice, vals := [5], xl := xl0 }
    (let s : State := { wAmon 0xC2 { cmd := true, chunks := [7] } with hub := { w0.hub with pwStatus := 1, pwCmd := some (cmdOf 3 0 0) } }
     s.clearsLog 0x4000 = true ∧ s.atController 0x4000 = [(0, q)] ∧ s.readWord 0x4000 / 2 ^ 7 % 2 = 1) ∧
    (let s := wAmon 0xC2 { chunks := [7] }
     s.clearsLog 0x4000 = false ∧ s.atController 0x4000 = [(0, q)] ∧ (s.page 0x4000).log = [] ∧ (s.page 0x4000).log.length < (s.page 0x4000).chunks.length * 256) ∧
    (let s := wAmon 0x42 {}
     s.atController 0x4000 = [(0, q)] ∧ s.readWord 0x4000 / 2 ^ 9 % 4 ≠ 1 ∧ (q.xl.head?.elim 0 fun y => y.leaf) = 0x4000) ∧
    (wPage 0x42 pinned).chunkPage 0x10000 = none ∧ twf false w0.hub.atsDeny = true ∧
    (∀ c ∈ tkeys (wPage 0x42 pinned).ctxs, (1 : Nat) ≠ (wPage 0x42 pinned).pasid c * 2 ^ 45 + 0x3000 / 4096) := by decide +kernel

def fecData : BitVec 2304 := BitVec.ofNat 2304 (0x123456789ABCDEF * 2 ^ 2000 + 0xFEDCBA987 * 2 ^ 900 + 0x1F5)
set_option maxRecDepth 20000 in
/-- R398: a codeword with eight symbols wrong is corrected. -/
theorem test_line_code :
    fecDecode (fecEncode fecData ^^^ BitVec.ofNat 2448 (1 + 0x1FF * 2 ^ 90 + 3 * 2 ^ 900 + 2 ^ 1800 + 5 * 2 ^ 2250 + 2 ^ 2304 + 7 * 2 ^ 2340 + 2 ^ 2439)) =
      some (fecData, 8) := by decide +kernel

/-- The worked words of SEND and MSEND. -/
theorem test_encode_sends :
    encode (.send { dflSend with d := .sreg 4, a := .sreg 5, b := .sreg 6, c := .sreg 7 }) = some (7, 0x80001014181C0000) ∧
    encode (.msend { dflSend with d := .sreg 4, a := .sreg 5, b := .sreg 6, c := .sreg 7, e := .sreg 8 }) = some (7, 0x82001014181C2000) := by decide +kernel

/-- A SEND whose source pages are pinned, not yet written in this cycle. -/
theorem witness_Sends_pinned :
    let d := sendA false false false 0x1000
    d.pins = none ∧ ({ d with pins := some [0x4000] } : Send).pins = some [0x4000] ∧
    (wSend d 0x42).freshSectors (physSectors xl0 0x1000 256) = false ∧ (sendA false true false 0).pins = none ∧ (sendA false true false 0).num = 9 ∧
    (d.copies = [{ plane := .x, residue := 1, dest := 1, left := 2, notice := false, queued := false }] ∧ d.multi = false) ∧
    (∃ j, (1, none) ∈ (sendA false true true 0).members ∧ (j, none) ∈ (sendA false true true 0).members ∧ j ≠ 1) ∧
    (w0.hub.peer < 1024 ∧ ([1, 2] : List Nat) ≠ [] ∧ (1 : Nat) < 32 ∧ 1 ≠ w0.hub.peer / 32) := by
  refine ⟨rfl, rfl, by decide +kernel, rfl, rfl, ⟨rfl, rfl⟩, ⟨2, by decide, by decide, by decide⟩, by decide +kernel⟩

set_option maxRecDepth 20000 in
/-- A codeword with a flit to this device in its first half; a pitch that waits for its copies; a mark of the flit's send. -/
theorem witness_FlitsAndMessages_codeword :
    let good := flitA (chkOf (List.replicate 128 0))
    let s : State := { w0 with planeX := { active := some (tableA [1]), marks := [(1, 9, 0x101)] }, hub := { w0.hub with lock := true } }
    ((fecDecode (fecEncode (good.toBits.setWidth 2304))).map fun d => Flit.ofBits (d.1.extractLsb' 0 1152) 9) = some good ∧ good.checks = true ∧ good.dest = w0.hub.peer ∧ (({ pitchA with write := false, copies := 2 } : Pitch).write = true ∨ 2 ≠ 0) ∧
    s.planeX.marks.any (fun m => m.1 == good.src && m.2.1 == good.tag) = true ∧ (∀ m ∈ (wNotice {}).planeX.marks, m.1 ≠ noticeA.src) ∧
    (.y = Plane.x ∨ good.wgen ≠ 0) ∧ unA.items = [(0, { flit := Flit.ofBits 0 0, send := some 4, pitch := none })] := by decide +kernel

/-- A link without lines; a line that leaves LIT with a slot to acknowledge; a LIT line with every outcome of a trim. -/
theorem witness_LineLife_leaves :
    (¬∃ x ∈ ([] : List LineState), x ∈ [LineState.lit, .substituted, .retuning, .parked, .waking]) ∧
    (LinkState.degraded ∈ [LinkState.inService, .parked, .waking, .degraded] ∧ LinkState.trained ∈ [LinkState.dark, .calibrating, .trained, .failed]) ∧
    linkAfter ((wLine { state := .failed } .inService).planeX.link 1) ((wLine { state := .failed } .inService).planeX.linesOf 1) true = .failed ∧
    (wLine { state := .failed } .inService).planeX.link 1 ≠ .failed ∧ ((wUn {}).planeX.stream 1).unacked.filter (fun u => u.band == 0) = [unA] ∧
    ((wLine { state := .retuning, lantern := true } .dark).planeX.line 1 0).lantern = true ∧
    (tget {} (wLine { state := .lit } .dark).planeX.lines 16).state = .lit ∧ (tget {} (wLine { state := .lit } .dark).planeX.lines 17).state ≠ .lit ∧
    twf {} (wLine { state := .lit } .dark).planeX.lines = true := by decide +kernel

/-- PREP of a line of this device's own table, from the peer it leads to, and of one that is not; lanes with none dark; a repair to commit. -/
theorem witness_Repairs_phases :
    (neighbour 0 .x 1 = 1 ∧ sourceOf 0 .x 1 ≠ 1) ∧ (neighbour 0 .x 16 = sourceOf 0 .x 16 ∧ (wRep id).planeX.lightsLine 16 0 = false) ∧
    (List.range (fullTable.period)).filter (fun e => (fullTable.lit e true).any fun x => x.1 == 31 && x.2.1 == 0) = [0] ∧
    (let allIn : SlotTable := { fullTable with codes := (1, 0x8001) :: (List.range' 128 128).map fun n => (n, 0x801F) }
     (List.range 128).filter (fun j => !codeLit (allIn.detCode 0 j)) = [] ∧ (31, 0, 0) ∈ allIn.lit 0 true) ∧
    (wRep fun q => { q with repD := [repD1] }).planeX.repD = [repD1] ∧ repD1.receiver = 1 ∧ (repV1 false [{ pickA with ready := true }]).picks.any (fun x => !x.ready) = false ∧
    (repV1 false [pickA]).picks.any (fun x => !x.ready) = true ∧ (repV1 false []).id ≠ 8 ∧
    (wRep fun q => { q with repS := [repS1] }).planeX.repS.find? (fun r => r.id == 9 && r.residue == 1 && r.band == 0) = some repS1 ∧
    (wRep id).planeX.repS.find? (fun r => r.id == 9 && r.residue == 1 && r.band == 0) = none := by decide +kernel

/-- The switch of a repair: the sender's, the victim's and the donor's part in it, due and not due; a donor line that stays lit and one that does not. -/
theorem witness_Repairs_switch :
    let s := wRep fun q => { q with repS := [repS1], repD := [{ repD1 with committed := true }], repV := some (repV1 true [pickA]), lines := [(16, { state := .lit })] }
    let t : State := { s with tick := 29 }
    t.planeX.repS.filter (fun r => r.id == 9 && decide (r.switch ≤ t.tick + 1) && r.commits != []) = [repS1] ∧
    (t.planeX.repV.toList.filter fun v => v.id == 9 && decide (v.switch ≤ t.tick + 1)) = [repV1 true [pickA]] ∧
    (s.planeX.repD.filter fun d => d.id == 9 && decide (d.switch ≤ s.tick + 1)) = [] ∧ (s.planeX.line 1 0).state ≠ .drifting ∧ (s.planeX.line 1 0).state ≠ .parked ∧
    s.planeX.modLanes 0 1 0 = [1] ∧ ({ state := .parked } : Line).state = .parked ∧
    ((s.patch .x 2 9 0 false 1 (BitVec.ofNat 16 ((fullTable.modCode 0 1).toNat % 2 ^ 15))).planeX).lightsLine 1 0 = false ∧
    (let two : SlotTable := { fullTable with codes := (1, 0x8001) :: (2, 0x8001) :: (129, 0x801F) :: (List.range' 130 126).map fun n => (n, 0x801F) }
     two.modCode 0 2 = 0x8001) := by decide +kernel

/-- Lantern lines lost and regained; a takeover that ends; residues with nothing to send; a device that has locked and one that has not. -/
theorem witness_PlaneLife_lanterns :
    (wPlane { lines := [(16, { state := .retuning, lantern := true }), (17, { state := .lit })] }).planeX.line 1 0 = { state := .retuning, lantern := true } ∧
    (tget {} (wPlane { lines := [(16, { state := .retuning, lantern := true }), (17, { state := .lit })] }).planeX.lines 17).state = .lit ∧
    (tget {} (wPlane { lines := [(16, { state := .retuning })] }).planeX.lines 16).lantern = false ∧ (wPlane { pol := { lantern := true }, onStandby := true }).planeX.onStandby = true ∧
    twf {} (wPlane { streams := [] }).planeX.streams = true ∧ ((wPlane {}).planeX.stream 1).retr = [] ∧ ((wPlane {}).planeX.stream 1).unacked = [] ∧
    (let s : State := { wPlane { links := [(1, .inService)] } with hub := { w0.hub with lock := true } }
     s.hub.lock = true ∧ ¬(s.planeX.links = [] ∧ s.planeY.links = []) ∧ (hopResidues.filter fun k => s.planeX.link (neighbour 0 .x k) == .dark).length = 30) ∧
    (let s := wPlane { links := [(1, .calibrating)], calib := [(1, some 0)] }
     tget none s.planeX.calib 1 = some 0 ∧ s.tick + 1 < 0 + 500000 ∧ s.measured .x 1 = false) := by decide +kernel

/-- PROBEs that are asked for and not; a line beyond the lantern's limit; lines a table lights, on a link that is up and one that is not. -/
theorem witness_PlaneLife_probes :
    (let w := (repMsg 6 1).bits.toNat
     w / 2 ^ 28 % 2 ^ 5 = 1 ∧ neighbour 0 .x 1 = 1 ∧ (wPlane { links := [(1, .calibrating)] }).planeX.link 1 = .calibrating ∧
      (wPlane { links := [(1, .trained)] }).planeX.link 1 ≠ .calibrating ∧ w / 2 ^ 33 % 2 ^ 4 = 0 ∧ (0 : Nat) ∈ [0, 1, 2, 3, 4, 5, 6, 7, 9]) ∧
    (let q (l : Line) (k : LinkState) := (wPlane { active := some (tableA [1]), lines := [(16, l)], links := [(1, k)] }).planeX
     (∀ b ∈ [true, false], (q { power := some 5, beyond := b } .inService).lightsLine 1 0 = true ∧ ((q { power := some 5, beyond := b } .inService).line 1 0).state = .dark ∧
       ((q { power := some 5, beyond := b } .inService).link (neighbour 0 .x 1)).up = true ∧ twf {} (q { power := some 5, beyond := b } .inService).lines = true) ∧
      (q {} .inService).lightsLine 2 0 = false ∧ ((q {} .dark).link (neighbour 0 .x 1)).up = false ∧ (0 < 1 ∧ 31 < 32 ∧ 9 < 10 ∧ 9 ≠ 8)) := by decide +kernel

/-- A table switch at the next tick, with a repair of a drifting line to end; what SLOTTAB meets on a page that is not there, in transit and poisoned. -/
theorem witness_PlaneLife_switches :
    (let s : State := wRep fun q => { q with standby := some (tableA [1]), switchAt := some 1, repS := [{ repS1 with switch := 1 }] }
     s.planeX.switchAt = some 1 ∧ 1 ≤ s.tick + 1 ∧ (s.planeX.line 1 0).state = .drifting ∧ s.planeX.repS.filter (fun r => decide (r.switch ≤ s.tick + 1)) ≠ []) ∧
    (let s (leaf : Byte) : State :=
      let t := wRec [6, 0x1000, 0, 0] fun q => { q with privq := true }
      { t with mem := tput 0 t.mem 0x4000 leaf, ctxs := [(0, { state := .active, ptroot := 1, priv := true })] }
     (match ((s 0x40).hubReach 3 0x1000 64 false).1 with
      | .error (.err 9 _) => true
      | _ => false) = true ∧
     (match ((s 0x45).hubReach 3 0x1000 64 false).1 with
      | .error (.wait _) => true
      | _ => false) = true ∧
     (let t : State := { s 0x42 with poison := [(0x11000 / 32 + 4, true)] }
      gotReach (t.hubReach 3 0x1000 64 false) = true ∧ gotReach ((t.hubReach 3 0x1000 64 false).2.hubReach 3 0x1000 576 false) = true ∧
       ((t.hubReach 3 0x1000 64 false).2.hubReach 3 0x1000 576 false).2.badSectors xl0 0x1000 576 ≠ [])) ∧
    (wSend (sendA false true false 0) 0x42).planeX.sends = [sendA false true false 0] ∧ (wSend (sendA false true false 0) 0x42).planeY.sends = [] ∧
    (fun c : Copy => c.plane == .x) { plane := .x, residue := 1, dest := 1, left := 2, notice := false, queued := false } = true := by decide +kernel

/-- A device that has locked, with a table, control lanes and lit lines; a TICKSYNC due and a queue of control messages. -/
theorem witness_PegsAndTicks_locked :
    let s : State := { wPlane { active := some (tableA [1]), ctlLit := true, links := [(1, .inService)], lines := [(16, { state := .lit })], syncDue := [1], ctl := [(1, [5])] } with
                       hub := { w0.hub with lock := true } }
    s.hub.lock = true ∧ (s.plane .x).ctlLit = true ∧ (s.plane .x).takeover = none ∧ (s.plane .x).lanternLost = false ∧ (s.plane .y).ctlLit = false ∧
    (wPlane { takeover := some 4 }).planeX.takeover ≠ none ∧ (wPlane { lanternLost := true }).planeX.lanternLost = true ∧ twf {} s.planeX.streams = true ∧
    ((tableA [1]).stripe (s.tick % (tableA [1]).period) 1).filter (fun b => ((s.plane .x).line 1 b).state == .lit) ≠ [] ∧
    ((s.plane .x).link (neighbour 0 .x 1)).up = true ∧ 1 ∈ (s.plane .x).syncDue ∧ (tget [] (s.plane .x).ctl 1).length < 288 - 1 ∧ s.hub.even = false ∧
    (({ retr := [(unA.items.map fun i => i.2).headD { flit := flitA 0, send := none, pitch := none }] } : Stream).retr ≠ []) := by decide +kernel

/-- LOGPOOL.LOW and PANTRY.LOW raised over what is free, and set below it. -/
theorem witness_HostAndTemperature_lows :
    (let s : State := { w0 with hub := { w0.hub with logFree := 4, logLow := 4 } }
     s.hub.logFree < (0x500000000#64).toNat / 2 ^ 32 % 2 ^ 24 ∧ s.hub.logLow ≤ s.hub.logFree ∧ ¬s.hub.logFree < (0x400000000#64).toNat / 2 ^ 32 % 2 ^ 24) ∧
    (let s : State := { w0 with pantries := [(7, { frames := [65536], low := 1 })] }
     (s.pantry 7).frames.length < (0x20000#64).toNat / 2 ^ 16 % 2 ^ 13 ∧ (s.pantry 7).low ≤ (s.pantry 7).frames.length ∧
      ¬(s.pantry 7).frames.length < (0x10000#64).toNat / 2 ^ 16 % 2 ^ 13 ∧ (7 : Nat) < 8 ∧ 0x80010 + 8 * 7 = 0x80048) ∧
    (0 : Nat) < 64 ∧ 0x40000 + 16 * 4095 = 0x4FFF0 ∧ 0x20008 + 32 * 1023 = 0x27FE8 ∧ (0#64).getLsbD 62 = false := by decide +kernel

end Sys2Proof.Tests
end

section
/-!
Every step keeps the canonical form of memory (O60). A function that writes no memory has a lemma `f_mem` that it leaves it as it is,
one that writes has `f_memWf` that it keeps the form; they stand in the order of the model's files, each citing those it calls.
-/
namespace Sys2Proof.Machine

theorem foldl_mem {α : Type} (f : State → α → State) (hf : ∀ s x, (f s x).mem = s.mem) (l : List α) (s : State) :
    (l.foldl f s).mem = s.mem := by
  induction l generalizing s with
  | nil => rfl
  | cons x l ih => rw [List.foldl_cons, ih, hf]
theorem foldl_memWf {α : Type} (f : State → α → State) (hf : ∀ s x, s.mem.wf = true → (f s x).mem.wf = true)
    (l : List α) (s : State) (h : s.mem.wf = true) : (l.foldl f s).mem.wf = true := by
  induction l generalizing s with
  | nil => exact h
  | cons x l ih => exact ih _ (hf _ _ h)

/-- The next state of an outcome, if it has one, holds its memory in canonical form. -/
def NextMemWf (r : Res) : Prop := ∀ t, r = .next t → t.mem.wf = true
@[simp] theorem nextMemWf_next {t : State} : NextMemWf (.next t) ↔ t.mem.wf = true :=
  ⟨fun h => h t rfl, fun h u e => by cases e; exact h⟩

/-- As `foldl_mem`, with the step's state named by an equation: the kernel then does not unfold a large step function to compare
two copies of it. -/
theorem foldl_mem_of_step {α : Type} {f : State → α → State} (hf : ∀ s x, ∃ t, f s x = t ∧ t.mem = s.mem) (l : List α) (s : State) :
    (l.foldl f s).mem = s.mem := by
  refine foldl_mem f (fun s x => ?_) l s
  obtain ⟨t, e, ht⟩ := hf s x
  rw [e, ht]
theorem foldl_memWf_of_step {α : Type} {f : State → α → State} (hf : ∀ s x, s.mem.wf = true → ∃ t, f s x = t ∧ t.mem.wf = true)
    (l : List α) (s : State) (hm : s.mem.wf = true) : (l.foldl f s).mem.wf = true := by
  refine foldl_memWf f (fun s x hs => ?_) l s hm
  obtain ⟨t, e, ht⟩ := hf s x hs
  rw [e]; exact ht
theorem snd_memWf {α : Type} {x : α × State} {a : α} {t : State} (e : x = (a, t)) (h : x.2.mem.wf = true) : t.mem.wf = true := by
  rw [e] at h; exact h

/-! ### Machine/Ops.lean -/

@[simp] theorem draw_mem (s : State) (n : Nat) : (s.draw n).2.mem = s.mem := rfl
@[simp] theorem nextSeq_mem (s : State) : (s.nextSeq).2.mem = s.mem := rfl
@[simp] theorem rank_mem (s : State) (kind id rank : Nat) : (s.rank kind id rank).mem = s.mem := rfl
@[simp] theorem signal_mem (s : State) : (s.signal).mem = s.mem := by
  unfold State.signal
  split <;> simp
theorem event_memWf (s : State) (code : Nat) (ctx : Option Nat) (a0 a1 : Nat) (hm : s.mem.wf = true) :
    (s.event code ctx a0 a1).mem.wf = true := by
  grind [State.event, emit_mem, signal_mem, write_wf]
theorem verify_memWf (s : State) (secs : List Nat) (point : Nat) (ctx : Option Nat) (hm : s.mem.wf = true) :
    (s.verify secs point ctx).mem.wf = true := by
  grind [State.verify, event_memWf, poisonSectors_mem, foldl_memWf]
@[simp] theorem freeTask_mem (s : State) (i : Nat) : (s.freeTask i).mem = s.mem := rfl
@[simp] theorem reserve_mem (s : State) (key : Nat) : (s.reserve key).mem = s.mem := by
  grind [State.reserve, modSet_mem, wakeAll_mem, wake_mem]
@[simp] theorem releaseSet_mem (s : State) (key : Nat) : (s.releaseSet key).mem = s.mem := by
  grind [State.releaseSet, wakeAll_mem, modCore_mem, modSet_mem, reserve_mem, foldl_mem]
@[simp] theorem clearNext_mem (s : State) (i : Nat) : (s.clearNext i).mem = s.mem := by
  simp [State.clearNext, foldl_mem]
@[simp] theorem releaseAll_mem (s : State) (i : Nat) : (s.releaseAll i).mem = s.mem := by
  grind [State.releaseAll, releaseSet_mem, modCore_mem, modTask_mem, wakeAll_mem, foldl_mem]
@[simp] theorem requestWhere_mem (s : State) (p : Nat → Bool) : (s.requestWhere p).mem = s.mem := by
  grind [State.requestWhere, modCore_mem, foldl_mem]
@[simp] theorem abortSweep_mem (s : State) (slot : Nat) : (s.abortSweep slot).mem = s.mem := by
  grind [State.abortSweep, freeTask_mem, clearNext_mem, modGroup_mem, foldl_mem]
@[simp] theorem abortLaunch_mem (s : State) (slot : Nat) : (s.abortLaunch slot).mem = s.mem := by
  grind [State.abortLaunch, modLaunch_mem, requestWhere_mem, abortSweep_mem]
@[simp] theorem faultPolicy_mem (s : State) (i : Nat) (committed : Bool) : (s.faultPolicy i committed).mem = s.mem := by
  grind [State.faultPolicy, modLaunch_mem, abortLaunch_mem]
theorem setPte_memWf (s : State) (a e : Nat) (hm : s.mem.wf = true) : (s.setPte a e).mem.wf = true := by
  simp [State.setPte, hm, write_wf]
theorem setRes_memWf (s : State) (a res : Nat) (hm : s.mem.wf = true) : (s.setRes a res).mem.wf = true := by
  simp [State.setRes, hm, setPte_memWf]
@[simp] theorem lapse_mem (s : State) (key : Nat) (keep : List Nat) : (s.lapse key keep).mem = s.mem := by
  grind [State.lapse, modCore_mem, foldl_mem]
@[simp] theorem coreFreed_mem (s : State) (lin : Nat) : (s.coreFreed lin).mem = s.mem := by
  grind [State.coreFreed, lapse_mem, modGroup_mem, foldl_mem]
@[simp] theorem groupSettle_mem (s : State) (key : Nat) : (s.groupSettle key).mem = s.mem := by
  grind [State.groupSettle, modTask_mem, modGroup_mem, foldl_mem]
@[simp] theorem groupPreempt_mem (s : State) (key : Nat) : (s.groupPreempt key).mem = s.mem := by
  unfold State.groupPreempt
  split <;> simp
@[simp] theorem groupFault_mem (s : State) (key i : Nat) : (s.groupFault key i).mem = s.mem := by
  unfold State.groupFault
  split <;> simp
@[simp] theorem finishLeave_mem (s : State) (lin : Nat) : (s.finishLeave lin).mem = s.mem := by
  grind [State.finishLeave, modTask_mem, coreFreed_mem, setCore_mem, wake_mem, reserve_mem, groupFault_mem, faultPolicy_mem,
    groupSettle_mem, abortSweep_mem]
@[simp] theorem tryLeave_mem (s : State) (lin : Nat) : (s.tryLeave lin).mem = s.mem := by
  grind [State.tryLeave, finishLeave_mem]
@[simp] theorem dropScore_mem (s : State) (op : Nat) : (s.dropScore op).mem = s.mem := by
  grind [State.dropScore, modPair_mem, foldl_mem]
@[simp] theorem dropEntries_mem (s : State) (es : List MqEntry) : (s.dropEntries es).mem = s.mem := by
  grind [State.dropEntries, modPage_mem, dropScore_mem, foldl_mem]
@[simp] theorem startLeave_mem (s : State) (lin : Nat) (dest : Dest) (mask epc from_ : Nat) :
    (s.startLeave lin dest mask epc from_).mem = s.mem := by
  grind [State.startLeave, setCore_mem, dropEntries_mem, tryLeave_mem, clearNext_mem, releaseAll_mem]
@[simp] theorem woundAbort_mem (s : State) (lin id w epc bseq : Nat) :
    (s.woundAbort lin id w epc bseq).mem = s.mem := by simp [State.woundAbort]
@[simp] theorem fatal_mem (s : State) (lin bseq epc mask code : Nat) (a0 a1 a2 : Word) :
    (s.fatal lin bseq epc mask code a0 a1 a2).mem = s.mem := by
  unfold State.fatal
  split <;> simp
@[simp] theorem restart_mem (s : State) (lin bseq epc mask code : Nat) (a0 a1 : Word) (kind obj addr : Nat) :
    (s.restart lin bseq epc mask code a0 a1 kind obj addr).mem = s.mem := by simp [State.restart]
@[simp] theorem trapTaken_mem (s : State) (lin epc mask code : Nat) (a0 a1 a2 : Word) :
    (s.trapTaken lin epc mask code a0 a1 a2).mem = s.mem := by simp [State.trapTaken]

/-! ### Machine/Operands.lean -/

@[simp] theorem occupy_mem (s : State) (i : Instr) (slot : Nat) : (s.occupy i slot).mem = s.mem := by
  unfold State.occupy
  split <;> simp
@[simp] theorem flightOf_mem (s : State) (slot : Nat) (cl : Cluster) (lat : Nat × Nat) (chain : Bool) (dests : List Opnd)
    (ws : List RegWrite) (lw : LatchWrite) (fl : FpFlags) (cnt : FpCounts) :
    (s.flightOf slot cl lat chain dests ws lw fl cnt).mem = s.mem := rfl
@[simp] theorem result_mem (s : State) (i : Instr) (cl : Cluster) (dests : List Opnd) (ws : List RegWrite) (lw : LatchWrite) (fl : FpFlags)
    (cnt : FpCounts) : (s.result i cl dests ws lw fl cnt).mem = s.mem := by simp [State.result]
@[simp] theorem scalarResult_mem (s : State) (i : Instr) (cl : Cluster) (d : Opnd) (v : Word) (fl : FpFlags) (cnt : FpCounts) :
    (s.scalarResult i cl d v fl cnt).mem = s.mem := by simp [State.scalarResult]
@[simp] theorem vectorResult_mem (s : State) (i : Instr) (cl : Cluster) (d : Opnd) (r : VecResult) :
    (s.vectorResult i cl d r).mem = s.mem := by simp [State.vectorResult]
@[simp] theorem awaitResult_mem (s : State) (slot : Nat) (cl : Cluster) (dests : List Opnd) (seq : Nat) :
    (s.awaitResult slot cl dests seq).mem = s.mem := rfl

/-! ### Machine/Check.lean -/

theorem slotRunWith_memWf {s : State} {i : Instr} {fl : FpFlags} {act : State → State} (hm : s.mem.wf = true)
    (ha : (act s).mem.wf = true) : NextMemWf (s.slotRunWith i fl act) := by
  unfold State.slotRunWith
  grind [nextMemWf_next, fatal_mem]
theorem slotRun_memWf {s : State} {i : Instr} {act : State → State} (hm : s.mem.wf = true) (ha : (act s).mem.wf = true) :
    NextMemWf (s.slotRun i act) := slotRunWith_memWf hm ha

/-! ### Machine/LocalStore.lean -/

@[simp] theorem lsPut_mem (s : State) (w : LsWrite) : (s.lsPut w).mem = s.mem := rfl
theorem execLsstv_memWf (x : OpL) (s : State) (hm : s.mem.wf = true) : NextMemWf (execLsstv x s) := by
  unfold execLsstv
  refine slotRunWith_memWf hm ?_
  dsimp only
  grind [foldl_mem, lsPut_mem, occupy_mem, flightOf_mem]

/-! ### Machine/HubOps.lean -/

@[simp] theorem wakeFut_mem (s : State) (i c : Nat) : (s.wakeFut i c).mem = s.mem := by simp [State.wakeFut]
@[simp] theorem endFuture_mem (s : State) (i : Nat) (r : Fate) (rscope : Nat) :
    (s.endFuture i r rscope).mem = s.mem := by simp [State.endFuture]
@[simp] theorem freeFuture_mem (s : State) (i : Nat) : (s.freeFuture i).mem = s.mem := by simp [State.freeFuture]
@[simp] theorem allocFuture_mem (s : State) (c : Nat) : (s.allocFuture c).2.mem = s.mem := by
  unfold State.allocFuture
  split <;> simp
theorem resolve_memWf (s : State) (h c rscope src : Nat) (r : Fate) (hm : s.mem.wf = true) :
    (s.resolve h c rscope src r).mem.wf = true := by
  grind [State.resolve, event_memWf, endFuture_mem]
@[simp] theorem quiesceTasks_mem (s : State) (c : Nat) : (s.quiesceTasks c).mem = s.mem := by
  simp [State.quiesceTasks, foldl_mem]
@[simp] theorem ctxFault_mem (s : State) (c cause : Nat) : (s.ctxFault c cause).mem = s.mem := by
  unfold State.ctxFault
  split <;> simp

/-! ### Machine/PageOps.lean -/

@[simp] theorem modPageOf_mem (s : State) (a c va : Nat) (f : PageX → PageX) : (s.modPageOf a c va f).mem = s.mem := rfl
@[simp] theorem pin_mem (s : State) (a c va : Nat) : (s.pin a c va).mem = s.mem := rfl
@[simp] theorem unpin_mem (s : State) (a : Nat) : (s.unpin a).mem = s.mem := rfl
@[simp] theorem pageArrived_mem (s : State) (a c va size : Nat) : (s.pageArrived a c va size).mem = s.mem := by
  simp [State.pageArrived, foldl_mem]
theorem applyRec_memWf (s : State) (frame : Nat) (r : LogRec) (hm : s.mem.wf = true) : (s.applyRec frame r).mem.wf = true := by
  simp [State.applyRec, hm, write_wf]
theorem setLogFree_memWf (s : State) (n : Nat) (hm : s.mem.wf = true) : (s.setLogFree n).mem.wf = true := by
  grind [State.setLogFree, modHub_mem, event_memWf]
@[simp] theorem takeChunk_mem (s : State) : (s.takeChunk).2.mem = s.mem := rfl
theorem appendLog_memWf (s : State) (a c va op : Nat) (w64 : Bool) (operand : Word) (hm : s.mem.wf = true) :
    (s.appendLog a c va op w64 operand).2.mem.wf = true := by
  grind [State.appendLog, setRes_memWf, modPageOf_mem, setLogFree_memWf, takeChunk_mem, modPage_mem, event_memWf]
theorem startApply_memWf (s : State) (a : Nat) (attic : Bool) (hm : s.mem.wf = true) : (s.startApply a attic).mem.wf = true := by
  simp [State.startApply, hm, setRes_memWf]
theorem resolveAll_memWf (s : State) (c : Nat) (hs : List Nat) (r : Fate) (hm : s.mem.wf = true) : (s.resolveAll c hs r).mem.wf = true := by
  grind [State.resolveAll, resolve_memWf, foldl_memWf]
theorem failMig_memWf (s : State) (a : Nat) (m : Migration) (status : Nat) (hm : s.mem.wf = true) :
    (s.failMig a m status).mem.wf = true := by
  grind [State.failMig, event_memWf, resolveAll_memWf, foldl_memWf]
theorem endMig_memWf (s : State) (a : Nat) (m : Migration) (hm : s.mem.wf = true) : (s.endMig a m).mem.wf = true := by
  grind [State.endMig, failMig_memWf, modCtx_mem, resolveAll_memWf]
theorem requestMig_memWf (s : State) (a c va target deadline fut sched : Nat) (hm : s.mem.wf = true) :
    (s.requestMig a c va target deadline fut sched).mem.wf = true := by
  grind [State.requestMig, modPageOf_mem, resolve_memWf, modPage_mem]
theorem startMig_memWf (s : State) (a : Nat) (hm : s.mem.wf = true) : (s.startMig a).mem.wf = true := by
  grind [State.startMig, modPage_mem, failMig_memWf, resolveAll_memWf, setRes_memWf]
theorem settleMig_memWf (s : State) (a : Nat) (hm : s.mem.wf = true) : (s.settleMig a).mem.wf = true := by
  grind [State.settleMig, endMig_memWf, modPage_mem, pageArrived_mem]
theorem copyDone_memWf (s : State) (a : Nat) (hm : s.mem.wf = true) : (s.copyDone a).mem.wf = true := by
  grind [State.copyDone, modPage_mem, resolveAll_memWf, settleMig_memWf, setRes_memWf, startApply_memWf, pageArrived_mem]
theorem applyDone_memWf (s : State) (a : Nat) (hm : s.mem.wf = true) : (s.applyDone a).mem.wf = true := by
  grind [State.applyDone, applyRec_memWf, modPage_mem, setLogFree_memWf, setRes_memWf, resolveAll_memWf, settleMig_memWf, pageArrived_mem, foldl_memWf]
theorem countPage_memWf (s : State) (a c va n t : Nat) (hm : s.mem.wf = true) : (s.countPage a c va n t).mem.wf = true := by
  grind [State.countPage, modPageOf_mem, requestMig_memWf]
theorem poisonPage_memWf (s : State) (a c va : Nat) (hm : s.mem.wf = true) : (s.poisonPage a c va).mem.wf = true := by
  grind [State.poisonPage, modCore_mem, rank_mem, setRes_memWf, failMig_memWf, unpin_mem, resolveAll_memWf, modPageOf_mem, setLogFree_memWf, event_memWf, foldl_memWf]
theorem firstTouch_memWf {s u : State} {a c va t : Nat} (hm : s.mem.wf = true) (e : s.firstTouch a c va t = some u) : u.mem.wf = true := by
  grind [State.firstTouch, draw_mem, setPte_memWf, event_memWf, modPageOf_mem]
theorem translate_memWf (s : State) (c va n : Nat) (wr : Bool) (t agent : Nat) (hm : s.mem.wf = true) :
    (s.translate c va n wr t agent).2.mem.wf = true := by
  grind [State.translate, event_memWf, ctxFault_mem, firstTouch_memWf]
theorem translateAll_memWf (s : State) (c : Nat) (wr : Bool) (t agent : Nat) (l : List (Nat × Nat)) (hm : s.mem.wf = true) :
    (s.translateAll c wr t agent l).2.mem.wf = true := by
  induction l generalizing s with
  | nil => exact hm
  | cons p l ih => grind [State.translateAll, translate_memWf]

/-! ### Machine/MemOps.lean -/

@[simp] theorem enqueue_mem (s : State) (i : Instr) (inLoad inStore : Bool) (ea : Nat) (vals : List Word) (vec : VecReg) (desc : BitVec 32)
    (st : MqState) (awaits : Bool) (dests : List Opnd) : (s.enqueue i inLoad inStore ea vals vec desc st awaits dests).mem = s.mem := by
  grind [State.enqueue, nextSeq_mem, onCore_mem, awaitResult_mem]
@[simp] theorem setEntry_mem (s : State) (lin seq : Nat) (f : MqEntry → MqEntry) :
    (s.setEntry lin seq f).mem = s.mem := by simp [State.setEntry]
@[simp] theorem dequeue_mem (s : State) (lin seq : Nat) : (s.dequeue lin seq).mem = s.mem := by simp [State.dequeue]
@[simp] theorem entryFatal_mem (s : State) (lin : Nat) (e : MqEntry) (code : Nat) (a0 a1 : Word) :
    (s.entryFatal lin e code a0 a1).mem = s.mem := by simp [State.entryFatal]
theorem flushSector_memWf (s : State) (lin k : Nat) (hm : s.mem.wf = true) : (s.flushSector lin k).mem.wf = true := by
  grind [State.flushSector, write_wf, setCore_mem, foldl_memWf]
theorem flushLine_memWf (s : State) (lin n : Nat) (hm : s.mem.wf = true) : (s.flushLine lin n).mem.wf = true := by
  grind [State.flushLine, modCore_mem, flushSector_memWf, foldl_memWf]
theorem force_memWf (s : State) (a : Nat) (hm : s.mem.wf = true) : (s.force a).mem.wf = true := by
  unfold State.force
  split <;> simp [hm, startApply_memWf]
theorem maybeCount_memWf (s : State) (leaf c va t : Nat) (hm : s.mem.wf = true) : (s.maybeCount leaf c va t).mem.wf = true := by
  grind [State.maybeCount, draw_mem, countPage_memWf]
theorem evictLine_memWf (s : State) (lin n : Nat) (hm : s.mem.wf = true) : (s.evictLine lin n).mem.wf = true := by
  simp [State.evictLine, hm, flushLine_memWf]
theorem evictSome_memWf (s : State) (lin : Nat) (hm : s.mem.wf = true) : (s.evictSome lin).mem.wf = true := by
  grind [State.evictSome, draw_mem, evictLine_memWf]
theorem makeRoom_memWf (s : State) (lin n : Nat) (hm : s.mem.wf = true) : (s.makeRoom lin n).mem.wf = true := by
  grind [State.makeRoom, draw_mem, evictLine_memWf]
theorem loadParts_memWf (s : State) (lin : Nat) (e : MqEntry) (slice : Bool) (l : List (Nat × Nat)) (hm : s.mem.wf = true) :
    (s.loadParts lin e slice l).2.mem.wf = true := by
  induction l generalizing s with
  | nil => exact hm
  | cons p l ih =>
    grind [State.loadParts, flushSector_memWf, modCore_mem, maybeCount_memWf, verify_memWf, evictSome_memWf, makeRoom_memWf, setCore_mem]
theorem storeSet_mem {s t : State} {lin va : Nat} {bs : List Byte} (e : s.storeSet lin va bs = .ok t) : t.mem = s.mem := by
  grind [State.storeSet, setCore_mem]
@[simp] theorem startEngines_mem (s : State) (lin : Nat) : (s.startEngines lin).mem = s.mem := by
  simp [State.startEngines]
theorem writeBackOldest_memWf (s : State) (lin : Nat) (hm : s.mem.wf = true) : (s.writeBackOldest lin).mem.wf = true := by
  grind [State.writeBackOldest, tryLeave_mem, startEngines_mem, force_memWf, flushLine_memWf]
theorem ntArrive_memWf (s : State) (lin k : Nat) (hm : s.mem.wf = true) : (s.ntArrive lin k).mem.wf = true := by
  grind [State.ntArrive, force_memWf, setCore_mem, write_wf, tryLeave_mem, foldl_memWf]

/-! ### Machine/AtomicSet.lean -/

@[simp] theorem deliver_mem (s : State) (lin : Nat) (e : MqEntry) (ws : List RegWrite) (lw : LatchWrite) (fl : FpFlags) (cnt : FpCounts) :
    (s.deliver lin e ws lw fl cnt).mem = s.mem := by simp [State.deliver]
@[simp] theorem deliverWord_mem (s : State) (lin : Nat) (e : MqEntry) (d : Opnd) (v : Word) :
    (s.deliverWord lin e d v).mem = s.mem := by simp [State.deliverWord]
@[simp] theorem declare_mem (s : State) (c base lines : Nat) : (s.declare c base lines).2.mem = s.mem := by
  grind [State.declare, modSet_mem]
@[simp] theorem dropSet_mem (s : State) (c id : Nat) : (s.dropSet c id).2.mem = s.mem := by
  grind [State.dropSet, modSet_mem]
@[simp] theorem performSetOp_mem (s : State) (lin : Nat) (e : MqEntry) : (s.performSetOp lin e).mem = s.mem := by
  unfold State.performSetOp
  split <;> simp
@[simp] theorem waitSet_mem (s : State) (lin : Nat) (e : MqEntry) (key : Nat) : (s.waitSet lin e key).mem = s.mem := by simp [State.waitSet]
@[simp] theorem judge_mem (s : State) (lin : Nat) (e : MqEntry) (i c x : Nat) : (s.judge lin e i c x).mem = s.mem := by
  grind [State.judge, setEntry_mem, modSet_mem, entryFatal_mem, modCore_mem, waitSet_mem]
theorem execSetRequest_memWf (lin seq : Nat) (s : State) (hm : s.mem.wf = true) : NextMemWf (execSetRequest lin seq s) := by
  grind [nextMemWf_next, execSetRequest, setEntry_mem, judge_mem]
@[simp] theorem takeWound_mem (s : State) (lin : Nat) : (s.takeWound lin).mem = s.mem := by
  grind [State.takeWound, woundAbort_mem]
theorem execWoundArrival_memWf (lin : Nat) (s : State) (hm : s.mem.wf = true) : NextMemWf (execWoundArrival lin s) := by
  grind [nextMemWf_next, execWoundArrival, setCore_mem, takeWound_mem, modCore_mem]

/-! ### Machine/FabOps.lean -/

@[simp] theorem queueCtl_mem (s : State) (m : BitVec 128) : (s.queueCtl m).mem = s.mem := by
  unfold State.queueCtl
  split <;> simp
@[simp] theorem sendCtl_mem (s : State) (type dest : Nat) (plane : Plane) (fields w1 : Nat) :
    (s.sendCtl type dest plane fields w1).mem = s.mem := by simp [State.sendCtl]
@[simp] theorem closeWindow_mem (s : State) (e : Nat) : (s.closeWindow e).mem = s.mem := by
  grind [State.closeWindow, modWindow_mem, endFuture_mem]

/-! ### Machine/AgentOps.lean -/

theorem agentXlat_memWf (s : State) (c : Nat) (wr : Bool) (t agent va n : Nat) (hm : s.mem.wf = true) :
    (s.agentXlat c wr t agent va n).2.mem.wf = true := by
  grind [State.agentXlat, translateAll_memWf, force_memWf, foldl_memWf]
theorem writeVia_memWf (s : State) (xl : List Xlat) (va : Nat) (bs : List Byte) (hm : s.mem.wf = true) :
    (s.writeVia xl va bs).mem.wf = true := by
  grind [State.writeVia, write_wf, foldl_memWf]
theorem countVia_memWf (s : State) (xl : List Xlat) (c va n t : Nat) (hm : s.mem.wf = true) : (s.countVia xl c va n t).mem.wf = true := by
  grind [State.countVia, countPage_memWf, foldl_memWf]
@[simp] theorem putLsWord_mem (s : State) (a : LsAddr) (p i : Nat) (v : BitVec 384) : (s.putLsWord a p i v).mem = s.mem := rfl
@[simp] theorem putLsScale_mem (s : State) (a : LsAddr) (p i : Nat) (v : BitVec 8) : (s.putLsScale a p i v).mem = s.mem := rfl
@[simp] theorem putLsBytes_mem (s : State) (a : LsAddr) (p : Nat) (bs : List Byte) : (s.putLsBytes a p bs).mem = s.mem :=
  foldl_mem _ (fun _ _ => putLsWord_mem ..) _ _

/-! ### Machine/Engine.lean -/

@[simp] theorem addScore_mem (s : State) (op : Nat) (rs : List (LsAddr × Nat × Nat × Bool)) : (s.addScore op rs).mem = s.mem := by
  grind [State.addScore, modPair_mem, foldl_mem]
@[simp] theorem issueEngine_mem (s : State) (i : Instr) (vals : List Word) (desc : BitVec 32) :
    (s.issueEngine i vals desc).mem = s.mem := by simp [State.issueEngine]
@[simp] theorem launchEngine_mem (s : State) (lin : Nat) (e : MqEntry) : (s.launchEngine lin e).mem = s.mem := by
  unfold State.launchEngine
  dsimp only
  rw [dequeue_mem, startEngines_mem, modCore_mem, modPair_mem]
  exact foldl_mem _ (fun _ _ => pin_mem ..) _ _
theorem endEngine_memWf (s : State) (p : Nat) (o : EngOp) (rscope fut : Nat) (r : Fate) (hm : s.mem.wf = true) :
    (s.endEngine p o rscope fut r).mem.wf = true := by
  refine resolve_memWf _ _ _ _ _ _ ?_
  rw [modPair_mem, dropScore_mem, foldl_mem _ unpin_mem]
  exact hm
@[simp] theorem engWait_mem (s : State) (p : Nat) (o : EngOp) (t : Option Nat) : (s.engWait p o t).mem = s.mem := rfl
theorem engStop_memWf (s : State) (p : Nat) (o : EngOp) (rscope fut : Nat) (st : Stop) (hm : s.mem.wf = true) :
    (s.engStop p o rscope fut st).mem.wf = true := by
  unfold State.engStop
  split <;> simp [hm, endEngine_memWf]
theorem side_memWf (s : State) (o : EngOp) (isLs wr : Bool) (w : Word) (n : Nat) (hm : s.mem.wf = true) :
    (s.side o isLs wr w n).2.mem.wf = true := by
  grind [State.side, agentXlat_memWf]
theorem putSide_memWf (s : State) (d : Side) (bs : List Byte) (hm : s.mem.wf = true) : (s.putSide d bs).mem.wf = true := by
  unfold State.putSide
  split <;> simp [hm, writeVia_memWf]
@[simp] theorem poisonSide_mem (s : State) (d : Side) (offs : List Nat) : (s.poisonSide d offs).mem = s.mem := by
  unfold State.poisonSide
  split <;> simp
theorem verifyFill_memWf (s : State) (src dst : Side) (n c : Nat) (hm : s.mem.wf = true) : (s.verifyFill src dst n c).mem.wf = true := by
  unfold State.verifyFill
  split <;> simp [hm, verify_memWf]
theorem countSide_memWf (s : State) (d : Side) (o : EngOp) (n : Nat) (hm : s.mem.wf = true) : (s.countSide d o n).mem.wf = true := by
  unfold State.countSide
  split <;> simp [hm, countVia_memWf]
theorem cvtCopy_memWf (s : State) (o : EngOp) (x : OpCpy) (src dst : Side) (n : Nat) (hm : s.mem.wf = true) :
    (s.cvtCopy o x src dst n).2.mem.wf = true := by
  unfold State.cvtCopy
  grind [putLsWord_mem, writeVia_memWf, foldl_memWf]
theorem execCpyComplete_memWf (id : Nat) (s : State) (hm : s.mem.wf = true) : NextMemWf (execCpyComplete id s) := by
  unfold execCpyComplete
  split
  · exact nextMemWf_next.2 hm
  split
  · split
    · exact nextMemWf_next.2 hm
    extract_lets v n rs fut m bytesOf out
    split
    · exact nextMemWf_next.2 (endEngine_memWf _ _ _ _ _ _ hm)
    split <;> rename_i src u hu <;> replace hu := snd_memWf hu (side_memWf _ _ _ _ _ _ hm)
    · exact nextMemWf_next.2 (engStop_memWf _ _ _ _ _ _ hu)
    split <;> rename_i dst w hw <;> replace hw := snd_memWf hw (side_memWf _ _ _ _ _ _ hu)
    · exact nextMemWf_next.2 (engStop_memWf _ _ _ _ _ _ hw)
    split
    · exact nextMemWf_next.2 hw
    extract_lets x bad scales z r y
    have hx : x.mem.wf = true := countSide_memWf _ _ _ _ (verifyFill_memWf _ _ _ _ _ hw)
    refine nextMemWf_next.2 (endEngine_memWf _ _ _ _ _ _ ?_)
    have hr : r.2.mem.wf = true := by
      unfold r
      split
      · exact cvtCopy_memWf _ _ _ _ _ _ hx
      · have hz : z.mem.wf = true := putSide_memWf _ _ _ hx
        split
        · exact foldl_memWf _ (fun u w hu => by simpa using hu) _ _ hz
        · exact hz
    exact (congrArg Memory.wf (poisonSide_mem r.2 _ _)).trans hr
  · exact nextMemWf_next.2 hm
theorem chaseLoop_memWf (s : State) (o : EngOp) (nextoff psec cap stop : Nat) (lastOnly fill : Bool) (n : Nat) (c : Chase) (hm : s.mem.wf = true) :
    (s.chaseLoop o nextoff psec cap stop lastOnly fill n c).2.mem.wf = true := by
  induction n generalizing s c with
  | zero => unfold State.chaseLoop; split <;> exact hm
  | succ n ih =>
    unfold State.chaseLoop
    split
    · exact hm
    dsimp only
    split
    · exact hm
    split <;> rename_i e <;> replace e := snd_memWf e (agentXlat_memWf _ _ _ _ _ _ _ hm)
    · exact e
    split <;> rename_i e' <;> replace e' := snd_memWf e' (agentXlat_memWf _ _ _ _ _ _ _ e)
    · exact e'
    grind [verify_memWf, countVia_memWf]
theorem deliverSide_memWf (s : State) (o : EngOp) (isLs : Bool) (w : Word) (bs : List Byte) (bad : Option Nat) (hm : s.mem.wf = true) :
    (s.deliverSide o isLs w bs bad).2.mem.wf = true := by
  grind [State.deliverSide, side_memWf, poisonSide_mem, putSide_memWf]
theorem execChaseComplete_memWf (id : Nat) (s : State) (hm : s.mem.wf = true) : NextMemWf (execChaseComplete id s) := by
  unfold execChaseComplete
  split
  · exact nextMemWf_next.2 hm
  split
  · split
    · exact nextMemWf_next.2 hm
    extract_lets v rs fut d cap
    split <;> rename_i xd u hu <;> replace hu := snd_memWf hu (agentXlat_memWf _ _ _ _ _ _ _ hm)
    · exact nextMemWf_next.2 (engStop_memWf _ _ _ _ _ _ hu)
    split
    · exact nextMemWf_next.2 (endEngine_memWf _ _ _ _ _ _ hu)
    extract_lets x w start nextoff rsec psec lastOnly hops fin
    have hx : x.mem.wf = true := countVia_memWf _ _ _ _ _ _ hu
    have hfin : ∀ s bs bad p r, s.mem.wf = true → NextMemWf (.next (fin s bs bad p r)) := by
      intro s bs bad p r hs
      rw [nextMemWf_next]
      unfold fin
      split <;> rename_i e <;> replace e := snd_memWf e (deliverSide_memWf _ _ _ _ _ _ hs)
      · exact endEngine_memWf _ _ _ _ _ _ (writeVia_memWf _ _ _ _ e)
      · exact endEngine_memWf _ _ _ _ _ _ (writeVia_memWf _ _ _ _ e)
      · exact engStop_memWf _ _ _ _ _ _ e
    split
    · exact hfin x [] none start (.failed stNOTPRESENT) hx
    split <;> rename_i e <;> replace e := snd_memWf e (chaseLoop_memWf _ _ _ _ _ _ _ _ _ _ hx)
    · exact hfin _ _ _ _ _ e
    · exact nextMemWf_next.2 (engStop_memWf _ _ _ _ _ _ e)
    · exact hfin _ _ _ _ _ e
    · exact hfin _ _ _ _ _ e
  · exact nextMemWf_next.2 hm
theorem gathSector_memWf (s : State) (o : EngOp) (fill : Bool) (va : Nat) (hm : s.mem.wf = true) :
    (s.gathSector o fill va).2.mem.wf = true := by
  grind [State.gathSector, agentXlat_memWf, verify_memWf, countVia_memWf]
theorem gathAll_memWf (s : State) (o : EngOp) (fill : Bool) (l : List Nat) (hm : s.mem.wf = true) : (s.gathAll o fill l).2.mem.wf = true := by
  induction l generalizing s with
  | nil => exact hm
  | cons n l ih => grind [State.gathAll, gathSector_memWf]
theorem execGathComplete_memWf (id : Nat) (s : State) (hm : s.mem.wf = true) : NextMemWf (execGathComplete id s) := by
  unfold execGathComplete
  split
  · exact nextMemWf_next.2 hm
  split
  · split
    · exact nextMemWf_next.2 hm
    extract_lets v rs fut n k iw
    split <;> rename_i e <;> replace e := snd_memWf e (side_memWf _ _ _ _ _ _ hm)
    · exact nextMemWf_next.2 (engStop_memWf _ _ _ _ _ _ e)
    split
    · exact nextMemWf_next.2 (endEngine_memWf _ _ _ _ _ _ e)
    extract_lets u vas
    split <;> rename_i e' <;> replace e' := snd_memWf e' (side_memWf _ _ _ _ _ _ (countSide_memWf _ _ _ _ e))
    · exact nextMemWf_next.2 (engStop_memWf _ _ _ _ _ _ e')
    split <;> rename_i e'' <;> replace e'' := snd_memWf e'' (gathAll_memWf _ _ _ _ e')
    · exact nextMemWf_next.2 (engStop_memWf _ _ _ _ _ _ e'')
    · exact nextMemWf_next.2 (endEngine_memWf _ _ _ _ _ _ (by simp [putSide_memWf, e'']))
  · exact nextMemWf_next.2 hm

/-! ### Machine/Hyper.lean -/

@[simp] theorem hvResult_mem (s : State) (i : Instr) (d : Opnd) (h : HyperVec) : (s.hvResult i d h).mem = s.mem := by simp [State.hvResult]
theorem hvOp_memWf (s : State) (i : Instr) (x : OpA) (f : HyperVec → HyperVec → HyperVec) (hm : s.mem.wf = true) : NextMemWf (s.hvOp i x f)
    := slotRun_memWf hm (by simp [hm])
@[simp] theorem cntResult_mem (s : State) (i : Instr) (d : Opnd) (f : Nat → RegWrite) (n : Nat) :
    (s.cntResult i d f n).mem = s.mem := by simp [State.cntResult]

/-! ### Machine/PendingLog.lean -/

theorem amonAtSlice_memWf (s : State) (lin : Nat) (e : MqEntry) (hm : s.mem.wf = true) : (s.amonAtSlice lin e).mem.wf = true := by
  grind [State.amonAtSlice, maybeCount_memWf, write_wf, dequeue_mem]
theorem execLogAppend_memWf (page : Nat) (s : State) (hm : s.mem.wf = true) : NextMemWf (execLogAppend page s) := by
  grind [nextMemWf_next, execLogAppend, draw_mem, nextSeq_mem, setEntry_mem, appendLog_memWf, dequeue_mem, startApply_memWf,
    amonAtSlice_memWf]
theorem performLogapply_memWf (s : State) (lin : Nat) (e : MqEntry) (hm : s.mem.wf = true) : (s.performLogapply lin e).mem.wf = true := by
  grind [State.performLogapply, dequeue_mem, modPage_mem, startApply_memWf, resolve_memWf, ctxFault_mem]

/-! ### Machine/Page.lean -/

theorem performMigr_memWf (s : State) (lin : Nat) (e : MqEntry) (down : Bool) (hm : s.mem.wf = true) :
    (s.performMigr lin e down).mem.wf = true := by
  grind [State.performMigr, dequeue_mem, resolve_memWf, requestMig_memWf, ctxFault_mem]
@[simp] theorem walkFault_mem (s : State) (c va : Nat) : (s.walkFault c va).mem = s.mem := by
  unfold State.walkFault
  split <;> simp
@[simp] theorem performPgstat_mem (s : State) (lin : Nat) (e : MqEntry) (d : Opnd) :
    (s.performPgstat lin e d).mem = s.mem := by simp [State.performPgstat]
@[simp] theorem pageDone_mem (s : State) (status : Nat) : (s.pageDone status).mem = s.mem := rfl
@[simp] theorem entryAt_mem (s : State) (c va target : Nat) : (s.entryAt c va target).2.mem = s.mem := by
  unfold State.entryAt
  split <;> [skip; split] <;> simp
theorem execMap_memWf (c : Nat) (s : State) (hm : s.mem.wf = true) : NextMemWf (execMap c s) := by
  grind [nextMemWf_next, execMap, entryAt_mem, pageDone_mem, setPte_memWf, pageArrived_mem]
@[simp] theorem leafAt_mem (s : State) (c : Nat) : (s.leafAt c).2.mem = s.mem := by
  grind [State.leafAt, entryAt_mem]
theorem execUnmap_memWf (c : Nat) (s : State) (hm : s.mem.wf = true) : NextMemWf (execUnmap c s) := by
  grind [nextMemWf_next, execUnmap, leafAt_mem, pageDone_mem, modPageOf_mem, startApply_memWf, failMig_memWf, setPte_memWf, modPage_mem, foldl_memWf]
theorem execChmod_memWf (c : Nat) (s : State) (hm : s.mem.wf = true) : NextMemWf (execChmod c s) := by
  grind [nextMemWf_next, execChmod, leafAt_mem, pageDone_mem, modPage_mem, startApply_memWf, setPte_memWf]
theorem execRemap_memWf (c : Nat) (s : State) (hm : s.mem.wf = true) : NextMemWf (execRemap c s) := by
  grind [nextMemWf_next, execRemap, leafAt_mem, pageDone_mem, pageArrived_mem, setPte_memWf]
theorem zeroBytes_memWf (s : State) (pa n : Nat) (hm : s.mem.wf = true) : (s.zeroBytes pa n).mem.wf = true :=
  twf_filter hm _
theorem execPantry_memWf (tower frame : Nat) (s : State) (hm : s.mem.wf = true) : NextMemWf (execPantry tower frame s) := by
  grind [nextMemWf_next, execPantry, pageDone_mem, zeroBytes_memWf, wakeAll_mem]
theorem execAtsInvalidation_memWf (host : Nat) (s : State) (hm : s.mem.wf = true) : NextMemWf (execAtsInvalidation host s) := by
  refine nextMemWf_next.2 ?_
  rw [wakeAll_mem, foldl_mem _ fun _ _ => (modHub_mem ..).trans (draw_mem _ 2)]
  exact hm
theorem execMigrationStart_memWf (page : Nat) (s : State) (hm : s.mem.wf = true) : NextMemWf (execMigrationStart page s) := by
  unfold execMigrationStart
  split <;> simp [hm, startMig_memWf]
theorem execMigrationComplete_memWf (page : Nat) (s : State) (hm : s.mem.wf = true) : NextMemWf (execMigrationComplete page s) := by
  unfold execMigrationComplete
  split <;> simp [hm, copyDone_memWf]
theorem execCounterDecay_memWf (s : State) (hm : s.mem.wf = true) : NextMemWf (execCounterDecay s) := by
  grind [nextMemWf_next, execCounterDecay, modPage_mem, requestMig_memWf, foldl_memWf]
theorem execMemoryError_memWf (pa : Nat) (s : State) (hm : s.mem.wf = true) : NextMemWf (execMemoryError pa s) := by
  unfold execMemoryError
  simp only [nextMemWf_next]
  refine foldl_memWf _ (fun s c hs => foldl_memWf _ (fun s l hs => ?_) _ _ hs) _ _ ?_
  · split
    · exact poisonPage_memWf _ _ _ _ hs
    · exact hs
  · cases s.chunkPage pa with
    | none => exact hm
    | some a => exact poisonPage_memWf _ _ _ _ hm
theorem execTransit_memWf (lin : Nat) (s : State) (hm : s.mem.wf = true) : NextMemWf (execTransit lin s) := by
  grind [nextMemWf_next, execTransit, restart_mem]

/-! ### Machine/Memory.lean -/

@[simp] theorem enterAccess_mem (s : State) (i : Instr) (x : OpM) (inLoad inStore : Bool) (vals : List Word) (vec : VecReg)
    (desc : BitVec 32) (awaits : Bool) : (s.enterAccess i x inLoad inStore vals vec desc awaits).mem = s.mem := by simp [State.enterAccess]
theorem execStt_memWf (x : OpM) (s : State) (hm : s.mem.wf = true) : NextMemWf (execStt x s) := by
  unfold execStt
  refine slotRunWith_memWf hm ?_
  grind [enterAccess_mem, flightOf_mem]
theorem searchPages_memWf (s : State) (c : Nat) (l : List Nat) (hm : s.mem.wf = true) : (s.searchPages c l).2.mem.wf = true := by
  induction l generalizing s with
  | nil => exact hm
  | cons n l ih => grind [State.searchPages, event_memWf, ctxFault_mem]
@[simp] theorem pinAll_mem (s : State) (c : Nat) (xl : List Xlat) : (s.pinAll c xl).mem = s.mem :=
  foldl_mem _ (fun _ _ => pin_mem ..) _ _
@[simp] theorem bookSearch_mem (s : State) (lin : Nat) (e : MqEntry) (xl : List Xlat) (waited : Nat) :
    (s.bookSearch lin e xl waited).mem = s.mem := by
  simp [State.bookSearch]
theorem translateSearch_memWf (s : State) (lin : Nat) (e : MqEntry) (hm : s.mem.wf = true) : (s.translateSearch lin e).mem.wf = true := by
  grind [State.translateSearch, searchPages_memWf, entryFatal_mem, restart_mem, setEntry_mem, pinAll_mem, bookSearch_mem]
@[simp] theorem fillTlb_mem (s : State) (lin : Nat) (xl : List Xlat) : (s.fillTlb lin xl).mem = s.mem := by
  grind [State.fillTlb, draw_mem, modCore_mem, foldl_mem]
theorem execTranslationComplete_memWf (lin seq : Nat) (s : State) (hm : s.mem.wf = true) : NextMemWf (execTranslationComplete lin seq s)
    := by
  grind [nextMemWf_next, execTranslationComplete, setEntry_mem, translateSearch_memWf, translateAll_memWf, fillTlb_mem, restart_mem,
    entryFatal_mem]
@[simp] theorem afterAcquire_mem (s : State) (lin : Nat) (e : MqEntry) : (s.afterAcquire lin e).mem = s.mem := by
  unfold State.afterAcquire
  split <;> simp
@[simp] theorem deliverVec_mem (s : State) (lin : Nat) (e : MqEntry) (x : OpM) (v : VecReg) (fl : FpFlags) (cnt : FpCounts) :
    (s.deliverVec lin e x v fl cnt).mem = s.mem := by simp [State.deliverVec]
theorem freezeOn_memWf (s : State) (lin : Nat) (e : MqEntry) (a : Nat) (hm : s.mem.wf = true) : (s.freezeOn lin e a).mem.wf = true := by
  simp [State.freezeOn, hm, force_memWf]
theorem performLoad_memWf (s : State) (lin : Nat) (e : MqEntry) (hm : s.mem.wf = true) : (s.performLoad lin e).mem.wf = true := by
  grind [State.performLoad, freezeOn_memWf, loadParts_memWf, entryFatal_mem, afterAcquire_mem, deliverWord_mem, deliverVec_mem]
theorem storeHeld_mem {s t : State} {lin : Nat} {e : MqEntry} {bs : List Byte} (h : (s.storeHeld lin e bs).1 = .ok t) : t.mem = s.mem := by
  refine List.foldlRecOn (motive := fun r : Except Nat State => ∀ u, r = .ok u → u.mem = s.mem) _ _ ?_ ?_ t h
  · rintro u ⟨⟩; rfl
  · intro r hr p _ u hu
    cases r with
    | error k => cases hu
    | ok v => rw [storeSet_mem hu, hr v rfl]
theorem performStore_memWf (s : State) (lin : Nat) (e : MqEntry) (hm : s.mem.wf = true) : (s.performStore lin e).mem.wf = true := by
  unfold State.performStore
  split
  · simp [hm]
  · rename_i s' rest h
    have hs' : s'.mem.wf = true := by rw [storeHeld_mem (congrArg Prod.fst h)]; exact hm
    dsimp only
    split
    · split <;> simp [hs']
    · split
      · exact hm
      · split
        · simp only [dequeue_mem, modCore_mem]
          refine List.foldlRecOn (motive := fun r : State × Option Nat => r.1.mem.wf = true) _ _ (evictSome_memWf _ _ hs') fun r hr p _ => ?_
          grind [makeRoom_memWf, modCore_mem]
        · refine foldl_memWf _ (fun u m hu => ?_) _ _ hm
          cases u.logPageAt (128 * m) with
          | none => exact hu
          | some a => exact force_memWf _ _ hu
theorem heldAtomic_mem {s t : State} {lin m : Nat} {e : MqEntry} (h : s.heldAtomic lin e = .ok (m, t)) : t.mem = s.mem := by
  grind [State.heldAtomic, storeSet_mem]
theorem performAtomic_memWf (s : State) (lin : Nat) (e : MqEntry) (hm : s.mem.wf = true) : (s.performAtomic lin e).mem.wf = true := by
  grind [State.performAtomic, afterAcquire_mem, modCore_mem, deliverWord_mem, dequeue_mem, freezeOn_memWf, heldAtomic_mem, entryFatal_mem,
    flushSector_memWf, force_memWf, setEntry_mem, amonAtSlice_memWf, maybeCount_memWf, write_wf]
theorem performPref_memWf (s : State) (lin : Nat) (e : MqEntry) (va n : Nat) (toL1 hint : Bool) (hm : s.mem.wf = true) :
    (s.performPref lin e va n toL1 hint).mem.wf = true := by
  grind [State.performPref, dequeue_mem, maybeCount_memWf, makeRoom_memWf, evictSome_memWf, verify_memWf, modCore_mem, firstTouch_memWf, event_memWf, ctxFault_mem, foldl_memWf]
@[simp] theorem performSearch_mem (s : State) (lin : Nat) (e : MqEntry) (x : OpA) : (s.performSearch lin e x).mem = s.mem := by
  grind [State.performSearch, entryFatal_mem, unpin_mem, modCore_mem, deliver_mem, foldl_mem]
theorem performEntry_memWf (s : State) (lin : Nat) (e : MqEntry) (hm : s.mem.wf = true) : (s.performEntry lin e).mem.wf = true := by
  grind [State.performEntry, performLoad_memWf, performSearch_mem, performStore_memWf, performAtomic_memWf, performPref_memWf,
    launchEngine_mem, performPgstat_mem, performLogapply_memWf, performSetOp_mem, dequeue_mem, afterAcquire_mem, modCore_mem]
theorem execQueuePerform_memWf (lin : Nat) (store : Bool) (s : State) (hm : s.mem.wf = true) : NextMemWf (execQueuePerform lin store s)
    := by
  grind [nextMemWf_next, execQueuePerform, setEntry_mem, performEntry_memWf, entryFatal_mem, modCore_mem, tryLeave_mem, startEngines_mem]

/-! ### Machine/Held.lean -/

@[simp] theorem recordOp_mem (s : State) (i : Instr) (vals : List Word) : (s.recordOp i vals).mem = s.mem := rfl
@[simp] theorem modCompl_mem (s : State) (f : Completion → Completion) : (s.modCompl f).mem = s.mem := rfl
theorem quietOp_memWf {s : State} {i : Instr} {vals : State → List Word} {perform : HeldOp → State → State} (hm : s.mem.wf = true)
    (hp : ∀ h u, u.mem.wf = true → (perform h u).mem.wf = true) : NextMemWf (s.quietOp i vals perform) := by
  unfold State.quietOp
  split
  · grind [nextMemWf_next, modCompl_mem]
  · exact slotRun_memWf hm (by simp [hm])
@[simp] theorem ask_mem (s : State) (a : Ask) : (s.ask a).mem = s.mem := rfl
@[simp] theorem opFailed_mem (s : State) (h : HeldOp) (cls code : Nat) (a0 a1 a2 : Word) :
    (s.opFailed h cls code a0 a1 a2).mem = s.mem := by
  grind [State.opFailed, modCompl_mem, fatal_mem]
@[simp] theorem retryOp_mem (s : State) (h : HeldOp) (cause va : Nat) : (s.retryOp h cause va).mem = s.mem := rfl
@[simp] theorem opRestart_mem (s : State) (h : HeldOp) (code : Nat) (a0 a1 : Word) (kind obj addr : Nat) :
    (s.opRestart h code a0 a1 kind obj addr).mem = s.mem := by
  unfold State.opRestart
  split <;> [skip; split] <;> simp
@[simp] theorem writeNow_mem (s : State) (h : HeldOp) (d : Opnd) (v : Word) : (s.writeNow h d v).mem = s.mem := rfl
@[simp] theorem askHub_mem (s : State) (i : Instr) (vals : List Word) (awaits : Bool) (dests : List Opnd) :
    (s.askHub i vals awaits dests).mem = s.mem := by simp [State.askHub]
@[simp] theorem acquireAt_mem (s : State) (lin scope : Nat) : (s.acquireAt lin scope).mem = s.mem := by
  unfold State.acquireAt
  split <;> simp

/-! ### Machine/Future.lean -/

@[simp] theorem performFnew_mem (s : State) (lin : Nat) (e : MqEntry) (x : OpA) :
    (s.performFnew lin e x).mem = s.mem := by simp [State.performFnew]
@[simp] theorem performFtest_mem (s : State) (lin : Nat) (e : MqEntry) (x : OpA) : (s.performFtest lin e x).mem = s.mem := by
  grind [State.performFtest, entryFatal_mem, acquireAt_mem, deliver_mem]
@[simp] theorem performFfree_mem (s : State) (lin : Nat) (e : MqEntry) : (s.performFfree lin e).mem = s.mem := by
  grind [State.performFfree, entryFatal_mem, dequeue_mem, freeFuture_mem]
@[simp] theorem resolveOp_mem (s : State) (h : HeldOp) (r : Fate) : (s.resolveOp h r).mem = s.mem := by
  grind [State.resolveOp, opFailed_mem, endFuture_mem]
@[simp] theorem performFset_mem (h : HeldOp) (s : State) : (State.performFset h s).mem = s.mem := by simp [State.performFset]
@[simp] theorem performFfail_mem (h : HeldOp) (s : State) : (State.performFfail h s).mem = s.mem := by simp [State.performFfail]
@[simp] theorem performFwait_mem (h : HeldOp) (s : State) : (State.performFwait h s).mem = s.mem := by
  grind [State.performFwait, opFailed_mem, ask_mem, acquireAt_mem]

/-! ### Machine/Loop.lean -/

@[simp] theorem setRedirect_mem (s : State) (r : Redirect) : (s.setRedirect r).mem = s.mem := rfl
@[simp] theorem takeRedirect_mem (s : State) (i : Instr) : (s.takeRedirect i).mem = s.mem := rfl
@[simp] theorem linkResult_mem (s : State) (wbs : Bool) : (s.linkResult wbs).mem = s.mem := rfl

/-! ### Machine/Barrier.lean -/

@[simp] theorem modBar_mem (s : State) (r : BarRef) (f : Barrier → Barrier) : (s.modBar r f).mem = s.mem := by
  cases r <;> rfl
@[simp] theorem barWake_mem (s : State) (r : BarRef) : (s.barWake r).mem = s.mem := by simp [State.barWake]
@[simp] theorem barComplete_mem (s : State) (r : BarRef) : (s.barComplete r).mem = s.mem := by simp [State.barComplete]
@[simp] theorem podArrive_mem (s : State) (i : Nat) : (s.podArrive i).1.mem = s.mem := by
  rw [State.podArrive]
  split
  · exact modBar_mem ..
  · exact (foldl_mem_of_step (fun s k => ⟨_, rfl, sendCtl_mem ..⟩) _ _).trans (modBar_mem ..)
@[simp] theorem noteArrive_mem (s : State) (i : Nat) (g : BitVec 16) (seat : Nat) : (s.noteArrive i g seat).mem = s.mem := rfl
@[simp] theorem countHeld_mem (s : State) (i : Nat) (l : List Nat) : (s.countHeld i l).1.mem = s.mem := by
  induction l generalizing s with
  | nil => rfl
  | cons n l ih => grind [State.countHeld, podArrive_mem, modCore_mem]
@[simp] theorem podAdvance_mem (s : State) (i n : Nat) : (s.podAdvance i n).mem = s.mem := by
  induction n generalizing s with
  | zero => rfl
  | succ n ih => grind [State.podAdvance, modBar_mem, barWake_mem, countHeld_mem, noteArrive_mem]
@[simp] theorem arriveAt_mem (s : State) (i : Nat) (g : BitVec 16) (seat : Nat) : (s.arriveAt i g seat).mem = s.mem := by
  unfold State.arriveAt
  split <;> simp
@[simp] theorem barArrive_mem (s : State) (r : BarRef) : (s.barArrive r).2.mem = s.mem := by
  unfold State.barArrive
  grind [podArrive_mem, arriveAt_mem, modBar_mem, barComplete_mem]
@[simp] theorem groupLeave_mem (s : State) (key : Nat) : (s.groupLeave key).mem = s.mem := by
  grind [State.groupLeave, modBar_mem, barComplete_mem]
theorem seatLost_memWf (s : State) (seat : Nat) (hm : s.mem.wf = true) : (s.seatLost seat).mem.wf = true := by
  grind [State.seatLost, modBar_mem, modTask_mem, wake_mem, event_memWf, foldl_memWf]
@[simp] theorem barStale_mem (s : State) (h : HeldOp) : (s.barStale h).mem = s.mem := by simp [State.barStale]
@[simp] theorem barLost_mem (s : State) (h : HeldOp) (id seat : Nat) : (s.barLost h id seat).mem = s.mem := by simp [State.barLost]
@[simp] theorem arriveOp_mem (s : State) (h : HeldOp) (d : Opnd) : (s.arriveOp h d).2.mem = s.mem := by
  grind [State.arriveOp, writeNow_mem, modCompl_mem, barStale_mem, barLost_mem, barArrive_mem]
@[simp] theorem waitOp_mem (s : State) (h : HeldOp) (id g : Nat) : (s.waitOp h id g).mem = s.mem := by
  grind [State.waitOp, barStale_mem, acquireAt_mem, barLost_mem, ask_mem]
@[simp] theorem performBara_mem (x : OpA) (h : HeldOp) (s : State) : (State.performBara x h s).mem = s.mem := by simp [State.performBara]
@[simp] theorem performBarw_mem (h : HeldOp) (s : State) : (State.performBarw h s).mem = s.mem := by simp [State.performBarw]
@[simp] theorem performBarx_mem (x : OpA) (h : HeldOp) (s : State) : (State.performBarx x h s).mem = s.mem := by
  grind [State.performBarx, arriveOp_mem, waitOp_mem]
@[simp] theorem performBari_mem (s : State) (lin : Nat) (e : MqEntry) : (s.performBari lin e).mem = s.mem := by
  grind [State.performBari, entryFatal_mem, modBar_mem, dequeue_mem]
@[simp] theorem recheckBar_mem (s : State) (lin : Nat) : (s.recheckBar lin).mem = s.mem := by
  grind [State.recheckBar, modTask_mem, fatal_mem, startLeave_mem]
@[simp] theorem arriveMsg_mem (s : State) (m : BitVec 128) : (s.arriveMsg m).mem = s.mem := by simp [State.arriveMsg]
theorem execBarrierBind_memWf (pod : Bool) (index : Nat) (v : Word) (s : State) (hm : s.mem.wf = true) :
    NextMemWf (execBarrierBind pod index v s) := nextMemWf_next.2 (by simp [hm])
@[simp] theorem unbind_mem (s : State) (r : BarRef) : (s.unbind r).mem = s.mem := by
  unfold State.unbind
  split <;> simp

/-! ### Machine/Ring.lean -/

theorem ringAt_memWf (s : State) (c t va : Nat) (rd wr : Bool) (hm : s.mem.wf = true) : (s.ringAt c t va rd wr).2.mem.wf = true := by
  grind [State.ringAt, translate_memWf, force_memWf]
@[simp] theorem ringStop_mem (s : State) (h : HeldOp) (r : RingStop) : (s.ringStop h r).mem = s.mem := by
  unfold State.ringStop
  grind [retryOp_mem, opRestart_mem, opFailed_mem]
theorem setHead_memWf (s : State) (pa : Nat) (v : Word) (hm : s.mem.wf = true) : (s.setHead pa v).mem.wf = true := by
  simp [State.setHead, hm, write_wf]
theorem setTail_memWf (s : State) (pa : Nat) (v : Word) (hm : s.mem.wf = true) : (s.setTail pa v).mem.wf = true := by
  simp [State.setTail, hm, write_wf]
theorem putRecord_memWf (s : State) (h : HeldOp) (desc pd ps : Nat) (hm : s.mem.wf = true) : (s.putRecord h desc pd ps).mem.wf = true := by
  grind [State.putRecord, ringAt_memWf, wake_mem, setTail_memWf, setHead_memWf, write_wf, retryOp_mem, ringStop_mem, event_memWf,
    opFailed_mem]
theorem performQput_memWf (h : HeldOp) (s : State) (hm : s.mem.wf = true) : (State.performQput h s).mem.wf = true := by
  grind [State.performQput, ringAt_memWf, ringStop_mem, opFailed_mem, putRecord_memWf]
theorem performQget_memWf (h : HeldOp) (s : State) (hm : s.mem.wf = true) : (State.performQget h s).mem.wf = true := by
  grind [State.performQget, ringAt_memWf, ringStop_mem, opFailed_mem, ask_mem, modTask_mem, acquireAt_mem, writeNow_mem, setHead_memWf,
    write_wf]
theorem performQpeek_memWf (s : State) (lin : Nat) (e : MqEntry) (x : OpI) (hm : s.mem.wf = true) :
    (s.performQpeek lin e x).mem.wf = true := by
  grind [State.performQpeek, ringAt_memWf, entryFatal_mem, deliverWord_mem, setEntry_mem, restart_mem]
theorem execQexpire_memWf (task : Nat) (s : State) (hm : s.mem.wf = true) : NextMemWf (execQexpire task s) := by
  grind [nextMemWf_next, execQexpire, modTask_mem, groupFault_mem, faultPolicy_mem]

/-! ### Machine/HostQueue.lean -/

@[simp] theorem queueError_mem (s : State) (q err : Nat) : (s.queueError q err).mem = s.mem := rfl
@[simp] theorem settleWaitf_mem (s : State) (q : Nat) : (s.settleWaitf q).mem = s.mem := by
  grind [State.settleWaitf, modQueue_mem, queueError_mem]
@[simp] theorem settleQueues_mem (s : State) : (s.settleQueues).mem = s.mem := by
  simp [State.settleQueues, foldl_mem]
theorem execQueueAppend_memWf (q offset : Nat) (bytes : List Byte) (s : State) (hm : s.mem.wf = true) :
    NextMemWf (execQueueAppend q offset bytes s) := by
  grind [nextMemWf_next, execQueueAppend, event_memWf, modCtx_mem, queueError_mem, modQueue_mem, write_wf]
theorem execEnable_memWf (q : Nat) (s : State) (hm : s.mem.wf = true) : NextMemWf (execEnable q s) := by
  grind [nextMemWf_next, execEnable, modQueue_mem, settleWaitf_mem]
theorem drainCheck_memWf (s : State) (q : Nat) (hm : s.mem.wf = true) : (s.drainCheck q).mem.wf = true := by
  grind [State.drainCheck, event_memWf, modQueue_mem]
theorem execDrain_memWf (q : Nat) (s : State) (hm : s.mem.wf = true) : NextMemWf (execDrain q s) := by
  unfold execDrain
  split <;> simp [hm, drainCheck_memWf]
theorem execStop_memWf (q : Nat) (s : State) (hm : s.mem.wf = true) : NextMemWf (execStop q s) := by
  unfold execStop
  split <;> simp [hm]
@[simp] theorem resetQueue_mem (s : State) (q : Nat) : (s.resetQueue q).mem = s.mem := by
  unfold State.resetQueue
  split <;> simp
theorem execReset_memWf (q : Nat) (s : State) (hm : s.mem.wf = true) : NextMemWf (execReset q s) := nextMemWf_next.2 (by simp [hm])
@[simp] theorem countTaken_mem (s : State) (q : Nat) : (s.countTaken q).mem = s.mem := rfl
/-- The state that taking a record leaves. -/
def Took.state : Took → State
  | .done s => s
  | .err _ s => s
  | .wait s => s
theorem takeRecord_memWf {s : State} {q : Nat} {p : List Nat → Bool} {act : List Nat → State → Took} (hm : s.mem.wf = true)
    (ha : ∀ w, (act w s).state.mem.wf = true) : NextMemWf (s.takeRecord q p act) := by
  have := ha (s.record q)
  unfold State.takeRecord
  grind [nextMemWf_next, countTaken_mem, queueError_mem, modQueue_mem, Took.state]
theorem execNopRecord_memWf (q : Nat) (s : State) (hm : s.mem.wf = true) : NextMemWf (execNopRecord q s) :=
  takeRecord_memWf hm fun w => by grind [Took.state]
theorem execReservedRecord_memWf (q : Nat) (s : State) (hm : s.mem.wf = true) : NextMemWf (execReservedRecord q s) :=
  takeRecord_memWf hm fun w => by grind [Took.state]
theorem execSignal_memWf (q : Nat) (s : State) (hm : s.mem.wf = true) : NextMemWf (execSignal q s) :=
  takeRecord_memWf hm fun w => by grind [endFuture_mem, Took.state]
theorem execWaitf_memWf (q : Nat) (s : State) (hm : s.mem.wf = true) : NextMemWf (execWaitf q s) :=
  takeRecord_memWf hm fun w => by grind [modQueue_mem, settleWaitf_mem, Took.state]
theorem pantryEmpty_memWf (s : State) (c va n : Nat) (hm : s.mem.wf = true) : (s.pantryEmpty c va n).mem.wf = true := by
  unfold State.pantryEmpty
  split <;> simp [hm, event_memWf]
theorem hubReach_memWf (s : State) (q va n : Nat) (wr : Bool) (hm : s.mem.wf = true) : (s.hubReach q va n wr).2.mem.wf = true := by
  grind [State.hubReach, agentXlat_memWf]
theorem hubReach_error_memWf {s : State} {q va n : Nat} {wr : Bool} {t : Took} (hm : s.mem.wf = true)
    (e : (s.hubReach q va n wr).1 = .error t) : t.state.mem.wf = true := by
  grind [State.hubReach, agentXlat_memWf, Took.state]
theorem hubWrite_memWf (s : State) (c va : Nat) (bs : List Byte) (hm : s.mem.wf = true) : (s.hubWrite c va bs).mem.wf = true := by
  grind [State.hubWrite, startApply_memWf, applyDone_memWf, write_wf, translate_memWf, foldl_memWf]
theorem execMigsched_memWf (q : Nat) (s : State) (hm : s.mem.wf = true) : NextMemWf (execMigsched q s) :=
  takeRecord_memWf hm fun w => by grind [Took.state]
theorem execMcgroup_memWf (q : Nat) (s : State) (hm : s.mem.wf = true) : NextMemWf (execMcgroup q s) :=
  takeRecord_memWf hm fun w => by grind [hubReach_memWf, hubReach_error_memWf, modCtx_mem, Took.state]

/-! ### Machine/Kernel.lean -/

theorem flushStatus_memWf (s : State) (slot : Nat) (hm : s.mem.wf = true) : (s.flushStatus slot).mem.wf = true := by
  grind [State.flushStatus, modLaunch_mem, pantryEmpty_memWf, hubWrite_memWf]
theorem flushAll_memWf (s : State) (hm : s.mem.wf = true) : (s.flushAll).mem.wf = true := by
  grind [State.flushAll, flushStatus_memWf, foldl_memWf]
theorem takeLaunch_memWf (s : State) (q : Nat) (w : List Nat) (gsize : Nat) (hm : s.mem.wf = true) :
    (s.takeLaunch q w gsize).state.mem.wf = true := by
  unfold State.takeLaunch
  grind [hubReach_memWf, hubReach_error_memWf, writeVia_memWf, modHub_mem, modLaunch_mem, Took.state]
theorem execLaunch_memWf (q : Nat) (s : State) (hm : s.mem.wf = true) : NextMemWf (execLaunch q s) :=
  takeRecord_memWf hm fun w => takeLaunch_memWf s q w _ hm
theorem execGlaunch_memWf (q : Nat) (s : State) (hm : s.mem.wf = true) : NextMemWf (execGlaunch q s) :=
  takeRecord_memWf hm fun w => takeLaunch_memWf s q w _ hm
theorem execAgeRebase_memWf (s : State) (hm : s.mem.wf = true) : NextMemWf (execAgeRebase s) := by
  unfold execAgeRebase
  split
  · simpa using hm
  · dsimp only
    split
    · simpa using hm
    · exact takeRecord_memWf hm fun w => takeLaunch_memWf _ _ w _ hm
theorem execLaunchAccept_memWf (slot : Nat) (s : State) (hm : s.mem.wf = true) : NextMemWf (execLaunchAccept slot s) := by
  grind [nextMemWf_next, execLaunchAccept, modLaunch_mem, flushStatus_memWf, modHub_mem]
@[simp] theorem walkSettle_mem (s : State) (slot : Nat) : (s.walkSettle slot).mem = s.mem := by
  grind [State.walkSettle, modLaunch_mem]
@[simp] theorem modWalker_mem (s : State) (slot t : Nat) (f : Walker → Walker) : (s.modWalker slot t f).mem = s.mem := rfl
theorem poolHold_memWf (s : State) (slot : Nat) (hm : s.mem.wf = true) : (s.poolHold slot).mem.wf = true := by
  grind [State.poolHold, event_memWf, modLaunch_mem]
@[simp] theorem createGroup_mem (s : State) (slot t key : Nat) (l : List (Nat × Nat)) : (s.createGroup slot t key l).mem = s.mem := by
  induction l generalizing s with
  | nil => rfl
  | cons n l ih => grind [State.createGroup, modGroup_mem, modTask_mem]
theorem tryCreate_memWf (s : State) (t slot : Nat) (chain : Bool) (hm : s.mem.wf = true) : (s.tryCreate t slot chain).2.mem.wf = true := by
  unfold State.tryCreate
  grind [poolHold_memWf]
theorem tryCreate_created_mem {s u : State} {t slot : Nat} {chain : Bool} (e : (s.tryCreate t slot chain).1 = some u) : u.mem = s.mem := by
  unfold State.tryCreate at e
  grind [modWalker_mem, modTask_mem, walkSettle_mem, createGroup_mem, modGroup_mem]
theorem createFirst_memWf (s : State) (t : Nat) (l : List (Nat × Bool)) (hm : s.mem.wf = true) : (s.createFirst t l).mem.wf = true := by
  induction l generalizing s with
  | nil => exact hm
  | cons n l ih => grind [State.createFirst, modHub_mem, tryCreate_memWf, tryCreate_created_mem]
theorem execWalkerCreate_memWf (tower : Nat) (s : State) (hm : s.mem.wf = true) : NextMemWf (execWalkerCreate tower s) := by
  unfold execWalkerCreate
  split <;> simp [hm, flushAll_memWf, createFirst_memWf]
@[simp] theorem quietCheck_mem (s : State) (slot : Nat) : (s.quietCheck slot).mem = s.mem := by
  grind [State.quietCheck, modLaunch_mem]
@[simp] theorem countCommit_mem (s : State) (slot : Nat) (fl : FpFlags) (mxc : Mxc) : (s.countCommit slot fl mxc).mem = s.mem := rfl
@[simp] theorem chainNext_mem (s : State) (i lin : Nat) : (s.chainNext i lin).mem = s.mem := by
  grind [State.chainNext, nextSeq_mem, modWalker_mem]
@[simp] theorem memberGone_mem (s : State) (i : Nat) : (s.memberGone i).mem = s.mem := by
  grind [State.memberGone, groupLeave_mem, modTask_mem, modGroup_mem, groupSettle_mem]
theorem endLaunch_memWf (s : State) (slot : Nat) (st : LState) (hm : s.mem.wf = true) : (s.endLaunch slot st).mem.wf = true := by
  grind [State.endLaunch, flushStatus_memWf, modLaunch_mem, resolve_memWf, event_memWf, drainCheck_memWf]
theorem tryEnd_memWf (s : State) (slot : Nat) (st : LState) (hm : s.mem.wf = true) : (s.tryEnd slot st).mem.wf = true := by
  unfold State.tryEnd
  split <;> simp [hm, flushStatus_memWf, endLaunch_memWf]
theorem execLaunchComplete_memWf (slot : Nat) (s : State) (hm : s.mem.wf = true) : NextMemWf (execLaunchComplete slot s) := by
  unfold execLaunchComplete
  split <;> simp [hm, tryEnd_memWf]
theorem execLaunchAbortDrainComplete_memWf (slot : Nat) (s : State) (hm : s.mem.wf = true) : NextMemWf (execLaunchAbortDrainComplete slot s)
    := by
  grind [nextMemWf_next, execLaunchAbortDrainComplete, tryEnd_memWf]
@[simp] theorem abortWith_mem (s : State) (slot code : Nat) : (s.abortWith slot code).mem = s.mem := by
  grind [State.abortWith, abortLaunch_mem, modLaunch_mem]
theorem handlerImage_memWf (s : State) (slot : Nat) (hm : s.mem.wf = true) : (s.handlerImage slot).2.mem.wf = true := by
  grind [State.handlerImage, pantryEmpty_memWf, agentXlat_memWf, modLaunch_mem]
theorem execHandlerStart_memWf (slot : Nat) (s : State) (hm : s.mem.wf = true) : NextMemWf (execHandlerStart slot s) := by
  grind [nextMemWf_next, execHandlerStart, handlerImage_memWf, flushStatus_memWf, abortWith_mem, modLaunch_mem, modTask_mem]
@[simp] theorem dispose1_mem (s : State) (slot i : Nat) : (s.dispose1 slot i).mem = s.mem := by simp [State.dispose1]
@[simp] theorem groupRequeue_mem (s : State) (key : Nat) : (s.groupRequeue key).mem = s.mem := by
  grind [State.groupRequeue, modTask_mem, modGroup_mem, foldl_mem]
@[simp] theorem dispose_mem (s : State) (slot : Nat) : (s.dispose slot).mem = s.mem := by
  grind [State.dispose, modLaunch_mem, abortLaunch_mem, freeTask_mem, dispose1_mem, modTask_mem, groupRequeue_mem]

/-! ### Machine/Task.lean -/

theorem execTend_memWf (x : OpC) (s : State) (hm : s.mem.wf = true) : NextMemWf (execTend x s) := by
  unfold execTend
  split
  · exact quietOp_memWf hm fun _ _ hu => by simp [hu]
  · exact slotRun_memWf hm (by simp [hm])
@[simp] theorem performTrap_mem (n : Nat) (h : HeldOp) (s : State) : (State.performTrap n h s).mem = s.mem := by simp [State.performTrap]
@[simp] theorem performTspawn_mem (x : OpA) (h : HeldOp) (s : State) : (State.performTspawn x h s).mem = s.mem := by
  grind [State.performTspawn, opFailed_mem, writeNow_mem, onCore_mem, modTask_mem]

/-! ### Machine/Link.lean -/

@[simp] theorem modSend_mem (s : State) (p : Plane) (id : Nat) (f : Send → Send) : (s.modSend p id f).mem = s.mem := by simp [State.modSend]
theorem endSend_memWf (s : State) (p : Plane) (d : Send) (r : Fate) (hm : s.mem.wf = true) : (s.endSend p d r).mem.wf = true := by
  refine resolve_memWf _ _ _ _ _ _ ?_
  rw [modPlane_mem, dropScore_mem, foldl_mem _ unpin_mem]
  exact hm
theorem startSend_memWf (s : State) (multi sls : Bool) (h : HeldOp) (hm : s.mem.wf = true) : (s.startSend multi sls h).mem.wf = true := by
  unfold State.startSend
  grind [resolve_memWf, modPlane_mem, modPair_mem, startEngines_mem, modCore_mem]
theorem performSend_memWf (x : OpSend) (h : HeldOp) (s : State) (hm : s.mem.wf = true) : (State.performSend x h s).mem.wf = true := by
  simp [State.performSend, hm, startSend_memWf]
theorem performMsend_memWf (x : OpSend) (h : HeldOp) (s : State) (hm : s.mem.wf = true) : (State.performMsend x h s).mem.wf = true := by
  simp [State.performMsend, hm, startSend_memWf]
@[simp] theorem queueFlit_mem (s : State) (p : Plane) (k : Nat) (relayed : Bool) (q : QFlit) :
    (s.queueFlit p k relayed q).mem = s.mem := by simp [State.queueFlit]
@[simp] theorem queueCopies_mem (s : State) (p : Plane) (id : Nat) : (s.queueCopies p id).mem = s.mem := by
  grind [State.queueCopies, sendCtl_mem, queueFlit_mem, modSend_mem, foldl_mem]
@[simp] theorem queueAll_mem (s : State) : (s.queueAll).mem = s.mem := by
  simp [State.queueAll, foldl_mem]
theorem finishMsend_memWf (s : State) (p : Plane) (d : Send) (hm : s.mem.wf = true) : (s.finishMsend p d).mem.wf = true := by
  grind [State.finishMsend, agentXlat_memWf, endSend_memWf, modSend_mem, writeVia_memWf]
theorem checkSend_memWf (s : State) (p : Plane) (id : Nat) (hm : s.mem.wf = true) : (s.checkSend p id).mem.wf = true := by
  grind [State.checkSend, finishMsend_memWf]
theorem failSend_memWf (s : State) (p : Plane) (d : Send) (st : Nat) (hm : s.mem.wf = true) : (s.failSend p d st).mem.wf = true := by
  unfold State.failSend
  split <;> simp [hm, checkSend_memWf, endSend_memWf]
theorem sourceRead_memWf (s : State) (p : Plane) (d : Send) (bs : List Byte) (bad : Nat → Bool) (hm : s.mem.wf = true) :
    (s.sourceRead p d bs bad).mem.wf = true := by
  refine checkSend_memWf _ _ _ ?_
  rw [queueCopies_mem, modSend_mem, modPlane_mem, dropScore_mem, foldl_mem _ unpin_mem]
  exact hm
@[simp] theorem pinSource_mem (s : State) (p : Plane) (d : Send) (xl : List Xlat) : (s.pinSource p d xl).mem = s.mem :=
  (modSend_mem ..).trans (foldl_mem _ (fun _ _ => pin_mem ..) _ _)
theorem execSendSourceRead_memWf (id : Nat) (s : State) (hm : s.mem.wf = true) : NextMemWf (execSendSourceRead id s) := by
  grind [nextMemWf_next, execSendSourceRead, checkSend_memWf, sourceRead_memWf, agentXlat_memWf, failSend_memWf, pinSource_mem,
    verify_memWf, countVia_memWf]
@[simp] theorem freePitches_mem (s : State) (p : Plane) (k : Nat) : (s.freePitches p k).mem = s.mem := by simp [State.freePitches]
@[simp] theorem modPitch_mem (s : State) (p : Plane) (k seq : Nat) (f : Pitch → Pitch) :
    (s.modPitch p k seq f).mem = s.mem := by simp [State.modPitch]
@[simp] theorem noteLost_mem (s : State) (f : Flit) : (s.noteLost f).mem = s.mem := by
  grind [State.noteLost, modPlane_mem]
@[simp] theorem onward_mem (s : State) (p : Plane) (k seq : Nat) (f : Flit) : (s.onward p k seq f).mem = s.mem := by
  unfold State.onward
  split <;> [skip; split] <;> simp
@[simp] theorem fanOut_mem (s : State) (p : Plane) (k seq : Nat) (f : Flit) (mask : BitVec 32) : (s.fanOut p k seq f mask).mem = s.mem := by
  simp [State.fanOut, foldl_mem]
@[simp] theorem campFlit_mem (s : State) (p : Plane) (k : Nat) (f : Flit) : (s.campFlit p k f).mem = s.mem := by
  grind [State.campFlit, nextSeq_mem, modPlane_mem, fanOut_mem, onward_mem, freePitches_mem]
theorem laneHealth_memWf (s : State) (p : Plane) (lane : Nat) (hm : s.mem.wf = true) : (s.laneHealth p lane).mem.wf = true := by
  grind [State.laneHealth, event_memWf, modPlane_mem]
theorem countCodeword_memWf (s : State) (p : Plane) (lane sym : Nat) (hm : s.mem.wf = true) :
    (s.countCodeword p lane sym).mem.wf = true := by
  grind [State.countCodeword, modPlane_mem, event_memWf, laneHealth_memWf]
theorem execFlitReceive_memWf (plane : Plane) (residue band pos : Nat) (cw : BitVec 2448) (tag : Nat) (s : State) (hm : s.mem.wf = true) :
    NextMemWf (execFlitReceive plane residue band pos cw tag s) := by
  grind [nextMemWf_next, execFlitReceive, modPlane_mem, countCodeword_memWf, campFlit_mem]
@[simp] theorem mark_mem (s : State) (f : Flit) (st : Nat) : (s.mark f st).mem = s.mem := by
  unfold State.mark
  split <;> simp
theorem execFlitWrite_memWf (plane : Plane) (residue : Nat) (s : State) (hm : s.mem.wf = true) : NextMemWf (execFlitWrite plane residue s)
    := by
  grind [nextMemWf_next, execFlitWrite, freePitches_mem, modPlane_mem, modPitch_mem, mark_mem, agentXlat_memWf, writeVia_memWf,
    poisonSectors_mem]
theorem ctlIn_memWf {s : State} {m : CtlMsg} {type : Nat} {act : State → State} (hm : s.mem.wf = true) (ha : (act s).mem.wf = true) :
    NextMemWf (s.ctlIn m type act) := by
  grind [State.ctlIn, nextMemWf_next, queueCtl_mem]
@[simp] theorem ackFlit_mem (s : State) (q : QFlit) : (s.ackFlit q).mem = s.mem := by
  grind [State.ackFlit, freePitches_mem, modPitch_mem, modSend_mem, foldl_mem]
@[simp] theorem sendNotices_mem (s : State) : (s.sendNotices).mem = s.mem := by
  simp [State.sendNotices, foldl_mem]
theorem execAckTimeout_memWf (plane : Plane) (residue slot : Nat) (s : State) (hm : s.mem.wf = true) :
    NextMemWf (execAckTimeout plane residue slot s) := by
  grind [nextMemWf_next, execAckTimeout, modPlane_mem, event_memWf, foldl_memWf]
theorem execNotice_memWf (m : CtlMsg) (s : State) (hm : s.mem.wf = true) : NextMemWf (execNotice m s) := by
  grind [nextMemWf_next, execNotice, modPlane_mem]
theorem applyNotice_memWf (s : State) (n : Notice) (hm : s.mem.wf = true) : (s.applyNotice n).mem.wf = true := by
  grind [State.applyNotice, modPlane_mem, modWindow_mem, resolve_memWf, sendCtl_mem]
@[simp] theorem passNotice_mem (s : State) (n : Notice) : (s.passNotice n).mem = s.mem := by
  grind [State.passNotice, queueCtl_mem, modPlane_mem]
theorem execNoticeApply_memWf (plane : Plane) (index : Nat) (s : State) (hm : s.mem.wf = true) : NextMemWf (execNoticeApply plane index s)
    := by
  grind [nextMemWf_next, execNoticeApply, modPlane_mem, applyNotice_memWf, passNotice_mem]
@[simp] theorem openWindow_mem (s : State) (c : Nat) (a b cc : Word) : (s.openWindow c a b cc).2.mem = s.mem := by
  grind [State.openWindow, modWindow_mem]
@[simp] theorem askFabric_mem (s : State) (i : Instr) (vals : List Word) (d : Opnd) : (s.askFabric i vals d).mem = s.mem := rfl
@[simp] theorem performWopen_mem (s : State) (lin : Nat) (e : MqEntry) (x : OpA) :
    (s.performWopen lin e x).mem = s.mem := by simp [State.performWopen]
@[simp] theorem performWclose_mem (s : State) (lin : Nat) (e : MqEntry) (x : OpA) : (s.performWclose lin e x).mem = s.mem := by
  grind [State.performWclose, deliverWord_mem, closeWindow_mem]
@[simp] theorem performLstat_mem (s : State) (lin : Nat) (e : MqEntry) (x : OpA) :
    (s.performLstat lin e x).mem = s.mem := by simp [State.performLstat]

/-! ### Machine/Context.lean -/

@[simp] theorem setCerr_mem (s : State) (c n : Nat) : (s.setCerr c n).mem = s.mem := rfl
theorem ctxCmd_memWf {s : State} {c : Nat} {ok : CtxState → Bool} {act : State → State} (hm : s.mem.wf = true)
    (ha : (act (s.setCerr c cerrOK)).mem.wf = true) : NextMemWf (s.ctxCmd c ok act) := by
  grind [State.ctxCmd, nextMemWf_next, setCerr_mem]
theorem execBuild_memWf (c : Nat) (s : State) (hm : s.mem.wf = true) : NextMemWf (execBuild c s)
    := ctxCmd_memWf hm (by simp [hm, modCtx_mem])
theorem execActivate_memWf (c : Nat) (s : State) (hm : s.mem.wf = true) : NextMemWf (execActivate c s)
    := ctxCmd_memWf hm (by
  grind [setCerr_mem, modCtx_mem])
theorem execQuiesce_memWf (c : Nat) (s : State) (hm : s.mem.wf = true) : NextMemWf (execQuiesce c s)
    := ctxCmd_memWf hm (by simp [hm, rank_mem, quiesceTasks_mem, modCtx_mem])
theorem execResume_memWf (c : Nat) (s : State) (hm : s.mem.wf = true) : NextMemWf (execResume c s) :=
  ctxCmd_memWf hm (foldl_memWf _ (fun s q hs => drainCheck_memWf s q hs) _ _ (by simp [hm]))
@[simp] theorem zeroPair_mem (s : State) (p : Nat) : (s.zeroPair p).mem = s.mem := rfl
theorem startTeardown_memWf (s : State) (c : Nat) (hm : s.mem.wf = true) : (s.startTeardown c).mem.wf = true := by
  grind [State.startTeardown, modCtx_mem, closeWindow_mem, resetQueue_mem, abortWith_mem, freeTask_mem, clearNext_mem, unbind_mem, modSet_mem, modPage_mem, setLogFree_memWf, modPair_mem, zeroPair_mem, foldl_memWf]
theorem execDestroy_memWf (c : Nat) (s : State) (hm : s.mem.wf = true) : NextMemWf (execDestroy c s) := by
  refine ctxCmd_memWf hm ?_
  grind [modCtx_mem, startTeardown_memWf, setCerr_mem]
theorem execCtxDrainComplete_memWf (c : Nat) (s : State) (hm : s.mem.wf = true) : NextMemWf (execCtxDrainComplete c s) := by
  grind [nextMemWf_next, execCtxDrainComplete, event_memWf, modCtx_mem, startTeardown_memWf]
theorem execTeardownComplete_memWf (c : Nat) (s : State) (hm : s.mem.wf = true) : NextMemWf (execTeardownComplete c s) := by
  grind [nextMemWf_next, execTeardownComplete, freeFuture_mem, modPair_mem, event_memWf, modCtx_mem, foldl_mem]
theorem execHostfault_memWf (v : Word) (s : State) (hm : s.mem.wf = true) : NextMemWf (execHostfault v s) := nextMemWf_next.2 (by simp [hm])
theorem execPairRetirement_memWf (pair : Nat) (s : State) (hm : s.mem.wf = true) : NextMemWf (execPairRetirement pair s) := by
  grind [nextMemWf_next, execPairRetirement, modPair_mem, groupPreempt_mem, modGroup_mem, modCore_mem, abortWith_mem, foldl_mem]
@[simp] theorem settlePairs_mem (s : State) : (s.settlePairs).mem = s.mem := by
  grind [State.settlePairs, modPair_mem, foldl_mem]

/-! ### Machine/LinkFaults.lean -/

@[simp] theorem dropStream_mem (s : State) (p : Plane) (k : Nat) : (s.dropStream p k).mem = s.mem := by
  simp [State.dropStream, foldl_mem]
theorem failSends_memWf (s : State) (hit : Copy → Bool) (hm : s.mem.wf = true) : (s.failSends hit).mem.wf = true := by
  grind [State.failSends, endSend_memWf, modSend_mem, checkSend_memWf, foldl_memWf]
@[simp] theorem setLink_mem (s : State) (p : Plane) (peer : Nat) (l : LinkState) :
    (s.setLink p peer l).mem = s.mem := by simp [State.setLink]
theorem failHop_memWf (s : State) (p : Plane) (k : Nat) (hm : s.mem.wf = true) : (s.failHop p k).mem.wf = true := by
  unfold State.failHop
  split <;> simp [hm, failSends_memWf, seatLost_memWf]
theorem relink_memWf (s : State) (p : Plane) (k : Nat) (left : Bool) (hm : s.mem.wf = true) : (s.relink p k left).mem.wf = true := by
  grind [State.relink, failHop_memWf, event_memWf, setLink_mem]
@[simp] theorem requeueLine_mem (s : State) (p : Plane) (k b : Nat) : (s.requeueLine p k b).mem = s.mem := by
  simp [State.requeueLine, foldl_mem]
@[simp] theorem setLine_mem (s : State) (p : Plane) (k b : Nat) (l : LineState) : (s.setLine p k b l).mem = s.mem := by simp [State.setLine]
theorem leaveLit_memWf (s : State) (p : Plane) (k b : Nat) (l : LineState) (hm : s.mem.wf = true) : (s.leaveLit p k b l).mem.wf = true := by
  simp [State.leaveLit, hm, relink_memWf]
theorem failLine_memWf (s : State) (p : Plane) (k b : Nat) (hm : s.mem.wf = true) : (s.failLine p k b).mem.wf = true := by
  simp [State.failLine, hm, event_memWf, leaveLit_memWf]
@[simp] theorem enterService_mem (s : State) (p : Plane) (k : Nat) : (s.enterService p k).mem = s.mem := by
  grind [State.enterService, modPlane_mem, setLink_mem]
@[simp] theorem darkenLines_mem (s : State) (p : Plane) : (s.darkenLines p).mem = s.mem := by
  grind [State.darkenLines, requeueLine_mem, modPlane_mem, foldl_mem]
@[simp] theorem lightLines_mem (s : State) (p : Plane) : (s.lightLines p).mem = s.mem := by
  simp [State.lightLines]
@[simp] theorem sendRepair_mem (s : State) (p : Plane) (dest phase k b id dlane switch entry : Nat) :
    (s.sendRepair p dest phase k b id dlane switch entry).mem = s.mem := by simp [State.sendRepair]
theorem repairIn_memWf {s : State} {m : CtlMsg} {phase : Nat} {act : RepairMsg → State → State} (hm : s.mem.wf = true)
    (ha : (act (RepairMsg.of m.bits) s).mem.wf = true) : NextMemWf (s.repairIn m phase act) := by
  unfold State.repairIn
  split
  · simpa using hm
  · exact ctlIn_memWf hm ha
@[simp] theorem startRepair_mem (s : State) (p : Plane) (k b switch : Nat) :
    (s.startRepair p k b switch).mem = s.mem := by simp [State.startRepair]
theorem driftNext_memWf (s : State) (p : Plane) (k b switch : Nat) (hm : s.mem.wf = true) : (s.driftNext p k b switch).mem.wf = true := by
  grind [State.driftNext, startRepair_mem, failLine_memWf]
theorem abortRepair_memWf (s : State) (p : Plane) (r : RepairS) (after : Nat) (hm : s.mem.wf = true) :
    (s.abortRepair p r after).mem.wf = true := by
  grind [State.abortRepair, modPlane_mem, failLine_memWf, driftNext_memWf]
theorem execWavelengthCheck_memWf (line : LineId) (err : Int) (s : State) (hm : s.mem.wf = true) :
    NextMemWf (execWavelengthCheck line err s) := by
  grind [nextMemWf_next, execWavelengthCheck, modPlane_mem, draw_mem, event_memWf, driftNext_memWf, leaveLit_memWf]
@[simp] theorem pickLane_mem (s : State) (p : Plane) (t : SlotTable) (e : Nat) : (s.pickLane p t e).2.mem = s.mem := by
  grind [State.pickLane, draw_mem]
@[simp] theorem commitRepair_mem (s : State) (p : Plane) (v : RepairV) : (s.commitRepair p v).mem = s.mem := by
  unfold State.commitRepair
  split
  · rw [foldl_mem_of_step fun s x => ⟨_, rfl, by split <;> simp⟩, foldl_mem_of_step fun s x => ⟨_, rfl, sendRepair_mem ..⟩, modPlane_mem]
  · simp
@[simp] theorem prepV_mem (s : State) (m : RepairMsg) : (s.prepV m).mem = s.mem := by
  unfold State.prepV
  split
  · simp
  · rw [commitRepair_mem, foldl_mem_of_step fun s x => ⟨_, rfl, by split <;> simp⟩]
    exact List.foldlRecOn (motive := fun r : List Pick × State => r.2.mem = s.mem) _ _ rfl fun r hr e _ => by simp [hr]
@[simp] theorem repairLapse_mem (s : State) (p : Plane) (id : Nat) : (s.repairLapse p id).mem = s.mem := by
  unfold State.repairLapse
  split
  · dsimp only
    split
    · rw [foldl_mem_of_step (fun s k => ⟨_, rfl, sendRepair_mem ..⟩), sendRepair_mem, modPlane_mem]
    · rfl
  · rfl
theorem patch_memWf (s : State) (p : Plane) (role id e : Nat) (det : Bool) (lane : Nat) (code : BitVec 16) (hm : s.mem.wf = true) :
    (s.patch p role id e det lane code).mem.wf = true := by
  simp [State.patch, hm, event_memWf]
theorem switchS_memWf (s : State) (p : Plane) (r : RepairS) (hm : s.mem.wf = true) : (s.switchS p r).mem.wf = true := by
  grind [State.switchS, modPlane_mem, patch_memWf, relink_memWf, setLine_mem, foldl_memWf]
theorem switchV_memWf (s : State) (p : Plane) (v : RepairV) (hm : s.mem.wf = true) : (s.switchV p v).mem.wf = true := by
  grind [State.switchV, modPlane_mem, patch_memWf, foldl_memWf]
theorem switchD_memWf (s : State) (p : Plane) (d : RepairD) (hm : s.mem.wf = true) : (s.switchD p d).mem.wf = true := by
  grind [State.switchD, modPlane_mem, patch_memWf, relink_memWf, setLine_mem, requeueLine_mem, foldl_memWf]
theorem repairAt_memWf (s : State) (p : Plane) (id : Nat) (hm : s.mem.wf = true) : (s.repairAt p id).mem.wf = true := by
  grind [State.repairAt, modPlane_mem, switchS_memWf, switchV_memWf, switchD_memWf, foldl_memWf]
theorem trimLine_memWf (s : State) (p : Plane) (key : Nat) (hm : s.mem.wf = true) : (s.trimLine p key).mem.wf = true := by
  grind [State.trimLine, draw_mem, event_memWf, modPlane_mem]
theorem execPowerTrim_memWf (s : State) (hm : s.mem.wf = true) : NextMemWf (execPowerTrim s) := by
  grind [nextMemWf_next, execPowerTrim, trimLine_memWf, foldl_memWf]
theorem execThermalRetune_memWf (line : LineId) (s : State) (hm : s.mem.wf = true) : NextMemWf (execThermalRetune line s) := by
  grind [nextMemWf_next, execThermalRetune, modPlane_mem, leaveLit_memWf]
theorem execRetuneRelock_memWf (line : LineId) (s : State) (hm : s.mem.wf = true) : NextMemWf (execRetuneRelock line s) := by
  grind [nextMemWf_next, execRetuneRelock, relink_memWf, setLine_mem, modPlane_mem]
theorem execRetuneTimeout_memWf (line : LineId) (s : State) (hm : s.mem.wf = true) : NextMemWf (execRetuneTimeout line s) := by
  grind [nextMemWf_next, execRetuneTimeout, failLine_memWf]
theorem lanternGone_memWf (s : State) (p : Plane) (hm : s.mem.wf = true) : (s.lanternGone p).mem.wf = true := by
  grind [State.lanternGone, modPlane_mem, failHop_memWf, event_memWf, foldl_memWf]
theorem loseLantern_memWf (s : State) (p : Plane) (key : Nat) (hm : s.mem.wf = true) : (s.loseLantern p key).mem.wf = true := by
  unfold State.loseLantern
  split <;> simp [hm, leaveLit_memWf]
theorem regainLantern_memWf (s : State) (p : Plane) (key : Nat) (hm : s.mem.wf = true) : (s.regainLantern p key).mem.wf = true := by
  grind [State.regainLantern, relink_memWf, modPlane_mem]
theorem execLanternFault_memWf (plane : Plane) (s : State) (hm : s.mem.wf = true) : NextMemWf (execLanternFault plane s) := by
  grind [nextMemWf_next, execLanternFault, lanternGone_memWf, modPlane_mem, loseLantern_memWf, foldl_memWf]
theorem execLanternTakeoverComplete_memWf (plane : Plane) (s : State) (hm : s.mem.wf = true) :
    NextMemWf (execLanternTakeoverComplete plane s) := by
  grind [nextMemWf_next, execLanternTakeoverComplete, draw_mem, lanternGone_memWf, modPlane_mem, regainLantern_memWf, foldl_memWf]
@[simp] theorem startPark_mem (s : State) (p : Plane) (b : Nat) (auto : Bool) : (s.startPark p b auto).mem = s.mem := by
  unfold State.startPark
  dsimp only
  split
  · rfl
  · rw [foldl_mem_of_step (fun s k => ⟨_, rfl, sendRepair_mem ..⟩), modPlane_mem]
theorem execAutoparkIdle_memWf (plane : Plane) (band : Nat) (s : State) (hm : s.mem.wf = true) : NextMemWf (execAutoparkIdle plane band s)
    := by
  grind [nextMemWf_next, execAutoparkIdle, startPark_mem]
theorem execParkSwitch_memWf (plane : Plane) (band : Nat) (s : State) (hm : s.mem.wf = true) : NextMemWf (execParkSwitch plane band s) := by
  grind [nextMemWf_next, execParkSwitch, modPlane_mem, relink_memWf, setLine_mem, foldl_memWf]
theorem wakeBand_memWf (s : State) (p : Plane) (b : Nat) (hm : s.mem.wf = true) : (s.wakeBand p b).mem.wf = true :=
  foldl_memWf_of_step (fun s k hs => ⟨_, rfl, by simp [relink_memWf, hs]⟩) _ _ (by simp [hm])
theorem wakeLine_memWf (s : State) (p : Plane) (k b : Nat) (hm : s.mem.wf = true) : (s.wakeLine p k b).mem.wf = true := by
  grind [State.wakeLine, draw_mem, relink_memWf, setLine_mem, failLine_memWf]
theorem execWakeStart_memWf (plane : Plane) (s : State) (hm : s.mem.wf = true) : NextMemWf (execWakeStart plane s) := by
  grind [nextMemWf_next, execWakeStart, wakeBand_memWf, foldl_memWf]
theorem execWakeSwitch_memWf (plane : Plane) (band : Nat) (s : State) (hm : s.mem.wf = true) : NextMemWf (execWakeSwitch plane band s) := by
  grind [nextMemWf_next, execWakeSwitch, modPlane_mem, wakeLine_memWf, foldl_memWf]
@[simp] theorem lockPeg_mem (s : State) : (s.lockPeg).mem = s.mem := rfl
theorem execBringup_memWf (plane : Plane) (s : State) (hm : s.mem.wf = true) : NextMemWf (execBringup plane s) := by
  grind [nextMemWf_next, execBringup, modHub_mem, lockPeg_mem, modPlane_mem, setLink_mem, foldl_mem]
theorem execTicksync_memWf (m : CtlMsg) (s : State) (hm : s.mem.wf = true) : NextMemWf (execTicksync m s) := by
  unfold execTicksync
  split
  · simpa using hm
  split
  · exact ctlIn_memWf hm hm
  · grind [nextMemWf_next, draw_mem, lockPeg_mem]
theorem execTicksyncSend_memWf (s : State) (hm : s.mem.wf = true) : NextMemWf (execTicksyncSend s) := by
  grind [nextMemWf_next, execTicksyncSend, modPlane_mem]
theorem execCalibrationComplete_memWf (plane : Plane) (peer : Nat) (s : State) (hm : s.mem.wf = true) :
    NextMemWf (execCalibrationComplete plane peer s) := by
  grind [nextMemWf_next, execCalibrationComplete, modPlane_mem, setLink_mem, enterService_mem, modHub_mem, relink_memWf, lightLines_mem]
theorem execCalibrationTimeout_memWf (plane : Plane) (peer : Nat) (s : State) (hm : s.mem.wf = true) :
    NextMemWf (execCalibrationTimeout plane peer s) := by
  grind [nextMemWf_next, execCalibrationTimeout, modPlane_mem, event_memWf, failHop_memWf]
theorem execPlaneReset_memWf (plane : Plane) (s : State) (hm : s.mem.wf = true) : NextMemWf (execPlaneReset plane s) := by
  grind [nextMemWf_next, execPlaneReset, modPlane_mem, dropStream_mem, sendNotices_mem, failSends_memWf, seatLost_memWf, foldl_memWf]
theorem execSnap_memWf (plane : Plane) (s : State) (hm : s.mem.wf = true) : NextMemWf (execSnap plane s) := nextMemWf_next.2 (by simp [hm])
theorem restoreLine_memWf (s : State) (line : LineId) (hm : s.mem.wf = true) : (s.restoreLine line).mem.wf = true := by
  grind [State.restoreLine, modPlane_mem, relink_memWf]
theorem execFabidWrite_memWf (v : Word) (s : State) (hm : s.mem.wf = true) : NextMemWf (execFabidWrite v s) := by
  unfold execFabidWrite
  split <;> simp [hm]
theorem execSlottabLoad_memWf (q : Nat) (s : State) (hm : s.mem.wf = true) : NextMemWf (execSlottabLoad q s) :=
  takeRecord_memWf hm fun w => by grind [hubReach_memWf, hubReach_error_memWf, modPlane_mem, Took.state]
theorem execSlottabSwitch_memWf (q : Nat) (s : State) (hm : s.mem.wf = true) : NextMemWf (execSlottabSwitch q s) :=
  takeRecord_memWf hm fun w => by grind [modPlane_mem, Took.state]
theorem execTableSwitchTick_memWf (plane : Plane) (s : State) (hm : s.mem.wf = true) : NextMemWf (execTableSwitchTick plane s) := by
  grind [nextMemWf_next, execTableSwitchTick, modPlane_mem, enterService_mem, lightLines_mem, darkenLines_mem, driftNext_memWf, relink_memWf, foldl_memWf]
theorem hearCodewords_memWf (s : State) (p : Plane) (lane n : Nat) (hm : s.mem.wf = true) : (s.hearCodewords p lane n).mem.wf = true := by
  grind [State.hearCodewords, draw_mem, countCodeword_memWf, foldl_memWf]
theorem endSlot_memWf (s : State) (p : Plane) (hm : s.mem.wf = true) : (s.endSlot p).mem.wf = true := by
  grind [State.endSlot, sendCtl_mem, hearCodewords_memWf, modPlane_mem, draw_mem, foldl_memWf]
@[simp] theorem emitFlits_mem (s : State) (p : Plane) (k : Nat) (bands : List Nat) : (s.emitFlits p k bands).mem = s.mem := by
  simp [State.emitFlits, foldl_mem]
@[simp] theorem emitCtl_mem (s : State) (p : Plane) (k : Nat) : (s.emitCtl p k).mem = s.mem := by simp [State.emitCtl]
@[simp] theorem emitProbe_mem (s : State) (p : Plane) : (s.emitProbe p).mem = s.mem := by
  grind [State.emitProbe, emit_mem]
@[simp] theorem reportProbe_mem (s : State) (p : Plane) : (s.reportProbe p).mem = s.mem := by
  grind [State.reportProbe, draw_mem, sendRepair_mem]
theorem hearControl_memWf (s : State) (p : Plane) (c : Nat) (hm : s.mem.wf = true) : (s.hearControl p c).mem.wf = true := by
  grind [State.hearControl, draw_mem, hearCodewords_memWf]
@[simp] theorem pegPlane_mem (s : State) (p : Plane) : (s.pegPlane p).mem = s.mem := by
  grind [State.pegPlane, modPlane_mem, startPark_mem, emitFlits_mem, emit_mem, emitCtl_mem, reportProbe_mem, emitProbe_mem, foldl_mem]
theorem execPeg_memWf (s : State) (hm : s.mem.wf = true) : NextMemWf (execPeg s) := by
  grind [nextMemWf_next, execPeg, hearControl_memWf, endSlot_memWf, modHub_mem, pegPlane_mem, foldl_memWf]

/-! ### Machine/Manage.lean -/

theorem execModeWrite_memWf (v : Word) (s : State) (hm : s.mem.wf = true) : NextMemWf (execModeWrite v s) := by
  grind [nextMemWf_next, execModeWrite, event_memWf, modHub_mem]
theorem rebooted_memWf (s : State) : s.rebooted.mem.wf = true := rfl
theorem execWarmReset_memWf (s : State) : NextMemWf (execWarmReset s) :=
  nextMemWf_next.2 (rebooted_memWf s)
theorem bootStep_memWf (s : State) (hm : s.mem.wf = true) : (s.bootStep).mem.wf = true := by
  grind [State.bootStep, modHub_mem]
theorem sampleTile_memWf (s : State) (n : Nat) (r m mean : Int) (hm : s.mem.wf = true) : (s.sampleTile n r m mean).mem.wf = true := by
  grind [State.sampleTile, modHub_mem, event_memWf]
theorem throttleTower_memWf (s : State) (t : Nat) (hm : s.mem.wf = true) : (s.throttleTower t).mem.wf = true := by
  grind [State.throttleTower, event_memWf, modHub_mem]
theorem execThermalSample_memWf (sensors : List (Int × Int)) (s : State) (hm : s.mem.wf = true) : NextMemWf (execThermalSample sensors s)
    := by
  grind [nextMemWf_next, execThermalSample, sampleTile_memWf, modHub_mem, event_memWf, throttleTower_memWf, foldl_memWf]
@[simp] theorem reply_mem (s : State) (w : Nat) : (s.reply w).mem = s.mem := rfl
theorem execFutureFree_memWf (v : Word) (s : State) (hm : s.mem.wf = true) : NextMemWf (execFutureFree v s) := by
  grind [nextMemWf_next, execFutureFree, rank_mem, event_memWf, freeFuture_mem]
theorem execFutureSignal_memWf (v : Word) (s : State) (hm : s.mem.wf = true) : NextMemWf (execFutureSignal v s) := by
  grind [nextMemWf_next, execFutureSignal, rank_mem, event_memWf, endFuture_mem]
theorem forceLogs_memWf (s : State) (pa n : Nat) (hm : s.mem.wf = true) : (s.forceLogs pa n).mem.wf = true := by
  grind [State.forceLogs, applyDone_memWf, startApply_memWf, foldl_memWf]
theorem execHostAccess_memWf (a : HostAcc) (s : State) (hm : s.mem.wf = true) : NextMemWf (execHostAccess a s) := by
  grind [nextMemWf_next, execHostAccess, modHub_mem, emit_mem, forceLogs_memWf, write_wf, verify_memWf]
theorem ctxWrite_memWf (s : State) (c w : Nat) (v : Word) (hm : s.mem.wf = true) : NextMemWf (s.ctxWrite c w v) := by
  unfold State.ctxWrite
  grind [nextMemWf_next, execBuild_memWf, execActivate_memWf, execQuiesce_memWf, execResume_memWf, execDestroy_memWf, modCtx_mem,
    setCerr_mem]
theorem queueWrite_memWf (s : State) (q w : Nat) (v : Word) (hm : s.mem.wf = true) : NextMemWf (s.queueWrite q w v) := by
  unfold State.queueWrite
  grind [nextMemWf_next, modQueue_mem, execEnable_memWf, execDrain_memWf, execStop_memWf, execReset_memWf]
theorem planeWrite_memWf (s : State) (p : Plane) (off : Nat) (v : Word) (hm : s.mem.wf = true) : NextMemWf (s.planeWrite p off v) := by
  unfold State.planeWrite
  grind [nextMemWf_next, modPlane_mem, execBringup_memWf, execPlaneReset_memWf, execSnap_memWf, restoreLine_memWf, laneHealth_memWf, foldl_memWf]
theorem devWrite_memWf (s : State) (off : Nat) (v : Word) (hm : s.mem.wf = true) : NextMemWf (s.devWrite off v) := by
  unfold State.devWrite
  grind [nextMemWf_next, execModeWrite_memWf, modHub_mem, execHostfault_memWf, execWarmReset_memWf, execFabidWrite_memWf]
@[simp] theorem pgcmd_mem (s : State) (v : Word) : (s.pgcmd v).mem = s.mem := by
  grind [State.pgcmd, modHub_mem]
theorem windowWrite_memWf (s : State) (off : Nat) (v : Word) (hm : s.mem.wf = true) : NextMemWf (s.windowWrite off v) := by
  unfold State.windowWrite
  split <;> simp [hm, execFutureFree_memWf, execFutureSignal_memWf]
theorem barrierWrite_memWf (s : State) (pod : Bool) (index : Nat) (v : Word) (hm : s.mem.wf = true) : NextMemWf (s.barrierWrite pod index v)
    := by
  unfold State.barrierWrite
  split <;> simp [hm, execBarrierBind_memWf]
theorem execRegisterWrite_memWf (off : Nat) (v : Word) (s : State) (hm : s.mem.wf = true) : NextMemWf (execRegisterWrite off v s) := by
  simp [execRegisterWrite, apply_ite NextMemWf, apply_ite State.mem, apply_ite Memory.wf, hm, devWrite_memWf, ctxWrite_memWf, queueWrite_memWf, barrierWrite_memWf, planeWrite_memWf, windowWrite_memWf, event_memWf]

/-! ### Machine/Issue.lean -/

@[simp] theorem freeze_mem (s : State) (cause : Nat) : (s.freeze cause).mem = s.mem := rfl
@[simp] theorem openIssue_mem (s : State) (b : RawBundle) : (s.openIssue b).mem = s.mem := rfl
@[simp] theorem startIssue_mem (s : State) (k : Checked) (is : List Instr) : (s.startIssue k is).mem = s.mem := rfl
@[simp] theorem tryIssue_mem (s : State) (b : RawBundle) : (s.tryIssue b).mem = s.mem := by
  grind [State.tryIssue, openIssue_mem, freeze_mem, fatal_mem, startIssue_mem]
@[simp] theorem fetchTransit_mem (s : State) (page va : Nat) : (s.fetchTransit page va).mem = s.mem := by
  grind [State.fetchTransit, restart_mem, freeze_mem, onCore_mem]
theorem fetchFrom_memWf (s : State) (k n : Nat) (hm : s.mem.wf = true) : (s.fetchFrom k n).mem.wf = true := by
  induction n generalizing s k with
  | zero => exact hm
  | succ n ih => grind [State.fetchFrom, translate_memWf, force_memWf, fetchTransit_mem, fatal_mem, maybeCount_memWf, restart_mem]
theorem fetchHold_memWf (s : State) (k n : Nat) (hm : s.mem.wf = true) : (s.fetchHold k n).mem.wf = true := by
  grind [State.fetchHold, fetchFrom_memWf, onCore_mem]
theorem fetchMiss_memWf (s : State) (hm : s.mem.wf = true) : (s.fetchMiss).mem.wf = true := by
  simp [State.fetchMiss, hm, fetchHold_memWf]
theorem execBundleIssue_memWf (lin : Nat) (b : RawBundle) (s : State) (hm : s.mem.wf = true) : NextMemWf (execBundleIssue lin b s) := by
  grind [nextMemWf_next, execBundleIssue, focus_mem, recheckBar_mem, tryIssue_mem, fetchHold_memWf, fetchMiss_memWf]
@[simp] theorem closeIssue_mem (s : State) : (s.closeIssue).mem = s.mem := by
  grind [State.closeIssue, modPair_mem, onCore_mem]

/-! ### Machine/Visible.lean -/

theorem execResultVisible_memWf (lin : Nat) (s : State) (hm : s.mem.wf = true) : NextMemWf (execResultVisible lin s) := by
  grind [nextMemWf_next, execResultVisible, setCore_mem, fatal_mem]
theorem execCurrentWindowBoundary_memWf (lin : Nat) (s : State) (hm : s.mem.wf = true) : NextMemWf (execCurrentWindowBoundary lin s) := by
  unfold execCurrentWindowBoundary
  split <;> simp [hm]
theorem execRampWindowBoundary_memWf (lin : Nat) (s : State) (hm : s.mem.wf = true) : NextMemWf (execRampWindowBoundary lin s) := by
  unfold execRampWindowBoundary
  split <;> simp [hm]
theorem execDummyMma_memWf (lin : Nat) (s : State) (hm : s.mem.wf = true) : NextMemWf (execDummyMma lin s) := by
  grind [nextMemWf_next, execDummyMma, focus_mem, onCore_mem]

/-! ### Machine/Commit.lean -/

theorem performHeld_memWf (h : HeldOp) (s : State) (hm : s.mem.wf = true) : (performHeld h s).mem.wf = true := by
  unfold performHeld
  split <;> simp [hm, performQput_memWf, performSend_memWf, performMsend_memWf]
theorem linesReady_memWf (s : State) (c t : Nat) (l : List Nat) (hm : s.mem.wf = true) : (s.linesReady c t l).2.mem.wf = true := by
  induction l generalizing s with
  | nil => exact hm
  | cons n l ih => grind [State.linesReady, force_memWf, firstTouch_memWf]
theorem writeParts_memWf (s : State) (bs : List (Nat × Byte)) (hm : s.mem.wf = true) : (s.writeParts bs).mem.wf = true := by
  grind [State.writeParts, write_wf, foldl_memWf]
theorem commitSets_memWf (s : State) (hm : s.mem.wf = true) : (s.commitSets).2.mem.wf = true := by
  grind [State.commitSets, linesReady_memWf, writeParts_memWf, onCore_mem, foldl_memWf]
@[simp] theorem deliverFailure_mem (s : State) (i : Nat) (q : Completion) : (s.deliverFailure i q).mem = s.mem := by
  grind [State.deliverFailure, freeTask_mem, modTask_mem, modLaunch_mem, faultPolicy_mem]
theorem finishTend_memWf (s : State) (hm : s.mem.wf = true) : (s.finishTend).mem.wf = true := by
  grind [State.finishTend, modTask_mem, clearNext_mem, releaseAll_mem, countCommit_mem, chainNext_mem, dispose_mem, memberGone_mem,
    coreFreed_mem, setCore_mem, quietCheck_mem, deliverFailure_mem, flushAll_memWf, abortSweep_mem]
theorem tendStep_memWf (s : State) (hm : s.mem.wf = true) : (s.tendStep).mem.wf = true := by
  grind [State.tendStep, commitSets_memWf, modCompl_mem, finishTend_memWf, performHeld_memWf]

/-! ### Machine/Bundle.lean -/

@[simp] theorem deferOps_mem (s : State) (q : Completion) : (s.deferOps q).mem = s.mem := by
  grind [State.deferOps, fatal_mem, onCore_mem]
@[simp] theorem startOps_mem (s : State) : (s.startOps).mem = s.mem := by
  unfold State.startOps
  split <;> simp
theorem execQuiescentCompletion_memWf (lin : Nat) (s : State) (hm : s.mem.wf = true) : NextMemWf (execQuiescentCompletion lin s) := by
  grind [nextMemWf_next, execQuiescentCompletion, focus_mem, tendStep_memWf, startOps_mem, deferOps_mem, modCompl_mem]
@[simp] theorem finishCompl_mem (s : State) (q : Completion) : (s.finishCompl q).mem = s.mem := by
  grind [State.finishCompl, onCore_mem, clearNext_mem, modCompl_mem, startLeave_mem, trapTaken_mem]
theorem performHub_memWf (s : State) (lin : Nat) (e : MqEntry) (hm : s.mem.wf = true) : (s.performHub lin e).mem.wf = true := by
  unfold State.performHub
  split <;> simp [hm, performMigr_memWf, performQpeek_memWf]
theorem runHub_memWf (s : State) (lin : Nat) (e : MqEntry) (hm : s.mem.wf = true) : (s.runHub lin e).mem.wf = true := by
  grind [State.runHub, performHub_memWf, entryFatal_mem]
@[simp] theorem settleCore_mem (s : State) : (s.settleCore).mem = s.mem := by
  grind [State.settleCore, closeIssue_mem, finishCompl_mem]
theorem settle_memWf (s : State) (hm : s.mem.wf = true) : (s.settle).mem.wf = true := by
  simp [State.settle, hm, flushAll_memWf]

/-! ### Machine/Matrix.lean -/

@[simp] theorem matStep_mem (s : State) (i : Instr) (x : OpMma) (z : Bool) : (s.matStep i x z).mem = s.mem := by simp [State.matStep]
@[simp] theorem countStep_mem (s : State) : (s.countStep).mem = s.mem := rfl

/-! ### Machine/Scalar.lean -/

theorem intOp_memWf (s : State) (i : Instr) (x : OpA) (sg : Bool) (f : Nat → Word → Word → Word → Int) (hm : s.mem.wf = true) :
    NextMemWf (s.intOp i x sg f) := slotRun_memWf hm (by simp [hm])
theorem wordOp_memWf (s : State) (i : Instr) (x : OpA) (f : Word → Word → Word → Word) (hm : s.mem.wf = true) : NextMemWf (s.wordOp i x f)
    := slotRun_memWf hm (by simp [hm])
theorem immOp_memWf (s : State) (i : Instr) (x : OpI) (f : Word → BitVec 32 → Word) (hm : s.mem.wf = true) : NextMemWf (s.immOp i x f)
    := slotRun_memWf hm (by simp [hm])
theorem fpOp_memWf (s : State) (i : Instr) (x : OpA) (uses : Nat) (f : StdFmt → FpEnv → Nat → Nat → Nat → Nat × FpFlags)
    (hm : s.mem.wf = true) : NextMemWf (s.fpOp i x uses f) := slotRun_memWf hm (by simp [hm])

/-! ### Machine/Schedule.lean -/

theorem revokeWrites_memWf (s : State) (p h : Nat) (hm : s.mem.wf = true) : (s.revokeWrites p h).mem.wf = true := by
  grind [State.revokeWrites, endEngine_memWf, dequeue_mem, dropScore_mem, resolve_memWf, foldl_memWf]
theorem takeStore_memWf (s : State) (p h c : Nat) (hm : s.mem.wf = true) : (s.takeStore p h c).mem.wf = true := by
  grind [State.takeStore, revokeWrites_memWf, zeroPair_mem, modPair_mem]
@[simp] theorem startTask_mem (s : State) (lin i first : Nat) : (s.startTask lin i first).mem = s.mem := by simp [State.startTask]
@[simp] theorem firstCycle_mem (s : State) : (s.firstCycle).2.mem = s.mem := rfl
theorem startPicked_memWf (s : State) (lin i : Nat) (hm : s.mem.wf = true) : (s.startPicked lin i).mem.wf = true := by
  unfold State.startPicked
  split <;> simp [hm, takeStore_memWf]
theorem placeGroup_memWf (s : State) (key start : Nat) (hm : s.mem.wf = true) : (s.placeGroup key start).mem.wf = true := by
  grind [State.placeGroup, lapse_mem, modGroup_mem, modTask_mem, takeStore_memWf, foldl_memWf]
@[simp] theorem askFor_mem (s : State) (key l : Nat) : (s.askFor key l).mem = s.mem := by
  grind [State.askFor, groupPreempt_mem, modCore_mem]
theorem checkGroup_memWf (s : State) (key : Nat) (hm : s.mem.wf = true) : (s.checkGroup key).mem.wf = true := by
  grind [State.checkGroup, placeGroup_memWf, modGroup_mem, askFor_mem, lapse_mem, foldl_memWf]
theorem execGroupStart_memWf (tower slot : Nat) (s : State) (hm : s.mem.wf = true) : NextMemWf (execGroupStart tower slot s) := by
  grind [nextMemWf_next, execGroupStart, startTask_mem, modGroup_mem, foldl_mem]
theorem performPick_memWf (s : State) (t lin : Nat) (c : Cand) (hm : s.mem.wf = true) : (s.performPick t lin c).mem.wf = true := by
  unfold State.performPick
  split <;> simp [hm, startPicked_memWf, checkGroup_memWf]
@[simp] theorem requestFor_mem (s : State) (i l v : Nat) : (s.requestFor i l v).mem = s.mem := by
  grind [State.requestFor, modCore_mem, groupPreempt_mem, foldl_mem]
@[simp] theorem starve_mem (s : State) (t : Nat) : (s.starve t).mem = s.mem := by
  grind [State.starve, requestFor_mem, foldl_mem]
theorem execTaskPick_memWf (tower : Nat) (s : State) (hm : s.mem.wf = true) : NextMemWf (execTaskPick tower s) := by
  grind [nextMemWf_next, execTaskPick, checkGroup_memWf, performPick_memWf, starve_mem, foldl_memWf]
theorem execPreemptArrival_memWf (lin : Nat) (s : State) (hm : s.mem.wf = true) : NextMemWf (execPreemptArrival lin s) := by
  grind [nextMemWf_next, execPreemptArrival, modCore_mem]
theorem setSched_memWf (s : State) (k : Nat) (d : Sched) (hm : s.mem.wf = true) : (s.setSched k d).mem.wf = true := by
  unfold State.setSched
  split <;> simp [hm, event_memWf]
theorem scheduledMigr_memWf (s : State) (c va target deadline : Nat) (hm : s.mem.wf = true) :
    (s.scheduledMigr c va target deadline).mem.wf = true := by
  grind [State.scheduledMigr, event_memWf, requestMig_memWf, ctxFault_mem]
theorem schedEntry_memWf (s : State) (d : Sched) (hm : s.mem.wf = true) : (s.schedEntry d).2.mem.wf = true := by
  grind [State.schedEntry, pantryEmpty_memWf, agentXlat_memWf]
theorem execScheduleEntry_memWf (c index : Nat) (s : State) (hm : s.mem.wf = true) : NextMemWf (execScheduleEntry c index s) := by
  grind [nextMemWf_next, execScheduleEntry, setSched_memWf, schedEntry_memWf, plan_mem, event_memWf, scheduledMigr_memWf]

/-! ### Machine/Tick.lean -/

theorem upset_memWf (s : State) (hm : s.mem.wf = true) : s.upset.mem.wf = true := by
  unfold State.upset
  grind [draw_mem, twf_tput]
theorem happen_memWf (s : State) (x1 : Event) (hm : s.mem.wf = true) : (s.happen x1).mem.wf = true := by
  unfold State.happen
  split <;> simp [hm, ntArrive_memWf, runHub_memWf, bootStep_memWf, upset_memWf]
@[simp] theorem note_mem (s : State) (e : Event) : (s.note e).mem = s.mem :=
  foldl_mem _ (fun _ _ => rank_mem ..) _ _
@[simp] theorem closeCore_mem (s : State) (lin : Nat) : (s.closeCore lin).mem = s.mem := by simp [State.closeCore]
@[simp] theorem drawEach_mem {α : Type} (s : State) (l : List α) (f : State → α → List Instr × State)
    (hf : ∀ s a, (f s a).2.mem = s.mem) : (s.drawEach l f).2.mem = s.mem := by
  unfold State.drawEach
  generalize ([] : List Instr) = acc
  induction l generalizing s acc with
  | nil => rfl
  | cons a l ih => rw [List.foldl_cons, ih, hf]
@[simp] theorem drawInt_mem (s : State) : (s.drawInt).2.mem = s.mem := rfl
@[simp] theorem retunes_mem (s : State) (p : Plane) (t : Nat) : (s.retunes p t).2.mem = s.mem := by
  grind [State.retunes, drawEach_mem, draw_mem]
@[simp] theorem takeovers_mem (s : State) (p : Plane) (t : Nat) : (s.takeovers p t).2.mem = s.mem := by
  unfold State.takeovers
  split <;> simp
@[simp] theorem planePeg_mem (s : State) (p : Plane) (t : Nat) : (s.planePeg p t).2.mem = s.mem := by simp [State.planePeg]
@[simp] theorem checks_mem (s : State) (p : Plane) (t : Nat) : (s.checks p t).2.mem = s.mem :=
  drawEach_mem _ _ _ fun _ _ => drawInt_mem _
@[simp] theorem readings_mem (n : Nat) (s : State) : (State.readings n s).2.mem = s.mem := by
  induction n generalizing s with
  | zero => rfl
  | succ n ih => simp [State.readings, ih]
@[simp] theorem sample_mem (s : State) (t : Nat) : (s.sample t).2.mem = s.mem := by
  unfold State.sample
  split <;> simp
@[simp] theorem pegPlan_mem (s : State) : (s.pegPlan).2.mem = s.mem := by simp [State.pegPlan]
@[simp] theorem coreCycles_mem (s : State) : (s.coreCycles).2.mem = s.mem :=
  drawEach_mem _ _ _ fun _ _ => draw_mem _ 2
@[simp] theorem advance_mem (s : State) : (s.advance).mem = s.mem := by
  unfold State.advance
  grind [closeCore_mem, signal_mem, pegPlan_mem, coreCycles_mem, foldl_mem]
@[simp] theorem endCycle_mem (s : State) : (s.endCycle).mem = s.mem := by
  unfold State.endCycle
  split <;> simp
theorem tickOnce_memWf (s : State) (hm : s.mem.wf = true) : (s.tickOnce).mem.wf = true := by
  grind [State.tickOnce, advance_mem, draw_mem, happen_memWf, note_mem, endCycle_mem]

/-! ### Machine/Vector.lean -/

theorem vecOp_memWf (s : State) (i : Instr) (x : OpA) (f : Core → VecResult) (hm : s.mem.wf = true) : NextMemWf (s.vecOp i x f)
    := slotRun_memWf hm (by simp [hm])
theorem vecElemOp_memWf (s : State) (i : Instr) (x : OpA) (op : VOp) (hm : s.mem.wf = true) : NextMemWf (s.vecElemOp i x op) := by
  grind [nextMemWf_next, State.vecElemOp, vecOp_memWf]
theorem vecBits_memWf (s : State) (i : Instr) (x : OpA) (f : VecReg → VecReg → VecReg → VecReg) (hm : s.mem.wf = true) :
    NextMemWf (s.vecBits i x f) := by
  grind [nextMemWf_next, State.vecBits, vecOp_memWf]
theorem vecMove_memWf (s : State) (i : Instr) (x : OpA) (f : VecReg → Nat → VecReg) (hm : s.mem.wf = true) : NextMemWf (s.vecMove i x f)
    := by
  grind [nextMemWf_next, State.vecMove, vecOp_memWf]
theorem vecSpecial_memWf (s : State) (i : Instr) (x : OpA) (op : SfuOp) (hm : s.mem.wf = true) : NextMemWf (s.vecSpecial i x op) := by
  grind [nextMemWf_next, State.vecSpecial, vecOp_memWf]

/-! ### Machine/Dispatch.lean, Machine/Step.lean -/

theorem exec_memWf (i : Instr) (s : State) (hm : s.mem.wf = true) : NextMemWf (exec i s) := by
  unfold exec
  cases i with
  | bundleIssue lin b => exact execBundleIssue_memWf lin b s hm
  | quiescentCompletion lin => exact execQuiescentCompletion_memWf lin s hm
  | resultVisible lin => exact execResultVisible_memWf lin s hm
  | currentWindowBoundary lin => exact execCurrentWindowBoundary_memWf lin s hm
  | rampWindowBoundary lin => exact execRampWindowBoundary_memWf lin s hm
  | dummyMma lin => exact execDummyMma_memWf lin s hm
  | nop _ | branchHint _ | br _ | bri _ | call _ | calli _ | ret _ | loop _ | lbrk _ | ldrain _ | sysr _ | sysw _ | fnew _ | ftest _
  | ffree _ | bari _ | qpeek _ | xcl _ | xcp _ | fclass _ | fsgn _ | ld _ | st _ | ldv _ | stv _ | ldt _ | ntst _ | ntstv _ | amo _
  | amon _ | acas _ | mark _ | fence _ | ntdrain _ | lsld _ | lsst _ | lsldv _ | migr _ | pgstat _ | logapply _ | asdecl _ | asdrop _
  | vext _ | slld _ | mma _ | mmaz _ | hld _ | hrot _ | hbund _ | hmaj _ | hcclr _ | htie _ | hdist _ | hnear _ | cpy _ | chase _ | gath _
  | wopen _ | wclose _ | lstat _ | fdset _ | fdget _ | bfmt _ => exact slotRun_memWf hm (by simp [hm])
  | prefetchHint _ => exact slotRun_memWf hm (by grind [draw_mem, enqueue_mem])
  | trap _ | yield _ | tspawn _ | fset _ | ffail _ | fwait _ | bara _ | barw _ | barx _ | pbara _ | pbarw _ =>
    exact quietOp_memWf hm fun _ _ hu => by simp [hu]
  | tend x => exact execTend_memWf x s hm
  | qput _ => exact quietOp_memWf hm fun _ _ hu => performQput_memWf _ _ hu
  | qget _ => exact quietOp_memWf hm fun _ _ hu => performQget_memWf _ _ hu
  | qexpire task => exact execQexpire_memWf task s hm
  | add _ | sub _ | mul _ | mulh _ | mulhn _ | div _ | divn _ | rem _ | remn _ | and _ | or _ | xor _ | andn _ | orn _ | shl _ | shr _
  | sar _ | rol _ | clz _ | ctz _ | popc _ | min _ | max _ | minn _ | maxn _ | abs _ | mad _ => exact intOp_memWf _ _ _ _ _ hm
  | addi _ | movi _ | movh _ | cmpi _ => exact immOp_memWf _ _ _ _ hm
  | bfx _ | bfi _ | sext _ | lea _ | sel _ | cmp _ | plog _ => exact wordOp_memWf _ _ _ _ hm
  | fadd _ | fsub _ | fmul _ | fma _ | fdiv _ | fsqrt _ | fmin _ | fmax _ | fcmp _ => exact fpOp_memWf _ _ _ _ _ hm
  | fcvt _ => exact slotRun_memWf hm (by grind [scalarResult_mem])
  | stt x => exact execStt_memWf x s hm
  | pref _ => exact slotRun_memWf hm (by grind [enqueue_mem])
  | lsstv x => exact execLsstv_memWf x s hm
  | vadd _ | vsub _ | vmul _ | vfma _ | vfms _ | vmin _ | vmax _ | vabs _ | vneg _ | vshl _ | vshr _ | vsar _ | vclamp _ | vmad _ | vpopc _ =>
    exact vecElemOp_memWf _ _ _ _ hm
  | vand _ | vor _ | vxor _ | vandn _ | vsel _ | vmov _ => exact vecBits_memWf _ _ _ _ hm
  | vcmp _ | vsplat _ | vins _ | vdot4 _ | vredr _ | vredc _ | vcvt _ => exact vecOp_memWf _ _ _ _ hm
  | vrotr _ | vrotc _ | vbcr _ | vbcc _ | vtrn _ => exact vecMove_memWf _ _ _ _ hm
  | vrcp _ | vrsq _ | vsqrt _ | vexp2 _ | vlog2 _ | vtanh _ => exact vecSpecial_memWf _ _ _ _ hm
  | hst _ => exact slotRun_memWf hm (by grind [lsPut_mem, foldl_mem])
  | hxor _ | hlog _ => exact hvOp_memWf _ _ _ _ hm
  | hmovv _ => exact slotRun_memWf hm (by grind [hvResult_mem, vectorResult_mem, cntResult_mem])
  | send _ => exact quietOp_memWf hm fun _ _ hu => performSend_memWf _ _ _ hu
  | msend _ => exact quietOp_memWf hm fun _ _ hu => performMsend_memWf _ _ _ hu
  | taskPick tower => exact execTaskPick_memWf tower s hm
  | groupStart tower slot => exact execGroupStart_memWf tower slot s hm
  | preemptArrival lin => exact execPreemptArrival_memWf lin s hm
  | woundArrival lin => exact execWoundArrival_memWf lin s hm
  | walkerCreate tower => exact execWalkerCreate_memWf tower s hm
  | launchAccept slot => exact execLaunchAccept_memWf slot s hm
  | launchComplete slot => exact execLaunchComplete_memWf slot s hm
  | launchAbortDrainComplete slot => exact execLaunchAbortDrainComplete_memWf slot s hm
  | handlerStart slot => exact execHandlerStart_memWf slot s hm
  | nopRecord q => exact execNopRecord_memWf q s hm
  | launch q => exact execLaunch_memWf q s hm
  | glaunch q => exact execGlaunch_memWf q s hm
  | signal q => exact execSignal_memWf q s hm
  | waitf q => exact execWaitf_memWf q s hm
  | migsched q => exact execMigsched_memWf q s hm
  | slottabLoad q => exact execSlottabLoad_memWf q s hm
  | slottabSwitch q => exact execSlottabSwitch_memWf q s hm
  | mcgroup q => exact execMcgroup_memWf q s hm
  | reservedRecord q => exact execReservedRecord_memWf q s hm
  | ctxDrainComplete c => exact execCtxDrainComplete_memWf c s hm
  | teardownComplete c => exact execTeardownComplete_memWf c s hm
  | map c => exact execMap_memWf c s hm
  | unmap c => exact execUnmap_memWf c s hm
  | chmod c => exact execChmod_memWf c s hm
  | remap c => exact execRemap_memWf c s hm
  | pantry tower frame => exact execPantry_memWf tower frame s hm
  | translationComplete lin seq => exact execTranslationComplete_memWf lin seq s hm
  | transit lin => exact execTransit_memWf lin s hm
  | migrationStart page => exact execMigrationStart_memWf page s hm
  | migrationComplete page => exact execMigrationComplete_memWf page s hm
  | scheduleEntry c index => exact execScheduleEntry_memWf c index s hm
  | queuePerform lin store => exact execQueuePerform_memWf lin store s hm
  | dirtyLineWriteback _ => exact nextMemWf_next.2 (by simp [hm, writeBackOldest_memWf])
  | logAppend page => exact execLogAppend_memWf page s hm
  | logApplyComplete _ => exact nextMemWf_next.2 (by simp [hm, applyDone_memWf])
  | setRequest lin seq => exact execSetRequest_memWf lin seq s hm
  | cpyComplete id => exact execCpyComplete_memWf id s hm
  | chaseComplete id => exact execChaseComplete_memWf id s hm
  | gathComplete id => exact execGathComplete_memWf id s hm
  | sendSourceRead id => exact execSendSourceRead_memWf id s hm
  | ackTimeout plane residue slot => exact execAckTimeout_memWf plane residue slot s hm
  | flitWrite plane residue => exact execFlitWrite_memWf plane residue s hm
  | noticeApply plane index => exact execNoticeApply_memWf plane index s hm
  | wavelengthCheck line err => exact execWavelengthCheck_memWf line err s hm
  | repairReadyDeadline _ | slottabLoadReady _ | reservedMessage _ | managementRequest _ | futureAlloc _ | barrierUnbind _ _ =>
    exact nextMemWf_next.2 (by simp [hm])
  | repairSwitch _ => exact nextMemWf_next.2 (by simp [hm, repairAt_memWf])
  | retuneRelock line => exact execRetuneRelock_memWf line s hm
  | retuneTimeout line => exact execRetuneTimeout_memWf line s hm
  | lanternTakeoverComplete plane => exact execLanternTakeoverComplete_memWf plane s hm
  | autoparkIdle plane band => exact execAutoparkIdle_memWf plane band s hm
  | parkSwitch plane band => exact execParkSwitch_memWf plane band s hm
  | wakeStart plane => exact execWakeStart_memWf plane s hm
  | wakeSwitch plane band => exact execWakeSwitch_memWf plane band s hm
  | calibrationComplete plane peer => exact execCalibrationComplete_memWf plane peer s hm
  | calibrationTimeout plane peer => exact execCalibrationTimeout_memWf plane peer s hm
  | tableSwitchTick plane => exact execTableSwitchTick_memWf plane s hm
  | thermalSample sensors => exact execThermalSample_memWf sensors s hm
  | ageRebase => exact execAgeRebase_memWf s hm
  | counterDecay => exact execCounterDecay_memWf s hm
  | powerTrim => exact execPowerTrim_memWf s hm
  | ticksyncSend => exact execTicksyncSend_memWf s hm
  | peg => exact execPeg_memWf s hm
  | warmReset => exact execWarmReset_memWf s
  | powerOnReset => exact nextMemWf_next.2 (rebooted_memWf s)
  | flitReceive plane residue band pos cw tag => exact execFlitReceive_memWf plane residue band pos cw tag s hm
  | idle _ => exact ctlIn_memWf hm (by simp [hm])
  | credit _ => exact ctlIn_memWf hm (by simp [hm, modPlane_mem])
  | ack _ => exact ctlIn_memWf hm (by grind [modPlane_mem, sendNotices_mem, ackFlit_mem, foldl_memWf])
  | notice m => exact execNotice_memWf m s hm
  | done _ => exact ctlIn_memWf hm (by grind [checkSend_memWf, modSend_mem, endSend_memWf])
  | arrive _ => exact ctlIn_memWf hm (by simp [hm, arriveMsg_mem])
  | ticksync m => exact execTicksync_memWf m s hm
  | prep _ => exact repairIn_memWf hm (by grind [modPlane_mem, sendRepair_mem, prepV_mem])
  | ready _ => exact repairIn_memWf hm (by grind [commitRepair_mem])
  | commit _ => exact repairIn_memWf hm (by grind [modPlane_mem])
  | abort _ => exact repairIn_memWf hm (by grind [modPlane_mem, abortRepair_memWf])
  | park _ | wake _ => exact repairIn_memWf hm (by simp [hm])
  | probe _ => exact repairIn_memWf hm (by grind [modPlane_mem, plan_mem])
  | mcfan _ => exact ctlIn_memWf hm (by grind [modPlane_mem, freePitches_mem, fanOut_mem, foldl_memWf])
  | thermalRetune line => exact execThermalRetune_memWf line s hm
  | lanternFault plane => exact execLanternFault_memWf plane s hm
  | memoryError pa => exact execMemoryError_memWf pa s hm
  | atsInvalidation host => exact execAtsInvalidation_memWf host s hm
  | queueAppend q offset bytes => exact execQueueAppend_memWf q offset bytes s hm
  | hostAccess a => exact execHostAccess_memWf a s hm
  | registerWrite off v => exact execRegisterWrite_memWf off v s hm
  | pairRetirement pair => exact execPairRetirement_memWf pair s hm
  | enable q => exact execEnable_memWf q s hm
  | drain q => exact execDrain_memWf q s hm
  | stop q => exact execStop_memWf q s hm
  | reset q => exact execReset_memWf q s hm
  | build c => exact execBuild_memWf c s hm
  | activate c => exact execActivate_memWf c s hm
  | quiesce c => exact execQuiesce_memWf c s hm
  | resume c => exact execResume_memWf c s hm
  | destroy c => exact execDestroy_memWf c s hm
  | hostfault v => exact execHostfault_memWf v s hm
  | futureFree v => exact execFutureFree_memWf v s hm
  | futureSignal v => exact execFutureSignal_memWf v s hm
  | barrierBind pod index v => exact execBarrierBind_memWf pod index v s hm
  | bringup plane => exact execBringup_memWf plane s hm
  | planeReset plane => exact execPlaneReset_memWf plane s hm
  | snap plane => exact execSnap_memWf plane s hm
  | restore _ => exact nextMemWf_next.2 (by simp [hm, restoreLine_memWf])
  | fabidWrite v => exact execFabidWrite_memWf v s hm
  | modeWrite v => exact execModeWrite_memWf v s hm

theorem run_memWf (i : Instr) (s : State) (hm : s.mem.wf = true) : NextMemWf (run i s) := by
  have h := exec_memWf i s hm
  unfold run
  split
  · rename_i t e
    exact nextMemWf_next.2 (settle_memWf t (h t e))
  · intro t e; cases e
  · intro t e; cases e

theorem step_memWf (s : State) (hm : s.mem.wf = true) : NextMemWf (step s) := by
  unfold step
  split
  · split
    · exact run_memWf _ _ hm
    · intro t e; cases e
  split
  · exact run_memWf _ _ hm
  split
  · exact run_memWf _ _ hm
  · exact nextMemWf_next.2 (settle_memWf _ (tickOnce_memWf s hm))

/-- Settles O60: the model changes memory by a write, by zeroing a page for a pantry and by an upset alone, and each keeps the form
(`write_wf`, `zeroBytes_memWf`, `upset_memWf`); two memories in the form that read alike are equal (`twf_ext`). -/
theorem memoryStaysCanonical : Obligations.MemoryStaysCanonical :=
  ⟨fun s t hm ht => step_memWf s hm t ht, fun _ _ hm hn => twf_ext hm hn⟩

end Sys2Proof.Machine
end

section
/-!
What a write leaves of the bytes, their checks and their poison, and what an atomic writes (O34); what reset leaves (O48).
-/
namespace Sys2Proof.Machine

/-- A write changes the bytes, their checks, their poison and the marks. -/
theorem write_eq (s : State) (pa : Nat) (bs : List Byte) : s.write pa bs =
    { s with mem := (s.write pa bs).mem, badCheck := (s.write pa bs).badCheck, poison := (s.write pa bs).poison, marks := (s.write pa bs).marks } := rfl

theorem reservedWord_write (s : State) (pa : Nat) (bs : List Byte) (off : Nat) : (s.write pa bs).reservedWord off = s.reservedWord off := rfl

/-- Away from the reserved region a read is of the stored bytes (R3). -/
theorem read_eq_getBytes {s : State} {pa n : Nat} (h : s.Apart pa n) : s.read pa n = getBytes s.mem pa n := by
  unfold State.read
  cases e : s.hub.poolAt with
  | none => rfl
  | some b => exact if_pos (by simpa using h b e)

/-- A byte that a write does not touch reads as before, in the reserved region too (R3). -/
theorem read_write_of_outside {s : State} (hm : s.mem.wf = true) {pa a : Nat} {bs : List Byte} (ha : a + 1 ≤ pa ∨ pa + bs.length ≤ a) :
    (s.write pa bs).read a 1 = s.read a 1 := by
  have hub : (s.write pa bs).hub = s.hub := rfl
  have hmem : tget 0 (s.write pa bs).mem a = tget 0 s.mem a := (write_byte hm pa bs a).trans (if_neg (by omega))
  simp only [State.read, hub, reservedWord_write, getBytes, hmem, List.range_one, List.map_cons, List.map_nil, Nat.add_zero]

theorem getBytes_putBytes {m : Memory} (h : m.wf = true) (a : Nat) (bs : List Byte) : getBytes (putBytes m a bs) a bs.length = bs := by
  refine List.ext_getElem (getBytes_length _ _ _) fun k hk hk' => ?_
  have e := getBytes_getD (putBytes m a bs) a bs.length k hk'
  rw [tget_putBytes h, if_pos (by omega), Nat.add_sub_cancel_left] at e
  simpa [List.getD_eq_getElem, hk, hk'] using e

theorem mem_sectorsOf (a n k : Nat) : k ∈ sectorsOf a n ↔ 0 < n ∧ a / 32 ≤ k ∧ k ≤ (a + n - 1) / 32 := by
  unfold sectorsOf
  split
  · simp; omega
  · have : a / 32 ≤ (a + n - 1) / 32 := Nat.div_le_div_right (by omega)
    simp only [List.mem_map, List.mem_range]
    exact ⟨fun ⟨j, hj, e⟩ => by omega, fun h => ⟨k - a / 32, by omega, by omega⟩⟩

/-- Giving the keys of a list one value in a table. -/
theorem tget_foldl_tput {α : Type} [DecidableEq α] {d : α} (v : α) (l : List Nat) {t : Tbl α} (h : twf d t = true) (k : Nat) :
    tget d (l.foldl (fun t k => tput d t k v) t) k = if k ∈ l then v else tget d t k := by
  induction l generalizing t with
  | nil => simp
  | cons j l ih =>
    rw [List.foldl_cons, ih (twf_tput h j v), tget_tput h]
    by_cases h1 : k ∈ l <;> by_cases h2 : k = j <;> simp [h1, h2]

theorem badCheck_write {s : State} (h : twf false s.badCheck = true) (pa : Nat) (bs : List Byte) (k : Nat) :
    tget false (s.write pa bs).badCheck k =
      if bs ≠ [] ∧ pa / 32 ≤ k ∧ k ≤ (pa + bs.length - 1) / 32 then false else tget false s.badCheck k := by
  refine (tget_foldl_tput _ _ h k).trans (if_congr ?_ rfl rfl)
  rw [mem_sectorsOf, List.length_pos_iff]

theorem poison_write {s : State} (h : twf false s.poison = true) (pa : Nat) (bs : List Byte) (k : Nat) :
    tget false (s.write pa bs).poison k =
      if pa ≤ 32 * k ∧ 32 * k + 32 ≤ pa + bs.length then false else tget false s.poison k := by
  refine (tget_foldl_tput _ _ h k).trans (if_congr ?_ rfl rfl)
  rw [List.mem_filter, mem_sectorsOf]
  simp only [Bool.and_eq_true, decide_eq_true_eq]
  exact ⟨fun h => h.2, fun h => ⟨by omega, h⟩⟩

theorem signedOf_eq_ite (n v : Nat) : signedOf n v = if v < 2 ^ (n - 1) then (v : Int) else v - 2 ^ n := by
  unfold signedOf
  split <;> split <;> omega

/-- R337: the smaller and the larger of two operands as signed numbers. -/
theorem signedOf_amoMin {n m v : Nat} (hm : m < 2 ^ n) (hv : v < 2 ^ n) :
    signedOf n (amoOp 2 n m v) = min (signedOf n m) (signedOf n v) := by
  simp only [amoOp, Nat.mod_eq_of_lt hm, Nat.mod_eq_of_lt hv]
  split <;> omega
theorem signedOf_amoMax {n m v : Nat} (hm : m < 2 ^ n) (hv : v < 2 ^ n) :
    signedOf n (amoOp 3 n m v) = max (signedOf n m) (signedOf n v) := by
  simp only [amoOp, Nat.mod_eq_of_lt hm, Nat.mod_eq_of_lt hv]
  split <;> omega

/-- Settles O34: the bytes, the checks and the poison are read back from the tables a write puts them in; of an atomic only the
signed minimum and maximum are not the function itself. -/
theorem memoryBytes : Obligations.MemoryBytes := by
  refine ⟨fun s pa bs hm => ⟨write_eq s pa bs, write_wf hm pa bs, write_byte hm pa bs, fun ha => ?_, fun a ha => read_write_of_outside hm ha,
    natOfBytes_leBytes, fun h => badCheck_write h pa bs, fun h => poison_write h pa bs⟩, fun n m v _ hm hv => ?_⟩
  · rw [read_eq_getBytes (show (s.write pa bs).Apart pa bs.length from ha)]
    exact getBytes_putBytes hm pa bs
  · simp only [← signedOf_eq_ite]
    refine ⟨?_, signedOf_amoMin hm hv, signedOf_amoMax hm hv, ?_⟩ <;> simp [amoOp, Nat.mod_eq_of_lt hm, Nat.mod_eq_of_lt hv]

/-- Settles O48: reset's tables are empty, so every read of one gives the entry's default, and a warm reset of the reset state changes
the fabric id alone. (That a link's default is DARK and no table is active is the model's choice, notes/assumptions/10.md.) -/
theorem resetLeaves : Obligations.ResetLeaves := by
  have noLink (p : Plane) (peer : Nat) : (State.reset.plane p).link peer = .dark := by cases p <;> rfl
  have noTable (p : Plane) : (State.reset.plane p).active = none := by cases p <;> rfl
  have idle (lin : Nat) : (State.reset.coreAt lin).task = none := by
    unfold State.coreAt
    split <;> rfl
  exact ⟨rfl, rfl, fun _ => rfl, fun _ => rfl, fun _ => rfl, fun _ => rfl, idle, fun _ => rfl, rfl, rfl, noLink, noTable, rfl, rfl, fun _ => rfl⟩

end Sys2Proof.Machine
end

section
/-!
What the host does: futures, barriers, the mode, registers, memory and resets; what a temperature sample does (O58).
-/
namespace Sys2Proof.Machine

/-! ### Futures -/

theorem firstFrom_eq_some {p : Nat → Bool} {lo n i : Nat} (hlo : lo ≤ i) (hi : i < lo + n) (hp : p i = true)
    (hmin : ∀ j, lo ≤ j → j < i → p j = false) : firstFrom p lo n = some i := by
  induction n generalizing lo with
  | zero => omega
  | succ n ih =>
    unfold firstFrom
    by_cases e : lo = i
    · rw [e, if_pos hp]
    · rw [if_neg (by rw [hmin lo (by omega) (by omega)]; decide)]
      exact ih (by omega) (by omega) fun j hj => hmin j (by omega)
theorem firstFrom_eq_none {p : Nat → Bool} {lo n : Nat} (hp : ∀ j, lo ≤ j → j < lo + n → p j = false) : firstFrom p lo n = none := by
  induction n generalizing lo with
  | zero => rfl
  | succ n ih =>
    unfold firstFrom
    rw [if_neg (by rw [hp lo (by omega) (by omega)]; decide)]
    exact ih fun j hj hn => hp j (by omega) (by omega)

/-- The lowest free entry is the one allocated (R150). -/
theorem allocFuture_lowest {s : State} {i : Nat} (c : Nat) (h1 : 1 ≤ i) (hi : i < 2 ^ 20) (hfree : (s.fut i).state = .free)
    (hmin : ∀ j, 1 ≤ j → j < i → (s.fut j).state ≠ .free) : s.allocFuture c =
      let u := s.modFut i fun f => { gen := f.gen, state := .empty, ctx := c }
      (u.futHandle i, u) := by
  unfold State.allocFuture
  rw [firstFrom_eq_some h1 (by omega) (by simp [hfree]) fun j hj hji => by simp [hmin j hj hji]]
theorem allocFuture_full {s : State} (c : Nat) (h : ∀ j, 1 ≤ j → j < 2 ^ 20 → (s.fut j).state ≠ .free) : s.allocFuture c = (0, s) := by
  unfold State.allocFuture
  rw [firstFrom_eq_none fun j hj hn => by simp [h j hj (by omega)]]

theorem futureAlloc_lowest {s : State} {c i : Nat} (hc : c < 64) (h1 : 1 ≤ i) (hi : i < 2 ^ 20) (hfree : (s.fut i).state = .free)
    (hmin : ∀ j, 1 ≤ j → j < i → (s.fut j).state ≠ .free) (h : twf {} s.futs = true) : ∃ u : State,
      exec (.futureAlloc c) s =
        .next ({ u with outbox := u.outbox ++ [Out.read (leBytes (i + (s.fut i).gen.toNat * 2 ^ 20) 8) false] }.rank 2 i 0) ∧
      u = { s with futs := u.futs } ∧ u.fut i = { gen := (s.fut i).gen, state := .empty, ctx := c } ∧ ∀ j, j ≠ i → u.fut j = s.fut j := by
  let f (x : Fut) : Fut := { gen := x.gen, state := .empty, ctx := c }
  have self : (s.modFut i f).fut i = f (s.fut i) := (fut_modFut h i f i).trans (if_pos rfl)
  have other (j : Nat) (hj : j ≠ i) : (s.modFut i f).fut j = s.fut j := (fut_modFut h i f j).trans (if_neg hj)
  have handle : (s.modFut i f).futHandle i = i + (s.fut i).gen.toNat * 2 ^ 20 := by rw [State.futHandle, self]
  have index : futIndex (i + (s.fut i).gen.toNat * 2 ^ 20) = i := by unfold futIndex; omega
  refine ⟨s.modFut i f, ?_, rfl, self, other⟩
  show execFutureAlloc c s = _
  unfold execFutureAlloc
  rw [Nat.mod_eq_of_lt hc, allocFuture_lowest c h1 hi hfree hmin]
  show (.next (((s.modFut i f).reply ((s.modFut i f).futHandle i)).rank 2 (futIndex ((s.modFut i f).futHandle i)) 0) : Res) = _
  rw [handle, index]
  rfl

theorem futureAlloc_full {s : State} (c : Nat) (h : ∀ j, 1 ≤ j → j < 2 ^ 20 → (s.fut j).state ≠ .free) :
    exec (.futureAlloc c) s = .next ((s.reply 0).rank 2 0 0) := by
  show execFutureAlloc c s = _
  unfold execFutureAlloc
  rw [allocFuture_full _ h]
  rfl

/-- The entry k ends as r, and the tasks that wait for it become READY; nothing else but the rank changes (R153). -/
def HostEnds (s : State) (k : Nat) (i : Instr) (r : Fut) : Prop :=
  ∃ t, exec i s = .next t ∧ t = { s.rank 2 k 0 with futs := t.futs, tasks := t.tasks } ∧
    (twf {} s.futs = true → t.fut k = r ∧ ∀ j, j ≠ k → t.fut j = s.fut j) ∧
    Wakes s t fun w => w.wkind = 1 ∧ w.wobj % 2 ^ 20 = k ∧ w.ctx = (s.fut k).ctx

section
variable {s : State} {v : Word} {h k : Nat} (hh : v.toNat % 2 ^ 32 = h) (hk : h % 2 ^ 20 = k)
include hh hk

theorem futureFree_live (hl : s.FutLive h (s.fut k).ctx) : HostEnds s k (.futureFree v) { gen := (s.fut k).gen + 1 } := by
  subst hh hk
  obtain ⟨hs, hf, hw⟩ := freeFuture_spec (s.rank 2 (v.toNat % 2 ^ 32 % 2 ^ 20) 0) (v.toNat % 2 ^ 32 % 2 ^ 20)
  exact ⟨_, if_neg (ne_true_of_eq_false (futStale_false hl)), hs, fun h => ⟨(hf h).2, (hf h).1⟩, hw⟩
theorem futureSignal_live (hl : s.FutLive h (s.fut k).ctx) (he : (s.fut k).state = .empty) :
    HostEnds s k (.futureSignal v) { s.fut k with state := .set, value := s.hub.fwValue, rscope := 3 } := by
  subst hh hk
  obtain ⟨hs, hf, hw⟩ := endFuture_spec (s.rank 2 (v.toNat % 2 ^ 32 % 2 ^ 20) 0) (v.toNat % 2 ^ 32 % 2 ^ 20) (.set s.hub.fwValue) 3
  refine ⟨_, if_neg ?_, hs, fun h => ⟨(hf h).2, (hf h).1⟩, hw⟩
  rw [Bool.or_eq_true, bne_iff_ne, not_or, not_not]
  exact ⟨ne_true_of_eq_false (futStale_false hl), he⟩
theorem futureFree_stale (hl : ¬s.FutLive h (s.fut k).ctx) :
    exec (.futureFree v) s = .next ((s.rank 2 k 0).event 0x07 (some (s.fut k).ctx) h 2) := by
  subst hh hk
  exact if_pos ((futStale_iff (s.rank 2 _ 0) _ _).2 hl)
theorem futureSignal_late (hl : ¬s.FutLive h (s.fut k).ctx ∨ (s.fut k).state ≠ .empty) :
    exec (.futureSignal v) s = .next ((s.rank 2 k 0).event 0x07 (some (s.fut k).ctx) h 2) := by
  subst hh hk
  refine if_pos ?_
  rw [Bool.or_eq_true, bne_iff_ne]
  exact hl.imp_left (futStale_iff (s.rank 2 _ 0) _ _).2
end

/-! ### Barriers -/

/-- A barrier as BIND leaves it (R166). -/
def Barrier.bindTo (b : Barrier) (v : Word) : Barrier :=
  if b.bound = true then { b with ctx := (v.extractLsb' 56 6).toNat } else { bound := true, ctx := (v.extractLsb' 56 6).toNat }
/-- A bound barrier as UNBIND leaves it (R166). -/
def Barrier.released (b : Barrier) : Barrier := { b with bound := false, lost := false, lostSeat := 0, got := 0, gotNext := 0 }

theorem hostBar_device {i : Nat} (h : i < 4096) : hostBar false i = .device i := congrArg BarRef.device (Nat.mod_eq_of_lt h)
theorem hostBar_pod {i : Nat} (h : i < 256) : hostBar true i = .pod i := congrArg BarRef.pod (Nat.mod_eq_of_lt h)

theorem barrierBind_device (s : State) {i : Nat} (v : Word) (h : i < 4096) :
    exec (.barrierBind false i v) s = .next { s with devBars := tput {} s.devBars i ((s.devBar i).bindTo v) } := by
  show execBarrierBind false i v s = _
  rw [execBarrierBind, hostBar_device h]
  rfl
theorem barrierBind_pod (s : State) {i : Nat} (v : Word) (h : i < 256) :
    exec (.barrierBind true i v) s = .next { s with podBars := tput {} s.podBars i ((s.podBar i).bindTo v) } := by
  show execBarrierBind true i v s = _
  rw [execBarrierBind, hostBar_pod h]
  rfl

theorem unbind_unbound {s : State} {r : BarRef} (h : (s.bar r).bound = false) : s.unbind r = s := if_neg (by simp [h])
theorem unbind_bound {s : State} {r : BarRef} (h : (s.bar r).bound = true) :
    s.unbind r = (s.wakeAll (s.barWaiters r)).modBar r Barrier.released := if_pos h

theorem barrierUnbind_free {s : State} {i : Nat} (h : i < 4096) (hb : (s.devBar i).bound = false) :
    exec (.barrierUnbind false i) s = .next s := by
  show execBarrierUnbind false i s = _
  rw [execBarrierUnbind, hostBar_device h, unbind_unbound (by exact hb)]
theorem barrierUnbind_device {s : State} {i : Nat} (h : i < 4096) (hb : (s.devBar i).bound = true) :
    ∃ t, exec (.barrierUnbind false i) s = .next t ∧ t = { s with devBars := t.devBars, tasks := t.tasks } ∧
      (twf {} s.devBars = true → t.devBar i = (s.devBar i).released) := by
  refine ⟨s.unbind (.device i), ?_, ?_, ?_⟩
  · show execBarrierUnbind false i s = _
    rw [execBarrierUnbind, hostBar_device h]
  · rw [unbind_bound (by exact hb), wakeAll_eq]
    rfl
  · intro hd
    rw [unbind_bound (by exact hb)]
    simp only [State.modBar, State.devBar, wakeAll_devBars]
    rw [tget_tmod hd, if_pos rfl]
theorem barrierUnbind_pod {s : State} {i : Nat} (h : i < 256) (hb : (s.podBar i).bound = true) :
    ∃ t, exec (.barrierUnbind true i) s = .next t ∧ t = { s with podBars := t.podBars, tasks := t.tasks } ∧
      (twf {} s.podBars = true → t.podBar i = (s.podBar i).released) := by
  refine ⟨s.unbind (.pod i), ?_, ?_, ?_⟩
  · show execBarrierUnbind true i s = _
    rw [execBarrierUnbind, hostBar_pod h]
  · rw [unbind_bound (by exact hb), wakeAll_eq]
    rfl
  · intro hd
    rw [unbind_bound (by exact hb)]
    simp only [State.modBar, State.podBar, wakeAll_podBars]
    rw [tget_tmod hd, if_pos rfl]

/-! ### The mode, the fabric id, the management port, the resets -/

/-- A field of a word, as a number. -/
theorem toNat_field (v : Word) (lo n : Nat) : (v.extractLsb' lo n).toNat = v.toNat / 2 ^ lo % 2 ^ n := by
  rw [BitVec.extractLsb'_toNat, Nat.shiftRight_eq_div_pow]
theorem toNat_lowField (v : Word) (n : Nat) : (v.extractLsb' 0 n).toNat = v.toNat % 2 ^ n := by
  rw [toNat_field, Nat.pow_zero, Nat.div_one]
theorem lowField_eq (v : Word) (n : Nat) : v.extractLsb' 0 n = v.setWidth n :=
  BitVec.eq_of_toNat_eq (by rw [toNat_lowField, BitVec.toNat_setWidth])

theorem modeWrite_reserved {s : State} {v : Word} (h : v.toNat % 4 = 3 ∨ v.toNat / 4 % 4 = 3) : exec (.modeWrite v) s = .next s :=
  if_pos (by rw [toNat_lowField, toNat_field]; simpa using h)
theorem modeWrite_pends {s : State} {v : Word} (hc : v.toNat % 4 ≠ 3) (hp : v.toNat / 4 % 4 ≠ 3) : exec (.modeWrite v) s =
    .next (({ s with hub := { s.hub with pendMode := some (v.toNat % 4, v.toNat / 4 % 4) } } : State).event 0x2A none
      (v.toNat % 4 + v.toNat / 4 % 4 * 4) (s.hub.cap + s.hub.profile * 4)) := by
  show execModeWrite v s = _
  unfold execModeWrite
  rw [toNat_lowField, toNat_field]
  exact if_neg (by simpa using ⟨hc, hp⟩)

theorem allDark_iff (s : State) : s.allDark = true ↔ s.planeX.links = [] ∧ s.planeY.links = [] := by simp [State.allDark]
theorem fabidWrite_dark {s : State} (v : Word) (hx : s.planeX.links = []) (hy : s.planeY.links = []) :
    exec (.fabidWrite v) s = .next { s with hub := { s.hub with fabid := v.setWidth 11 } } := by
  rw [← lowField_eq]
  exact if_pos ((allDark_iff s).2 ⟨hx, hy⟩)
theorem fabidWrite_lit {s : State} (v : Word) (h : s.planeX.links ≠ [] ∨ s.planeY.links ≠ []) : exec (.fabidWrite v) s = .next s :=
  if_neg (by rw [allDark_iff]; exact not_and_or.2 h)

theorem exec_deviceReset {s : State} {i : Instr} (h : i = .warmReset ∨ i = .powerOnReset) : exec i s = .next s.rebooted := by
  rcases h with rfl | rfl <;> rfl

/-! ### Writes of registers: what each range of offsets reaches (R443) -/

theorem registerWrite_unaligned (s : State) (v : Word) {off : Nat} (h : off % 8 ≠ 0) : exec (.registerWrite off v) s = .next s := if_pos h

section
variable {s : State} (hb : s.hub.boot ≠ .recovery) (v : Word) {off : Nat}
include hb

theorem registerWrite_device (h : off % 8 = 0) (hlt : off < 0x10000) : exec (.registerWrite off v) s = s.devWrite off v := by
  show execRegisterWrite off v s = _
  simp (disch := omega) only [execRegisterWrite, beq_false_of_ne hb, Bool.false_eq_true, if_false, if_neg, if_pos]
theorem registerWrite_context {c w : Nat} (e : off = 0x10000 + 32 * c + 8 * w) (hc : c < 64) (hw : w < 4) :
    exec (.registerWrite off v) s = s.ctxWrite c w v := by
  show execRegisterWrite off v s = _
  simp (disch := omega) only [execRegisterWrite, beq_false_of_ne hb, Bool.false_eq_true, if_false, if_neg, if_pos]
  rw [show (off - 0x10000) / 32 = c by omega, show off / 8 % 4 = w by omega]
theorem registerWrite_queue {q w : Nat} (e : off = 0x20000 + 32 * q + 8 * w) (hq : q < 1024) (hw : w < 4) :
    exec (.registerWrite off v) s = s.queueWrite q w v := by
  show execRegisterWrite off v s = _
  simp (disch := omega) only [execRegisterWrite, beq_false_of_ne hb, Bool.false_eq_true, if_false, if_neg, if_pos]
  rw [show (off - 0x20000) / 32 = q by omega, show off / 8 % 4 = w by omega]
theorem registerWrite_barrier {i : Nat} (e : off = 0x40000 + 16 * i) (hi : i < 4096) :
    exec (.registerWrite off v) s = s.barrierWrite false i v := by
  show execRegisterWrite off v s = _
  simp (disch := omega) only [execRegisterWrite, beq_false_of_ne hb, Bool.false_eq_true, if_false, if_neg, if_pos]
  rw [show (off - 0x40000) / 16 = i by omega]
theorem registerWrite_planeX {d : Nat} (e : off = 0x60000 + d) (h : d % 8 = 0) (hd : d < 0x10000) :
    exec (.registerWrite off v) s = s.planeWrite .x d v := by
  show execRegisterWrite off v s = _
  simp (disch := omega) only [execRegisterWrite, beq_false_of_ne hb, Bool.false_eq_true, if_false, if_neg, if_pos]
  rw [show off - 0x60000 = d by omega]
theorem registerWrite_planeY {d : Nat} (e : off = 0x70000 + d) (h : d % 8 = 0) (hd : d < 0x10000) :
    exec (.registerWrite off v) s = s.planeWrite .y d v := by
  show execRegisterWrite off v s = _
  simp (disch := omega) only [execRegisterWrite, beq_false_of_ne hb, Bool.false_eq_true, if_false, if_neg, if_pos]
  rw [show off - 0x70000 = d by omega]
theorem registerWrite_reservation (e : off = 0x80000) :
    exec (.registerWrite off v) s = .next { s with hub := { s.hub with resNext := some v } } := by
  show execRegisterWrite off v s = _
  simp (disch := omega) only [execRegisterWrite, beq_false_of_ne hb, Bool.false_eq_true, if_false, if_neg, if_pos]
  rfl
theorem registerWrite_window (h : off % 8 = 0) (hlo : 0x100000 ≤ off) : exec (.registerWrite off v) s = s.windowWrite off v := by
  show execRegisterWrite off v s = _
  simp (disch := omega) only [execRegisterWrite, beq_false_of_ne hb, Bool.false_eq_true, if_false, if_neg]

/-- A LOW of the log pool above FREE that was not above it before is noted (R368). -/
theorem registerWrite_logLow {low : Nat} (hl : v.toNat / 2 ^ 32 % 2 ^ 24 = low) (e : off = 0x80008) : exec (.registerWrite off v) s =
    let u : State := { s with hub := { s.hub with logLow := low } }
    .next (if s.hub.logFree < low ∧ s.hub.logLow ≤ s.hub.logFree then u.event 0x17 none s.hub.logFree 0 else u) := by
  show execRegisterWrite off v s = _
  simp (disch := omega) only [execRegisterWrite, beq_false_of_ne hb, Bool.false_eq_true, if_false, if_neg, if_pos]
  rw [toNat_field, hl]
  refine congrArg Host.Outcome.next (if_congr ?_ rfl rfl)
  simp
/-- A LOW of a pantry above COUNT that was not above it before is noted (R360). -/
theorem registerWrite_pantryLow {t low : Nat} (ht : t < 8) (hl : v.toNat / 2 ^ 16 % 2 ^ 13 = low) (e : off = 0x80010 + 8 * t) :
    exec (.registerWrite off v) s =
      let n := (s.pantry t).frames.length
      let u : State := { s with pantries := tput {} s.pantries t { s.pantry t with low := low } }
      .next (if n < low ∧ (s.pantry t).low ≤ n then u.event 0x14 none t n else u) := by
  show execRegisterWrite off v s = _
  simp (disch := omega) only [execRegisterWrite, beq_false_of_ne hb, Bool.false_eq_true, if_false, if_neg, if_pos]
  rw [toNat_field, hl, show (off - 0x80010) / 8 = t by omega]
  refine congrArg Host.Outcome.next (if_congr ?_ rfl rfl)
  simp
end

theorem pgcmd_accepted {s : State} {v : Word} (hs : s.hub.pwStatus ≠ 1) (h1 : 1 ≤ v.toNat % 8) (h5 : v.toNat % 8 ≤ 5) : s.pgcmd v =
    { s with hub := { s.hub with
        pwStatus := 1
        pwCmd := some { op := v.toNat % 8, ctx := v.toNat / 2 ^ 8 % 64, tower := v.toNat / 2 ^ 16 % 8, va := s.hub.pwVa.toNat,
                        entry := s.hub.pwEntry.toNat, level := s.hub.pwLevel.toNat } } } := by
  rw [State.pgcmd, if_neg hs, toNat_lowField, toNat_field, toNat_field]
  exact if_neg (by simp; omega)

section
variable {s : State} (hb : s.hub.boot ≠ .recovery) {v : Word} {off : Nat}
include hb

/-- R91, R92: word 0 of a context's descriptor gives the command it names. -/
theorem registerWrite_ctxctl {c : Nat} (hc : c < 64) (e : off = 0x10000 + 32 * c) :
    let sameAs (i : Instr) : Prop := exec (.registerWrite off v) s = exec i s
    (v.toNat / 16 % 16 = 1 → sameAs (.build c)) ∧ (v.toNat / 16 % 16 = 2 → sameAs (.activate c)) ∧
    (v.toNat / 16 % 16 = 3 → sameAs (.quiesce c)) ∧ (v.toNat / 16 % 16 = 4 → sameAs (.resume c)) ∧
    (v.toNat / 16 % 16 = 5 → sameAs (.destroy c)) ∧ (5 < v.toNat / 16 % 16 → exec (.registerWrite off v) s = .next s) := by
  have reach := registerWrite_context hb v (c := c) (w := 0) (off := off) (by omega) hc (by omega)
  have op : (v.extractLsb' 4 4).toNat = v.toNat / 16 % 16 := toNat_field v 4 4
  simp only [reach, State.ctxWrite, op]
  refine ⟨fun h => ?_, fun h => ?_, fun h => ?_, fun h => ?_, fun h => ?_, fun h => ?_⟩
  case refine_6 =>
    obtain ⟨n, hn⟩ : ∃ n, v.toNat / 16 % 16 = n + 6 := ⟨v.toNat / 16 % 16 - 6, by omega⟩
    rw [hn]
    rfl
  all_goals rw [h]; rfl
/-- R92: PTROOT is written while the context is BUILDING. -/
theorem registerWrite_ptroot {c : Nat} (hc : c < 64) (e : off = 0x10008 + 32 * c) :
    let writes (u : State) : Prop := exec (.registerWrite off v) s = .next u
    ((s.ctx c).state = .building → writes { s with ctxs := tput {} s.ctxs c { s.ctx c with ptroot := v.toNat / 2 ^ 12 % 2 ^ 45 } }) ∧
    ((s.ctx c).state ≠ .building → writes { s with ctxs := tput {} s.ctxs c { s.ctx c with cerr := 1 } }) := by
  have reach := registerWrite_context hb v (c := c) (w := 1) (off := off) (by omega) hc (by omega)
  rw [reach, ← toNat_field v 12 45]
  exact ⟨fun h => if_pos (beq_iff_eq.2 h), fun h => if_neg (mt beq_iff_eq.1 h)⟩
/-- R101: a queue's size and base are written while it is DISABLED. -/
theorem registerWrite_queueBase {q : Nat} (hq : q < 1024) (e : off = 0x20008 + 32 * q) :
    let writes (u : State) : Prop := exec (.registerWrite off v) s = .next u
    ((s.queue q).state = .disabled → writes { s with
      queues := tput {} s.queues q { s.queue q with log2n := v.toNat % 32, rbase := v.toNat / 2 ^ 12 % 2 ^ 45 * 4096 } }) ∧
    ((s.queue q).state ≠ .disabled → writes s) := by
  have reach := registerWrite_queue hb v (q := q) (w := 1) (off := off) (by omega) hq (by omega)
  have size : (v.extractLsb' 0 5).toNat = v.toNat % 32 := toNat_lowField v 5
  rw [reach, ← toNat_field v 12 45, ← size]
  exact ⟨fun h => congrArg Host.Outcome.next (if_pos (beq_iff_eq.2 h)), fun h => congrArg Host.Outcome.next (if_neg (mt beq_iff_eq.1 h))⟩
/-- R101: a command of a queue that is not DISABLED. -/
theorem registerWrite_queueCommand {q : Nat} (hq : q < 1024) (e : off = 0x20000 + 32 * q) (hs : (s.queue q).state ≠ .disabled) :
    let sameAs (i : Instr) : Prop := exec (.registerWrite off v) s = exec i s
    (v.toNat / 16 % 8 = 1 → sameAs (.enable q)) ∧ (v.toNat / 16 % 8 = 2 → sameAs (.drain q)) ∧
    (v.toNat / 16 % 8 = 3 → sameAs (.stop q)) ∧ (v.toNat / 16 % 8 = 4 → sameAs (.reset q)) := by
  have reach := registerWrite_queue hb v (q := q) (w := 0) (off := off) (by omega) hq (by omega)
  have op : (v.extractLsb' 4 3).toNat = v.toNat / 16 % 8 := toNat_field v 4 3
  simp only [reach, State.queueWrite, op, beq_false_of_ne hs, Bool.false_eq_true, if_false]
  refine ⟨fun h => ?_, fun h => ?_, fun h => ?_, fun h => ?_⟩
  all_goals rw [h]; rfl
/-- R166: a write of a device barrier binds it, or unbinds it and sets its context. -/
theorem registerWrite_barrierBind {i : Nat} (hi : i < 4096) (e : off = 0x40000 + 16 * i) :
    (v.getLsbD 62 = true → exec (.registerWrite off v) s = exec (.barrierBind false i v) s) ∧
    (v.getLsbD 62 = false → ∃ t, exec (.barrierUnbind false i) s = .next t ∧ exec (.registerWrite off v) s =
      .next { t with devBars := tput {} t.devBars i { t.devBar i with ctx := (v.extractLsb' 56 6).toNat } }) := by
  rw [registerWrite_barrier hb v e hi]
  refine ⟨fun h => if_pos h, fun h => ⟨s.unbind (hostBar false i), rfl, ?_⟩⟩
  rw [State.barrierWrite, if_neg (ne_true_of_eq_false h), hostBar_device hi]
  rfl
/-- R446: a page command is taken in when none is in progress. -/
theorem registerWrite_pgcmd (e : off = 0x100018) (hs : s.hub.pwStatus ≠ 1) (h1 : 1 ≤ v.toNat % 8) (h5 : v.toNat % 8 ≤ 5) :
    let cmd : PageCmd := { op := v.toNat % 8, ctx := v.toNat / 2 ^ 8 % 64, tower := v.toNat / 2 ^ 16 % 8, va := s.hub.pwVa.toNat,
                           entry := s.hub.pwEntry.toNat, level := s.hub.pwLevel.toNat }
    exec (.registerWrite off v) s = .next { s with hub := { s.hub with pwStatus := 1, pwCmd := some cmd } } := by
  subst e
  rw [registerWrite_window hb v (by decide) (by decide)]
  exact congrArg Host.Outcome.next (pgcmd_accepted hs h1 h5)
/-- R445, R446: registers of the page window and the future window. -/
theorem registerWrite_windows :
    let writes (u : State) : Prop := exec (.registerWrite off v) s = .next u
    let sameAs (i : Instr) : Prop := exec (.registerWrite off v) s = exec i s
    (off = 0x100000 → writes { s with hub := { s.hub with pwVa := v } }) ∧ (off = 0x200800 → sameAs (.futureFree v)) ∧
    (off = 0x200808 → sameAs (.futureSignal v)) ∧ (off = 0x200810 → writes { s with hub := { s.hub with fwValue := v } }) := by
  refine ⟨fun e => ?_, fun e => ?_, fun e => ?_, fun e => ?_⟩ <;> subst e <;> exact registerWrite_window hb v (by decide) (by decide)
/-- R422: FABPOL and FABCMD of a plane. -/
theorem registerWrite_planes :
    let sameAs (i : Instr) : Prop := exec (.registerWrite off v) s = exec i s
    (off = 0x60008 → v.toNat % 16 = 1 → sameAs (.bringup .x)) ∧ (off = 0x70008 → v.toNat % 16 = 2 → sameAs (.planeReset .y)) ∧
    (off = 0x60008 → v.toNat % 16 = 3 → sameAs (.snap .x)) ∧ (off = 0x70000 → exec (.registerWrite off v) s =
      .next { s with planeY := { s.planeY with polNext := some (FabPol.ofWord v.toNat) } }) := by
  have op : (v.extractLsb' 0 4).toNat = v.toNat % 16 := toNat_lowField v 4
  refine ⟨fun e h => ?_, fun e h => ?_, fun e h => ?_, fun e => ?_⟩
  · rw [registerWrite_planeX hb v (d := 8) e rfl (by decide)]
    simp only [State.planeWrite, op, h]
    rfl
  · rw [registerWrite_planeY hb v (d := 8) e rfl (by decide)]
    simp only [State.planeWrite, op, h]
    rfl
  · rw [registerWrite_planeX hb v (d := 8) e rfl (by decide)]
    simp only [State.planeWrite, op, h]
    rfl
  · exact registerWrite_planeY hb v (d := 0) e rfl (by decide)
/-- R444: the device registers. -/
theorem registerWrite_deviceRegisters :
    let writes (u : State) : Prop := exec (.registerWrite off v) s = .next u
    let sameAs (i : Instr) : Prop := exec (.registerWrite off v) s = exec i s
    (off = 0x10 → sameAs (.modeWrite v)) ∧ (off = 0x20 → sameAs (.hostfault v)) ∧ (off = 0x58 → sameAs (.fabidWrite v)) ∧
    (off = 0x18 → writes { s with hub := { s.hub with pasidBase := v.setWidth 20 } }) ∧
    (off = 0x28 → writes { s with hub := { s.hub with evbase := v.toNat / 2 ^ 12 % 2 ^ 45 * 2 ^ 12 } }) ∧
    (off = 0x38 → writes { s with hub := { s.hub with evhead := v.setWidth 32 } }) ∧
    (off = 0x50 → v.getLsbD 0 = true → sameAs .warmReset) := by
  rw [← lowField_eq v 20, ← lowField_eq v 32, ← toNat_field v 12 45]
  refine ⟨fun e => ?_, fun e => ?_, fun e => ?_, fun e => ?_, fun e => ?_, fun e => ?_, fun e h => ?_⟩ <;> subst e
  case refine_7 => exact (registerWrite_device hb v (by decide) (by decide)).trans (if_pos h)
  all_goals exact registerWrite_device hb v (by decide) (by decide)
end

/-! ### The host's accesses to memory and to BAR 4 (R374, R442, R452) -/

theorem forceLogs_noPages {s : State} (h : s.pages = []) (pa n : Nat) : s.forceLogs pa n = s := by
  unfold State.forceLogs
  rw [h]
  rfl
/-- A check that finds every sector's code fresh changes nothing (R21). -/
theorem verify_fresh {s : State} {l : List Nat} (h : ∀ k ∈ l, tget false s.badCheck k = false) (point : Nat) (c : Option Nat) :
    s.verify l point c = s := by
  unfold State.verify
  induction l with
  | nil => rfl
  | cons k l ih =>
    rw [List.foldl_cons, if_neg (by simp [h k])]
    exact ih fun j hj => h j (List.mem_cons_of_mem k hj)

section
variable {s : State} {a : Nat} (ha : a < 2 ^ 61)
include ha

theorem hostAccess_beyond {n : Nat} (h : Config.cellarBytes < a + n) :
    exec (.hostAccess { addr := a, len := n, bytes := none }) s = .next s := by
  refine (if_neg (Nat.not_le_of_lt ha)).trans (if_pos ?_)
  rw [Bool.or_eq_true, decide_eq_true_eq]
  exact .inr h
theorem hostAccess_read {n : Nat} (hb : s.hub.boot ≠ .recovery) (hp : s.pages = []) (h : a + n ≤ Config.cellarBytes)
    (hc : ∀ k ∈ sectorsOf a n, tget false s.badCheck k = false) : exec (.hostAccess { addr := a, len := n, bytes := none }) s =
      .next { s with outbox := s.outbox ++ [.read (s.read a n) (s.poisoned a n)] } := by
  show execHostAccess { addr := a, len := n, bytes := none } s = _
  have device : ¬bar4Base ≤ a := Nat.not_le_of_lt ha
  have room : ¬(s.hub.boot == .recovery || decide (a + n > Config.cellarBytes)) = true := by simp [hb, h]
  simp only [execHostAccess, if_neg device, if_neg room, forceLogs_noPages hp, verify_fresh hc]
  rfl
theorem hostAccess_write {n : Nat} {bs : List Byte} (hb : s.hub.boot ≠ .recovery) (hp : s.pages = [])
    (h : a + bs.length ≤ Config.cellarBytes) : exec (.hostAccess { addr := a, len := n, bytes := some bs }) s = .next (s.write a bs) := by
  show execHostAccess { addr := a, len := n, bytes := some bs } s = _
  have device : ¬bar4Base ≤ a := Nat.not_le_of_lt ha
  have room : ¬(s.hub.boot == .recovery || decide (a + bs.length > Config.cellarBytes)) = true := by simp [hb, h]
  simp only [execHostAccess, if_neg device, if_neg room, forceLogs_noPages hp]
end

/-- The staging window with bytes put at an offset, those beyond the window dropped (R452). -/
def staged (m : Memory) (off : Nat) (bs : List Byte) : Memory :=
  (bs.zip (List.range bs.length)).foldl (fun t b => if off + b.2 < 0x800000 then tput 0 t (off + b.2) b.1 else t) m

theorem foldl_staged_eq_putBytes (off lo : Nat) (bs : List Byte) (m : Memory) (h : off + lo + bs.length ≤ 0x800000) :
    (bs.zip (List.range' lo bs.length)).foldl (fun t b => if off + b.2 < 0x800000 then tput 0 t (off + b.2) b.1 else t) m =
      putBytes m (off + lo) bs := by
  induction bs generalizing m lo with
  | nil => rfl
  | cons b bs ih =>
    rw [List.length_cons] at h ⊢
    rw [List.range'_succ, List.zip_cons_cons, List.foldl_cons, if_pos (by simp only; omega), ih (lo + 1) _ (by omega)]
    rfl
theorem staged_eq_putBytes {off : Nat} {bs : List Byte} (m : Memory) (h : off + bs.length ≤ 0x800000) : staged m off bs = putBytes m off bs := by
  unfold staged
  rw [List.range_eq_range']
  exact foldl_staged_eq_putBytes off 0 bs m h

theorem hostAccess_stages (s : State) (off n : Nat) (bs : List Byte) : exec (.hostAccess { addr := 2 ^ 61 + off, len := n, bytes := some bs }) s =
    .next { s with hub := { s.hub with staging := staged s.hub.staging off bs } } := by
  show execHostAccess { addr := 2 ^ 61 + off, len := n, bytes := some bs } s = _
  have base : 2 ^ 61 + off - bar4Base = off := Nat.add_sub_cancel_left _ _
  simp only [execHostAccess, if_pos (show bar4Base ≤ 2 ^ 61 + off from Nat.le_add_right _ _), base]
  rfl

/-! ### Temperatures (R455, R456) -/

/-- An event changes of the hub only the larder's ring and the interrupt (R448). -/
theorem event_hub_eq (s : State) (code : Nat) (ctx : Option Nat) (a0 a1 : Nat) : (s.event code ctx a0 a1).hub =
    { s.hub with
      evseq := (s.event code ctx a0 a1).hub.evseq
      lost := (s.event code ctx a0 a1).hub.lost
      evtail := (s.event code ctx a0 a1).hub.evtail
      msixAt := (s.event code ctx a0 a1).hub.msixAt
      msixDue := (s.event code ctx a0 a1).hub.msixDue } := by
  have signal (u : State) : u.signal.hub = { u.hub with msixAt := u.signal.hub.msixAt, msixDue := u.signal.hub.msixDue } := by
    unfold State.signal
    split <;> rfl
  unfold State.event
  dsimp only
  split
  · rfl
  split
  · rfl
  rw [signal]
  rfl
@[simp] theorem event_tiles (s : State) (code : Nat) (ctx : Option Nat) (a0 a1 : Nat) : (s.event code ctx a0 a1).hub.tiles = s.hub.tiles := by
  rw [event_hub_eq]
@[simp] theorem event_trip (s : State) (code : Nat) (ctx : Option Nat) (a0 a1 : Nat) : (s.event code ctx a0 a1).hub.trip = s.hub.trip := by
  rw [event_hub_eq]
@[simp] theorem event_tripen (s : State) (code : Nat) (ctx : Option Nat) (a0 a1 : Nat) :
    (s.event code ctx a0 a1).hub.tripen = s.hub.tripen := by
  rw [event_hub_eq]

section
variable (t : Tile) (r m mean : Int)

/-- R455's checks of a reading, in their order. -/
theorem implausible_range : t.implausible r m mean = some 0 ↔ r < -160 ∨ 1200 < r := by
  unfold Tile.implausible
  split_ifs <;> simp_all
theorem implausible_jump : t.implausible r m mean = some 1 ↔
    ¬(r < -160 ∨ 1200 < r) ∧ 0 < t.run ∧ 40 < (r - t.reading.toInt).natAbs := by
  unfold Tile.implausible
  split_ifs <;> simp_all
theorem implausible_stuck : t.implausible r m mean = some 2 ↔
    ¬(r < -160 ∨ 1200 < r) ∧ ¬(0 < t.run ∧ 40 < (r - t.reading.toInt).natAbs) ∧ 64 ≤ t.run + 1 ∧ r = t.reading.toInt := by
  unfold Tile.implausible
  split_ifs <;> simp_all
theorem implausible_none (h : t.implausible r m mean = none) : (r - m).natAbs ≤ 120 ∨ (r - mean).natAbs ≤ 120 := by
  unfold Tile.implausible at h
  split_ifs at h with _ _ _ apart
  simp only [Bool.and_eq_true, decide_eq_true_eq] at apart
  omega
end

/-- What a sample leaves of a tile (R455). -/
def Tile.sampled (t : Tile) (guard r m mean : Int) : Tile :=
  let failed := t.failed || (t.implausible r m mean).isSome
  { temp := BitVec.ofInt 12 (if failed then m + guard else Config.thermalEstimate r m)
    model := failed
    failed := failed
    reading := BitVec.ofInt 12 r
    run := if t.run > 0 && r = t.reading.toInt then min (t.run + 1) 64 else 1 }

/-- A sample changes of the hub one tile and what an event changes. -/
theorem sampleTile_hub (s : State) (n : Nat) (r m mean : Int) : let u := s.sampleTile n r m mean
    u.hub.tiles = tput {} s.hub.tiles n ((tget {} s.hub.tiles n).sampled s.hub.guard r m mean) ∧ u.hub.trip = s.hub.trip ∧
      u.hub.tripen = s.hub.tripen := by
  unfold State.sampleTile
  dsimp only
  split
  · exact ⟨event_tiles .., event_trip .., event_tripen ..⟩
  · exact ⟨rfl, rfl, rfl⟩

/-- The tiles sampled one after another, with the sensors' readings and the models' (R455). -/
def State.sampleAll (s : State) (sensors : List (Int × Int)) (l : List Nat) : State :=
  let at_ (n : Nat) : Int × Int := sensors.getD n (0, 0)
  let reads := (List.range 384).map fun n => (at_ n).1
  l.foldl (fun u n => u.sampleTile n (at_ n).1 (at_ n).2 (Config.neighbourMean n reads)) s

theorem sampleAll_trip (sensors : List (Int × Int)) (l : List Nat) (s : State) :
    (s.sampleAll sensors l).hub.trip = s.hub.trip ∧ (s.sampleAll sensors l).hub.tripen = s.hub.tripen := by
  induction l generalizing s with
  | nil => exact ⟨rfl, rfl⟩
  | cons n l ih =>
    obtain ⟨-, h1, h2⟩ := sampleTile_hub s n (sensors.getD n (0, 0)).1 (sensors.getD n (0, 0)).2
      (Config.neighbourMean n ((List.range 384).map fun n => (sensors.getD n (0, 0)).1))
    obtain ⟨h3, h4⟩ := ih (s.sampleTile n _ _ _)
    exact ⟨h3.trans h1, h4.trans h2⟩

theorem sampled_failed (t : Tile) (guard r m mean : Int) :
    (t.sampled guard r m mean).failed = true ↔ t.failed = true ∨ t.implausible r m mean ≠ none := by
  simp [Tile.sampled, Option.isSome_iff_ne_none]

/-- R455: the tile sampled, and the others. -/
theorem sampleTile_tile {s : State} (ht : twf {} s.hub.tiles = true) (n : Nat) (r m mean : Int) :
    let t := tget {} s.hub.tiles n
    let u := s.sampleTile n r m mean
    let failed := t.failed = true ∨ t.implausible r m mean ≠ none
    (tget {} u.hub.tiles n).temp = BitVec.ofInt 12 (if failed then m + s.hub.guard else Config.thermalEstimate r m) ∧
    ((tget {} u.hub.tiles n).failed = true ↔ failed) ∧ (tget {} u.hub.tiles n).reading = BitVec.ofInt 12 r ∧
    ∀ j, j ≠ n → tget {} u.hub.tiles j = tget {} s.hub.tiles j := by
  intro t u failed
  obtain ⟨tiles, -, -⟩ : u.hub.tiles = _ ∧ _ := sampleTile_hub s n r m mean
  have self : tget {} u.hub.tiles n = t.sampled s.hub.guard r m mean := by rw [tiles, tget_tput ht, if_pos rfl]
  have fails := sampled_failed t s.hub.guard r m mean
  rw [self]
  refine ⟨?_, fails, rfl, fun j hj => by rw [tiles, tget_tput ht, if_neg hj]⟩
  exact congrArg (BitVec.ofInt 12) (if_congr fails rfl rfl)

/-- R456: a sample stops the clocks above TRIP, and else steps the throttles. -/
theorem thermalSample_trips {s u : State} {sensors : List (Int × Int)} (hu : s.sampleAll sensors (List.range 384) = u) {hot : Nat × Int}
    (eh : u.hub.hottest (List.range 384) = hot) :
    (s.hub.tripen = true → s.hub.trip.toInt < hot.2 → ∃ v : State, v = u.event 0x31 none hot.1 (tget {} u.hub.tiles hot.1).temp.toNat ∧
      exec (.thermalSample sensors) s = .next { v with hub := { v.hub with tripped := true } }) ∧
    (s.hub.tripen = false ∨ hot.2 ≤ s.hub.trip.toInt →
      exec (.thermalSample sensors) s = .next ((List.range 8).foldl State.throttleTower u)) := by
  obtain ⟨trip, tripen⟩ := sampleAll_trip sensors (List.range 384) s
  rw [hu] at trip tripen
  have sample : exec (.thermalSample sensors) s = if u.hub.tripen && decide (hot.2 > u.hub.trip.toInt) then
      .next ((u.event evTHERMTRIP none hot.1 (tget {} u.hub.tiles hot.1).temp.toNat).modHub fun h => { h with tripped := true })
      else .next ((List.range 8).foldl State.throttleTower u) := by
    rw [← eh, ← hu]
    show execThermalSample sensors s = _
    unfold execThermalSample State.sampleAll
    generalize List.range 384 = tiles
    rfl
  rw [sample, trip, tripen]
  refine ⟨fun he hh => ⟨_, rfl, if_pos (by simp [he, hh])⟩, fun h => if_neg ?_⟩
  rw [Bool.and_eq_true, decide_eq_true_eq]
  rintro ⟨he, hh⟩
  rcases h with h | h
  · rw [he] at h; cases h
  · omega

/-- A throttle step and its event (R456). -/
def State.throttleTo (s : State) (tower new : Nat) : State :=
  ({ s with hub := { s.hub with throttle := tput 0 s.hub.throttle tower new } } : State).event 0x30 none tower
    (new + tget 0 s.hub.throttle tower * 2 ^ 8 + (s.hub.hottest ((List.range 48).map (· + 48 * tower))).1 * 2 ^ 16)

section
variable {s : State} {tower : Nat}

theorem throttleTower_off (h : s.hub.throten = false) : s.throttleTower tower = s := if_pos (by simp [h])

variable (h : s.hub.throten = true) {hot : Nat × Int} (e : s.hub.hottest ((List.range 48).map (· + 48 * tower)) = hot)
include h e

/-- The step a tower's throttle goes to, while throttling is on. -/
theorem throttleTower_on (old new : Nat) (ho : tget 0 s.hub.throttle tower = old)
    (hn : (if s.hub.throt.toInt < hot.2 then min (old + 1) 4 else if hot.2 < s.hub.throt.toInt - 40 then old - 1 else old) = new) :
    s.throttleTower tower = if new = old then s else s.throttleTo tower new := by
  subst hn ho e
  unfold State.throttleTower
  simp only [h, Bool.not_true, Bool.false_or, decide_eq_true_eq, gt_iff_lt]
  rfl
end

/-- R456: a tower's throttle against THROT. -/
theorem throttleTower_steps {s : State} {tower : Nat} {hot : Nat × Int} (eh : s.hub.hottest ((List.range 48).map (· + 48 * tower)) = hot)
    {old : Nat} (eo : tget 0 s.hub.throttle tower = old) :
    (s.hub.throten = false → s.throttleTower tower = s) ∧
    (s.hub.throten = true → s.hub.throt.toInt < hot.2 → old < 4 → s.throttleTower tower = s.throttleTo tower (old + 1)) ∧
    (s.hub.throten = true → s.hub.throt.toInt < hot.2 → old = 4 → s.throttleTower tower = s) ∧
    (s.hub.throten = true → s.hub.throt.toInt - 40 ≤ hot.2 → hot.2 ≤ s.hub.throt.toInt → s.throttleTower tower = s) ∧
    (s.hub.throten = true → hot.2 < s.hub.throt.toInt - 40 → 0 < old → s.throttleTower tower = s.throttleTo tower (old - 1)) := by
  refine ⟨throttleTower_off, fun h hh ho => ?_, fun h hh ho => ?_, fun h hl hh => ?_, fun h hl ho => ?_⟩
  · rw [throttleTower_on h eh old (old + 1) eo (by rw [if_pos hh]; omega), if_neg (by omega)]
  · rw [throttleTower_on h eh old old eo (by rw [if_pos hh]; omega), if_pos rfl]
  · rw [throttleTower_on h eh old old eo (by rw [if_neg (by omega), if_neg (by omega)]), if_pos rfl]
  · rw [throttleTower_on h eh old (old - 1) eo (by rw [if_neg (by omega), if_pos hl]), if_neg (by omega)]

/-- Settles O58: what each host command and each register write does, and a sample's temperatures, trip and throttles, by the lemmas
above. (What a freed future, a reset, an accepted MODE and BAR 4 keep is the model's choice: notes/assumptions/53.md, 57.md, 59.md,
99.md.) -/
theorem hostAndTemperature : Obligations.HostAndTemperature := by
  refine ⟨fun s => ⟨fun c i hc h1 hi hfree hmin h => futureAlloc_lowest hc h1 hi hfree hmin h, fun c h => futureAlloc_full c h, fun v => ?_,
    fun i v => ?_, fun v => ?_, fun bytes => rfl, fun i h => exec_deviceReset h, fun off v hb => ?_, fun a n ha hb hp => ?_,
    fun bs n off h hw => ?_⟩, fun s sensors ht => ⟨fun t r m mean => ?_, fun n r m mean => ?_, ?_, fun tower => throttleTower_steps rfl rfl⟩⟩
  case refine_1 =>
    exact ⟨fun hl => ⟨futureFree_live rfl rfl hl, futureSignal_live rfl rfl hl⟩, futureFree_stale rfl rfl, futureSignal_late rfl rfl⟩
  case refine_2 =>
    exact ⟨barrierBind_device s v, barrierBind_pod s v, barrierUnbind_free, barrierUnbind_device, barrierUnbind_pod⟩
  case refine_3 =>
    exact ⟨modeWrite_reserved, modeWrite_pends, fabidWrite_dark v, fabidWrite_lit v⟩
  case refine_4 =>
    obtain ⟨mode, fault, fabid, pasid, evbase, evhead, reset⟩ := registerWrite_deviceRegisters hb (v := v) (off := off)
    obtain ⟨bringup, planeReset, snap, policy⟩ := registerWrite_planes hb (v := v) (off := off)
    obtain ⟨pwVa, free, signal, value⟩ := registerWrite_windows hb (v := v) (off := off)
    exact ⟨registerWrite_unaligned s v, mode, fault, fabid, pasid, evbase, evhead, reset, fun c hc => registerWrite_ctxctl hb hc,
      fun c hc => registerWrite_ptroot hb hc, fun q hq e => (registerWrite_queueBase hb hq e).1,
      fun q hq e => (registerWrite_queueBase hb hq e).2, fun q hq => registerWrite_queueCommand hb hq,
      fun i hi => registerWrite_barrierBind hb hi, bringup, planeReset, snap, policy, registerWrite_logLow hb v rfl,
      fun t ht => registerWrite_pantryLow hb v ht rfl, registerWrite_reservation hb v, pwVa, free, signal, value, registerWrite_pgcmd hb⟩
  case refine_5 =>
    exact ⟨hostAccess_beyond ha, hostAccess_read ha hb hp, fun bs h => hostAccess_write ha hb hp h⟩
  case refine_6 =>
    refine ⟨_, hostAccess_stages s off n bs, rfl, fun k => ?_⟩
    rw [staged_eq_putBytes _ h]
    exact tget_putBytes hw off bs k
  case refine_7 =>
    exact ⟨implausible_range t r m mean, implausible_jump t r m mean, implausible_stuck t r m mean, implausible_none t r m mean⟩
  case refine_8 =>
    exact sampleTile_tile ht n r m mean
  case refine_9 =>
    simpa only [State.sampleAll] using thermalSample_trips (s := s) (sensors := sensors) rfl rfl

end Sys2Proof.Machine
end

section
/-!
The windows of the current limiter and of the ramp limiter (O29); the commands, the drain and the teardown of a context, and the retirement
of a pair (O49).
-/
namespace Sys2Proof.Machine

/-! ### Windows (R25, R26, R55 to R58) -/

section
variable {s : State} {lin : Nat}

theorem currentWindowBoundary_ends (h : s.cycle % 64 = 0) : exec (.currentWindowBoundary lin) s =
    .next ((s.modHub Hub.atBoundary).modCore lin fun c => { c with cnt :=
      let pub := publishedLimit s.hub.atBoundary.cap s.hub.atBoundary.profile
      { c.cnt with used := 0, pub := pub, limit := min c.cnt.limit pub } }) := if_neg (not_not.2 h)
theorem rampWindowBoundary_ends (h : s.cycle % 1024 = 0) : exec (.rampWindowBoundary lin) s =
    .next (s.modCore lin fun c => { c with cnt := { c.cnt with prev := min c.cnt.cur 512, cur := 0 } }) := if_neg (not_not.2 h)

theorem dummyDue_iff (c : Core) (cyc : Nat) : c.dummyDue cyc = true ↔
    2 * ((c.cnt.prev : Int) - c.cnt.step - c.cnt.cur) ≥ 1024 - (cyc % 1024 : Nat) ∧ tget 0 c.busy 20 ≤ cyc ∧ c.cnt.dummyUntil ≤ cyc := by
  simp only [Core.dummyDue, Bool.and_eq_true, decide_eq_true_eq, and_assoc]

theorem dummyMma_notDue (h : ¬(s.focus lin).core.dummyDue (s.focus lin).cycle = true) : exec (.dummyMma lin) s = .next (s.focus lin) :=
  if_pos (by simpa using h)
theorem dummyMma_due (h : (s.focus lin).core.dummyDue (s.focus lin).cycle = true) : exec (.dummyMma lin) s =
    let u := s.focus lin
    if u.core.cnt.used + 40 > u.currentLimit then .next (u.onCore fun c => { c with cnt := { c.cnt with skip := min (c.cnt.skip + 1) 63 } })
    else .next (u.onCore fun c => { c with cnt :=
      { c.cnt with dummyUntil := u.cycle + 2, cur := c.cnt.cur + 1, used := c.cnt.used + 40, stat := c.cnt.stat ||| 0x20#6 } }) :=
  if_neg (by simpa using h)
end

/-- Settles O29: the windows' ends, and a dummy MMA by whether it is due and whether the limit in force admits its weight. That
a core without a task issues it too is the model's choice (log 87). -/
theorem windows : Obligations.Windows := by
  intro lin s
  refine ⟨fun h => ⟨s.hub.atBoundary, _, currentWindowBoundary_ends h, rfl, rfl⟩, rampWindowBoundary_ends, ?_⟩
  intro u n due limit
  refine ⟨fun hd hbusy hun => ?_, fun hd => dummyMma_notDue fun h => hd ((dummyDue_iff _ _).1 h).1⟩
  have mma := dummyMma_due (s := s) (lin := lin) ((dummyDue_iff _ _).2 ⟨hd, hbusy, hun⟩)
  exact ⟨fun h => mma.trans (if_neg (Nat.not_lt.2 h)), fun h => mma.trans (if_pos h)⟩

/-! ### Loops over the entries of a table -/

/-- A loop over distinct numbers whose step at k changes what is read at k alone: what is read at each number afterwards. -/
theorem read_foldl {α : Type} {read : State → Nat → α} {f : State → Nat → State} {g : α → α} (ok : State → Prop)
    (hok : ∀ s k, ok s → ok (f s k)) (hf : ∀ s k j, ok s → read (f s k) j = if j = k then g (read s k) else read s j)
    {l : List Nat} (hn : l.Nodup) {s : State} (hs : ok s) (j : Nat) :
    read (l.foldl f s) j = if j ∈ l then g (read s j) else read s j := by
  induction l generalizing s with
  | nil => rfl
  | cons k l ih =>
    obtain ⟨hk, hn⟩ := List.nodup_cons.1 hn
    rw [List.foldl_cons, ih hn (hok s k hs), hf s k j hs]
    by_cases e : j = k
    · subst e; simp [hk]
    · simp [e]

theorem mem_tkeys_of_ne {α : Type} {d : α} {t : Tbl α} {k : Nat} (h : tget d t k ≠ d) : k ∈ tkeys t := by
  induction t with
  | nil => exact absurd rfl h
  | cons e t ih =>
    obtain ⟨j, w⟩ := e
    rw [tget] at h
    split at h
    · rename_i hj; subst hj; exact List.mem_cons_self
    · split at h
      · exact absurd rfl h
      · exact List.mem_cons_of_mem _ (ih h)

theorem tmod_eq_self {α : Type} [DecidableEq α] {d : α} {t : Tbl α} (h : twf d t = true) {k : Nat} {f : α → α}
    (hf : f (tget d t k) = tget d t k) : tmod d t k f = t := by
  refine twf_ext (twf_tmod h k f) h fun j => ?_
  rw [tget_tmod h]
  split
  · rename_i e; rw [e, hf]
  · rfl

/-- A loop that changes, by g, each entry a table lists and p selects: every entry afterwards. An unlisted entry that p selects is one
that g leaves. -/
theorem tget_foldl_tmod {α : Type} [DecidableEq α] {d : α} {table : State → Tbl α} {f : State → Nat → State} {g : α → α}
    (hf : ∀ s k, twf d (table s) = true → table (f s k) = tmod d (table s) k g) {s : State} (h : twf d (table s) = true) {p : Nat → Bool}
    (hp : ∀ j, tget d (table s) j = d → p j = true → g d = d) (j : Nat) :
    tget d (table (((tkeys (table s)).filter p).foldl f s)) j = if p j then g (tget d (table s) j) else tget d (table s) j := by
  rw [read_foldl (read := fun u => tget d (table u)) (g := g) (fun u => twf d (table u) = true) (fun u k hu => ?_) (fun u k j hu => ?_)
    ((tkeys_nodup h).filter p) h j]
  · by_cases e : tget d (table s) j = d
    · rw [e]
      split
      · rename_i hj; rw [if_pos (List.mem_filter.1 hj).2]
      · split
        · rename_i hj; exact (hp j e hj).symm
        · rfl
    · simp only [List.mem_filter, mem_tkeys h, ne_eq, e, not_false_eq_true, true_and]
  · rw [hf u k hu]; exact twf_tmod hu k g
  · rw [hf u k hu]; exact tget_tmod hu k g j

/-! ### Requests to the tasks of cores (R94, R470) -/

theorem insertBy_perm {α : Type} (le : α → α → Bool) (x : α) (l : List α) : (insertBy le x l).Perm (x :: l) := by
  induction l with
  | nil => exact .refl _
  | cons y l ih =>
    rw [insertBy]
    split
    · exact .refl _
    · exact (ih.cons y).trans (.swap x y l)

theorem runningCores_nodup {s : State} (h : twf Core.reset s.cores = true) : s.runningCores.Nodup := by
  have listed : ((tkeys s.cores).filter (· != s.cur)).Nodup := (tkeys_nodup h).filter _
  exact ((insertBy_perm _ _ _).nodup_iff.2 (List.nodup_cons.2 ⟨by simp, listed⟩)).filter _

theorem mem_runningCores (s : State) (l : Nat) : l ∈ s.runningCores ↔ (s.coreAt l).task.isSome = true := by
  refine List.mem_filter.trans (and_iff_right_of_imp fun ht => ?_)
  refine (insertBy_perm _ _ _).mem_iff.2 (List.mem_cons.2 (or_iff_not_imp_left.2 fun hl => ?_))
  refine List.mem_filter.2 ⟨mem_tkeys_of_ne (d := Core.reset) fun e => ?_, by simpa using hl⟩
  rw [State.coreAt, if_neg hl, e] at ht
  cases ht

/-- A core whose task, if it has one, is asked to leave where q holds of it. -/
def Core.requestIf (c : Core) (now : Nat) (q : Nat → Bool) : Core := if c.task.any q then c.request now .plain else c
/-- The same of one core of the device. -/
def State.requestIf (q : Nat → Bool) (s : State) (l : Nat) : State :=
  if (s.coreAt l).task.any q then s.modCore l fun c => c.request s.cycle .plain else s

theorem Core.requestIf_none {c : Core} (h : c.task = none) (now : Nat) (q : Nat → Bool) : c.requestIf now q = c := if_neg (by simp [h])
theorem Core.requestIf_some {c : Core} {i : Nat} (h : c.task = some i) (now : Nat) (q : Nat → Bool) :
    c.requestIf now q = if q i then c.request now .plain else c := by simp [Core.requestIf, h]

theorem setCore_eq (s : State) (k : Nat) (c : Core) :
    s.setCore k c = { s with core := (s.setCore k c).core, cores := (s.setCore k c).cores } := by
  unfold State.setCore
  split <;> rfl
theorem requestIf_eq (q : Nat → Bool) (s : State) (l : Nat) :
    s.requestIf q l = { s with core := (s.requestIf q l).core, cores := (s.requestIf q l).cores } := by
  unfold State.requestIf
  split
  · exact setCore_eq s l _
  · rfl
theorem coreAt_requestIf {s : State} (h : twf Core.reset s.cores = true) (q : Nat → Bool) (k j : Nat) :
    (s.requestIf q k).coreAt j = if j = k then (s.coreAt k).requestIf s.cycle q else s.coreAt j := by
  unfold State.requestIf Core.requestIf
  split
  · exact coreAt_modCore h k _ j
  · split
    · rename_i e; rw [e]
    · rfl

/-- Requests to a list of cores change cores alone. -/
theorem foldl_requestIf_eq (q : Nat → Bool) (ls : List Nat) (s : State) :
    ls.foldl (State.requestIf q) s =
      { s with core := (ls.foldl (State.requestIf q) s).core, cores := (ls.foldl (State.requestIf q) s).cores } :=
  List.foldlRecOn (motive := fun t : State => t = { s with core := t.core, cores := t.cores }) ls _ rfl
    fun t ht l _ => (requestIf_eq q t l).trans (by rw [ht])
theorem coreAt_foldl_requestIf {s : State} (h : twf Core.reset s.cores = true) (q : Nat → Bool) {ls : List Nat} (hn : ls.Nodup) (j : Nat) :
    (ls.foldl (State.requestIf q) s).coreAt j = if j ∈ ls then (s.coreAt j).requestIf s.cycle q else s.coreAt j := by
  refine read_foldl (read := State.coreAt) (g := fun c => c.requestIf s.cycle q)
    (fun u => twf Core.reset u.cores = true ∧ u.cycle = s.cycle) (fun u k hu => ?_) (fun u k j hu => ?_) hn ⟨h, rfl⟩ j
  · obtain ⟨hw, hc⟩ := hu
    unfold State.requestIf
    split
    · exact ⟨twf_modCore hw _ _, (modCore_cycle _ _ _).trans hc⟩
    · exact ⟨hw, hc⟩
  · obtain ⟨hw, hc⟩ := hu
    rw [coreAt_requestIf hw, hc]

theorem requestWhere_foldl (s : State) (q : Nat → Bool) : s.requestWhere q = s.runningCores.foldl (State.requestIf q) s := by
  unfold State.requestWhere
  congr 1
  funext u l
  unfold State.requestIf
  cases (u.coreAt l).task <;> rfl

/-- From s to t, the tasks of the cores where p holds are asked to leave; no other core changes. -/
def Asked (s t : State) (p : Nat → Nat → Prop) : Prop := ∀ l,
  match (s.coreAt l).task with
  | some i => (p l i → t.coreAt l = (s.coreAt l).request s.cycle .plain) ∧ (¬p l i → t.coreAt l = s.coreAt l)
  | none => t.coreAt l = s.coreAt l

theorem asked_of_requestIf {s t : State} {p : Nat → Nat → Prop} {q : Nat → Bool} {ls : List Nat}
    (ht : ∀ l, t.coreAt l = if l ∈ ls then (s.coreAt l).requestIf s.cycle q else s.coreAt l)
    (hp : ∀ l i, (s.coreAt l).task = some i → (p l i ↔ l ∈ ls ∧ q i = true)) : Asked s t p := by
  intro l
  cases e : (s.coreAt l).task with
  | none => exact (ht l).trans (by rw [Core.requestIf_none e, ite_self])
  | some i =>
    refine ⟨fun h => ?_, fun h => ?_⟩
    · obtain ⟨hl, hq⟩ := (hp l i e).1 h
      rw [ht, if_pos hl, Core.requestIf_some e, if_pos hq]
    · rw [ht, Core.requestIf_some e]
      split
      · rename_i hl; exact if_neg fun hq => h ((hp l i e).2 ⟨hl, hq⟩)
      · rfl

/-- The tasks of a context without groups are asked to leave one by one (R94). -/
theorem quiesceTasks_noGroups {s : State} {c : Nat} (hg : ∀ g ∈ tkeys s.groups, (s.groupLaunch g).ctx ≠ c) :
    s.quiesceTasks c = s.runningCores.foldl (State.requestIf fun i => (s.task i).ctx == c) s := by
  unfold State.quiesceTasks
  rw [List.filter_eq_nil_iff.2 (by simpa using hg), List.foldl_nil, requestWhere_foldl]
theorem quiesceTasks_asks {s : State} {c : Nat} (h : twf Core.reset s.cores = true)
    (hg : ∀ g ∈ tkeys s.groups, (s.groupLaunch g).ctx ≠ c) :
    s.quiesceTasks c = { s with core := (s.quiesceTasks c).core, cores := (s.quiesceTasks c).cores } ∧
    Asked s (s.quiesceTasks c) fun _ i => (s.task i).ctx = c := by
  rw [quiesceTasks_noGroups hg]
  refine ⟨foldl_requestIf_eq _ _ s, asked_of_requestIf (coreAt_foldl_requestIf h _ (runningCores_nodup h)) fun l i e => ?_⟩
  simp [mem_runningCores, e]

/-! ### Commands of a context (R92 to R95, R444) -/

/-- From s to t, context c becomes y and no other context changes. -/
def Becomes (s t : State) (c : Nat) (y : Ctx) : Prop := t.ctx c = y ∧ ∀ j, j ≠ c → t.ctx j = s.ctx j
/-- An instruction changes context c alone, to y. -/
def CtxStep (s : State) (c : Nat) (i : Instr) (y : Ctx) : Prop := ∃ t, exec i s = .next t ∧ t = { s with ctxs := t.ctxs } ∧ Becomes s t c y
/-- An instruction changes context c to y and asks its tasks to leave. -/
def CtxLeaves (s : State) (c : Nat) (i : Instr) (y : Ctx) : Prop := ∃ t, exec i s = .next t ∧
  t = { s with ctxs := t.ctxs, core := t.core, cores := t.cores, marks := t.marks } ∧ Becomes s t c y ∧ Asked s t fun _ i => (s.task i).ctx = c

section
variable {c : Nat} {s : State}

theorem ctxCmd_acts {i : Instr} {ok : CtxState → Bool} {act : State → State} (e : exec i s = s.ctxCmd c ok act)
    (h : ok (s.ctx c).state = true) : exec i s = .next (act (s.setCerr c 0)) := e.trans (if_pos h)
theorem ctxCmd_refused {i : Instr} {ok : CtxState → Bool} {act : State → State} (e : exec i s = s.ctxCmd c ok act)
    (h : ok (s.ctx c).state = false) : exec i s = .next (s.setCerr c 1) := e.trans (if_neg (by simp [h]))

variable (hw : twf {} s.ctxs = true)
include hw

theorem modCtx_modCtx (f g : Ctx → Ctx) : (s.modCtx c f).modCtx c g = s.modCtx c fun x => g (f x) := by
  have tables : tmod {} (tmod {} s.ctxs c f) c g = tmod {} s.ctxs c fun x => g (f x) := by
    refine twf_ext (twf_tmod (twf_tmod hw c f) c g) (twf_tmod hw c _) fun k => ?_
    simp only [tget_tmod (twf_tmod hw c f), tget_tmod hw, if_true]
    split <;> rfl
  unfold State.modCtx
  simp only [tables]
theorem ctx_modCtx_same (f : Ctx → Ctx) : (s.modCtx c f).ctx c = f (s.ctx c) := (ctx_modCtx hw c f c).trans (if_pos rfl)
theorem becomes_modCtx (f : Ctx → Ctx) : Becomes s (s.modCtx c f) c (f (s.ctx c)) :=
  ⟨ctx_modCtx_same hw f, fun j hj => (ctx_modCtx hw c f j).trans (if_neg hj)⟩
theorem ctxStep_modCtx {i : Instr} (f : Ctx → Ctx) (h : exec i s = .next (s.modCtx c f)) : CtxStep s c i (f (s.ctx c)) :=
  ⟨_, h, rfl, becomes_modCtx hw f⟩

/-- A command given in a state that does not list it leaves BADSTATE (R93). -/
theorem ctxStep_refused {i : Instr} {ok : CtxState → Bool} {act : State → State} (e : exec i s = s.ctxCmd c ok act)
    (h : ok (s.ctx c).state = false) : CtxStep s c i { s.ctx c with cerr := 1 } :=
  ctxStep_modCtx hw (fun x => { x with cerr := 1 }) (ctxCmd_refused e h)

theorem build_free (h : (s.ctx c).state = .free) : CtxStep s c (.build c) { s.ctx c with
    state := .building, cerr := 0, ptroot := 0, respol := 0, logfp := false, maxpri := 0, priv := false, slip := 0, mcast := [] } :=
  ctxStep_modCtx hw (fun x => { x with
      state := .building, cerr := 0, ptroot := 0, respol := 0, logfp := false, maxpri := 0, priv := false, slip := 0, mcast := [] })
    ((ctxCmd_acts exec_build (by simp [h])).trans (congrArg _ (modCtx_modCtx hw _ _)))

theorem activate_building (h : (s.ctx c).state = .building) (hr : (s.ctx c).respol ≠ 3) : exec (.activate c) s =
    if (s.ctx c).ptroot = 0 then .next (s.modCtx c fun x => { x with cerr := 2 })
    else .next (s.modCtx c fun x => { x with state := .active, cerr := 0 }) := by
  refine (ctxCmd_acts exec_activate (by simp [h])).trans ?_
  have root : (s.setCerr c 0).ctx c = { s.ctx c with cerr := 0 } := ctx_modCtx_same hw _
  simp only [root, if_neg hr]
  split
  · exact congrArg _ (modCtx_modCtx hw _ _)
  · exact congrArg _ (modCtx_modCtx hw _ _)
theorem activate_rooted (h : (s.ctx c).state = .building) (hr : (s.ctx c).respol ≠ 3) (hp : (s.ctx c).ptroot ≠ 0) :
    CtxStep s c (.activate c) { s.ctx c with state := .active, cerr := 0 } :=
  ctxStep_modCtx hw (fun x => { x with state := .active, cerr := 0 }) ((activate_building hw h hr).trans (if_neg hp))
theorem activate_rootless (h : (s.ctx c).state = .building) (hr : (s.ctx c).respol ≠ 3) (hp : (s.ctx c).ptroot = 0) :
    CtxStep s c (.activate c) { s.ctx c with cerr := 2 } :=
  ctxStep_modCtx hw (fun x => { x with cerr := 2 }) ((activate_building hw h hr).trans (if_pos hp))

/-- A context changed and its tasks asked to leave. -/
theorem ctxLeaves_of {i : Instr} (hc : twf Core.reset s.cores = true) (hg : ∀ g ∈ tkeys s.groups, (s.groupLaunch g).ctx ≠ c)
    (f : Ctx → Ctx) {t : State} (h : exec i s = .next t) (ht : t = { (s.modCtx c f).quiesceTasks c with marks := t.marks }) :
    CtxLeaves s c i (f (s.ctx c)) := by
  obtain ⟨frame, asked⟩ := quiesceTasks_asks (s := s.modCtx c f) hc hg
  refine ⟨t, h, ?_, ?_, ?_⟩
  · rw [ht, frame]; rfl
  · rw [ht, frame]; exact becomes_modCtx hw f
  · rw [ht]; exact asked
theorem quiesce_active (hc : twf Core.reset s.cores = true) (h : (s.ctx c).state = .active)
    (hg : ∀ g ∈ tkeys s.groups, (s.groupLaunch g).ctx ≠ c) :
    CtxLeaves s c (.quiesce c) { s.ctx c with state := .quiescing, cerr := 0, drained := false, held := false } := by
  have run := ctxCmd_acts exec_quiesce (s := s) (c := c) (by simp [h])
  rw [State.setCerr, modCtx_modCtx hw] at run
  exact ctxLeaves_of hw hc hg (fun x => { x with state := .quiescing, cerr := 0, drained := false, held := false }) run rfl
omit hw in
theorem hostfault_ctxFault {v : Word} (hv : (v.extractLsb' 0 6).toNat = c) : exec (.hostfault v) s = .next (s.ctxFault c 3) := by
  rw [exec_hostfault, execHostfault, hv]
theorem hostfault_served (hc : twf Core.reset s.cores = true) {v : Word} (hv : (v.extractLsb' 0 6).toNat = c)
    (h : (s.ctx c).state = .active ∨ (s.ctx c).state = .quiescing) (hg : ∀ g ∈ tkeys s.groups, (s.groupLaunch g).ctx ≠ c) :
    CtxLeaves s c (.hostfault v) { s.ctx c with
      state := .faulted, status := 3, drained := false, held := false, cerr := if s.rankOf 4 c = 0 then (s.ctx c).cerr else 1 } :=
  ctxLeaves_of hw hc hg (fun x => { x with
      state := .faulted, status := 3, drained := false, held := false, cerr := if s.rankOf 4 c = 0 then x.cerr else 1 })
    ((hostfault_ctxFault hv).trans (congrArg _ (if_pos (by simpa using h)))) rfl
omit hw in
theorem hostfault_unserved {v : Word} (hv : (v.extractLsb' 0 6).toNat = c) (h1 : (s.ctx c).state ≠ .active)
    (h2 : (s.ctx c).state ≠ .quiescing) : exec (.hostfault v) s = .next s :=
  (hostfault_ctxFault hv).trans (congrArg _ (if_neg (by simp [h1, h2])))

theorem resume_suspended (h : (s.ctx c).state = .suspended) : ∃ u v : State, exec (.resume c) s = .next v ∧
    v = (tkeys u.settleQueues.queues).foldl State.drainCheck u.settleQueues ∧ u = { s with ctxs := u.ctxs } ∧
    Becomes s u c { s.ctx c with state := .active, cerr := 0 } := by
  refine ⟨s.modCtx c fun x => { x with state := .active, cerr := 0 }, _, ?_, rfl, rfl, becomes_modCtx hw _⟩
  refine (ctxCmd_acts exec_resume (by simp [h])).trans ?_
  rw [State.setCerr, modCtx_modCtx hw]

theorem destroy_held (h : (s.ctx c).state = .faulted) (hd : (s.ctx c).drained = false) :
    CtxStep s c (.destroy c) { s.ctx c with cerr := 0, held := true } := by
  refine ctxStep_modCtx hw (fun x => { x with cerr := 0, held := true }) ((ctxCmd_acts exec_destroy (by simp [h])).trans ?_)
  have drain : (s.setCerr c 0).ctx c = { s.ctx c with cerr := 0 } := ctx_modCtx_same hw _
  simp only [drain, h, hd, beq_self_eq_true, Bool.not_false, Bool.and_self, if_true]
  exact congrArg _ (modCtx_modCtx hw _ _)
end

/-! ### The drain of a context (R93, R94) -/

section
variable {c : Nat} {s : State}

theorem eng_idle_iff : (∀ p ∈ tkeys s.pairs, ∀ o ∈ (s.pairAt p).eng, o.ctx ≠ c) ↔ ∀ p, ∀ o ∈ (s.pairAt p).eng, o.ctx ≠ c := by
  refine ⟨fun h p o ho => h p (mem_tkeys_of_ne (d := Pair.reset) fun e => ?_) o ho, fun h p _ => h p⟩
  rw [State.pairAt, e] at ho
  cases ho

theorem tasks_idle_iff : (∀ l ∈ s.runningCores, ((s.coreAt l).task.elim false fun i => (s.task i).ctx == c) = false) ↔
    ∀ l i, (s.coreAt l).task = some i → (s.task i).ctx ≠ c := by
  refine ⟨fun h l i e => ?_, fun h l _ => ?_⟩
  · simpa [e] using h l ((mem_runningCores _ _).2 (by simp [e]))
  · cases e : (s.coreAt l).task with
    | none => rfl
    | some i => simpa using h l i e
theorem ctxIdle_iff : s.ctxIdle c = true ↔ (∀ l i, (s.coreAt l).task = some i → (s.task i).ctx ≠ c) ∧
    (∀ p, ∀ o ∈ (s.pairAt p).eng, o.ctx ≠ c) ∧ ∀ d ∈ s.planeX.sends ++ s.planeY.sends, d.ctx ≠ c := by
  rw [← tasks_idle_iff, ← eng_idle_iff]
  simp only [State.ctxIdle, Bool.and_eq_true, Bool.not_eq_true', List.any_eq_false, beq_iff_eq, ne_eq, and_assoc, Bool.not_eq_true]
end

section
variable {c : Nat} {s : State}

theorem ctxDrainComplete_stays (h : (s.ctx c).drained = true ∨ ¬s.ctxIdle c = true) : exec (.ctxDrainComplete c) s = .next s :=
  if_pos (by simpa using h)

variable (hd : (s.ctx c).drained = false) (hi : s.ctxIdle c = true)
include hd hi

theorem ctxDrainComplete_quiescing (h : (s.ctx c).state = .quiescing) : exec (.ctxDrainComplete c) s =
    .next ((s.modCtx c fun x => { x with state := .suspended, drained := true }).event 0x02 (some c) 0 0) :=
  (if_neg (by simp [hd, hi])).trans (if_pos (by simp [h]))
theorem ctxDrainComplete_faulted (h : (s.ctx c).state = .faulted) (hh : (s.ctx c).held = false) : exec (.ctxDrainComplete c) s =
    .next (s.modCtx c fun x => { x with drained := true }) :=
  (if_neg (by simp [hd, hi])).trans ((if_neg (by simp [h])).trans ((if_pos (by simp [h])).trans (congrArg _ (if_neg (by simp [hh])))))
end

/-! ### The teardown of a context (R93, R96) -/

/-- A window closed (R411). -/
def Window.closed (w : Window) : Window := { w with isOpen := false, wgen := w.wgen % 15 + 1 }
/-- A queue reset (R106). -/
def Queue.wiped (x : Queue) : Queue :=
  if x.state == .disabled then x else { x with state := .disabled, appended := 0, taken := 0, err := 0, waitf := none, stalled := false }

/-- The loops of a teardown over what its context owns. -/
def State.closeWindowsOf (s : State) (c : Nat) : State :=
  ((tkeys s.windows).filter fun e => (s.window e).isOpen && (s.window e).ctx == c).foldl State.closeWindow s
def State.resetQueuesOf (s : State) (c : Nat) : State := ((tkeys s.queues).filter fun q => (s.queue q).ctx == c).foldl State.resetQueue s
def State.freeSetsOf (s : State) (c : Nat) : State :=
  ((tkeys s.sets).filter fun k => k / 4096 == c && (s.aset k).state != .free).foldl (fun s k => s.modSet k ASet.freed) s

theorem wakeFut_noTasks {s : State} (h : s.tasks = []) (i c : Nat) : s.wakeFut i c = s := by
  simp [State.wakeFut, State.taskList, h, tkeys, State.wakeAll]
theorem closeWindow_windows (s : State) (e : Nat) : (s.closeWindow e).windows = tmod {} s.windows e Window.closed := by
  unfold State.closeWindow
  dsimp only
  split
  · rfl
  · rw [(endFuture_spec _ _ _ _).1]; rfl
theorem closeWindow_eq {s : State} (h : s.tasks = []) (e : Nat) :
    s.closeWindow e = { s with windows := (s.closeWindow e).windows, futs := (s.closeWindow e).futs } := by
  unfold State.closeWindow
  dsimp only
  split
  · rfl
  · unfold State.endFuture
    rw [wakeFut_noTasks (by exact h)]
    rfl
theorem resetQueue_queues (s : State) (q : Nat) : s.resetQueue q = { s with queues := (s.resetQueue q).queues } := by
  unfold State.resetQueue
  split <;> rfl
theorem resetQueue_wipes {s : State} (h : twf {} s.queues = true) (q : Nat) : (s.resetQueue q).queues = tmod {} s.queues q Queue.wiped := by
  unfold State.resetQueue
  split
  · rename_i hd; exact (tmod_eq_self (f := Queue.wiped) h (if_pos hd)).symm
  · rename_i hd; exact congrArg (tput {} s.queues q) (if_neg hd).symm

theorem closeWindowsOf_eq {s : State} (h : s.tasks = []) (c : Nat) :
    s.closeWindowsOf c = { s with windows := (s.closeWindowsOf c).windows, futs := (s.closeWindowsOf c).futs } :=
  List.foldlRecOn (motive := fun t : State => t = { s with windows := t.windows, futs := t.futs }) _ _ rfl
    fun t ht e _ => (closeWindow_eq (by rw [ht]; exact h) e).trans (by rw [ht])
theorem resetQueuesOf_eq (s : State) (c : Nat) : s.resetQueuesOf c = { s with queues := (s.resetQueuesOf c).queues } :=
  List.foldlRecOn (motive := fun t : State => t = { s with queues := t.queues }) _ _ rfl
    fun t ht q _ => (resetQueue_queues t q).trans (by rw [ht])
theorem freeSetsOf_eq (s : State) (c : Nat) : s.freeSetsOf c = { s with sets := (s.freeSetsOf c).sets } :=
  List.foldlRecOn (motive := fun t : State => t = { s with sets := t.sets }) _ _ rfl fun t ht k _ => by
    show t.modSet k ASet.freed = { s with sets := (t.modSet k ASet.freed).sets }
    rw [ht]; rfl

theorem window_closeWindowsOf {s : State} (h : twf {} s.windows = true) (c e : Nat) : (s.closeWindowsOf c).window e =
    if (s.window e).isOpen = true ∧ (s.window e).ctx = c then (s.window e).closed else s.window e := by
  have unlisted : ∀ j, s.window j = {} → ((s.window j).isOpen && (s.window j).ctx == c) = true → ({} : Window).closed = {} :=
    fun j e ho => by rw [e] at ho; cases ho
  refine (tget_foldl_tmod (table := State.windows) (fun u k _ => closeWindow_windows u k) h unlisted e).trans ?_
  simp only [Bool.and_eq_true, beq_iff_eq]
  rfl
theorem queue_resetQueuesOf {s : State} (h : twf {} s.queues = true) {c q : Nat} (hq : (s.queue q).ctx = c) :
    (s.resetQueuesOf c).queue q = (s.queue q).wiped :=
  (tget_foldl_tmod (table := State.queues) (fun u k hu => resetQueue_wipes hu k) h (fun _ _ _ => rfl) q).trans (if_pos (by simpa using hq))
theorem aset_freeSetsOf {s : State} (h : twf {} s.sets = true) {c k : Nat} (hk : k / 4096 = c) :
    ((s.freeSetsOf c).aset k).state = .free := by
  have unlisted : ∀ j, s.aset j = {} → (j / 4096 == c && (s.aset j).state != .free) = true → ({} : ASet).freed = {} :=
    fun j e ho => by rw [e, Bool.and_eq_true] at ho; cases ho.2
  rw [State.aset, State.freeSetsOf, tget_foldl_tmod (table := State.sets) (fun u k _ => rfl) h unlisted k]
  split
  · rfl
  · rename_i hn
    show (s.aset k).state = .free
    simpa [hk] using hn

theorem wiped_disabled (x : Queue) : x.wiped.state = .disabled ∧ x.wiped.appended = x.wiped.taken ∨ x.wiped = x ∧ x.state = .disabled := by
  unfold Queue.wiped
  split
  · rename_i h; exact .inr ⟨rfl, by simpa using h⟩
  · exact .inl ⟨rfl, rfl⟩

/-- A context that is being destroyed (R93). -/
def Ctx.destroyed (x : Ctx) : Ctx := { x with state := .destroyed, held := false, mcast := [] }
/-- The loops of a teardown over launches, tasks and barriers. -/
def State.endWorkOf (s : State) (c : Nat) : State :=
  let s := ((tkeys s.launches).filter fun k => (s.launchOf k).ctx == c).foldl (fun s k => s.abortWith k 0xF2) s
  let s := (s.taskList.filter fun i => (s.task i).ctx == c && (s.task i).state != .running).foldl (fun s i => (s.clearNext i).freeTask i) s
  let s := ((tkeys s.devBars).filter fun i => (s.devBar i).bound && (s.devBar i).ctx == c).foldl (fun s i => s.unbind (.device i)) s
  ((tkeys s.podBars).filter fun i => (s.podBar i).bound && (s.podBar i).ctx == c).foldl (fun s i => s.unbind (.pod i)) s
/-- The loops of a teardown over pages and local stores. -/
def State.clearStoresOf (s : State) (c : Nat) : State :=
  let s := ((tkeys s.pages).filter fun a => (s.page a).ctx == c).foldl (fun s a =>
    (s.setLogFree (s.hub.logFree + (s.page a).chunks.length)).modPage a fun _ => {}) s
  ((tkeys s.pairs).filter fun p => (s.pairAt p).ownerCtx == some c).foldl (fun s p =>
    (s.zeroPair p).modPair p fun q => { q with owner := none }) s

theorem endWorkOf_none {s : State} (hl : s.launches = []) (ht : s.tasks = []) (hdev : s.devBars = []) (hpod : s.podBars = []) (c : Nat) :
    s.endWorkOf c = s := by
  simp only [State.endWorkOf, State.taskList, hl, ht, hdev, hpod, tkeys, List.map_nil, List.filter_nil, List.foldl_nil]
theorem clearStoresOf_none {s : State} (hpg : s.pages = []) (hpr : s.pairs = []) (c : Nat) : s.clearStoresOf c = s := by
  simp only [State.clearStoresOf, hpg, hpr, tkeys, List.map_nil, List.filter_nil, List.foldl_nil]

/-- A teardown's start, loop by loop. -/
theorem startTeardown_loops (s : State) (c : Nat) : s.startTeardown c =
    let u := ((((s.modCtx c Ctx.destroyed).closeWindowsOf c).resetQueuesOf c).endWorkOf c).freeSetsOf c
    ({ u with scheds := u.scheds.filter fun d => d.ctx != c } : State).clearStoresOf c := rfl

/-- A context changed by f, its windows closed, its queues reset, its sets and schedules dropped. -/
def State.tornDownFrom (s : State) (c : Nat) (f : Ctx → Ctx) : State :=
  let u := (((s.modCtx c f).closeWindowsOf c).resetQueuesOf c).freeSetsOf c
  { u with scheds := u.scheds.filter fun d => d.ctx != c }

section
variable {s : State} (ht : s.tasks = [])
include ht

/-- What that teardown leaves, field by field. -/
theorem tornDownFrom_eq (c : Nat) (f : Ctx → Ctx) : s.tornDownFrom c f =
    { s with
      ctxs := (s.modCtx c f).ctxs
      windows := ((s.modCtx c f).closeWindowsOf c).windows
      futs := ((s.modCtx c f).closeWindowsOf c).futs
      queues := (((s.modCtx c f).closeWindowsOf c).resetQueuesOf c).queues
      sets := ((((s.modCtx c f).closeWindowsOf c).resetQueuesOf c).freeSetsOf c).sets
      scheds := s.scheds.filter fun d => d.ctx != c } := by
  unfold State.tornDownFrom
  dsimp only
  rw [freeSetsOf_eq, resetQueuesOf_eq, closeWindowsOf_eq (by exact ht)]
  rfl

section
variable (c : Nat) (f : Ctx → Ctx)

theorem window_tornDownFrom (h : twf {} s.windows = true) (e : Nat) : (s.tornDownFrom c f).window e =
    if (s.window e).isOpen = true ∧ (s.window e).ctx = c then (s.window e).closed else s.window e := by
  rw [tornDownFrom_eq ht]
  exact window_closeWindowsOf (s := s.modCtx c f) h c e
theorem queue_tornDownFrom (h : twf {} s.queues = true) {q : Nat} (hq : (s.queue q).ctx = c) :
    (s.tornDownFrom c f).queue q = (s.queue q).wiped := by
  have queues : ((s.modCtx c f).closeWindowsOf c).queues = s.queues := by rw [closeWindowsOf_eq (by exact ht)]; rfl
  have same : ((s.modCtx c f).closeWindowsOf c).queue q = s.queue q := by rw [State.queue, queues, State.queue]
  rw [tornDownFrom_eq ht, ← same]
  exact queue_resetQueuesOf (queues ▸ h) (same ▸ hq)
theorem aset_tornDownFrom (h : twf {} s.sets = true) {k : Nat} (hk : k / 4096 = c) : ((s.tornDownFrom c f).aset k).state = .free := by
  have sets : (((s.modCtx c f).closeWindowsOf c).resetQueuesOf c).sets = s.sets := by
    rw [resetQueuesOf_eq, closeWindowsOf_eq (by exact ht)]; rfl
  rw [tornDownFrom_eq ht]
  exact aset_freeSetsOf (sets ▸ h) hk
end

variable (hl : s.launches = []) (hdev : s.devBars = []) (hpod : s.podBars = []) (hpg : s.pages = []) (hpr : s.pairs = [])
include hl hdev hpod hpg hpr

theorem startTeardown_bare (c : Nat) : s.startTeardown c = s.tornDownFrom c Ctx.destroyed := by
  have queues := (resetQueuesOf_eq ((s.modCtx c Ctx.destroyed).closeWindowsOf c) c).trans (by rw [closeWindowsOf_eq (by exact ht)])
  rw [startTeardown_loops, endWorkOf_none (by rw [queues]; exact hl) (by rw [queues]; exact ht) (by rw [queues]; exact hdev)
    (by rw [queues]; exact hpod)]
  exact clearStoresOf_none (by rw [freeSetsOf_eq, queues]; exact hpg) (by rw [freeSetsOf_eq, queues]; exact hpr) c

/-- DESTROY of a drained context that owns no launch, task, barrier, page or local store (R93, R96). -/
theorem destroy_drained {c : Nat} (hw : twf {} s.ctxs = true) (hx : (s.ctx c).state = .building ∨ (s.ctx c).state = .suspended ∨
    ((s.ctx c).state = .faulted ∧ (s.ctx c).drained = true)) : exec (.destroy c) s =
    .next (s.tornDownFrom c fun x => Ctx.destroyed { x with cerr := 0 }) := by
  have lists : ((s.ctx c).state == .building || (s.ctx c).state == .suspended || (s.ctx c).state == .faulted) = true := by
    rcases hx with h | h | ⟨h, -⟩ <;> simp [h]
  refine (ctxCmd_acts exec_destroy lists).trans ?_
  have drain : (s.setCerr c 0).ctx c = { s.ctx c with cerr := 0 } := ctx_modCtx_same hw _
  have drained : ((s.ctx c).state == .faulted && !(s.ctx c).drained) = false := by
    rcases hx with h | h | ⟨-, hd⟩
    · simp [h]
    · simp [h]
    · simp [hd]
  simp only [drain, drained, Bool.false_eq_true, if_false]
  rw [startTeardown_bare (s := s.setCerr c 0) ht hl hdev hpod hpg hpr, State.tornDownFrom, State.setCerr, modCtx_modCtx hw]
  rfl
end

section
variable {c : Nat} {s : State}

/-- The last loops of a teardown (R96): the context's futures are freed, and its local stores have no owner. -/
def State.freeFutsOf (s : State) (c : Nat) : State :=
  ((tkeys s.futs).filter fun i => (s.fut i).state != .free && (s.fut i).ctx == c).foldl State.freeFuture s
def Pair.disowned (c : Nat) (q : Pair) : Pair := if q.ownerCtx = some c then { q with ownerCtx := none } else q
def State.disownOf (s : State) (c : Nat) : State := (tkeys s.pairs).foldl (fun s p => s.modPair p (Pair.disowned c)) s

theorem freeFutsOf_eq (s : State) (c : Nat) :
    s.freeFutsOf c = { s with futs := (s.freeFutsOf c).futs, tasks := (s.freeFutsOf c).tasks } :=
  List.foldlRecOn (motive := fun t : State => t = { s with futs := t.futs, tasks := t.tasks }) _ _ rfl
    fun t ht i _ => (freeFuture_spec t i).1.trans (by rw [ht])
theorem disownOf_eq (s : State) (c : Nat) : s.disownOf c = { s with pairs := (s.disownOf c).pairs } :=
  List.foldlRecOn (motive := fun t : State => t = { s with pairs := t.pairs }) _ _ rfl fun t ht p _ => by
    show t.modPair p _ = { s with pairs := (t.modPair p _).pairs }
    rw [ht]; rfl

theorem freeFuture_futs (s : State) (i : Nat) : (s.freeFuture i).futs = tmod {} s.futs i fun f => { gen := f.gen + 1 } :=
  wakeAll_futs _ _
theorem fut_freeFutsOf (h : twf {} s.futs = true) (i : Nat) : (s.freeFutsOf c).fut i =
    if (s.fut i).state ≠ .free ∧ (s.fut i).ctx = c then { gen := (s.fut i).gen + 1 } else s.fut i := by
  have unlisted : ∀ j, s.fut j = {} → ((s.fut j).state != .free && (s.fut j).ctx == c) = true → ({ gen := (0 : BitVec 12) + 1 } : Fut) = {} :=
    fun j e ho => by rw [e] at ho; cases ho
  refine (tget_foldl_tmod (table := State.futs) (g := fun f => { gen := f.gen + 1 }) (fun u k _ => freeFuture_futs u k) h unlisted i).trans ?_
  simp only [Bool.and_eq_true, bne_iff_ne, beq_iff_eq]
  rfl
theorem pairAt_disownOf (h : twf Pair.reset s.pairs = true) (p : Nat) : (s.disownOf c).pairAt p = (s.pairAt p).disowned c := by
  have run := tget_foldl_tmod (table := State.pairs) (f := fun s p => s.modPair p (Pair.disowned c)) (p := fun _ => true)
    (fun u k _ => rfl) h (fun _ _ _ => rfl) p
  rwa [List.filter_true] at run
theorem tornDown_of (hl : ∀ k, (s.launchOf k).state ≠ .free → (s.launchOf k).ctx ≠ c)
    (hp : ∀ p, (s.pairAt p).ownerCtx = some c → (s.pairAt p).zeroUntil ≤ s.cycle) : s.tornDown c = true := by
  simp only [State.tornDown, Bool.and_eq_true, Bool.not_eq_true', List.any_eq_false, List.all_eq_true, bne_iff_ne, beq_iff_eq, not_and,
    Bool.and_eq_false_imp, decide_eq_false_iff_not, Nat.not_lt]
  exact ⟨fun k _ => hl k, fun p _ => hp p⟩
theorem teardownComplete_ends (h : (s.ctx c).state = .destroyed) (ht : s.tornDown c = true) : exec (.teardownComplete c) s =
    .next ((((s.freeFutsOf c).disownOf c).modCtx c fun x => { x with state := .free, drained := false, held := false }).event
      0x03 (some c) 0 0) := if_pos (by simp [h, ht])
/-- What the end of a teardown leaves, field by field. -/
theorem freed_eq (f : Ctx → Ctx) : ((s.freeFutsOf c).disownOf c).modCtx c f =
    { s with
      ctxs := (s.modCtx c f).ctxs
      futs := (s.freeFutsOf c).futs
      tasks := (s.freeFutsOf c).tasks
      pairs := ((s.freeFutsOf c).disownOf c).pairs } := by
  rw [disownOf_eq, freeFutsOf_eq]
  rfl
theorem teardownComplete_stays (h : (s.ctx c).state ≠ .destroyed) : exec (.teardownComplete c) s = .next s := if_neg (by simp [h])
end

/-! ### The retirement of a pair (R29) -/

theorem mem_coresOfPair (l k : Nat) : l ∈ coresOfPair k ↔ l / 144 * 72 + l % 72 = k := by
  simp only [coresOfPair, List.mem_cons, List.not_mem_nil, or_false]
  omega
theorem coresOfPair_nodup (k : Nat) : (coresOfPair k).Nodup := by
  simp only [coresOfPair, List.nodup_cons, List.mem_singleton, List.not_mem_nil, not_false_iff, List.nodup_nil, and_true]
  omega

/-- A pair without groups and owner retires: its cores are asked (R29). -/
theorem pairRetirement_asks {s : State} {pair : Nat} (hp : pair < 576) (hs : (s.pairAt pair).service = .inService) (hg : s.groups = [])
    (ho : (s.pairAt pair).owner = none) : exec (.pairRetirement pair) s =
    .next ((coresOfPair pair).foldl (State.requestIf fun _ => true) (s.modPair pair fun q => { q with service := .retiring })) := by
  refine (if_neg (by simp [hs, hp])).trans ?_
  have loop : (fun (s : State) l => if (s.coreAt l).task.isSome then s.modCore l fun c => c.request s.cycle .plain else s) =
      State.requestIf fun _ => true := by
    funext u l
    unfold State.requestIf
    cases (u.coreAt l).task <;> rfl
  have owner : ((coresOfPair pair).foldl (State.requestIf fun _ => true)
      (s.modPair pair fun q => { q with service := .retiring })).pairAt pair = { s.pairAt pair with service := .retiring } := by
    rw [foldl_requestIf_eq]
    exact (tget_tput_ne _ _ (fun e => by cases congrArg Pair.service e) _).trans (if_pos rfl)
  simp only [modPair_groups, hg, tkeys, List.map_nil, List.filter_nil, List.foldl_nil, loop, owner, ho]

/-- Settles O49: each command of a context by the states that list it, the drain, the teardown's start and end, and a pair's retirement.
That STATUS stands at BUILD and that the teardown drops the schedules is the model's choice (log 61); so is what a freed future keeps
(log 99). -/
theorem contexts : Obligations.Contexts := by
  intro c s hw hc x became cmd asked leaves idle
  refine ⟨build_free hw, fun h hr => ⟨activate_rooted hw h hr, activate_rootless hw h hr⟩, fun h hg => quiesce_active hw hc h hg,
    resume_suspended hw, destroy_held hw, fun h => ctxStep_refused hw exec_build (by simpa using h),
    fun h => ctxStep_refused hw exec_activate (by simpa using h), fun h => ctxStep_refused hw exec_quiesce (by simpa using h),
    fun h => ctxStep_refused hw exec_resume (by simpa using h), fun h => ctxStep_refused hw exec_destroy (by simpa [and_assoc] using h),
    ?destroy, ?drain, ?drainFaulted, ?drainStays, ?teardown, teardownComplete_stays, ?hostfault, ?pair⟩
  case destroy =>
    intro hx hl ht hdev hpod hpg hpr
    refine ⟨_, destroy_drained ht hl hdev hpod hpg hpr hw hx, ?_, ?_, ?_, window_tornDownFrom ht c _, fun h q hq => ?_,
      fun h k hk => aset_tornDownFrom ht c _ h hk⟩
    · rw [tornDownFrom_eq ht]
    · rw [tornDownFrom_eq ht]
      exact becomes_modCtx hw fun x => Ctx.destroyed { x with cerr := 0 }
    · rw [tornDownFrom_eq ht]
      exact fun d => by simp
    · rw [queue_tornDownFrom ht c _ h hq]
      exact wiped_disabled _
  case drain =>
    exact fun hd h hi => ⟨_, ctxDrainComplete_quiescing hd (ctxIdle_iff.2 hi) h, rfl, becomes_modCtx hw _⟩
  case drainFaulted =>
    exact fun hd h hh hi => ctxStep_modCtx hw _ (ctxDrainComplete_faulted hd (ctxIdle_iff.2 hi) h hh)
  case drainStays =>
    exact fun h => ctxDrainComplete_stays (h.imp_right fun hi h => hi (ctxIdle_iff.1 h))
  case teardown =>
    intro hx hl hp
    refine ⟨_, teardownComplete_ends hx (tornDown_of hl hp), ?_⟩
    rw [freed_eq]
    have pairs : (s.freeFutsOf c).pairs = s.pairs := by rw [freeFutsOf_eq]
    refine ⟨rfl, becomes_modCtx hw fun x => { x with state := .free, drained := false, held := false }, fut_freeFutsOf, fun h p => ?_⟩
    exact (pairAt_disownOf (pairs ▸ h) p).trans (by rw [State.pairAt, pairs]; rfl)
  case hostfault =>
    exact fun v hv => ⟨fun h hg => hostfault_served hw hc hv h hg, hostfault_unserved hv⟩
  case pair =>
    intro pair hp hs hg ho
    refine ⟨_, pairRetirement_asks hp hs hg ho, ?_, ?_, ?_⟩
    · rw [foldl_requestIf_eq]; rfl
    · intro h
      rw [foldl_requestIf_eq]
      exact (pairAt_modPair h pair (fun q => { q with service := .retiring }) pair).trans (if_pos rfl)
    · refine asked_of_requestIf (s := s) (coreAt_foldl_requestIf (by exact hc) _ (coresOfPair_nodup pair)) fun l i _ => ?_
      exact (mem_coresOfPair l pair).symm.trans (and_iff_left rfl).symm

end Sys2Proof.Machine
end

section
/-!
The slots of a bundle that record an operation or enter one in the queues (O19, O18).
-/
open Sys2Proof

namespace Sys2Proof.Machine

variable {s : State} {i : Instr}

/-! ### Operations recorded -/

theorem quietOp_records (hc : s.core.compl = none) (h : s.Acts i) (vals : State → List Word) {perform : HeldOp → State → State}
    (e : exec i s = s.quietOp i vals perform) : Records s i (vals s) := by
  unfold Records
  rw [e, quietOp_issue _ _ _ _ hc, slotRun_acts h]
  rfl

/-- TEND also ends the order of bundles (R145). -/
theorem tend_records {x : OpC} (hc : s.core.compl = none) (h : s.Acts (.tend x)) : exec (.tend x) s =
    .next { s with core := { s.core with iss := s.core.iss.map fun b =>
      { b with ops := b.ops ++ [{ slot := 0, instr := .tend x, vals := [] }], redir := .stop } } } := by
  have e : exec (.tend x) s = s.slotRun (.tend x) fun s => (s.recordOp (.tend x) []).setRedirect .stop := by
    rw [exec_tend, execTend]
    simp only [hc]
  rw [e, slotRun_acts h, State.setRedirect, State.recordOp]
  cases hi : s.core.iss <;> simp [State.onCore, hi]; rfl

/-- Settles O19: each recording slot is one use of `quietOp_records`. -/
theorem recordedOperations : Obligations.RecordedOperations := by
  refine ⟨fun x s hc => ⟨?fset, ?ffail, ?fwait, ?bara, ?barw, ?barx, ?pbara, ?pbarw, ?tspawn⟩, fun x s hc => ⟨?qput, ?qget, ?trap⟩,
    fun x s hc => ⟨fun h => quietOp_records hc h (fun _ => []) (by rw [exec_yield, execYield]), tend_records hc⟩, fun x s hc => ⟨?send, ?msend⟩⟩
  all_goals exact fun h => quietOp_records hc h _ rfl

/-! ### Operations entered in the queues -/

/-- A slot that enters an operation without a result. -/
theorem entersQueues_silent {inLoad inStore : Bool} {ea : Nat} {vals : List Word} {vec : VecReg} {desc : BitVec 32} {st : MqState}
    (h : exec i s = .next (s.enqueue i inLoad inStore ea vals vec desc st false [])) :
    EntersQueues s i inLoad inStore ea vals vec st none := by
  obtain ⟨e, ps, entered, hseq, hinstr, hslot, hba, hbs, hl, hst, hea, hv, hvec, hs, hps⟩ :=
    enqueue_eq s i inLoad inStore ea vals vec desc st false []
  exact ⟨_, e, ps, h, entered, hseq, hinstr, hslot, hba, hbs, hl, hst, hea, hv, hvec, hs, hps⟩

/-- A slot that enters an operation whose result its destinations await. -/
theorem entersQueues_awaited {inLoad inStore : Bool} {ea : Nat} {vals : List Word} {vec : VecReg} {desc : BitVec 32} {st : MqState}
    {dests : List Opnd} (h : exec i s = .next (s.enqueue i inLoad inStore ea vals vec desc st true dests)) :
    EntersQueues s i inLoad inStore ea vals vec st (some dests) := by
  obtain ⟨e, ps, entered, hseq, hinstr, hslot, hba, hbs, hl, hst, hea, hv, hvec, hs, hps⟩ :=
    enqueue_eq s i inLoad inStore ea vals vec desc st true dests
  exact ⟨_, e, ps, h, entered, hseq, hinstr, hslot, hba, hbs, hl, hst, hea, hv, hvec, hs, _, hps, rfl, rfl, rfl, rfl, rfl⟩

/-- The search of HNEAR enters as any other operation does. -/
theorem hnear_enqueues {x : OpA} (hx : x.cl = .b) (h : s.Acts (.hnear x)) (dests : List Opnd)
    (hd : dests = match x.d with
      | .sreg _ => pairDests x.d
      | d => [d]) :
    EntersQueues s (.hnear x) true false (s.core.src x.cl x.b).toNat [s.core.src x.cl x.b, s.core.src x.cl x.c]
      (hvToVec (s.core.hsrc x.a)) .walk (some dests) := by
  have slot : instrSlot (.hnear x) = 7 := rfl
  have guard : (instrGuard (.hnear x)).1 = .b := hx
  refine entersQueues_awaited (desc := 0) ?_
  rw [exec_hnear, execHnear, slotRun_acts h]
  simp only [State.enqueue, slot, guard, hx, hd, State.awaitResult, State.onCore, State.nextSeq, Core.bundle]
  cases x.d <;> rfl

/-! ### Engine operations -/

theorem addScore_eq (s : State) (op : Nat) (rs : List (LsAddr × Nat × Nat × Bool)) :
    s.addScore op rs = { s with pairs := (s.addScore op rs).pairs } := by
  induction rs generalizing s with
  | nil => rfl
  | cons r rs ih =>
    show (State.addScore _ op rs) = _
    rw [ih]
    rfl

theorem twf_modPair (h : twf Pair.reset s.pairs = true) (k : Nat) (f : Pair → Pair) : twf Pair.reset (s.modPair k f).pairs = true :=
  twf_tmod h k f

/-- Every range puts its entry in the scoreboard of its pair (R303). -/
theorem pairAt_addScore (h : twf Pair.reset s.pairs = true) (op : Nat) (rs : List (LsAddr × Nat × Nat × Bool)) (p : Nat) :
    (s.addScore op rs).pairAt p =
      { s.pairAt p with sb := (s.pairAt p).sb ++ (rs.filter fun r => r.2.1 == p).map fun r => r.1.score op r.2.2.1 r.2.2.2 } := by
  induction rs generalizing s with
  | nil => simp [State.addScore]
  | cons r rs ih =>
    have step : (s.addScore op (r :: rs)) =
        (s.modPair r.2.1 fun q => { q with sb := q.sb ++ [r.1.score op r.2.2.1 r.2.2.2] }).addScore op rs := rfl
    rw [step, ih (twf_modPair h _ _), pairAt_modPair h]
    by_cases e : p = r.2.1
    · subst e
      simp
    · simp [e, Ne.symm e]

/-- The entry just numbered is the only one that a change by its number meets. -/
theorem setEntry_enqueue (hn : ∀ m ∈ s.core.mq, m.seq ≠ s.seqNo) (i : Instr) (inLoad inStore : Bool) (ea : Nat) (vals : List Word)
    (vec : VecReg) (desc : BitVec 32) (st : MqState) (f : MqEntry → MqEntry) :
    ∃ e, Entered s ((s.enqueue i inLoad inStore ea vals vec desc st false []).setEntry s.cur s.seqNo f) (f e) [] ∧ e.instr = i ∧
      e.slot = instrSlot i ∧ e.inLoad = inLoad ∧ e.inStore = inStore ∧ e.vals = vals ∧ e.st = st := by
  obtain ⟨e, ps, entered, hseq, hinstr, hslot, -, -, hl, hst, -, hv, -, hs, rfl⟩ :=
    enqueue_eq s i inLoad inStore ea vals vec desc st false []
  refine ⟨e, ?_, hinstr, hslot, hl, hst, hv, hs⟩
  have old : (s.core.mq.map fun m => if m.seq = s.seqNo then f m else m) = s.core.mq :=
    (List.map_congr_left fun m hm => if_neg (hn m hm)).trans (List.map_id' _)
  unfold Entered at entered ⊢
  rw [entered]
  simp [State.setEntry, State.modCore, State.setCore, State.coreAt, old, hseq]

/-- The scoreboard entries of the ranges that lie in a pair (R303). -/
def State.scoresIn (s : State) (i : Instr) (p : Nat) : List SbEntry :=
  ((s.engRanges i).filter fun r => r.2.1 == p).map fun r => r.1.score s.seqNo r.2.2.1 r.2.2.2

/-- An engine instruction enters the load queue, notes the tags and scale words of its ranges in its entry, and takes its scores. -/
theorem issueEngine_eq (s : State) (i : Instr) (vals : List Word) (desc : BitVec 32) : ∃ tagD scD tagS scS, s.issueEngine i vals desc =
    ((s.enqueue i true false 0 vals 0 desc .ready false []).setEntry s.cur s.seqNo fun e =>
      { e with tagD := tagD, scD := scD, tagS := tagS, scS := scS }).addScore s.seqNo (s.engRanges i) := ⟨_, _, _, _, rfl⟩

/-- What an engine instruction enters, and the scoreboards of its ranges (R303, R308, R319). -/
theorem issueEngine_spec (hn : ∀ m ∈ s.core.mq, m.seq ≠ s.seqNo) (i : Instr) (vals : List Word) (desc : BitVec 32) :
    ∃ u t e, Entered s u e [] ∧ e.instr = i ∧ e.slot = instrSlot i ∧ e.inLoad = true ∧ e.inStore = false ∧ e.vals = vals ∧ e.st = .ready ∧
      s.issueEngine i vals desc = t ∧ t = { u with pairs := t.pairs } ∧
      (twf Pair.reset s.pairs = true → ∀ p, t.pairAt p = { s.pairAt p with sb := (s.pairAt p).sb ++ s.scoresIn i p }) := by
  obtain ⟨tagD, scD, tagS, scS, eq⟩ := issueEngine_eq s i vals desc
  obtain ⟨e, entered, hi, hs, hl, hst, hv, hr⟩ := setEntry_enqueue hn i true false 0 vals 0 desc .ready fun e =>
    { e with tagD := tagD, scD := scD, tagS := tagS, scS := scS }
  refine ⟨_, _, _, entered, hi, hs, hl, hst, hv, hr, eq, addScore_eq _ _ _, fun h p => ?_⟩
  have pairs := congrArg State.pairs entered
  rw [pairAt_addScore (pairs ▸ h), State.pairAt, pairs]
  rfl

/-- Settles O18: the hub's, the controllers' and the search unit's operations enter by `enqueue`, an engine's by `issueEngine`. -/
theorem memoryAndEngineRequests : Obligations.MemoryAndEngineRequests := by
  refine ⟨⟨fun x s => ?queued, fun x s h => entersQueues_awaited (desc := 0) (by rw [exec_qpeek, execQpeek, slotRun_acts h])⟩, fun s i vals hi h hn => ?engine⟩
  case queued =>
    refine ⟨?fnew, ?ftest, ?ffree, ?bari, fun h => ?migr, fun h => ?pgstat, fun h => ?logapply, fun h => ?asdecl, fun h => ?asdrop, ?hnear⟩
    case fnew => exact fun _ h => entersQueues_awaited (desc := 0) (by rw [exec_fnew, execFnew, slotRun_acts h, State.askHub])
    case ftest => exact fun hx h => entersQueues_awaited (desc := 0) (by rw [exec_ftest, execFtest, slotRun_acts h, hx]; rfl)
    case ffree => exact fun hx h => entersQueues_silent (desc := 0) (by rw [exec_ffree, execFfree, slotRun_acts h, hx, State.askHub])
    case bari => exact fun hx h => entersQueues_silent (desc := 0) (by rw [exec_bari, execBari, slotRun_acts h, hx, State.askHub])
    case migr => exact entersQueues_silent (desc := 0) (by rw [exec_migr, execMigr, slotRun_acts h])
    case logapply => exact entersQueues_silent (desc := 0) (by rw [exec_logapply, execLogapply, slotRun_acts h])
    case pgstat => exact entersQueues_awaited (desc := 0) (by rw [exec_pgstat, execPgstat, slotRun_acts h])
    case asdecl => exact entersQueues_awaited (desc := 0) (by rw [exec_asdecl, execAsdecl, slotRun_acts h])
    case asdrop => exact entersQueues_awaited (desc := 0) (by rw [exec_asdrop, execAsdrop, slotRun_acts h])
    case hnear => exact fun hx h => hnear_enqueues hx h _ (by cases x.d <;> rfl)
  case engine =>
    obtain ⟨desc, he, hslot⟩ : ∃ desc, exec i s = .next (s.issueEngine i vals desc) ∧ instrSlot i = 7 := by
      obtain ⟨x, rfl, rfl⟩ | ⟨x, rfl, rfl⟩ | ⟨x, rfl, rfl⟩ := hi
      · exact ⟨_, by rw [exec_cpy, execCpy, slotRun_acts h], rfl⟩
      · exact ⟨_, by rw [exec_chase, execChase, slotRun_acts h], rfl⟩
      · exact ⟨_, by rw [exec_gath, execGath, slotRun_acts h], rfl⟩
    obtain ⟨u, t, e, entered, hinstr, hs, hl, hst, hv, hr, ht, hu, hp⟩ := issueEngine_spec hn i vals desc
    exact ⟨u, t, e, entered, hinstr, hs.trans hslot, hl, hst, hv, hr, by rw [he, ht], hu, hp⟩

end Sys2Proof.Machine
end

section
/-!
Every instruction answers a next state, and so does every step whose clocks run (O47).
-/
open Sys2Proof

namespace Sys2Proof.Machine

/-- The result is a next state. -/
def Answers (r : Res) : Prop := ∃ t, r = .next t

@[simp] theorem answers_next (t : State) : Answers (.next t) := ⟨t, rfl⟩

theorem answers_ite {p : Prop} [Decidable p] {r k : Res} (hr : Answers r) (hk : Answers k) : Answers (if p then r else k) := by
  split
  · exact hr
  · exact hk

/-! ### The ways an instruction is run -/

theorem quietOp_answers (s : State) (i : Instr) (vals : State → List Word) (perform : HeldOp → State → State) :
    Answers (s.quietOp i vals perform) := by
  unfold State.quietOp
  split
  · split
    · exact answers_next _
    · split <;> exact answers_next _
  · exact slotRun_next s i _

@[simp] theorem execTend_answers (x : OpC) (s : State) : Answers (execTend x s) := by
  unfold execTend
  split
  · exact quietOp_answers _ _ _ _
  · exact slotRun_next _ _ _

theorem takeRecord_answers (s : State) (q : Nat) (p : List Nat → Bool) (act : List Nat → State → Took) :
    Answers (s.takeRecord q p act) := by
  unfold State.takeRecord
  dsimp only
  split
  · exact answers_next _
  · split
    · split <;> exact answers_next _
    · exact answers_next _

@[simp] theorem execAgeRebase_answers (s : State) : Answers (execAgeRebase s) := by
  unfold execAgeRebase
  dsimp only
  split
  · exact answers_next _
  · split
    · exact answers_next _
    · exact takeRecord_answers _ _ _ _

theorem ctlIn_answers (s : State) (m : CtlMsg) (type : Nat) (act : State → State) : Answers (s.ctlIn m type act) := by
  unfold State.ctlIn
  split
  · exact answers_next _
  · split <;> exact answers_next _

@[simp] theorem execTicksync_answers (m : CtlMsg) (s : State) : Answers (execTicksync m s) := by
  unfold execTicksync
  split
  · exact answers_next _
  · split
    · exact ctlIn_answers _ _ _ _
    · split <;> exact answers_next _

theorem repairIn_answers (s : State) (m : CtlMsg) (phase : Nat) (act : RepairMsg → State → State) :
    Answers (s.repairIn m phase act) := by
  unfold State.repairIn
  split
  · exact answers_next _
  · exact ctlIn_answers _ _ _ _

theorem ctxCmd_answers (s : State) (c : Nat) (ok : CtxState → Bool) (act : State → State) : Answers (s.ctxCmd c ok act) := by
  unfold State.ctxCmd
  split <;> exact answers_next _

theorem intOp_answers (s : State) (i : Instr) (x : OpA) (sg : Bool) (f : Nat → Word → Word → Word → Int) : Answers (s.intOp i x sg f) :=
  slotRun_next s i _
theorem wordOp_answers (s : State) (i : Instr) (x : OpA) (f : Word → Word → Word → Word) : Answers (s.wordOp i x f) :=
  slotRun_next s i _
theorem immOp_answers (s : State) (i : Instr) (x : OpI) (f : Word → BitVec 32 → Word) : Answers (s.immOp i x f) := slotRun_next s i _
theorem fpOp_answers (s : State) (i : Instr) (x : OpA) (uses : Nat) (f : StdFmt → FpEnv → Nat → Nat → Nat → Nat × FpFlags) : Answers (s.fpOp i x uses f) :=
  slotRun_next s i _
theorem vecOp_answers (s : State) (i : Instr) (x : OpA) (f : Core → VecResult) : Answers (s.vecOp i x f) := slotRun_next s i _
theorem hvOp_answers (s : State) (i : Instr) (x : OpA) (f : HyperVec → HyperVec → HyperVec) : Answers (s.hvOp i x f) :=
  slotRun_next s i _
theorem vecElemOp_answers (s : State) (i : Instr) (x : OpA) (op : VOp) : Answers (s.vecElemOp i x op) := vecOp_answers s i x _
theorem vecBits_answers (s : State) (i : Instr) (x : OpA) (f : VecReg → VecReg → VecReg → VecReg) : Answers (s.vecBits i x f) :=
  vecOp_answers s i x _
theorem vecMove_answers (s : State) (i : Instr) (x : OpA) (f : VecReg → Nat → VecReg) : Answers (s.vecMove i x f) :=
  vecOp_answers s i x _
theorem vecSpecial_answers (s : State) (i : Instr) (x : OpA) (op : SfuOp) : Answers (s.vecSpecial i x op) := vecOp_answers s i x _
@[simp] theorem execStt_answers (x : OpM) (s : State) : Answers (execStt x s) := by unfold execStt; exact slotRunWith_next _ _ _ _
@[simp] theorem execLsstv_answers (x : OpL) (s : State) : Answers (execLsstv x s) := by unfold execLsstv; exact slotRunWith_next _ _ _ _

/-! ### The agents' steps: each answers in every branch -/

section
variable (s : State)

@[simp] theorem execSetRequest_answers (lin seq : Nat) : Answers (execSetRequest lin seq s) := by grind [execSetRequest, answers_next]
@[simp] theorem execWoundArrival_answers (lin : Nat) : Answers (execWoundArrival lin s) := by grind [execWoundArrival, answers_next]
@[simp] theorem execCpyComplete_answers (id : Nat) : Answers (execCpyComplete id s) := by
  unfold execCpyComplete
  dsimp only
  repeat' split
  all_goals exact answers_next _
@[simp] theorem execChaseComplete_answers (id : Nat) : Answers (execChaseComplete id s) := by
  unfold execChaseComplete
  dsimp only
  repeat' split
  all_goals exact answers_next _
@[simp] theorem execGathComplete_answers (id : Nat) : Answers (execGathComplete id s) := by
  unfold execGathComplete
  dsimp only
  repeat' split
  all_goals exact answers_next _
@[simp] theorem execLogAppend_answers (page : Nat) : Answers (execLogAppend page s) := by grind [execLogAppend, answers_next]
@[simp] theorem execMap_answers (c : Nat) : Answers (execMap c s) := by grind [execMap, answers_next]
@[simp] theorem execUnmap_answers (c : Nat) : Answers (execUnmap c s) := by grind [execUnmap, answers_next]
@[simp] theorem execChmod_answers (c : Nat) : Answers (execChmod c s) := by grind [execChmod, answers_next]
@[simp] theorem execRemap_answers (c : Nat) : Answers (execRemap c s) := by grind [execRemap, answers_next]
@[simp] theorem execPantry_answers (tower frame : Nat) : Answers (execPantry tower frame s) := by grind [execPantry, answers_next]
@[simp] theorem execMigrationStart_answers (page : Nat) : Answers (execMigrationStart page s) := by grind [execMigrationStart, answers_next]
@[simp] theorem execMigrationComplete_answers (page : Nat) : Answers (execMigrationComplete page s) := by grind [execMigrationComplete, answers_next]
@[simp] theorem execTransit_answers (lin : Nat) : Answers (execTransit lin s) := by grind [execTransit, answers_next]
@[simp] theorem execTranslationComplete_answers (lin seq : Nat) : Answers (execTranslationComplete lin seq s) := by grind [execTranslationComplete, answers_next]
@[simp] theorem execQueuePerform_answers (lin : Nat) (store : Bool) : Answers (execQueuePerform lin store s) := by grind [execQueuePerform, answers_next]
@[simp] theorem execQexpire_answers (task : Nat) : Answers (execQexpire task s) := by grind [execQexpire, answers_next]
@[simp] theorem execQueueAppend_answers (q offset : Nat) (bytes : List Byte) : Answers (execQueueAppend q offset bytes s) := by grind [execQueueAppend, answers_next]
@[simp] theorem execEnable_answers (q : Nat) : Answers (execEnable q s) := by grind [execEnable, answers_next]
@[simp] theorem execDrain_answers (q : Nat) : Answers (execDrain q s) := by grind [execDrain, answers_next]
@[simp] theorem execStop_answers (q : Nat) : Answers (execStop q s) := by grind [execStop, answers_next]
@[simp] theorem execLaunchAccept_answers (slot : Nat) : Answers (execLaunchAccept slot s) := by grind [execLaunchAccept, answers_next]
@[simp] theorem execWalkerCreate_answers (tower : Nat) : Answers (execWalkerCreate tower s) := by grind [execWalkerCreate, answers_next]
@[simp] theorem execLaunchComplete_answers (slot : Nat) : Answers (execLaunchComplete slot s) := by grind [execLaunchComplete, answers_next]
@[simp] theorem execLaunchAbortDrainComplete_answers (slot : Nat) : Answers (execLaunchAbortDrainComplete slot s) := by grind [execLaunchAbortDrainComplete, answers_next]
@[simp] theorem execHandlerStart_answers (slot : Nat) : Answers (execHandlerStart slot s) := by grind [execHandlerStart, answers_next]
@[simp] theorem execSendSourceRead_answers (id : Nat) : Answers (execSendSourceRead id s) := by grind [execSendSourceRead, answers_next]
@[simp] theorem execFlitReceive_answers (plane : Plane) (residue band : Nat) (pos : Nat) (cw : BitVec 2448) (tag : Nat) : Answers (execFlitReceive plane residue band pos cw tag s) := by grind [execFlitReceive, answers_next]
@[simp] theorem execFlitWrite_answers (plane : Plane) (residue : Nat) : Answers (execFlitWrite plane residue s) := by grind [execFlitWrite, answers_next]
@[simp] theorem execNotice_answers (m : CtlMsg) : Answers (execNotice m s) := by grind [execNotice, answers_next]
@[simp] theorem execNoticeApply_answers (plane : Plane) (index : Nat) : Answers (execNoticeApply plane index s) := by grind [execNoticeApply, answers_next]
@[simp] theorem execCtxDrainComplete_answers (c : Nat) : Answers (execCtxDrainComplete c s) := by grind [execCtxDrainComplete, answers_next]
@[simp] theorem execTeardownComplete_answers (c : Nat) : Answers (execTeardownComplete c s) := by grind [execTeardownComplete, answers_next]
@[simp] theorem execPairRetirement_answers (pair : Nat) : Answers (execPairRetirement pair s) := by grind [execPairRetirement, answers_next]
@[simp] theorem execWavelengthCheck_answers (line : LineId) (err : Int) : Answers (execWavelengthCheck line err s) := by grind [execWavelengthCheck, answers_next]
@[simp] theorem execThermalRetune_answers (line : LineId) : Answers (execThermalRetune line s) := by grind [execThermalRetune, answers_next]
@[simp] theorem execRetuneRelock_answers (line : LineId) : Answers (execRetuneRelock line s) := by grind [execRetuneRelock, answers_next]
@[simp] theorem execRetuneTimeout_answers (line : LineId) : Answers (execRetuneTimeout line s) := by grind [execRetuneTimeout, answers_next]
@[simp] theorem execLanternFault_answers (plane : Plane) : Answers (execLanternFault plane s) := by grind [execLanternFault, answers_next]
@[simp] theorem execLanternTakeoverComplete_answers (plane : Plane) : Answers (execLanternTakeoverComplete plane s) := by grind [execLanternTakeoverComplete, answers_next]
@[simp] theorem execAutoparkIdle_answers (plane : Plane) (band : Nat) : Answers (execAutoparkIdle plane band s) := by grind [execAutoparkIdle, answers_next]
@[simp] theorem execParkSwitch_answers (plane : Plane) (band : Nat) : Answers (execParkSwitch plane band s) := by grind [execParkSwitch, answers_next]
@[simp] theorem execWakeStart_answers (plane : Plane) : Answers (execWakeStart plane s) := by grind [execWakeStart, answers_next]
@[simp] theorem execWakeSwitch_answers (plane : Plane) (band : Nat) : Answers (execWakeSwitch plane band s) := by grind [execWakeSwitch, answers_next]
@[simp] theorem execTicksyncSend_answers : Answers (execTicksyncSend s) := by grind [execTicksyncSend, answers_next]
@[simp] theorem execCalibrationComplete_answers (plane : Plane) (peer : Nat) : Answers (execCalibrationComplete plane peer s) := by grind [execCalibrationComplete, answers_next]
@[simp] theorem execCalibrationTimeout_answers (plane : Plane) (peer : Nat) : Answers (execCalibrationTimeout plane peer s) := by grind [execCalibrationTimeout, answers_next]
@[simp] theorem execFabidWrite_answers (v : Word) : Answers (execFabidWrite v s) := by grind [execFabidWrite, answers_next]
@[simp] theorem execTableSwitchTick_answers (plane : Plane) : Answers (execTableSwitchTick plane s) := by grind [execTableSwitchTick, answers_next]
@[simp] theorem execModeWrite_answers (v : Word) : Answers (execModeWrite v s) := by grind [execModeWrite, answers_next]
@[simp] theorem execThermalSample_answers (sensors : List (Int × Int)) : Answers (execThermalSample sensors s) := by grind [execThermalSample, answers_next]
@[simp] theorem execFutureFree_answers (v : Word) : Answers (execFutureFree v s) := by grind [execFutureFree, answers_next]
@[simp] theorem execFutureSignal_answers (v : Word) : Answers (execFutureSignal v s) := by grind [execFutureSignal, answers_next]
@[simp] theorem execHostAccess_answers (a : HostAcc) : Answers (execHostAccess a s) := by grind [execHostAccess, answers_next]
@[simp] theorem execBundleIssue_answers (lin : Nat) (b : RawBundle) : Answers (execBundleIssue lin b s) := by grind [execBundleIssue, answers_next]
@[simp] theorem execResultVisible_answers (lin : Nat) : Answers (execResultVisible lin s) := by grind [execResultVisible, answers_next]
@[simp] theorem execCurrentWindowBoundary_answers (lin : Nat) : Answers (execCurrentWindowBoundary lin s) := by grind [execCurrentWindowBoundary, answers_next]
@[simp] theorem execRampWindowBoundary_answers (lin : Nat) : Answers (execRampWindowBoundary lin s) := by grind [execRampWindowBoundary, answers_next]
@[simp] theorem execDummyMma_answers (lin : Nat) : Answers (execDummyMma lin s) := by grind [execDummyMma, answers_next]
@[simp] theorem execQuiescentCompletion_answers (lin : Nat) : Answers (execQuiescentCompletion lin s) := by grind [execQuiescentCompletion, answers_next]
@[simp] theorem execGroupStart_answers (tower slot : Nat) : Answers (execGroupStart tower slot s) := by grind [execGroupStart, answers_next]
@[simp] theorem execTaskPick_answers (tower : Nat) : Answers (execTaskPick tower s) := by grind [execTaskPick, answers_next]
@[simp] theorem execPreemptArrival_answers (lin : Nat) : Answers (execPreemptArrival lin s) := by grind [execPreemptArrival, answers_next]
@[simp] theorem execScheduleEntry_answers (c index : Nat) : Answers (execScheduleEntry c index s) := by grind [execScheduleEntry, answers_next]

end

/-! ### Every instruction -/

/-- All but a register write, which may stand for other instructions: the last case is that of the agents' steps, above. -/
theorem exec_answers_of_ne (i : Instr) (s : State) (h : ∀ off v, i ≠ .registerWrite off v) : Answers (exec i s) := by
  unfold exec
  cases i with
  | prefetchHint _ | branchHint _ | br _ | bri _ | call _ | calli _ | ret _ | loop _ | lbrk _ | ldrain _ | sysr _ | sysw _ | fnew _ | ftest _ | ffree _ | bari _ | qpeek _
  | xcl _ | xcp _ | fcvt _ | fclass _ | fsgn _ | ld _ | st _ | ldv _ | stv _ | ldt _ | pref _ | ntst _ | ntstv _ | amo _ | amon _ | acas _
  | mark _ | fence _ | ntdrain _ | lsld _ | lsst _ | lsldv _ | migr _ | pgstat _ | logapply _ | asdecl _ | asdrop _ | vext _ | slld _
  | mma _ | mmaz _ | hld _ | hst _ | hrot _ | hbund _ | hmaj _ | hcclr _ | htie _ | hdist _ | hnear _ | hmovv _ | cpy _ | chase _ | gath _
  | wopen _ | wclose _ | lstat _ | fdset _ | fdget _ | bfmt _ => exact slotRun_next _ _ _
  | add _ | sub _ | mul _ | mulh _ | mulhn _ | div _ | divn _ | rem _ | remn _ | and _ | or _ | xor _ | andn _ | orn _ | shl _ | shr _
  | sar _ | rol _ | clz _ | ctz _ | popc _ | min _ | max _ | minn _ | maxn _ | abs _ | mad _ => exact intOp_answers ..
  | addi _ | movi _ | movh _ | cmpi _ => exact immOp_answers ..
  | bfx _ | bfi _ | sext _ | lea _ | sel _ | cmp _ | plog _ => exact wordOp_answers ..
  | fadd _ | fsub _ | fmul _ | fma _ | fdiv _ | fsqrt _ | fmin _ | fmax _ | fcmp _ => exact fpOp_answers ..
  | vadd _ | vsub _ | vmul _ | vfma _ | vfms _ | vmin _ | vmax _ | vabs _ | vneg _ | vshl _ | vshr _ | vsar _ | vclamp _ | vmad _ | vpopc _ => exact vecElemOp_answers ..
  | vand _ | vor _ | vxor _ | vandn _ | vsel _ | vmov _ => exact vecBits_answers ..
  | vcmp _ | vsplat _ | vins _ | vdot4 _ | vredr _ | vredc _ | vcvt _ => exact vecOp_answers ..
  | vrotr _ | vrotc _ | vbcr _ | vbcc _ | vtrn _ => exact vecMove_answers ..
  | vrcp _ | vrsq _ | vsqrt _ | vexp2 _ | vlog2 _ | vtanh _ => exact vecSpecial_answers ..
  | hxor _ | hlog _ => exact hvOp_answers ..
  | stt x => exact execStt_answers x s
  | lsstv x => exact execLsstv_answers x s
  | trap _ | yield _ | tspawn _ | fset _ | ffail _ | fwait _ | bara _ | barw _ | barx _ | pbara _ | pbarw _ | qput _ | qget _ | send _
  | msend _ => exact quietOp_answers _ _ _ _
  | tend _ => exact execTend_answers _ _
  | nopRecord _ | launch _ | glaunch _ | signal _ | waitf _ | migsched _ | slottabLoad _ | slottabSwitch _ | mcgroup _ | reservedRecord _ =>
    exact takeRecord_answers _ _ _ _
  | idle _ | credit _ | ack _ | done _ | arrive _ | mcfan _ => exact ctlIn_answers _ _ _ _
  | prep _ | ready _ | commit _ | abort _ | park _ | wake _ | probe _ => exact repairIn_answers _ _ _ _
  | build _ | activate _ | quiesce _ | resume _ | destroy _ => exact ctxCmd_answers _ _ _ _
  | ticksync _ => exact execTicksync_answers _ _
  | ageRebase => exact execAgeRebase_answers _
  | nop _ | dirtyLineWriteback _ | logApplyComplete _ | ackTimeout _ _ _ | repairReadyDeadline _
  | repairSwitch _ | slottabLoadReady _ | counterDecay | powerTrim | peg | warmReset | powerOnReset | reservedMessage _ | memoryError _
  | atsInvalidation _ | managementRequest _ | reset _ | hostfault _ | futureAlloc _ | barrierBind _ _ _ | barrierUnbind _ _ | bringup _
  | planeReset _ | snap _ | restore _ => exact answers_next _
  | registerWrite _ _ => exact absurd rfl (h _ _)
  | _ => simp

/-! ### Register writes -/

theorem ctxWrite_answers (s : State) (c w : Nat) (v : Word) : Answers (s.ctxWrite c w v) := by
  unfold State.ctxWrite
  split
  · split
    · exact exec_answers_of_ne (.build c) s nofun
    · exact exec_answers_of_ne (.activate c) s nofun
    · exact exec_answers_of_ne (.quiesce c) s nofun
    · exact exec_answers_of_ne (.resume c) s nofun
    · exact exec_answers_of_ne (.destroy c) s nofun
    · exact answers_next _
  · split <;> exact answers_next _
  · split <;> exact answers_next _
  · exact answers_next _

theorem queueWrite_answers (s : State) (q w : Nat) (v : Word) : Answers (s.queueWrite q w v) := by
  unfold State.queueWrite
  split
  · dsimp only
    split
    · exact execEnable_answers _ q
    · exact execDrain_answers _ q
    · exact execStop_answers _ q
    · exact answers_next _
    · exact answers_next _
  · exact answers_next _
  · exact answers_next _

theorem planeWrite_answers (s : State) (p : Plane) (off : Nat) (v : Word) : Answers (s.planeWrite p off v) := by
  unfold State.planeWrite
  split
  · exact answers_next _
  · split
    · exact answers_next _
    · exact answers_next _
    · exact answers_next _
    · dsimp only
      split <;> exact answers_next _
    · exact answers_next _
  · exact answers_next _
  · exact answers_next _

theorem devWrite_answers (s : State) (off : Nat) (v : Word) : Answers (s.devWrite off v) := by
  unfold State.devWrite
  split
  case h_1 => exact execModeWrite_answers s v
  case h_3 => exact exec_answers_of_ne (.hostfault v) s nofun
  case h_8 =>
    split
    · exact exec_answers_of_ne .warmReset s nofun
    · exact answers_next _
  case h_9 => exact execFabidWrite_answers s v
  all_goals exact answers_next _

theorem windowWrite_answers (s : State) (off : Nat) (v : Word) : Answers (s.windowWrite off v) := by
  unfold State.windowWrite
  split
  case h_5 => exact execFutureFree_answers s v
  case h_6 => exact execFutureSignal_answers s v
  all_goals exact answers_next _

theorem barrierWrite_answers (s : State) (pod : Bool) (index : Nat) (v : Word) : Answers (s.barrierWrite pod index v) := by
  unfold State.barrierWrite
  split
  · exact exec_answers_of_ne (.barrierBind pod index v) s nofun
  · exact answers_next _

theorem execRegisterWrite_answers (off : Nat) (v : Word) (s : State) : Answers (execRegisterWrite off v s) := by
  unfold execRegisterWrite
  repeat' with_reducible apply answers_ite
  all_goals simp [ctxWrite_answers, queueWrite_answers, planeWrite_answers, devWrite_answers, windowWrite_answers, barrierWrite_answers]

theorem exec_answers (i : Instr) (s : State) : Answers (exec i s) := by
  by_cases h : ∃ off v, i = .registerWrite off v
  · obtain ⟨off, v, rfl⟩ := h
    exact execRegisterWrite_answers off v s
  · exact exec_answers_of_ne i s fun off v e => h ⟨off, v, e⟩

/-! ### Every step -/

theorem run_answers (i : Instr) (s : State) : Answers (run i s) := by
  obtain ⟨t, ht⟩ := exec_answers i s
  rw [run, ht]
  exact answers_next _

theorem step_answers (s : State) (h : s.CanStep) : Answers (step s) := by
  unfold step
  split
  case isTrue trip =>
    split
    · exact run_answers _ _
    case h_2 none => exact absurd none (h.resolve_left (by simp [trip]))
  case isFalse =>
    split
    · exact run_answers _ _
    · split
      · exact run_answers _ _
      · exact answers_next _

theorem step_of_not_canStep (s : State) (h : ¬s.CanStep) : step s = .fault .thermalTrip := by
  obtain ⟨trip, none⟩ := not_or.mp h
  simp [step, Bool.eq_true_of_not_eq_false trip, not_not.mp none]

/-! ### A slot at issue -/

/-- A fault that carries the slot word has no second argument (R139). -/
def PlainArgs (r : Option IssueFault) : Prop := ∀ f, r = some f → f.1 = fcILLINST ∨ f.1 = fcILLOPND → f.2.2 = 0

section
variable {c : Bool} {r k : Option IssueFault}

theorem plainArgs_none : PlainArgs none := nofun
theorem plainArgs_zero (code : Nat) (a : Word) : PlainArgs (some (code, a, 0)) := fun _ e _ => by cases e; rfl
theorem plainArgs_code {code : Nat} (a b : Word) (h : code ≠ fcILLINST) (h' : code ≠ fcILLOPND) : PlainArgs (some (code, a, b)) :=
  fun _ e w => by cases e; exact absurd w (not_or.mpr ⟨h, h'⟩)
theorem plainArgs_badOpnd : PlainArgs badOpnd := plainArgs_zero fcILLOPND 0
theorem plainArgs_faultIf (hr : PlainArgs r) (hk : PlainArgs k) : PlainArgs (faultIf c r k) := by
  unfold faultIf
  split
  · exact hr
  · exact hk
theorem plainArgs_or (hr : PlainArgs r) (hk : PlainArgs k) : PlainArgs (r.or k) := by
  cases r with
  | none => exact hk
  | some f => exact hr
theorem plainArgs_ite {p : Prop} [Decidable p] (hr : PlainArgs r) (hk : PlainArgs k) : PlainArgs (if p then r else k) := by
  split
  · exact hr
  · exact hk

end

theorem addrFault_plainArgs (c : Core) (i : Instr) (x : OpM) : PlainArgs (c.addrFault i x) :=
  plainArgs_ite (plainArgs_zero _ _) (plainArgs_ite (plainArgs_zero _ _) plainArgs_none)

theorem lsRangeFault_plainArgs (c : Core) (i : Instr) (x : OpL) (last : Nat) : PlainArgs (c.lsRangeFault i x last) :=
  plainArgs_ite (plainArgs_code _ _ (by decide) (by decide)) plainArgs_none

theorem mmaFault_plainArgs (s : State) (x : OpMma) : PlainArgs (s.mmaFault x) :=
  plainArgs_faultIf plainArgs_badOpnd <| plainArgs_faultIf plainArgs_badOpnd <| plainArgs_faultIf plainArgs_badOpnd <|
    plainArgs_faultIf (plainArgs_code _ _ (by decide) (by decide)) plainArgs_none

theorem copySide_plainArgs (s : State) (isLs cvt : Bool) (w : Word) (n : Nat) : PlainArgs (s.copySide isLs cvt w n) := by
  unfold State.copySide
  refine plainArgs_ite plainArgs_none ?_
  split
  · exact plainArgs_badOpnd
  · exact plainArgs_ite plainArgs_none <| plainArgs_faultIf plainArgs_badOpnd <|
      plainArgs_faultIf (plainArgs_code _ _ (by decide) (by decide)) plainArgs_none

theorem cpyFault_plainArgs (s : State) (x : OpCpy) : PlainArgs (s.cpyFault x) :=
  plainArgs_faultIf plainArgs_badOpnd <| plainArgs_faultIf plainArgs_badOpnd <| plainArgs_faultIf plainArgs_badOpnd <|
    plainArgs_or (copySide_plainArgs _ _ _ _ _) (copySide_plainArgs _ _ _ _ _)

theorem chaseFault_plainArgs (s : State) (x : OpChase) : PlainArgs (s.chaseFault x) :=
  plainArgs_faultIf plainArgs_badOpnd <| plainArgs_faultIf plainArgs_badOpnd <| copySide_plainArgs _ _ _ _ _

theorem gathFault_plainArgs (s : State) (x : OpGath) : PlainArgs (s.gathFault x) :=
  plainArgs_faultIf plainArgs_badOpnd <| plainArgs_faultIf plainArgs_badOpnd <|
    plainArgs_or (copySide_plainArgs _ _ _ _ _) (copySide_plainArgs _ _ _ _ _)

theorem sendFault_plainArgs (s : State) (multi : Bool) (x : OpSend) : PlainArgs (s.sendFault multi x) :=
  plainArgs_faultIf plainArgs_badOpnd <| plainArgs_faultIf plainArgs_badOpnd <| plainArgs_faultIf plainArgs_badOpnd <|
    plainArgs_faultIf plainArgs_badOpnd <| plainArgs_faultIf plainArgs_badOpnd <| plainArgs_faultIf plainArgs_badOpnd <|
    copySide_plainArgs _ _ _ _ _

theorem slotFault_plainArgs (s : State) (quiet : Bool) (fl : FpFlags) (i : Instr) : PlainArgs (s.slotFault quiet fl i) := by
  have target (t : Int) : PlainArgs (if s.targetOk t then none else some (fcBADTARGET, BitVec.ofInt 64 t, 0)) :=
    plainArgs_ite plainArgs_none (plainArgs_zero _ _)
  have atIssue : PlainArgs (if trapping (FpEnv.ofFpcr s.core.fpcr).enables fl then some (fcFPTRAP, fl.toBits.zeroExtend 64, 0) else none) :=
    plainArgs_ite (plainArgs_zero _ _) plainArgs_none
  unfold State.slotFault
  cases i with
  | br | call | bri | calli | ret => exact target _
  | loop =>
    refine plainArgs_faultIf (plainArgs_zero _ _) <| plainArgs_faultIf plainArgs_badOpnd <| plainArgs_faultIf plainArgs_badOpnd <|
      plainArgs_faultIf (plainArgs_zero _ _) <| plainArgs_faultIf (plainArgs_zero _ _) <| plainArgs_faultIf (plainArgs_zero _ _) ?_
    exact plainArgs_ite (plainArgs_ite (target _) plainArgs_none) (target _)
  | lbrk =>
    dsimp only
    split
    · exact plainArgs_none
    · exact target _
  | bara | barw | barx | bari | pbara | pbarw | qput | qget | qpeek | bfmt | migr | asdecl | hnear | wopen =>
    exact plainArgs_faultIf plainArgs_badOpnd plainArgs_none
  | tspawn => exact plainArgs_faultIf plainArgs_badOpnd (plainArgs_faultIf (plainArgs_zero _ _) plainArgs_none)
  | ld | st | ldv | stv | ldt | ntst | ntstv | amo | amon | acas => exact addrFault_plainArgs _ _ _
  | stt => exact plainArgs_or (addrFault_plainArgs _ _ _) atIssue
  | lsld | lsst | slld | hld | hst => exact plainArgs_faultIf plainArgs_badOpnd (lsRangeFault_plainArgs _ _ _ _)
  | lsldv =>
    exact plainArgs_faultIf plainArgs_badOpnd <| plainArgs_ite plainArgs_none <|
      plainArgs_or (lsRangeFault_plainArgs _ _ _ _) (plainArgs_ite plainArgs_badOpnd plainArgs_none)
  | lsstv =>
    exact plainArgs_faultIf plainArgs_badOpnd <|
      plainArgs_or (lsRangeFault_plainArgs _ _ _ _) (plainArgs_ite (plainArgs_ite atIssue plainArgs_badOpnd) plainArgs_none)
  | mma | mmaz => exact mmaFault_plainArgs _ _
  | vcvt =>
    refine plainArgs_ite plainArgs_none ?_
    split
    · exact plainArgs_faultIf plainArgs_badOpnd plainArgs_none
    · exact plainArgs_badOpnd
  | cpy => exact cpyFault_plainArgs _ _
  | chase => exact chaseFault_plainArgs _ _
  | gath => exact gathFault_plainArgs _ _
  | send | msend => exact sendFault_plainArgs _ _ _
  | fdset => exact plainArgs_faultIf (plainArgs_code _ _ (by decide) (by decide)) plainArgs_none
  | _ => exact plainArgs_none

/-- The slot word may take the place of the first argument only (R139). -/
theorem withWord_eq {i : Instr} {f : IssueFault} (h : f.1 = fcILLINST ∨ f.1 = fcILLOPND → f.2.2 = 0) :
    ∃ a0, withWord i f = (f.1, a0, f.2.2) := by
  unfold withWord
  split
  case isTrue w => exact ⟨_, by rw [h (by simpa using w)]⟩
  case isFalse => exact ⟨_, rfl⟩

theorem slotRunWith_fault {s : State} {i : Instr} {f : IssueFault} {fl : FpFlags} (act : State → State) (hg : s.Guarded i)
    (hf : s.slotFault s.issuesQuiet fl i = some f) : ∃ a0, s.slotRunWith i fl act =
      .next (s.fatal s.cur s.core.bundle.2 s.core.bundle.1 (2 ^ instrSlot i) f.1 a0 f.2.2 0) := by
  obtain ⟨a0, e⟩ := withWord_eq (i := i) (slotFault_plainArgs _ _ _ _ f hf)
  refine ⟨a0, ?_⟩
  unfold State.slotRunWith
  refine (if_pos hg).trans ?_
  split
  case h_1 g hg =>
    obtain rfl : g = f := Option.some.inj (hg.symm.trans hf)
    simp only [e, slotMask]
  case h_2 none => exact absurd (none.symm.trans hf) nofun

/-- Settles O47: every branch of every instruction ends in a next state; a slot's run begins with its guard and its value check. -/
theorem nothingStops : Obligations.NothingStops := by
  unfold Obligations.NothingStops
  refine ⟨exec_answers, step_answers, step_of_not_canStep, fun i s slot hc => ?_⟩
  obtain ⟨act, e⟩ := exec_slot i s slot hc
  rw [e]
  exact ⟨fun hg => slotRunWith_guard_false _ _ _ _ (Bool.eq_false_of_not_eq_true hg), fun f => slotRunWith_fault act⟩

end Sys2Proof.Machine
end

section
/-!
A step runs the instruction chosen, and a core issues the words at its pc (O46).
-/
open Sys2Proof

namespace Sys2Proof.Machine

variable {s t : State} {i : Instr}

theorem run_of_exec (h : exec i s = .next t) : run i s = .next t.settle := by
  rw [run, h]

theorem step_slot {rest : List Instr} (hc : s.hub.tripped = false) (hs : s.slots = i :: rest)
    (h : exec i { s with slots := rest } = .next t) : step s = .next t.settle := by
  simp only [step, hc, hs]
  exact run_of_exec h

theorem step_agenda {rest : List Instr} (hc : s.hub.tripped = false) (hs : s.slots = []) (ha : s.agenda = i :: rest)
    (h : exec i { s with agenda := rest } = .next t) : step s = .next t.settle := by
  simp only [step, hc, hs, ha]
  rw [← hs]
  exact run_of_exec h

theorem step_idle (hc : s.hub.tripped = false) (hs : s.slots = []) (ha : s.agenda = []) : step s = .next s.tickOnce.settle := by
  simp [step, hc, hs, ha]

/-! ### The bundle at the pc -/

/-- Word `w` stands at code address `k` of the running task, in a page of the cellar whose log is empty. -/
def State.CodeAt (s : State) (k : Nat) (w : Word) : Prop :=
  ∃ a level e,
    let va := s.image.text + 8 * k
    let pa := s.physOf s.curCtx level e va
    s.walk s.curCtx va = .leaf a level e ∧ e % 16 = 2 ∧ s.logBlocked a = false ∧ s.poisoned pa 8 = false ∧ s.readWord pa = w.toNat

theorem fetchWord_of_codeAt {k : Nat} {w : Word} (h : s.CodeAt k w) : s.fetchWord k = some w := by
  obtain ⟨a, level, e, leaf, cellar, log, poison, word⟩ := h
  have res : pteRes e = resCELLAR := by simpa [pteRes, bitsOf, resCELLAR] using cellar
  have allowed : s.atsDenied s.curCtx level e (s.image.text + 8 * k) 8 = false := by simp [State.atsDenied, res, resCELLAR, resLARDER]
  simp [State.fetchWord, leaf, res, allowed, log, poison, word]

theorem fetchWords_of_codeAt {k : Nat} {ws : List Word} (h : ∀ j w, ws[j]? = some w → s.CodeAt (k + j) w) :
    s.fetchWords k ws.length = some ws := by
  induction ws generalizing k with
  | nil => rfl
  | cons w ws ih =>
    have rest : s.fetchWords (k + 1) ws.length = some ws := ih fun j v hv => by
      rw [Nat.add_assoc, Nat.add_comm 1 j]
      exact h (j + 1) v hv
    simp only [List.length_cons, State.fetchWords, show s.fetchWord k = some w from fetchWord_of_codeAt (h 0 w rfl), rest]

theorem fetch_of_codeAt {b : RawBundle} (len : b.words.length = spmCount b.header)
    (h : ∀ k w, (b.header :: b.words)[k]? = some w → s.CodeAt (s.core.pc + k) w) : s.fetch = some b := by
  have rest : s.fetchWords (s.core.pc + 1) b.words.length = some b.words := fetchWords_of_codeAt fun j w hw => by
    rw [Nat.add_assoc, Nat.add_comm 1 j]
    exact h (j + 1) w hw
  have head : s.fetchWord s.core.pc = some b.header := fetchWord_of_codeAt (h 0 _ rfl)
  simp [State.fetch, head, ← len, rest]

theorem bundleIssue_mem_coreCycle {lin : Nat} {b : RawBundle} (hi : (s.coreAt lin).iss = none) (hl : (s.coreAt lin).leave = none)
    (hq : (s.coreAt lin).compl = none) (hs : (s.coreAt lin).startAt ≤ s.cycle) (hn : (s.coreAt lin).nextIc ≤ (s.coreAt lin).ic)
    (hf : (s.focus lin).fetch = some b) : .bundleIssue lin b ∈ s.coreCycle true lin := by
  simp [State.coreCycle, hi, hl, hq, hs, hn, hf, onIf, Option.filter]

/-! ### A placed word -/

/-- Settles O46: each clause is one branch of `step`, of `fetch` or of `coreCycle`; that a placed word is the next step is the model's own
agenda (notes/assumptions/2.md). -/
theorem stepRunsDecoded : Obligations.StepRunsDecoded := by
  unfold Obligations.StepRunsDecoded
  refine ⟨fun s t i rest hc => ⟨step_slot hc, step_agenda hc⟩, fun s => step_idle, fun s b => fetch_of_codeAt,
    fun s lin b => bundleIssue_mem_coreCycle, ?_⟩
  intro s t n w b hc hb u
  have e : u = s.runsBundle b := by simp only [u, State.withFetchWord, hb]
  rw [e]
  refine ⟨rfl, rfl, rfl, focus_mem s 0, fun ht => step_agenda ?_ rfl rfl ht⟩
  exact (congrArg Hub.tripped (focus_hub s 0)).trans hc

end Sys2Proof.Machine
end

section
/-!
System registers, bank tags and format descriptors (O16).
-/
open Sys2Proof

namespace Sys2Proof.Machine

variable {s : State}

/-! ### The loop predicates lp0 to lp7 in LSTG (R182) -/

/-- The number whose bit k below n is `p k`. -/
def bitSum (p : Nat → Bool) (n : Nat) : Nat := ((List.range n).map fun k => if p k then 2 ^ k else 0).foldl (· + ·) 0

theorem bitSum_succ (p : Nat → Bool) (n : Nat) : bitSum p (n + 1) = bitSum p n + if p n then 2 ^ n else 0 := by
  simp [bitSum, List.range_succ]

theorem bitSum_lt (p : Nat → Bool) (n : Nat) : bitSum p n < 2 ^ n := by
  induction n with
  | zero => exact Nat.one_pos
  | succ n ih =>
    rw [bitSum_succ, pow_succ]
    split <;> omega

theorem testBit_bitSum (p : Nat → Bool) {n k : Nat} (h : k < n) : (bitSum p n).testBit k = p k := by
  induction n with
  | zero => exact absurd h (Nat.not_lt_zero k)
  | succ n ih =>
    have below := bitSum_lt p n
    rw [bitSum_succ]
    obtain hk | rfl := Nat.lt_succ_iff_lt_or_eq.mp h
    · cases hp : p n with
      | false => simpa using ih hk
      | true => simpa [Nat.add_comm, Nat.testBit_two_pow_add_gt hk] using ih hk
    · cases hp : p k with
      | false => simpa using Nat.testBit_lt_two_pow below
      | true => simp [Nat.add_comm (bitSum p k), Nat.testBit_two_pow_add_eq, Nat.testBit_lt_two_pow below]

/-! ### SYSR -/

theorem sysr_issues {x : OpI} (h : s.Acts (.sysr x)) : IssuesWord s (.sysr x) .a x.d (s.sysReg (x.imm.toNat % 4096)) := by
  have e : x.imm.toNat % 4096 = (x.imm.extractLsb' 0 12).toNat := by simp
  rw [e]
  exact issuesResult_of _ exec_sysr h .a _ _ _ _ _ rfl

theorem ite_two_pow (b : Bool) (k : Nat) : (if b then 2 ^ k else 0) = b.toNat * 2 ^ k := by
  cases b <;> simp

/-- Bit k of a word given by a number is read by division. -/
theorem getLsbD_ofNat_of {n k : Nat} {b : Bool} (hk : k < 64) (h : n / 2 ^ k % 2 = b.toNat) : (BitVec.ofNat 64 n).getLsbD k = b := by
  rw [BitVec.getLsbD_ofNat, decide_eq_true hk, Bool.true_and, Nat.testBit_eq_decide_div_mod_eq, h]
  cases b <;> rfl

/-- The layout of LSTG: lp0 to lp7, the nesting depth, and three flags (R197). -/
theorem lstgWord_fields {p : Nat → Bool} {n : Nat} (hn : n ≤ 4) (d q x : Bool) :
    let v := BitVec.ofNat 64 (bitSum p 8 + n * 2 ^ 8 + (if d then 2 ^ 11 else 0) + (if q then 2 ^ 12 else 0) + if x then 2 ^ 13 else 0)
    (∀ k, k < 8 → v.getLsbD k = p k) ∧ v.toNat / 2 ^ 8 % 2 ^ 3 = n ∧ v.getLsbD 11 = d ∧ v.getLsbD 12 = q ∧ v.getLsbD 13 = x ∧
      v.toNat / 2 ^ 14 % 2 ^ 50 = 0 := by
  have low : bitSum p 8 < 256 := bitSum_lt p 8
  have hd := d.toNat_lt
  have hq := q.toNat_lt
  have hx := x.toNat_lt
  simp only [ite_two_pow]
  have toNat : (BitVec.ofNat 64 (bitSum p 8 + n * 2 ^ 8 + d.toNat * 2 ^ 11 + q.toNat * 2 ^ 12 + x.toNat * 2 ^ 13)).toNat =
      bitSum p 8 + n * 2 ^ 8 + d.toNat * 2 ^ 11 + q.toNat * 2 ^ 12 + x.toNat * 2 ^ 13 := Nat.mod_eq_of_lt (by omega)
  refine ⟨fun k hk => ?_, ?_, getLsbD_ofNat_of (by decide) ?_, getLsbD_ofNat_of (by decide) ?_, getLsbD_ofNat_of (by decide) ?_, ?_⟩
  · have : (bitSum p 8 + n * 2 ^ 8 + d.toNat * 2 ^ 11 + q.toNat * 2 ^ 12 + x.toNat * 2 ^ 13) % 2 ^ 8 = bitSum p 8 := by omega
    calc _ = ((bitSum p 8 + n * 2 ^ 8 + d.toNat * 2 ^ 11 + q.toNat * 2 ^ 12 + x.toNat * 2 ^ 13) % 2 ^ 8).testBit k := by
          rw [BitVec.getLsbD, toNat, Nat.testBit_mod_two_pow, decide_eq_true hk, Bool.true_and]
      _ = p k := by rw [this, testBit_bitSum p hk]
  all_goals omega

/-- The bits [lo + w - 1 : lo] of a word (R190). -/
abbrev wordField (v : Word) (lo w : Nat) : Nat := v.toNat / 2 ^ lo % 2 ^ w

theorem sysReg_coreId (h : s.cur < 1152) :
    let v := s.sysReg 0x002
    wordField v 0 7 = s.cur % 72 ∧ wordField v 7 1 = s.cur / 72 % 2 ∧ wordField v 8 3 = s.cur / 144 ∧ wordField v 11 11 = s.cur ∧
      wordField v 22 42 = 0 := by
  have column : s.cur % 72 < 128 := by omega
  have layer : s.cur % 144 / 72 = s.cur / 72 % 2 := by omega
  have tower : s.cur / 144 < 8 := by omega
  simp only [wordField, State.sysReg, layerOf, towerOf, layer, BitVec.toNat_ofNat]
  have bit : s.cur / 72 % 2 < 2 := by omega
  generalize s.cur % 72 = a at *
  generalize s.cur / 72 % 2 = b at *
  generalize s.cur / 144 = c at *
  clear layer
  have small : a + b * 2 ^ 7 + c * 2 ^ 8 + s.cur * 2 ^ 11 < 2 ^ 64 := by omega
  rw [Nat.mod_eq_of_lt small]
  omega

theorem sysReg_peer (hs : s.hub.seat < 32) (hp : s.hub.pod < 32) :
    let v := s.sysReg 0x003
    wordField v 0 5 = s.hub.seat ∧ wordField v 5 5 = s.hub.pod ∧ wordField v 10 1 = (if s.hub.lock then 1 else 0) ∧ wordField v 11 53 = 0 := by
  simp only [wordField, State.sysReg, Hub.peerWord, BitVec.toNat_ofNat]
  split <;> omega

theorem sysReg_below {n m w : Nat} (h : s.sysReg n = BitVec.ofNat 64 m) (hm : m < 2 ^ w) (hw : w < 64) :
    wordField (s.sysReg n) 0 w = m ∧ wordField (s.sysReg n) w (64 - w) = 0 := by
  have small : m < 2 ^ 64 := hm.trans (Nat.pow_lt_pow_right (by omega) hw)
  rw [h, wordField, wordField, BitVec.toNat_ofNat, Nat.mod_eq_of_lt small, pow_zero, Nat.div_one, Nat.mod_eq_of_lt hm, Nat.div_eq_of_lt hm]
  exact ⟨rfl, Nat.zero_mod _⟩

theorem sysReg_group {t : Task} (ht : s.task s.curTask = t) (hg : t.gslot < 32768) (hz : (s.group (groupKey t.gslot)).size ≤ 16) :
    let v := s.sysReg 0x014
    wordField v 0 11 = t.gslot % 2048 ∧ wordField v 11 5 = 0 ∧ wordField v 16 4 = t.gslot / 2048 ∧
      wordField v 20 5 = (s.group (groupKey t.gslot)).size ∧ wordField v 25 39 = 0 := by
  have e : s.sysReg 0x014 =
      BitVec.ofNat 64 (bitsOf t.gslot 0 11 + groupRank t.gslot * 2 ^ 16 + (s.group (groupKey t.gslot)).size * 2 ^ 20) := by
    simp only [State.sysReg, ht]
    exact if_neg (by omega)
  have slot : bitsOf t.gslot 0 11 = t.gslot % 2048 := by simp [bitsOf]
  have rank : groupRank t.gslot = t.gslot / 2048 := Nat.mod_eq_of_lt (by omega)
  simp only [wordField, e, slot, rank, BitVec.toNat_ofNat]
  have low : t.gslot % 2048 < 2048 := by omega
  have high : t.gslot / 2048 < 16 := by omega
  generalize t.gslot % 2048 = a at *
  generalize t.gslot / 2048 = b at *
  omega

theorem sysReg_pass {l : Loop} {rest : List Loop} (h : s.core.loops = l :: rest) :
    let v := s.sysReg 0x030
    wordField v 0 32 = l.pass % 2 ^ 32 ∧ wordField v 32 32 = l.neff % 2 ^ 32 := by
  simp only [wordField, State.sysReg, h, BitVec.toNat_ofNat]
  omega

theorem sysReg_pass_none (h : s.core.loops = []) : s.sysReg 0x030 = 0 := by
  simp only [State.sysReg, h]

theorem sysReg_halves (a b : BitVec 32) : (b ++ a).extractLsb' 0 32 = a ∧ (b ++ a).extractLsb' 32 32 = b := by
  constructor
  · rw [BitVec.extractLsb'_append_eq_of_add_le (by decide), BitVec.extractLsb'_eq_self]
  · rw [BitVec.extractLsb'_append_eq_of_le (by decide), BitVec.extractLsb'_eq_self]

theorem sysReg_current (hl : s.core.cnt.limit < 4096) (hp : s.core.cnt.pub < 4096) (hu : s.core.cnt.used < 4096) :
    let v := s.sysReg 0x041
    wordField v 0 12 = s.core.cnt.limit ∧ wordField v 12 4 = 0 ∧ wordField v 16 12 = s.core.cnt.pub ∧ wordField v 28 4 = 0 ∧
      wordField v 32 12 = s.core.cnt.used ∧ wordField v 44 20 = 0 := by
  simp only [wordField, State.sysReg, BitVec.toNat_ofNat]
  omega

theorem sysReg_ramp (hs : s.core.cnt.step < 1024) (hp : s.core.cnt.prev < 1024) (hc : s.core.cnt.cur < 1024) (hk : s.core.cnt.skip < 64) :
    let v := s.sysReg 0x042
    wordField v 0 10 = s.core.cnt.step ∧ wordField v 10 6 = 0 ∧ wordField v 16 10 = 64 ∧ wordField v 26 6 = 0 ∧
      wordField v 32 10 = s.core.cnt.prev ∧ wordField v 42 6 = 0 ∧ wordField v 48 10 = s.core.cnt.cur ∧ wordField v 58 6 = s.core.cnt.skip := by
  simp only [wordField, State.sysReg, Config.fwStep, BitVec.toNat_ofNat]
  omega

theorem sysReg_lstg (h : s.core.loops.length ≤ 4) :
    let v := s.sysReg 0x031
    (∀ k, k < 8 → v.getLsbD k = stagePred s.core.loops k) ∧ v.toNat / 2 ^ 8 % 2 ^ 3 = s.core.loops.length ∧
      (v.getLsbD 11 = true ↔ ∃ l rest, s.core.loops = l :: rest ∧ l.drain = true) ∧
      v.getLsbD 12 = s.core.preq.isSome ∧ v.getLsbD 13 = s.core.px ∧ v.toNat / 2 ^ 14 % 2 ^ 50 = 0 := by
  obtain ⟨lp, depth, drain, preq, px, zero⟩ := lstgWord_fields (p := stagePred s.core.loops) h
    (s.core.loops.head?.elim false fun l => l.drain) s.core.preq.isSome s.core.px
  refine ⟨lp, depth, ?_, preq, px, zero⟩
  refine (iff_of_eq (congrArg (· = true) drain)).trans ?_
  cases s.core.loops <;> simp

/-! ### SYSW -/

theorem toBits_ofBits (b : BitVec 6) : (FpFlags.ofBits b).toBits = b := by
  revert b
  decide

theorem sysw_records {x : OpI} (h : s.Acts (.sysw x)) : exec (.sysw x) s = .next { s with core := { s.core with iss := s.core.iss.map fun b =>
    { b with sysw := b.sysw ++ [(x.imm.toNat % 4096, s.core.src .a x.a)] } } } := by
  have e : (x.imm.extractLsb' 0 12).toNat = x.imm.toNat % 4096 := by simp
  rw [exec_sysw, execSysw, slotRun_acts h, e]
  rfl

theorem sysWrite_status (c : Core) (v : Word) : ∃ st, c.sysWrite 0x050 v = { c with cnt := { c.cnt with stat := st } } ∧
    ∀ k, k < 6 → st.getLsbD k = (c.cnt.stat.getLsbD k && !(v.getLsbD k && (k == 0 || decide (3 ≤ k)))) := by
  refine ⟨_, rfl, fun k hk => ?_⟩
  have mask : (0x39#6).getLsbD k = (k == 0 || decide (3 ≤ k)) := by
    interval_cases k <;> rfl
  rw [BitVec.getLsbD_and, BitVec.getLsbD_not, BitVec.getLsbD_and, mask, BitVec.getLsbD_extractLsb']
  simp [hk]

theorem sysWrite_step (c : Core) (v : Word) : c.sysWrite 0x042 v = { c with cnt := { c.cnt with step :=
    if v.toNat % 1024 = 0 then 1 else if 64 < v.toNat % 1024 then 64 else v.toNat % 1024 } } := by
  have e : min (max (v.extractLsb' 0 10).toNat 1) Config.fwStep =
      if v.toNat % 1024 = 0 then 1 else if 64 < v.toNat % 1024 then 64 else v.toNat % 1024 := by
    simp only [BitVec.extractLsb'_toNat, Nat.shiftRight_zero, Config.fwStep]
    split <;> [skip; split] <;> omega
  rw [← e]
  rfl

theorem sysWrite_limit (c : Core) (v : Word) :
    c.sysWrite 0x041 v = { c with cnt := { c.cnt with limit := min (max (v.toNat % 4096) 128) c.cnt.pub } } := by
  have e : v.toNat % 4096 = (v.extractLsb' 0 12).toNat := by simp
  rw [e]
  rfl

theorem sysWrite_other (c : Core) (n : Nat) (v : Word) (h : n ∉ [0x020, 0x021, 0x040, 0x041, 0x042, 0x043, 0x050]) : c.sysWrite n v = c := by
  unfold Core.sysWrite
  split
  case h_8 => rfl
  all_goals exact absurd (by decide) h

/-! ### Bank tags and descriptors -/

theorem tagWord_fields (code : BitVec 5) :
    let tag : BitVec 32 := 1#2 ++ code ++ 0#25
    tag.extractLsb' 30 2 = 1 ∧ tag.extractLsb' 25 5 = code ∧ tag.extractLsb' 0 25 = 0 := by
  revert code
  decide

/-- The tag BFMT writes: none for the type code NIL bit 5, else the type and a descriptor's fields (R300, R302). -/
theorem bfmt_writes {x : OpL} (h : s.Acts (.bfmt x)) :
    ∃ (tag : BitVec 32) (p : Pair), exec (.bfmt x) s = .next { s with pairs := tput Pair.reset s.pairs (pairOf s.cur) p } ∧
      p.data = (s.pairAt (pairOf s.cur)).data ∧ p.scale = (s.pairAt (pairOf s.cur)).scale ∧ p.sb = (s.pairAt (pairOf s.cur)).sb ∧
      (twf 0 (s.pairAt (pairOf s.cur)).tags = true → ∀ b, tget 0 p.tags b = if b ∈ bfmtBanks x then tag else tget 0 (s.pairAt (pairOf s.cur)).tags b) ∧
      (x.md.getLsbD 5 = true → tag = 0) ∧
      (∀ ty, x.md.getLsbD 5 = false → decTy (x.md.extractLsb' 0 5) = some ty → (∀ k, ty ≠ .fd k) →
        tag.extractLsb' 30 2 = 1 ∧ tag.extractLsb' 25 5 = x.md.extractLsb' 0 5 ∧ tag.extractLsb' 0 25 = 0) := by
  rw [exec_bfmt, execBfmt, slotRun_acts h]
  refine ⟨_, _, rfl, rfl, rfl, rfl, fun ht b => tget_foldl_tput _ _ ht b, fun untag => if_pos untag, fun ty tagged hty plain => ?_⟩
  simp only [tagged, hty, Bool.false_eq_true, if_false]
  cases ty with
  | fd k => exact absurd rfl (plain k)
  | _ => exact tagWord_fields _

theorem fdset_issues {x : OpA} (h : s.Acts (.fdset x)) : ∃ v : BitVec 32, IssuesResult s (.fdset x) [] [.fd x.md.toNat v] .none {} {} ∧
    ∀ j, j < 32 → v.getLsbD j = (decide (j ≠ 7) && decide (j < 25) && (s.core.src .b x.a).getLsbD j) := by
  refine ⟨_, issuesResult_of _ exec_fdset h .b _ _ _ _ _ rfl, fun j hj => ?_⟩
  have mask : (0x01FFFF7F#32).getLsbD j = (decide (j ≠ 7) && decide (j < 25)) := by
    interval_cases j <;> rfl
  rw [BitVec.getLsbD_and, mask, BitVec.getLsbD_extractLsb', Bool.and_comm]
  simp [hj]

theorem fdget_issues {x : OpA} (h : s.Acts (.fdget x)) : ∃ t, exec (.fdget x) s = .next t ∧
    IssuedBy s t (.fdget x) (2, 0) [x.d] (destWrites .b x.d ((s.core.fdValue (x.md.toNat % 16)).setWidth 64))
      (.word ((s.core.fdValue (x.md.toNat % 16)).setWidth 64)) {} {} := by
  have e : (x.md.extractLsb' 0 4).toNat = x.md.toNat % 16 := by simp
  rw [exec_fdget, execFdget, slotRun_acts h, ← e]
  exact ⟨_, rfl, _, rfl, rfl, rfl, rfl, rfl, rfl, rfl, rfl, rfl, rfl, rfl, rfl, rfl, rfl⟩

/-- Settles O16: each register's word is read field by field; a write acts on the one register it names. -/
theorem registersAndTags : Obligations.RegistersAndTags := by
  unfold Obligations.RegistersAndTags
  refine ⟨⟨fun x s n _ hn => ?_, fun x s => sysw_records, fun c v => ?_⟩, fun x s => bfmt_writes, fun x s => fdset_issues, fun x s => fdget_issues⟩
  case refine_2 =>
    exact ⟨rfl, ⟨_, rfl, toBits_ofBits _⟩, rfl, sysWrite_limit c v, sysWrite_step c v, rfl, sysWrite_status c v, fun n => sysWrite_other c n v⟩
  intro t cnt reads field h
  have read {p : Word → Prop} {k : Nat} (e : n = k) (hp : p (s.sysReg k)) : reads p :=
    ⟨_, sysr_issues h, by rw [hn, e]; exact hp⟩
  exact ⟨fun e => read e rfl, fun e => read e rfl, fun e hc => read e (sysReg_coreId hc), fun e hs hp => read e (sysReg_peer hs hp),
    fun e hi => read e (sysReg_below rfl hi (by decide)), fun e => read e rfl, fun e hx => read e (sysReg_below rfl hx (by decide)),
    fun e hl => read e (sysReg_below rfl hl (by decide)), fun e hg => read e (if_pos hg), fun e hg hz => read e (sysReg_group rfl hg hz),
    fun e => read e rfl, fun e => read e rfl, fun e => read e rfl, fun e hl => read e (sysReg_pass_none hl),
    fun e l rest hl => read e (sysReg_pass hl), fun e hl => read e (sysReg_lstg hl), fun e => read e (sysReg_halves _ _),
    fun e hl hp hu => read e (sysReg_current hl hp hu), fun e hs hp hc hk => read e (sysReg_ramp hs hp hc hk),
    fun e => read e (sysReg_halves _ _), fun e => read e rfl⟩

end Sys2Proof.Machine
end

section
/-!
Results that become visible (O28).
-/
open Sys2Proof

namespace Sys2Proof.Machine

/-! ### Sorting -/

theorem sortBy_perm {α : Type} (le : α → α → Bool) (l : List α) : (sortBy le l).Perm l := by
  induction l with
  | nil => exact .nil
  | cons x xs ih => exact (insertBy_perm le x _).trans (ih.cons x)

theorem sortBy_pair {α : Type} {le : α → α → Bool} {p q : α} (h : le p q = true) (h' : le q p = false) {l : List α}
    (hl : l = [p, q] ∨ l = [q, p]) : sortBy le l = [p, q] := by
  obtain rfl | rfl := hl
  · simp [sortBy, insertBy, h]
  · simp [sortBy, insertBy, h']

theorem sortBy_pair_cases {α : Type} (le : α → α → Bool) {p q : α} {l : List α} (hl : l = [p, q] ∨ l = [q, p]) :
    sortBy le l = [p, q] ∨ sortBy le l = [q, p] := by
  obtain rfl | rfl := hl
  · cases h : le p q <;> simp [sortBy, insertBy, h]
  · cases h : le q p <;> simp [sortBy, insertBy, h]

/-! ### The results due -/

variable {c : Core} {s : State} {lin : Nat} {p q : Pending}

/-- The results that this cycle leaves in flight. -/
def Core.restPend (c : Core) (cyc : Nat) : List Pending := c.pend.filter fun p => !p.due c.ic cyc

/-- The core once the results `live` are visible, those of one register in their order (R47). -/
def Core.visible (c : Core) (cyc : Nat) (live : List Pending) : Core :=
  let k := (settleCounters live).foldl Core.show { c with pend := c.restPend cyc }
  if anyCollision live then { k with cnt := { k.cnt with stat := k.cnt.stat ||| 1#6 } } else k

theorem resultVisible_quiet (h : firstTrap ((s.coreAt lin).dueResults s.cycle) = none) :
    exec (.resultVisible lin) s = .next (s.setCore lin ((s.coreAt lin).visible s.cycle ((s.coreAt lin).dueResults s.cycle))) := by
  simp only [exec_resultVisible, execResultVisible, h, Option.elim_none, List.filter_true]
  rfl

theorem resultVisible_trap {k : Nat} (h : firstTrap ((s.coreAt lin).dueResults s.cycle) = some k) :
    exec (.resultVisible lin) s =
      let due := (s.coreAt lin).dueResults s.cycle
      let ts := due.filter fun p => p.traps && p.bseq == k
      .next ((s.setCore lin ((s.coreAt lin).visible s.cycle (due.filter fun p => decide (p.bseq < k)))).fatal lin k
        ((ts.head?).elim 0 fun p => p.baddr) (((sortNat (ts.map fun p => p.slot)).map slotMask).foldl (· + ·) 0) fcFPTRAP
        ((orFlags (ts.map fun p => p.fl)).toBits.zeroExtend 64) 0 0) := by
  simp only [exec_resultVisible, execResultVisible, h, Option.elim_some]
  rfl

theorem firstTrap_eq_none {l : List Pending} (h : ∀ p ∈ l, p.traps = false) : firstTrap l = none := by
  unfold firstTrap
  induction l with
  | nil => rfl
  | cons p l ih => simpa [h p] using ih fun q hq => h q (List.mem_cons_of_mem p hq)

theorem mem_dueResults {cyc : Nat} : p ∈ c.dueResults cyc ↔ p ∈ c.pend.filter fun p => p.due c.ic cyc := (sortBy_perm _ _).mem_iff

/-! ### What the results write -/

theorem foldl_show_eq (l : List Pending) (c : Core) : l.foldl Core.show c =
    { c with regs := (l.foldl Core.show c).regs, dueFl := (l.foldl Core.show c).dueFl, dueCnt := (l.foldl Core.show c).dueCnt } := by
  induction l generalizing c with
  | nil => rfl
  | cons p l ih =>
    rw [List.foldl_cons, ih (c.show p)]
    rfl

theorem visible_eq (c : Core) (cyc : Nat) (live : List Pending) : c.visible cyc live =
    { c with pend := c.restPend cyc, regs := (c.visible cyc live).regs, dueFl := (c.visible cyc live).dueFl,
             dueCnt := (c.visible cyc live).dueCnt, cnt := { c.cnt with stat := (c.visible cyc live).cnt.stat } } := by
  unfold Core.visible
  rw [foldl_show_eq]
  split <;> rfl

theorem visible_regs (c : Core) (cyc : Nat) (live : List Pending) :
    (c.visible cyc live).regs = ((settleCounters live).foldl Core.show { c with pend := c.restPend cyc }).regs := by
  unfold Core.visible
  split <;> rfl

theorem mem_writes_of_settleCounters {l : List Pending} {w : RegWrite} (hq : q ∈ settleCounters l) (hw : w ∈ q.writes) :
    ∃ p ∈ l, w ∈ p.writes := by
  induction l with
  | nil => exact absurd hq (List.not_mem_nil)
  | cons p l ih =>
    obtain rfl | hq := List.mem_cons.mp hq
    · exact ⟨p, List.mem_cons_self, List.mem_of_mem_filter hw⟩
    · obtain ⟨r, hr, hrw⟩ := ih hq
      exact ⟨r, List.mem_cons_of_mem p hr, hrw⟩

/-- The scalar registers of a cluster. -/
def Regs.scalars (r : Regs) : Cluster → Tbl Word
  | .a => r.sa
  | .b => r.sb

theorem put_scalars_other {r : Regs} {cl : Cluster} (h : twf 0 (r.scalars cl) = true) {n : Nat} {w : RegWrite}
    (hw : ∀ v, w ≠ .sreg cl n v) :
    twf 0 ((r.put w).scalars cl) = true ∧ tget 0 ((r.put w).scalars cl) n = tget 0 (r.scalars cl) n := by
  cases w with
  | sreg d m v =>
    cases d <;> cases cl
    case a.a | b.b =>
      have other : n ≠ m := fun e => hw v (by rw [e])
      exact ⟨twf_tput h m v, (tget_tput h m v n).trans (if_neg other)⟩
    case a.b | b.a => exact ⟨h, rfl⟩
  | pred d _ _ => cases d <;> cases cl <;> exact ⟨h, rfl⟩
  | vec d _ _ _ => cases d <;> cases cl <;> exact ⟨h, rfl⟩
  | _ => cases cl <;> exact ⟨h, rfl⟩

theorem putLatch_scalars (r : Regs) (slot : Nat) (l : LatchWrite) (cl : Cluster) : (r.putLatch slot l).scalars cl = r.scalars cl := by
  unfold Regs.putLatch
  cases l with
  | none => rfl
  | word v => dsimp only; split <;> cases cl <;> rfl
  | wide v m => dsimp only; split <;> cases cl <;> rfl

theorem foldl_put_scalars_other {cl : Cluster} {n : Nat} (ws : List RegWrite) {r : Regs} (h : twf 0 (r.scalars cl) = true)
    (hw : ∀ v, .sreg cl n v ∉ ws) : twf 0 ((ws.foldl Regs.put r).scalars cl) = true ∧
      tget 0 ((ws.foldl Regs.put r).scalars cl) n = tget 0 (r.scalars cl) n := by
  induction ws generalizing r with
  | nil => exact ⟨h, rfl⟩
  | cons w ws ih =>
    obtain ⟨wf, kept⟩ := put_scalars_other h (n := n) (w := w) fun v e => hw v (by simp [e])
    obtain ⟨wf', kept'⟩ := ih wf fun v hv => hw v (List.mem_cons_of_mem w hv)
    exact ⟨wf', kept'.trans kept⟩

theorem foldl_show_scalars_other {cl : Cluster} {n : Nat} (l : List Pending) {c : Core} (h : twf 0 (c.regs.scalars cl) = true)
    (hw : ∀ p ∈ l, ∀ v, .sreg cl n v ∉ p.writes) :
    tget 0 ((l.foldl Core.show c).regs.scalars cl) n = tget 0 (c.regs.scalars cl) n := by
  induction l generalizing c with
  | nil => rfl
  | cons p l ih =>
    obtain ⟨wf, kept⟩ := foldl_put_scalars_other p.writes h (hw p List.mem_cons_self)
    have shown : (c.show p).regs.scalars cl = (p.writes.foldl Regs.put c.regs).scalars cl := putLatch_scalars _ _ _ _
    rw [List.foldl_cons, ih (by rw [shown]; exact wf) fun q hq => hw q (List.mem_cons_of_mem p hq), shown, kept]

/-- A scalar register that no result names keeps its value (R35). -/
theorem visible_scalars_other {cl : Cluster} {n cyc : Nat} {live : List Pending} (h : twf 0 (c.regs.scalars cl) = true)
    (hw : ∀ p ∈ live, ∀ v, .sreg cl n v ∉ p.writes) :
    tget 0 ((c.visible cyc live).regs.scalars cl) n = tget 0 (c.regs.scalars cl) n := by
  rw [visible_regs]
  refine foldl_show_scalars_other _ h fun p hp v hv => ?_
  obtain ⟨q, hq, hqv⟩ := mem_writes_of_settleCounters hp hv
  exact hw q hq v hqv

/-! ### One result, and two -/

/-- The results in flight that are due (R39). -/
def Core.duePend (c : Core) (cyc : Nat) : List Pending := c.pend.filter fun p => p.due c.ic cyc

theorem dueResults_eq (c : Core) (cyc : Nat) : c.dueResults cyc =
    sortBy (fun p q => decide (p.slot < q.slot) || (p.slot == q.slot && decide (p.bseq ≤ q.bseq))) (c.duePend cyc) := rfl

theorem visible_one (c : Core) (cyc : Nat) (p : Pending) : c.visible cyc [p] =
    { c with pend := c.restPend cyc, regs := (p.writes.foldl Regs.put c.regs).putLatch p.slot p.latch, dueFl := c.dueFl.or p.fl,
             dueCnt := c.dueCnt.add p.cnt } := by
  simp [Core.visible, settleCounters, anyCollision, Core.show]

theorem visible_same_register {cl : Cluster} {n : Nat} {v w : Word} (c : Core) (cyc : Nat) (hp : p.writes = [.sreg cl n v])
    (hq : q.writes = [.sreg cl n w]) : c.visible cyc [p, q] = { c with
      pend := c.restPend cyc
      regs := (((c.regs.put (.sreg cl n v)).putLatch p.slot p.latch).put (.sreg cl n w)).putLatch q.slot q.latch
      dueFl := (c.dueFl.or p.fl).or q.fl
      dueCnt := (c.dueCnt.add p.cnt).add q.cnt
      cnt := { c.cnt with stat := c.cnt.stat ||| 1 } } := by
  have collide : p.collides q = true := by simp [Pending.collides, hp, hq, RegWrite.meets]
  simp [Core.visible, settleCounters, anyCollision, collide, Core.show, hp, hq, RegWrite.counter]

theorem firstTrap_one (h : p.traps = true) : firstTrap [p] = some p.bseq := by
  simp [firstTrap, h]

theorem firstTrap_two (hp : p.traps = false) (hq : q.traps = true) {l : List Pending} (hl : l = [p, q] ∨ l = [q, p]) :
    firstTrap l = some q.bseq := by
  obtain rfl | rfl := hl <;> simp [firstTrap, hp, hq]

theorem orFlags_one (f : FpFlags) : orFlags [f] = f := by
  simp [orFlags, FpFlags.or]

theorem sortNat_one (n : Nat) : sortNat [n] = [n] := by
  rfl

/-- A result that raises an enabled flag beside results of earlier bundles: they are visible, and it is the fault (R218). -/
theorem resultVisible_fault {l rest : List Pending} (due : (s.coreAt lin).dueResults s.cycle = l) (first : firstTrap l = some q.bseq)
    (before : l.filter (fun p => decide (p.bseq < q.bseq)) = rest) (only : l.filter (fun p => p.traps && p.bseq == q.bseq) = [q]) :
    exec (.resultVisible lin) s = .next ((s.setCore lin ((s.coreAt lin).visible s.cycle rest)).fatal lin q.bseq q.baddr (2 ^ q.slot) 0x14
      (q.fl.toBits.setWidth 64) 0 0) := by
  subst due
  rw [resultVisible_trap first]
  simp [before, only, sortNat_one, orFlags_one, slotMask, fcFPTRAP]

/-! ### Registers and latches written (R35, R36, R252) -/

theorem getLsbD_mergeBits {w : Nat} (old new mask : BitVec w) (j : Nat) :
    (mergeBits old new mask).getLsbD j = if mask.getLsbD j = true then new.getLsbD j else old.getLsbD j := by
  by_cases hj : j < w
  · rw [mergeBits, BitVec.getLsbD_or, BitVec.getLsbD_and, BitVec.getLsbD_and, BitVec.getLsbD_not, decide_eq_true hj]
    cases mask.getLsbD j <;> simp
  · simp [mergeBits, BitVec.getLsbD_of_ge _ _ (Nat.le_of_not_lt hj)]

theorem getLsbD_tmod_mergeBits {w : Nat} {t : Tbl (BitVec w)} (h : twf 0 t = true) (n : Nat) (new mask : BitVec w) (k j : Nat) :
    (tget 0 (tmod 0 t n fun old => mergeBits old new mask) k).getLsbD j =
      if k = n ∧ mask.getLsbD j = true then new.getLsbD j else (tget 0 t k).getLsbD j := by
  rw [tget_tmod h]
  by_cases hk : k = n
  · simp [hk, getLsbD_mergeBits]
  · simp [hk]

theorem getLsbD_halfMask {half j : Nat} (hj : j < 49152) : (halfMask half).getLsbD j = decide (j / 24576 = half) := by
  unfold halfMask
  rw [BitVec.getLsbD_ofNat, Nat.testBit_mul_two_pow, Nat.testBit_two_pow_sub_one]
  rw [decide_eq_true hj, Bool.true_and, ← Bool.decide_and]
  exact decide_eq_decide.mpr (by omega)

theorem tget_foldl_range {α : Type} [DecidableEq α] {d : α} (v : Tbl α) (cols : Nat) {t : Tbl α} (h : twf d t = true) :
    twf d ((List.range cols).foldl (fun t k => tput d t k (tget d v k)) t) = true ∧
      ∀ k, tget d ((List.range cols).foldl (fun t k => tput d t k (tget d v k)) t) k = if k < cols then tget d v k else tget d t k := by
  induction cols with
  | zero => exact ⟨h, fun k => rfl⟩
  | succ n ih =>
    obtain ⟨wf, get⟩ := ih
    rw [List.range_succ, List.foldl_append]
    refine ⟨twf_tput wf n _, fun k => (tget_tput wf n _ k).trans ?_⟩
    rw [get k]
    grind

/-- Settles O28: the results due are sorted, and each is folded into registers and latches; a second result of one register also sets
WBCOL (that a latch counts whole is notes/assumptions/52.md). -/
theorem resultsBecomeVisible : Obligations.ResultsBecomeVisible := by
  unfold Obligations.ResultsBecomeVisible
  refine ⟨fun lin s => ?_, fun r n slot v w mask => ?_⟩
  · intro c due rest
    have quiet {l : List Pending} (sorted : c.dueResults s.cycle = l) (h : ∀ p ∈ l, p.traps = false) :
        exec (.resultVisible lin) s = .next (s.setCore lin (c.visible s.cycle l)) := by
      subst sorted
      exact resultVisible_quiet (firstTrap_eq_none h)
    refine ⟨fun none => ?_, fun calm => ?_, fun p one calm => ?_, fun p one trap => ?_, fun p q cl n v w two hp hq hpw hqw order => ?_,
      fun p q two hp hq order => ?_⟩
    · have sorted : c.dueResults s.cycle = [] := by rw [dueResults_eq, show c.duePend s.cycle = [] from none]; rfl
      exact ⟨_, quiet sorted (by simp), rfl⟩
    · have calm' : ∀ p ∈ c.dueResults s.cycle, p.traps = false := fun p hp => calm p (mem_dueResults.mp hp)
      refine ⟨_, _, quiet rfl calm', rfl, visible_eq _ _ _, fun wf n hn => ?_, fun wf n hn => ?_⟩
      · exact visible_scalars_other (cl := .a) wf fun p hp v => hn p (mem_dueResults.mp hp) v
      · exact visible_scalars_other (cl := .b) wf fun p hp v => hn p (mem_dueResults.mp hp) v
    · have sorted : c.dueResults s.cycle = [p] := by rw [dueResults_eq, show c.duePend s.cycle = [p] from one]; rfl
      rw [quiet sorted (by simpa [Pending.traps] using calm), visible_one]
      rfl
    · have sorted : c.dueResults s.cycle = [p] := by rw [dueResults_eq, show c.duePend s.cycle = [p] from one]; rfl
      exact resultVisible_fault (rest := []) sorted (firstTrap_one trap) (by simp) (by simp [show p.traps = true from trap])
    · have sorted : c.dueResults s.cycle = [p, q] := sortBy_pair (by grind) (by grind) two
      rw [quiet sorted (by simpa [Pending.traps] using ⟨hp, hq⟩), visible_same_register _ _ hpw hqw]
      rfl
    · have sorted : c.dueResults s.cycle = [p, q] ∨ c.dueResults s.cycle = [q, p] := sortBy_pair_cases _ two
      have hp' : p.traps = false := hp
      have hq' : q.traps = true := hq
      rw [resultVisible_fault (rest := [p]) rfl (firstTrap_two hp hq sorted), visible_one]
      · rfl
      · obtain e | e := sorted <;> simp [c, e, order]
      · obtain e | e := sorted <;> simp [c, e, hp', hq']
  · refine ⟨fun h => tget_tput h n v, fun h => tget_tput h n v, fun h p => tget_tput h n p, fun h p => tget_tput h n p,
      fun h k j _ => getLsbD_tmod_mergeBits h n w mask k j, fun h k j _ => getLsbD_tmod_mergeBits h n w mask k j, fun h hs k => ?_,
      fun h hs k => ?_, rfl, fun h hs k j _ => ?_, fun h ht => tget_tput ht n h, fun _ => rfl, fun d h => tget_tput h n d,
      fun h hc => tget_tput hc n h, fun h half wf _ k j hj => ?_, fun cols l h => ⟨fun k hk => ?_, fun hz k => ?_⟩⟩
    · exact (congrArg (fun t : Regs => tget 0 t.lat k) (if_pos hs)).trans (tget_tput h slot v k)
    · exact (congrArg (fun t : Regs => tget 0 t.latv k) (if_neg (by omega))).trans (tget_tput h slot _ k)
    · exact (congrArg (fun t : Regs => (tget 0 t.latv k).getLsbD j) (if_neg (by omega))).trans (getLsbD_tmod_mergeBits h slot w mask k j)
    · refine (getLsbD_tmod_mergeBits wf n h _ k j).trans (if_congr ?_ rfl rfl)
      rw [getLsbD_halfMask hj, decide_eq_true_iff]
    · simp only [Regs.put]
      rw [tget_tmod h, if_neg hk]
    · simp only [Regs.put]
      rw [tget_tmod h, if_pos rfl]
      exact (tget_foldl_range l cols hz).2 k

end Sys2Proof.Machine
end

section
/-!
A completion step begins and ends (O21).
-/
open Sys2Proof

namespace Sys2Proof.Machine

variable {s : State} {q : Completion} {h : HeldOp}

/-! ### It begins -/

/-- The operation is no transfer of the fabric and arrives at no barrier. -/
def HeldOp.Local (h : HeldOp) : Prop := ∀ x y, h.instr ∉ [.send x, .msend x, .bara y, .barx y, .pbara y]

theorem sendHeld_of_local (hl : h.Local) : s.sendHeld h = false := by
  unfold State.sendHeld
  dsimp only
  split
  case h_1 x e => exact absurd (by simp [e]) (hl x dflA)
  case h_2 x e => exact absurd (by simp [e]) (hl x dflA)
  case h_3 => rfl

theorem arrivalHeld_of_local (hl : h.Local) : s.arrivalHeld h = none := by
  unfold State.arrivalHeld
  split
  case h_1 y e => exact absurd (by simp [e]) (hl dflSend y)
  case h_2 y e => exact absurd (by simp [e]) (hl dflSend y)
  case h_3 y e => exact absurd (by simp [e]) (hl dflSend y)
  case h_4 => rfl

/-- Nothing of the core is under way: no result, no queue entry, no line of the FIFO, no non-temporal store. -/
def Core.Calm (c : Core) : Prop := c.pend = [] ∧ c.mq = [] ∧ c.fifo = [] ∧ c.nt = []

theorem releaseHeld_of_calm (hc : s.core.Calm) (hl : h.Local) : s.releaseHeld h = false := by
  obtain ⟨-, mq, fifo, nt⟩ := hc
  have lines : s.core.fifoLines = 0 := by simp [Core.fifoLines, fifo]
  have drained : s.core.drained = true := by simp [Core.drained, mq, fifo, nt]
  unfold State.releaseHeld
  dsimp only
  split
  case h_1 => simp [drained]
  case h_2 y e => exact absurd (by simp [e]) (hl dflSend y)
  case h_3 => simp [lines, mq]

theorem complHold_of_calm (hc : s.core.Calm) (hl : ∀ h ∈ q.ops, h.Local) : s.complHold q = none := by
  obtain ⟨pend, mq, -, -⟩ := id hc
  have frozen : s.core.memFrozen = false := by simp [Core.memFrozen, Core.fabricLate, pend, mq]
  have release : q.ops.any s.releaseHeld = false := List.any_eq_false.mpr fun h hh => by simp [releaseHeld_of_calm hc (hl h hh)]
  have send : q.ops.any s.sendHeld = false := List.any_eq_false.mpr fun h hh => by simp [sendHeld_of_local (hl h hh)]
  simp [State.complHold, pend, mq, frozen, release, send]

theorem startOps_eq (hq : s.core.compl = some q) : s.startOps = { s with
    core := { s.core with compl := some { q with performing := true, stall := none, heldArrival := none } },
    slots := q.ops.map fun h => h.instr } := by
  simp only [State.startOps, hq, State.modCompl, State.onCore, Option.map_some]

/-- With nothing under way and no set held, the operations recorded perform next (R52). -/
theorem quiescentCompletion_begins (lin : Nat) (hq : (s.focus lin).core.compl = some q) (waits : q.performing = false) (ask : q.ask ≠ .tend)
    (calm : (s.focus lin).core.Calm) (sets : (s.focus lin).heldSets (s.focus lin).curTask = []) (hl : ∀ h ∈ q.ops, h.Local) :
    exec (.quiescentCompletion lin) s = .next (s.focus lin).startOps := by
  have arrivals : q.ops.findSome? (s.focus lin).arrivalHeld = none :=
    List.findSome?_eq_none_iff.mpr fun h hh => arrivalHeld_of_local (hl h hh)
  rw [exec_quiescentCompletion]
  simp [execQuiescentCompletion, hq, waits, ask, complHold_of_calm calm hl, sets, arrivals]

/-! ### It ends -/

theorem clearNext_of_none {i : Nat} (h : ∀ k, (s.aset k).next ≠ some i) : s.clearNext i = s := by
  have none : (tkeys s.sets).filter (fun k => (s.aset k).next == some i) = [] := by simp [h]
  rw [State.clearNext, none, List.foldl_nil]

/-- The core once its completion step has performed everything: the snapshot taken, the loops ended (R52, R185). -/
def State.captured (s : State) (next : Nat) : State := { s with core := { s.core with snap := s.core.capture next, loops := [] } }

/-- What follows the snapshot (R144). -/
def State.afterCapture (s : State) (i : Nat) (q : Completion) : State :=
  match q.ask with
  | .tend => s.modCompl fun q => { q with performing := false }
  | .yield => s.startLeave s.cur .ready 0 0 (q.bseq + 1)
  | .suspend kind obj addr => s.startLeave s.cur (.suspended kind obj addr) 0 0 (q.bseq + 1)
  | .none =>
    match q.trap with
    | some (code, a0, a1, a2, slot) => s.trapTaken s.cur q.baddr (slotMask slot) code a0 a1 a2
    | none =>
      if s.core.preq.isSome && (s.heldSets i).isEmpty then s.startLeave s.cur .ready 0 0 (q.bseq + 1)
      else s.onCore fun c => { c with compl := none }

theorem finishCompl_eq (h : ∀ k, (s.aset k).next ≠ some s.curTask) (q : Completion) :
    s.finishCompl q = (s.captured q.next).afterCapture s.curTask q := by
  have same : (s.captured q.next).clearNext s.curTask = s.captured q.next := clearNext_of_none h
  unfold State.finishCompl
  dsimp only
  rw [show (s.onCore fun c => { c with snap := c.capture q.next, loops := [] }) = s.captured q.next from rfl, same]
  rfl

theorem trapTaken_cur (s : State) (epc mask code : Nat) (a0 a1 a2 : Word) : s.trapTaken s.cur epc mask code a0 a1 a2 =
    s.startLeave s.cur (.faulted 3 code a0 a1 a2) mask epc (s.core.bseq + 1) := by
  simp [State.trapTaken, State.coreAt]

theorem capture_sa (c : Core) (next : Nat) {k : Nat} (hk : k < 5) : tget 0 (c.capture next).sa k = tget 0 c.regs.sa k :=
  ((tget_foldl_range c.regs.sa 5 rfl).2 k).trans (if_pos hk)

/-- Settles O21: nothing under way holds the step, so its operations perform; once they have, what its bundle asked decides. -/
theorem completionSteps : Obligations.CompletionSteps := by
  unfold Obligations.CompletionSteps
  refine ⟨?_, ?_⟩
  · intro lin s q u hq waits ask pend mq fifo nt sets hl
    rw [quiescentCompletion_begins lin hq waits ask ⟨pend, mq, fifo, nt⟩ sets hl, startOps_eq hq]
  · intro s q hn c snap u leaves
    have finish : s.finishCompl q = u.afterCapture s.curTask q := finishCompl_eq hn q
    refine ⟨rfl, fun k => capture_sa c q.next, rfl, fun ask => ?_, fun ask => ?_, fun k o a ask => ?_, fun code a0 a1 a2 slot ask trap => ?_,
      fun ask trap asked sets => ?_, fun ask trap calm => ?_⟩
    · rw [finish, State.afterCapture, ask]; rfl
    · refine finish.trans ?_
      rw [State.afterCapture, ask]
    · refine finish.trans ?_
      rw [State.afterCapture, ask]
    · refine finish.trans ?_
      rw [State.afterCapture, ask, trap]
      exact trapTaken_cur u _ _ _ _ _ _
    · refine finish.trans ?_
      have leave : (u.core.preq.isSome && (u.heldSets s.curTask).isEmpty) = true := by
        simp only [Bool.and_eq_true, List.isEmpty_iff]
        exact ⟨Option.isSome_iff_ne_none.mpr asked, sets⟩
      simp only [State.afterCapture, ask, trap]
      exact if_pos leave
    · refine finish.trans ?_
      have stay : ¬(u.core.preq.isSome && (u.heldSets s.curTask).isEmpty) = true := by
        simp [show u.core.preq = none from calm]
      simp only [State.afterCapture, ask, trap]
      exact if_neg stay

end Sys2Proof.Machine
end

section
/-!
Task picks and group starts (O43).
-/
open Sys2Proof

namespace Sys2Proof.Machine

variable {s t : State} {lin i : Nat}

/-! ### The candidate picked (R134) -/

theorem olderCand_asymm {a b : Nat × Nat} (h : olderCand a b = true) : olderCand b a = false := by
  simp only [olderCand, Bool.or_eq_true, Bool.and_eq_true, decide_eq_true_eq, beq_iff_eq] at h
  simp only [olderCand, Bool.or_eq_false_iff, Bool.and_eq_false_iff, decide_eq_false_iff_not, beq_eq_false_iff_ne]
  omega

theorem oldestCand_mem {l : List Cand} {d : Cand} (h : s.oldestCand l = some d) : d ∈ l := by
  induction l generalizing d with
  | nil => cases h
  | cons c cs ih =>
    unfold State.oldestCand at h
    split at h
    · cases h; exact List.mem_cons_self
    case h_2 e he =>
      split at h
      · cases h; exact List.mem_cons_of_mem c (ih he)
      · cases h; exact List.mem_cons_self

/-- The candidate older than every other is the oldest. -/
theorem oldestCand_eq {l : List Cand} {a : Cand} (ha : a ∈ l) (h : ∀ b ∈ l, b ≠ a → olderCand (s.candAge a) (s.candAge b) = true) :
    s.oldestCand l = some a := by
  induction l with
  | nil => cases ha
  | cons c cs ih =>
    unfold State.oldestCand
    by_cases tail : a ∈ cs
    · rw [ih tail fun b hb => h b (List.mem_cons_of_mem c hb)]
      by_cases hc : c = a
      · simp [hc]
      · simp [h c List.mem_cons_self hc]
    · obtain rfl : a = c := (List.mem_cons.mp ha).resolve_right tail
      split
      · rfl
      case h_2 d hd =>
        have old := h d (List.mem_cons_of_mem a (oldestCand_mem hd)) fun e => tail (e ▸ oldestCand_mem hd)
        simp [olderCand_asymm old]

theorem foldl_max_eq {l : List Nat} {a m : Nat} (ha : a ≤ m) (hm : m ∈ a :: l) (h : ∀ x ∈ l, x ≤ m) : l.foldl max a = m := by
  induction l generalizing a with
  | nil => exact (List.mem_singleton.mp hm).symm
  | cons x l ih =>
    have hx := h x List.mem_cons_self
    refine ih (max_le ha hx) ?_ fun y hy => h y (List.mem_cons_of_mem x hy)
    obtain rfl | rfl | hm := by simpa only [List.mem_cons] using hm
    · exact List.mem_cons.mpr (.inl (max_eq_left hx).symm)
    · exact List.mem_cons.mpr (.inl (max_eq_right ha).symm)
    · exact List.mem_cons_of_mem _ hm

theorem cands_of_no_groups (hg : s.groups = []) (lin : Nat) : s.cands lin = (s.taskList.filter fun i => s.mayRun lin i).map .task := by
  simp [State.cands, hg, tkeys]

theorem older_eq_olderCand (s : State) (i j : Nat) : olderCand (s.candAge (.task i)) (s.candAge (.task j)) = s.older i j := by
  show (decide ((s.task i).age < (s.task j).age) || ((s.task i).age == (s.task j).age && decide (i < j))) = s.older i j
  simp only [State.older, beq_eq_decide]

theorem mem_taskList_of_mayRun (h : s.mayRun lin i = true) : i ∈ s.taskList := by
  refine mem_tkeys_of_ne (d := {}) fun e => ?_
  have free : s.task i = {} := e
  simp [State.mayRun, free] at h

/-- The task picked for an idle core (R134): the highest priority and then the oldest, or at every 64th pick the oldest of all. -/
theorem pickOf_eq {n : Nat} (hg : s.groups = []) (hi : s.mayRun lin i = true)
    (h : ∀ j, j ≠ i → s.mayRun lin j = true → (n % 64 ≠ 0 ∧ s.prio (s.task j).launch < s.prio (s.task i).launch) ∨
      ((n % 64 = 0 ∨ s.prio (s.task j).launch = s.prio (s.task i).launch) ∧ s.older i j = true)) :
    s.pickOf lin n = some (.task i) := by
  have mem {c : Cand} : c ∈ s.cands lin ↔ ∃ j, s.mayRun lin j = true ∧ c = .task j := by
    rw [cands_of_no_groups hg]
    simp only [List.mem_map, List.mem_filter]
    exact ⟨fun ⟨j, hj, e⟩ => ⟨j, hj.2, e.symm⟩, fun ⟨j, hj, e⟩ => ⟨j, ⟨mem_taskList_of_mayRun hj, hj⟩, e.symm⟩⟩
  have self : Cand.task i ∈ s.cands lin := mem.mpr ⟨i, hi, rfl⟩
  unfold State.pickOf
  dsimp only
  split
  case isTrue every =>
    refine oldestCand_eq self fun b hb hne => ?_
    obtain ⟨j, hj, rfl⟩ := mem.mp hb
    rw [older_eq_olderCand]
    obtain ⟨no, -⟩ | ⟨-, old⟩ := h j (fun e => hne (by rw [e])) hj
    · exact absurd every no
    · exact old
  case isFalse some =>
    have top : ((s.cands lin).map s.candPri).foldl max 0 = s.prio (s.task i).launch := by
      refine foldl_max_eq (Nat.zero_le _) (List.mem_cons_of_mem _ (List.mem_map.mpr ⟨_, self, rfl⟩)) fun x hx => ?_
      obtain ⟨c, hc, rfl⟩ := List.mem_map.mp hx
      obtain ⟨j, hj, rfl⟩ := mem.mp hc
      show s.prio (s.task j).launch ≤ _
      by_cases same : j = i
      · rw [same]
      · have := h j same hj
        omega
    rw [top]
    refine oldestCand_eq (List.mem_filter.mpr ⟨self, by simp [State.candPri]⟩) fun b hb hne => ?_
    obtain ⟨hb, pri⟩ := List.mem_filter.mp hb
    obtain ⟨j, hj, rfl⟩ := mem.mp hb
    rw [older_eq_olderCand]
    have equal : s.prio (s.task j).launch = s.prio (s.task i).launch := by simpa [State.candPri] using pri
    obtain ⟨-, less⟩ | ⟨-, old⟩ := h j (fun e => hne (by rw [e])) hj
    · omega
    · exact old

theorem pickOf_none (hg : s.groups = []) (h : ∀ m, s.mayRun lin m = false) (n : Nat) : s.pickOf lin n = none := by
  have none : s.cands lin = [] := by simp [cands_of_no_groups hg, h]
  simp [State.pickOf, none, State.oldestCand]

theorem findSome?_range_eq {α : Type} {f : Nat → Option α} {n k : Nat} {a : α} (hk : k < n) (hf : f k = some a) (h : ∀ j < k, f j = none) :
    (List.range n).findSome? f = some a := by
  induction n with
  | zero => cases hk
  | succ n ih =>
    rw [List.range_succ, List.findSome?_append]
    obtain hlt | rfl := Nat.lt_succ_iff_lt_or_eq.mp hk
    · rw [ih hlt, Option.some_or]
    · rw [List.findSome?_eq_none_iff.mpr fun j hj => h j (List.mem_range.mp hj)]
      simp [hf]

/-- The lowest idle core with a candidate picks (notes/assumptions/95.md). -/
theorem nextPick_eq {tower n : Nat} (hn : tget 0 s.hub.picks tower + 1 = n) (hl : lin / 144 = tower) (hg : s.groups = [])
    (idle : s.idleCore lin = true) (pick : s.pickOf lin n = some (.task i))
    (first : ∀ j, j < lin → j / 144 = tower → s.idleCore j = true → ∀ m, s.mayRun j m = false) :
    s.nextPick tower = some (lin, .task i) := by
  have place : lin % 144 + 144 * tower = lin := by omega
  unfold State.nextPick towerCores
  rw [List.findSome?_map]
  refine findSome?_range_eq (Nat.mod_lt lin (by decide)) ?_ fun j hj => ?_
  · simp [place, idle, hn, pick]
  · show (if s.idleCore (j + 144 * tower) then _ else none) = none
    split
    case isTrue h =>
      rw [pickOf_none hg (first _ (by omega) (by omega) h), Option.map_none]
    case isFalse => rfl

/-! ### Requests of starving tasks (R143) -/

/-- From s to t only requests to yield reach some cores. -/
def Requested (s t : State) : Prop :=
  t.tasks = s.tasks ∧ t.groups = s.groups ∧ twf Core.reset t.cores = true ∧
    ∀ l, ∃ inn by_, t.coreAt l = { s.coreAt l with preqIn := inn, preqBy := by_ }

theorem Requested.refl (h : twf Core.reset s.cores = true) : Requested s s := ⟨rfl, rfl, h, fun _ => ⟨_, _, rfl⟩⟩

theorem Requested.trans {u : State} (h : Requested s t) (h' : Requested t u) : Requested s u := by
  obtain ⟨tasks, groups, -, cores⟩ := h
  obtain ⟨tasks', groups', wf', cores'⟩ := h'
  refine ⟨tasks'.trans tasks, groups'.trans groups, wf', fun l => ?_⟩
  obtain ⟨a, b, e⟩ := cores l
  obtain ⟨a', b', e'⟩ := cores' l
  exact ⟨a', b', by rw [e', e]⟩

theorem request_eq (c : Core) (now : Nat) (r : ReqBy) : ∃ inn by_, c.request now r = { c with preqIn := inn, preqBy := by_ } := by
  unfold Core.request
  split <;> exact ⟨_, _, rfl⟩

theorem requested_modCore (h : twf Core.reset s.cores = true) (k now : Nat) (r : ReqBy) : Requested s (s.modCore k fun c => c.request now r) := by
  refine ⟨by simp, by simp, twf_modCore h _ _, fun l => ?_⟩
  rw [coreAt_modCore h]
  split
  case isTrue e =>
    subst e
    exact request_eq _ _ _
  case isFalse => exact ⟨_, _, rfl⟩

theorem requested_foldl {α : Type} (f : State → α → State) (h : twf Core.reset s.cores = true) (hg : s.groups = [])
    (step : ∀ u a, twf Core.reset u.cores = true → u.groups = [] → Requested u (f u a)) (l : List α) : Requested s (l.foldl f s) := by
  refine List.foldlRecOn (motive := Requested s) l f (.refl h) fun u hu a _ => hu.trans (step u a ?_ ?_)
  · exact hu.2.2.1
  · exact hu.2.1.trans hg

theorem groupPreempt_of_no_groups (hg : s.groups = []) (key : Nat) : s.groupPreempt key = s := by
  simp [State.groupPreempt, State.group, hg, tget]

theorem requestFor_requested (h : twf Core.reset s.cores = true) (hg : s.groups = []) (i l v : Nat) : Requested s (s.requestFor i l v) := by
  unfold State.requestFor
  split
  · exact requested_modCore h _ _ _
  · dsimp only
    rw [groupPreempt_of_no_groups hg]
    refine requested_foldl _ h hg (fun u k hu _ => ?_) _
    split
    · exact requested_modCore hu _ _ _
    · exact .refl hu

theorem starve_requested (h : twf Core.reset s.cores = true) (hg : s.groups = []) (tower : Nat) : Requested s (s.starve tower) := by
  refine requested_foldl _ h hg (fun u i hu hug => ?_) _
  split
  · exact .refl hu
  · split
    · exact .refl hu
    · exact requestFor_requested hu hug _ _ _

/-! ### The start of a task (R33, R135) -/

/-- The core of a task that starts. -/
def State.started (s : State) (lin i first : Nat) : Core :=
  let t := s.task i
  let c := s.coreAt lin
  { c.idle with
    regs := { sa := t.sa, fd := (s.imageOf i).fds }, fpcr := (s.imageOf i).fpcr, fpsf := t.fpsnap, mxc := {}, pc := t.pc, loops := [], px := false,
    nextIc := c.ic, cnt := c.cnt.started (publishedLimit s.hub.cap s.hub.profile) (s.startStat i), task := some i, startAt := first,
    lastCtx := some t.ctx, tlb := if c.lastCtx == some t.ctx then c.tlb else [],
    snap := { next := t.pc, sa := t.sa, fl := t.fpsnap, mxc := {} }, l1 := [] }

theorem startTask_spec (h : twf Core.reset s.cores = true) (ht : twf {} s.tasks = true) (lin i first : Nat) :
    let t := s.startTask lin i first
    twf Core.reset t.cores = true ∧ t.groups = s.groups ∧ t.coreAt lin = s.started lin i first ∧
      ∀ j, t.task j = if j = i then { s.task i with state := .running } else s.task j := by
  have wf : twf Core.reset (s.modTask i fun t => { t with state := .running }).cores = true := h
  unfold State.startTask
  refine ⟨twf_modCore wf _ _, by simp, (coreAt_modCore wf lin _ lin).trans (if_pos rfl), fun j => ?_⟩
  rw [State.task, modCore_tasks]
  exact task_modTask ht i _ j

/-- The state in which a tower has counted one more pick, and drawn the latency of the record's read (R134, R135). -/
def State.pickCounted (s : State) (tower : Nat) : State :=
  let u := s.modHub fun h => { h with picks := tput 0 h.picks tower (tget 0 h.picks tower + 1), pickAt := tput 0 h.pickAt tower (s.cycle + 1) }
  { u with fresh := s.fresh + 1 }

theorem performPick_task (tower : Nat) (h : (s.imageOf i).lsuse = false) : s.performPick tower lin (.task i) =
    (s.pickCounted tower).startTask lin i (s.cycle + 32 + Config.choice s.fresh) := by
  have same : (s.modHub fun h => { h with
    picks := tput 0 h.picks tower (tget 0 h.picks tower + 1), pickAt := tput 0 h.pickAt tower (s.cycle + 1) }).imageOf i = s.imageOf i := rfl
  simp only [State.performPick, State.startPicked, same, h, State.firstCycle, Bool.false_eq_true, if_false, Nat.max_zero]
  rfl

theorem taskPick_eq {tower : Nat} (ht : tower < 8) (at_ : tget 0 s.hub.pickAt tower ≤ s.cycle) (hg : s.groups = [])
    (h : s.nextPick tower = some (lin, .task i)) :
    exec (.taskPick tower) s = .next ((s.performPick tower lin (.task i)).starve tower) := by
  have none : s.waitingGroups tower = [] := by simp [State.waitingGroups, hg, tkeys, sortBy]
  have now : (decide (tower ≥ 8) || decide (s.cycle < tget 0 s.hub.pickAt tower)) = false := by simp; omega
  simp only [exec_taskPick, execTaskPick, now, none, List.foldl_nil, h, Bool.false_eq_true, if_false]

theorem taskPick_early {tower : Nat} (h : s.cycle < tget 0 s.hub.pickAt tower) : exec (.taskPick tower) s = .next s := by
  simp [exec_taskPick, execTaskPick, h]

/-- What follows a pick when no group is in the tower: the task's core, and requests of tasks that starve. -/
theorem pick_starts {tower : Nat} (hc : twf Core.reset s.cores = true) (htw : twf {} s.tasks = true) (hg : s.groups = [])
    (h : (s.imageOf i).lsuse = false) :
    let t := (s.performPick tower lin (.task i)).starve tower
    (∀ j, t.task j = if j = i then { s.task i with state := .running } else s.task j) ∧
      ∃ inn by_, t.coreAt lin = { (s.pickCounted tower).started lin i (s.cycle + 32 + Config.choice s.fresh) with preqIn := inn, preqBy := by_ } := by
  obtain ⟨wf, groups, core, task⟩ :=
    startTask_spec (s := s.pickCounted tower) hc htw lin i (s.cycle + 32 + Config.choice s.fresh)
  rw [performPick_task tower h]
  obtain ⟨tasks, -, -, cores⟩ := starve_requested wf (groups.trans hg) tower
  refine ⟨fun j => ?_, ?_⟩
  · rw [State.task, tasks]
    exact task j
  · obtain ⟨a, b, e⟩ := cores lin
    exact ⟨a, b, by rw [e, core]⟩

/-! ### Group starts (R162) -/

theorem groupStart_starts {tower slot l : Nat} (hg : (s.group (256 * tower + slot)).state = .placed)
    (ha : (s.ctx (s.groupCtx (256 * tower + slot))).state = .active) (hu : (s.groupImage (256 * tower + slot)).lsuse = false)
    (hidle : ∀ c ∈ (s.group (256 * tower + slot)).cores, (s.coreAt c.2).task = none)
    (hm : (s.group (256 * tower + slot)).members = [(i, 0)]) (hb : (s.task i).bound = some l) (hr : (s.task i).state = .ready) :
    exec (.groupStart tower slot) s = .next ((s.startTask l i (s.cycle + 32)).modGroup (256 * tower + slot) fun g =>
      { g with state := .running, startAt := s.cycle + 32 }) := by
  have all : (s.group (256 * tower + slot)).cores.all (fun c => (s.coreAt c.2).task.isNone) = true := by
    simpa using fun a b hab => hidle (a, b) hab
  simp [exec_groupStart, execGroupStart, State.ctxActive, hg, ha, hu, all, hm, hb, hr]

/-- Settles O43: without groups the candidates are the tasks that may run on a core; the lowest idle core first is the model's choice
(notes/assumptions/95.md). -/
theorem schedulers : Obligations.Schedulers := by
  unfold Obligations.Schedulers
  refine ⟨?_, fun tower s => taskPick_early, ?_⟩
  · intro tower lin i s k img n pri ht at_ hg hc htw hl idle run store first best
    have pick : s.nextPick tower = some (lin, .task i) := nextPick_eq rfl hl hg idle (pickOf_eq hg run best) first
    obtain ⟨task, a, b, core⟩ := pick_starts (tower := tower) (lin := lin) hc htw hg store
    refine ⟨_, taskPick_eq ht at_ hg pick, (task i).trans (if_pos rfl), fun j hj => (task j).trans (if_neg hj), ?_⟩
    dsimp only
    rw [core]
    exact ⟨rfl, rfl, rfl, rfl, rfl, rfl, rfl, rfl, rfl, rfl, rfl, Nat.le_add_right _ _, rfl, rfl⟩
  · intro tower slot i l s key g hc htw hgw
    refine ⟨fun hg => ?_, fun hg ha hu hidle hm hb hr => ⟨_, groupStart_starts hg ha hu hidle hm hb hr, ?_⟩⟩
    · simp [exec_groupStart, execGroupStart, hg, g, key]
    · obtain ⟨wf, groups, core, task⟩ := startTask_spec hc htw l i (s.cycle + 32)
      have running : (s.startTask l i (s.cycle + 32)).group key = g := by rw [State.group, groups]; rfl
      refine ⟨(group_modGroup (groups ▸ hgw) key _ key).trans ?_, (task i).trans (if_pos rfl), congrArg Core.task core, congrArg Core.pc core,
        congrArg Core.startAt core⟩
      rw [if_pos rfl, running]

end Sys2Proof.Machine
end

section
/-!
A bundle issues, freezes or faults, and closes (O27).
-/
open Sys2Proof

namespace Sys2Proof.Machine

variable {s : State} {k : Checked} {b : RawBundle}

/-! ### What the checks of the slots can hold (R45) -/

/-- The freeze causes a slot can meet: an operand or a unit, the memory, a dummy MMA (R43, R45, R57). -/
def Checked.SlotCauses (k : Checked) : Prop := k.stall = none ∨ k.stall = some 1 ∨ k.stall = some 2 ∨ k.stall = some 5

theorem slotCauses_stalls (h : k.SlotCauses) {cause : Nat} (hc : cause = 1 ∨ cause = 2 ∨ cause = 5) : (k.stalls cause).SlotCauses := by
  unfold Checked.SlotCauses Checked.stalls
  obtain e | e | e | e := h <;> obtain rfl | rfl | rfl := hc <;> simp [e]

theorem slotCauses_stallsOf (h : k.SlotCauses) (i : Instr) (sound : Bool) : (s.stallsOf i sound k).SlotCauses := by
  have unit : ((s.unitHeld i).elim k k.stalls).SlotCauses := by
    cases hu : s.unitHeld i with
    | none => exact h
    | some c =>
      refine slotCauses_stalls h ?_
      unfold State.unitHeld at hu
      grind
  unfold State.stallsOf
  dsimp only
  split
  · exact slotCauses_stalls unit (by simp)
  · exact unit

theorem slotCauses_checkOn (h : k.SlotCauses) (quiet held : Bool) (n : Nat) (w : Word) (i : Instr) :
    (s.checkOn quiet held n w i k).SlotCauses := by
  unfold State.checkOn
  dsimp only
  split
  · exact slotCauses_stalls h (by simp)
  · have stalls := slotCauses_stallsOf (s := s) h i (s.valueFault quiet held w i k).isNone
    unfold Checked.SlotCauses at stalls ⊢
    dsimp only
    cases (s.valueFault quiet held w i k).or _ with
    | none => exact stalls
    | some f => exact stalls

theorem slotCauses_checkSlot (h : k.SlotCauses) (quiet held : Bool) (len : Nat) (x : SlotIn) : (s.checkSlot quiet held len k x).SlotCauses := by
  unfold State.checkSlot
  dsimp only
  split
  · exact h
  · exact h
  · split
    · exact h
    · split
      · exact slotCauses_stalls h (by simp)
      · split
        · exact slotCauses_checkOn h _ _ _ _ _
        · exact h

theorem slotCauses_foldl (quiet held : Bool) (len : Nat) (ins : List SlotIn) :
    (ins.foldl (s.checkSlot quiet held len) {}).SlotCauses :=
  List.foldlRecOn (motive := Checked.SlotCauses) ins _ (.inl rfl) fun _ h x _ => slotCauses_checkSlot h quiet held len x

/-! ### The fault recorded (R50) -/

theorem chosen_nil (h : k.faults = []) : k.chosen = none := by
  simp [Checked.chosen, h]

theorem chosen_one {slot : Nat} {f : IssueFault} (h : k.faults = [(slot, f)]) : k.chosen = some (f, 2 ^ slot) := by
  have pick (code : Nat) : (([(slot, f)].find? fun g => g.2.1 == code).map fun g => g.2) = if f.1 = code then some f else none := by
    by_cases hc : f.1 = code <;> simp [hc]
  simp only [Checked.chosen, h, pick]
  split_ifs <;> simp [slotMask]

theorem chosen_illinst {slot : Nat} {f : IssueFault} (h : k.faults.find? (fun g => g.2.1 == fcILLINST) = some (slot, f)) :
    k.chosen = some (f, (k.faults.map fun g => 2 ^ g.1).foldl (· + ·) 0) := by
  simp [Checked.chosen, h, slotMask]

/-! ### An issue attempt (R44, R45, R48) -/

/-- The slots of a bundle as decoded. -/
def decodedSlots (b : RawBundle) : List SlotIn := b.slotWords.map fun x => (x.1, x.2, decodeSlot x.1 x.2)

/-- What the slots of the bundle at the pc of the core in focus show. -/
def State.checked (s : State) (b : RawBundle) : Checked :=
  (decodedSlots b).foldl ((s.openIssue b).checkSlot b.quiet (s.core.task.elim false fun i => !(s.heldSets i).isEmpty) b.len) {}

/-- The same with what holds the bundle whole: the queues, the limit of the window and that of the rise (R45, R55, R57). -/
def State.limited (s : State) (k : Checked) : Checked :=
  let c := s.core
  let k := if c.memFrozen then k.stalls 3 else k
  let k := if c.cnt.used + k.weight > s.currentLimit then k.stalls 4 else k
  if k.steps ≠ 0 && decide (c.cnt.cur + k.steps > c.cnt.prev + c.cnt.step) then k.stalls 5 else k

/-- The instructions of a bundle, in slot order. -/
def bundleInstrs (b : RawBundle) : List Instr := (decodedSlots b).filterMap fun x => x.2.2.toOption

/-- What an attempt ends in: a freeze, a fault, or the issue (R44, R48). -/
def State.outcome (s : State) (b : RawBundle) (k : Checked) : State :=
  match k.stall, k.chosen with
  | some n, _ => s.freeze n
  | none, some (f, mask) => s.fatal s.cur (s.core.bseq + 1) s.core.pc mask f.1 f.2.1 f.2.2 0
  | none, none =>
    let r := (s.openIssue b).bundleRedirect (bundleInstrs b)
    let next := nextAfter s.core.loops s.core.pc b.len b.quiet r s.requested
    if r != .stop && decide (next.pc ≥ s.image.words) then
      s.fatal s.cur (s.core.bseq + 1) s.core.pc 0 fcBADTARGET (BitVec.ofNat 64 next.pc) 0 0
    else (s.openIssue b).startIssue k (bundleInstrs b)

theorem tryIssue_eq (s : State) (b : RawBundle) : s.tryIssue b = s.outcome b (s.limited (s.checked b)) := by
  have ok : (fun x : SlotIn => match x.2.2 with
      | .ok i => some i
      | .error _ => none) = fun x => x.2.2.toOption := by
    funext x
    cases x.2.2 <;> rfl
  unfold State.outcome bundleInstrs
  rw [← ok]
  rfl

theorem limited_eq_self (memory : s.core.memFrozen = false) (window : s.core.cnt.used + k.weight ≤ s.currentLimit)
    (ramp : k.steps = 0 ∨ s.core.cnt.cur + k.steps ≤ s.core.cnt.prev + s.core.cnt.step) : s.limited k = k := by
  have slow : (k.steps ≠ 0 && decide (s.core.cnt.cur + k.steps > s.core.cnt.prev + s.core.cnt.step)) = false := by
    simp only [ne_eq, Bool.and_eq_false_iff, decide_eq_false_iff_not]
    omega
  simp only [State.limited, memory, Bool.false_eq_true, if_false, slow, if_neg (Nat.not_lt.mpr window)]

/-! ### The cause that freezes (R45) -/

theorem outcome_of_stall {n : Nat} (h : k.stall = some n) : s.outcome b k = s.freeze n := by
  simp only [State.outcome, h]

/-- The lower of a cause met before and one met now. -/
def lowerCause (m : Option Nat) (cause : Nat) : Option Nat := some (m.elim cause fun n => min n cause)

section
variable (p : Prop) [Decidable p] (cause : Nat)

theorem stall_ite_stalls : (if p then k.stalls cause else k).stall = if p then lowerCause k.stall cause else k.stall := by
  split
  · unfold Checked.stalls lowerCause
    cases k.stall <;> rfl
  · rfl
theorem weight_ite_stalls : (if p then k.stalls cause else k).weight = k.weight := by split <;> rfl
theorem steps_ite_stalls : (if p then k.stalls cause else k).steps = k.steps := by split <;> rfl

end

/-- The lowest cause of the slots, the queues and the limits. -/
theorem limited_stall (s : State) (k : Checked) : (s.limited k).stall =
    let a := if s.core.memFrozen = true then lowerCause k.stall 3 else k.stall
    let b := if s.core.cnt.used + k.weight > s.currentLimit then lowerCause a 4 else a
    if k.steps ≠ 0 ∧ s.core.cnt.cur + k.steps > s.core.cnt.prev + s.core.cnt.step then lowerCause b 5 else b := by
  simp only [State.limited, stall_ite_stalls, weight_ite_stalls, steps_ite_stalls, Bool.and_eq_true, decide_eq_true_eq]

section
variable (h : k.SlotCauses)

/-- An operand or a unit holds a slot: cause 1. -/
theorem limited_stall_interlock (h1 : k.stall = some 1) : (s.limited k).stall = some 1 := by
  simp [limited_stall, h1, lowerCause]

include h

/-- The memory holds a slot, or an entry of the queues the core: cause 2 or 3. -/
theorem limited_stall_memory (h1 : k.stall ≠ some 1) (h2 : k.stall = some 2 ∨ s.core.memFrozen = true) :
    (s.limited k).stall = some 2 ∨ (s.limited k).stall = some 3 := by
  rw [limited_stall]
  obtain e | e | e | e := h
  · simp [e, h2.resolve_left (by simp [e]), lowerCause]
  · exact absurd e h1
  · simp [e, lowerCause]
  · simp [e, h2.resolve_left (by simp [e]), lowerCause]

end

theorem limited_stall_window (h1 : k.stall = none ∨ k.stall = some 5) (hm : ¬s.core.memFrozen = true)
    (h2 : s.currentLimit < s.core.cnt.used + k.weight) : (s.limited k).stall = some 4 := by
  rw [limited_stall]
  obtain e | e := h1 <;> simp [e, hm, h2, lowerCause]

theorem limited_stall_ramp (h1 : k.stall = none ∨ k.stall = some 5) (hm : ¬s.core.memFrozen = true)
    (h2 : s.core.cnt.used + k.weight ≤ s.currentLimit)
    (h3 : k.stall = some 5 ∨ (k.steps ≠ 0 ∧ s.core.cnt.prev + s.core.cnt.step < s.core.cnt.cur + k.steps)) : (s.limited k).stall = some 5 := by
  rw [limited_stall]
  obtain e | e := h1
  · simp [e, hm, Nat.not_lt.mpr h2, h3.resolve_left (by simp [e]), lowerCause]
  · simp [e, hm, Nat.not_lt.mpr h2, lowerCause]

/-! ### The attempt in a state where the core may issue -/

/-- A task runs, nothing holds the core, and its issue cycle is reached (R38, R135, R174). -/
theorem bundleIssue_eq {lin : Nat} (b : RawBundle) (can : (s.focus lin).canIssue = true)
    (recheck : ((s.focus lin).task (s.focus lin).curTask).recheck = none) (wf : b.words.length = spmCount b.header) :
    exec (.bundleIssue lin b) s = .next (match (s.focus lin).endNeeded b with
      | none => (s.focus lin).tryIssue b
      | some k => (s.focus lin).fetchHold k 1) := by
  have same : (s.focus lin).recheckBar lin = s.focus lin := by
    obtain ⟨core, cur⟩ := focus_core s lin
    have self : (s.focus lin).coreAt lin = (s.focus lin).core := if_pos cur.symm
    unfold State.recheckBar
    rw [self]
    split
    · rfl
    case h_2 i hi =>
      rw [State.curTask, hi] at recheck
      rw [show ((s.focus lin).task i).recheck = none from recheck]
  simp only [exec_bundleIssue, execBundleIssue, can, same, if_true, Bool.not_true, Bool.false_eq_true, if_false, wf, beq_self_eq_true]
  cases (s.focus lin).endNeeded b <;> rfl

theorem length_decodedSlots (wf : b.words.length = spmCount b.header) : (decodedSlots b).length = b.words.length := by
  have slots : (spmSlots b.header).length = spmCount b.header := by
    rw [spmCount, show List.range 8 = ([0, 1, 2, 3, 4, 5, 6, 7] : List (Fin 8)).map Fin.val from rfl, List.filter_map, List.length_map]
    rfl
  simp [decodedSlots, RawBundle.slotWords, slots, wf]

/-- With no cause to freeze and no fault, the bundle's successor must stand in the code (R48, R173). -/
theorem outcome_of_sound (hs : k.stall = none) (hf : k.faults = []) : s.outcome b k =
    let r := (s.openIssue b).bundleRedirect (bundleInstrs b)
    let next := (nextAfter s.core.loops s.core.pc b.len b.quiet r s.requested).pc
    if r ≠ .stop ∧ s.image.words ≤ next then
      s.fatal s.cur (s.core.bseq + 1) s.core.pc 0 0x23 (BitVec.ofNat 64 next) 0 0
    else (s.openIssue b).startIssue k (bundleInstrs b) := by
  simp only [State.outcome, hs, chosen_nil hf, Bool.and_eq_true, bne_iff_ne, decide_eq_true_eq, fcBADTARGET]

theorem outcome_of_fault {f : IssueFault} {mask : Nat} (hs : k.stall = none) (hf : k.chosen = some (f, mask)) :
    s.outcome b k = s.fatal s.cur (s.core.bseq + 1) s.core.pc mask f.1 f.2.1 f.2.2 0 := by
  simp only [State.outcome, hs, hf]

/-! ### The close of the issue cycle (R174, R190, R304) -/

theorem sysWrite_keeps (c : Core) (n : Nat) (v : Word) : (c.sysWrite n v).ic = c.ic ∧ (c.sysWrite n v).px = c.px := by
  unfold Core.sysWrite
  split <;> exact ⟨rfl, rfl⟩

theorem foldl_sysWrite_keeps (ws : List (Nat × Word)) (c : Core) :
    (ws.foldl (fun c w => c.sysWrite w.1 w.2) c).ic = c.ic ∧ (ws.foldl (fun c w => c.sysWrite w.1 w.2) c).px = c.px :=
  List.foldlRecOn (motive := fun d : Core => d.ic = c.ic ∧ d.px = c.px) ws _ ⟨rfl, rfl⟩ fun d ⟨ic, px⟩ w _ =>
    ⟨(sysWrite_keeps d w.1 w.2).1.trans ic, (sysWrite_keeps d w.1 w.2).2.trans px⟩

/-- The pair of the core in focus once its bundle's local-store writes are in the store. -/
def storedPair (p : Pair) (ws : List LsWrite) : Pair := (sortBy (fun a b => decide (a.clock ≤ b.clock)) ws).foldl Pair.store p

theorem foldl_store_tags (ws : List LsWrite) (p : Pair) : (ws.foldl Pair.store p).tags = p.tags :=
  List.foldlRecOn (motive := fun q : Pair => q.tags = p.tags) ws _ rfl fun _ h _ _ => h

theorem foldl_store_other {p : Pair} (h : twf 0 p.data = true) {key : Nat} (ws : List LsWrite) (hw : ∀ w ∈ ws, w.key ≠ key) :
    tget 0 (ws.foldl Pair.store p).data key = tget 0 p.data key := by
  refine (List.foldlRecOn (motive := fun q : Pair => twf 0 q.data = true ∧ tget 0 q.data key = tget 0 p.data key) ws _ ⟨h, rfl⟩ ?_).2
  intro q ⟨wf, same⟩ w hm
  exact ⟨twf_tput wf _ _, (tget_tput wf _ _ key).trans ((if_neg fun e => hw w hm e.symm).trans same)⟩

/-- Settles O27: what an attempt ends in is decided by the lowest cause to freeze, and with none by the slots' faults and the successor (that
a cycle which freezes judges no fault is notes/assumptions/44.md). -/
theorem bundleIssue : Obligations.BundleIssue := by
  unfold Obligations.BundleIssue
  refine ⟨?_, ?_⟩
  · intro lin s b u c open_ decoded k next ends frozen mask task recheck iss compl leave start ic wf
    have can : u.canIssue = true := by
      simp [State.canIssue, Option.isSome_iff_ne_none.mpr task, iss, compl, leave, start, ic, c] 
    have attempt := bundleIssue_eq b can recheck wf
    have causes : k.SlotCauses := slotCauses_foldl _ _ _ _
    obtain ⟨i, hi⟩ := Option.ne_none_iff_exists'.mp task
    have held : (!(u.heldSets u.curTask).isEmpty) = u.core.task.elim false fun i => !(u.heldSets i).isEmpty := by
      simp [State.curTask, show u.core.task = some i from hi]
    have found : u.checked b = k := by
      simp only [State.checked, ← held]
      rfl
    refine ⟨fun stop hstop => by rw [attempt, hstop], fun plain => ?_, length_decodedSlots wf⟩
    have ends_in : exec (.bundleIssue lin b) s = .next (u.outcome b (u.limited k)) := by
      rw [attempt, plain, tryIssue_eq, found]
    have freezes {n : Nat} (e : (u.limited k).stall = some n) : exec (.bundleIssue lin b) s = .next (u.freeze n) :=
      ends_in.trans (congrArg Host.Outcome.next (outcome_of_stall e))
    refine ⟨fun h1 => freezes (limited_stall_interlock h1), fun h1 h2 => ?_, fun h1 hm => ?_⟩
    · exact (limited_stall_memory causes h1 h2).elim freezes freezes
    · refine ⟨fun above => freezes (limited_stall_window h1 hm above), fun within =>
        ⟨fun ramp => freezes (limited_stall_ramp h1 hm within ramp), fun hs flat => ?_⟩⟩
      rw [limited_eq_self (Bool.eq_false_of_not_eq_true hm) within flat] at ends_in
      refine ⟨fun slot f one => ?_, fun slot w first => ?_, fun sound => ⟨fun more beyond => ?_, fun inside => ?_⟩⟩
      · rw [ends_in, outcome_of_fault hs (chosen_one one)]
      · rw [ends_in, outcome_of_fault hs (chosen_illinst first)]
      · rw [ends_in, outcome_of_sound hs sound]
        exact congrArg Host.Outcome.next (if_pos ⟨more, beyond⟩)
      · rw [ends_in, outcome_of_sound hs sound]
        exact congrArg Host.Outcome.next (if_neg fun ⟨more, beyond⟩ => inside.elim more (Nat.not_lt.mpr beyond))
  · intro s b hb n t c p
    have closed : t = { s with
        core := { c with iss := none, pc := n.pc, loops := n.loops, px := n.px.getD c.px, nextIc := c.ic + 1 + b.wait + n.redirect,
                         compl := if b.quiet then some (b.completion n.pc s.cycle) else none },
        pairs := tmod Pair.reset s.pairs (pairOf s.cur) fun p => storedPair p b.lsw } := by
      simp only [t, State.closeIssue, hb]
      rfl
    obtain ⟨sameIc, samePx⟩ := foldl_sysWrite_keeps b.sysw s.core
    rw [closed]
    refine ⟨rfl, ?_, fun v hv => ?_, fun hv => ?_, fun hq => ?_, fun hq => ?_, fun hp hd => ?_⟩
    · rw [← sameIc]
    · simp [hv]
    · simp [hv, samePx, c]
    · simp [hq]
    · exact ⟨b.completion n.pc s.cycle, by simp [hq], rfl, rfl, rfl, rfl, rfl, rfl, rfl⟩
    · have pair (j : Nat) := tget_tmod hp (pairOf s.cur) (fun p => storedPair p b.lsw) j
      have own := (pair (pairOf s.cur)).trans (if_pos rfl)
      refine ⟨fun j hj => (pair j).trans (if_neg hj), (congrArg Pair.tags own).trans (foldl_store_tags _ _), fun key => ⟨fun none => ?_, ?_⟩⟩
      · refine (congrArg (fun q : Pair => tget 0 q.data key) own).trans (foldl_store_other hd _ fun w hw => none w ?_)
        exact (sortBy_perm _ _).mem_iff.mp hw
      · rintro w one rfl
        refine (congrArg (fun q : Pair => tget 0 q.data w.key) own).trans ?_
        rw [one]
        exact (tget_tput hd _ _ _).trans (if_pos rfl)

end Sys2Proof.Machine
end

section
/-!
The page walk, and what a translation ends in (O35).
-/
open Sys2Proof

namespace Sys2Proof.Machine

variable {s : State} {va : Nat}

/-! ### The walk (R342, R344) -/

theorem pteRes_eq (e : Nat) : pteRes e = e % 16 := by simp [pteRes, bitsOf]

theorem walkFrom_table {l table a e : Nat} (ha : a = table + 8 * levelIndex (l + 1) va) (clean : s.poisoned a 8 = false) (he : e = s.readWord a)
    (kind : e % 16 = 15) (ok : l = 0 ∨ e / 2 ^ 8 % 16 = 0) : s.walkFrom va (l + 1) table = s.walkFrom va l (pteTable e) := by
  subst ha he
  have good : tableOk (l + 1) (s.readWord (table + 8 * levelIndex (l + 1) va)) = true := by
    simpa [tableOk, bitsOf] using ok
  rw [State.walkFrom]
  simp only [clean, pteRes_eq, kind, good, Bool.false_eq_true, if_false, if_true]

section
variable {table a e : Nat} (ha : a = table + 8 * levelIndex 0 va) (clean : s.poisoned a 8 = false) (he : e = s.readWord a)
include ha clean he

theorem walkFrom_absent (h : e % 16 = 0) (hs : e / 2 ^ 4 % 4 ≠ 3) (hp : e / 2 ^ 9 % 4 ≠ 3) : s.walkFrom va 0 table = .absent := by
  subst ha he
  have fields : ¬(ptePol (s.readWord (table + 8 * levelIndex 0 va)) = 3 ∨ pteSize (s.readWord (table + 8 * levelIndex 0 va)) = 3) :=
    not_or.mpr ⟨hp, hs⟩
  rw [State.walkFrom]
  simp [clean, pteRes_eq, h, fields, resABSENT]

theorem walkFrom_leaf (h1 : 1 ≤ e % 16) (h9 : e % 16 ≤ 9) (hs : e / 2 ^ 4 % 4 = 0) (hp : e / 2 ^ 9 % 4 ≠ 3) :
    s.walkFrom va 0 table = .leaf a 0 e := by
  subst ha he
  have size : pteSize (s.readWord (table + 8 * levelIndex 0 va)) = 0 := hs
  have pol : ptePol (s.readWord (table + 8 * levelIndex 0 va)) ≠ 3 := hp
  have ok : leafOk 0 (s.readWord (table + 8 * levelIndex 0 va)) = true := by
    simp [leafOk, pteRes_eq, size, pol, pteFrame, pageBytes, h9]
  have table15 : ¬s.readWord (table + 8 * levelIndex 0 va) % 16 = 15 := by omega
  have present : ¬s.readWord (table + 8 * levelIndex 0 va) % 16 = resABSENT := by simp only [resABSENT]; omega
  rw [State.walkFrom]
  simp only [clean, pteRes_eq, ok, if_neg table15, if_neg present, Bool.false_eq_true, if_false, if_true]

theorem walkFrom_format (h : 10 ≤ e % 16) : s.walkFrom va 0 table = .format := by
  subst ha he
  have bad : leafOk 0 (s.readWord (table + 8 * levelIndex 0 va)) = false := by
    have : ¬s.readWord (table + 8 * levelIndex 0 va) % 16 ≤ 9 := by omega
    simp [leafOk, pteRes_eq, this]
  have present : ¬s.readWord (table + 8 * levelIndex 0 va) % 16 = resABSENT := by simp only [resABSENT]; omega
  rw [State.walkFrom]
  simp only [clean, pteRes_eq, bad, if_neg present, tableOk, Bool.false_eq_true, if_false, bne_self_eq_false, Bool.false_and, ite_self]

end

/-- Three table entries lead from the root to the table of the leaves. -/
theorem walk_to_leaves {c a3 a2 a1 e3 e2 e1 : Nat} (root : (s.ctx c).ptroot ≠ 0)
    (h3 : a3 = (s.ctx c).ptroot * 4096 + 8 * (va / 2 ^ 39 % 2 ^ 18)) (he3 : e3 = s.readWord a3) (c3 : s.poisoned a3 8 = false)
    (k3 : e3 % 16 = 15) (z3 : e3 / 2 ^ 8 % 16 = 0)
    (h2 : a2 = e3 / 2 ^ 8 % 2 ^ 49 * 2 ^ 8 + 8 * (va / 2 ^ 30 % 2 ^ 9)) (he2 : e2 = s.readWord a2) (c2 : s.poisoned a2 8 = false)
    (k2 : e2 % 16 = 15) (z2 : e2 / 2 ^ 8 % 16 = 0)
    (h1 : a1 = e2 / 2 ^ 8 % 2 ^ 49 * 2 ^ 8 + 8 * (va / 2 ^ 21 % 2 ^ 9)) (he1 : e1 = s.readWord a1) (c1 : s.poisoned a1 8 = false)
    (k1 : e1 % 16 = 15) : s.walk c va = s.walkFrom va 0 (pteTable e1) := by
  rw [State.walk, if_neg root]
  exact (walkFrom_table h3 c3 he3 k3 (.inr z3)).trans <| (walkFrom_table h2 c2 he2 k2 (.inr z2)).trans (walkFrom_table h1 c1 he1 k1 (.inl rfl))

/-! ### A leaf met by an access (R345, R347, R359) -/

/-- W lets the access pass. -/
theorem allowed_of_w {wr : Bool} {e : Nat} (hw : wr = true → e / 2 ^ 6 % 2 = 1) : (wr && !pteW e) = false := by
  cases wr with
  | false => rfl
  | true =>
    have bit : e / 2 ^ 6 % 2 ^ 1 = 1 := hw rfl
    simp only [pteW, bitsOf, bit]
    rfl

section
variable {c n tower agent a level e : Nat} {wr : Bool} (leaf : s.walk c va = .leaf a level e)
include leaf

theorem translate_poisoned (h : e % 16 = 9) : s.translate c va n wr tower agent = (.poison (e / 2 ^ 16 % 2 ^ 41 * 2 ^ 16), s) := by
  simp only [State.translate, leaf, pteRes_eq, h, resPOISONED, if_true]
  rfl

theorem translate_readonly (h : e % 16 ≠ 9) (hw : wr = true) (ro : ¬e / 2 ^ 6 % 2 = 1) : s.translate c va n wr tower agent = (.readonly, s) := by
  have denied : (wr && !pteW e) = true := by simpa [hw, pteW, bitsOf] using ro
  simp only [State.translate, leaf, pteRes_eq, resPOISONED, if_neg h, denied, if_true]

section
variable (hw : wr = true → e / 2 ^ 6 % 2 = 1)
include hw

theorem translate_transit (h : e % 16 = 5 ∨ e % 16 = 6 ∨ e % 16 = 8) : s.translate c va n wr tower agent = (.transit a, s) := by
  simp only [State.translate, leaf, pteRes_eq, allowed_of_w hw]
  obtain h | h | h := h <;> simp [h, resPOISONED, inTransit, resPROMOTING, resDEMOTING, resAPPLYING]

theorem translate_frame (h : e % 16 = 2 ∨ e % 16 = 3 ∨ e % 16 = 7) : s.translate c va n wr tower agent =
    (.ok { vpage := va / 2 ^ 16, base := e / 2 ^ 16 % 2 ^ 41 * 2 ^ 16 + va / 2 ^ 16 * 2 ^ 16 % pageBytes level, leaf := a, size := level }, s) := by
  simp only [State.translate, leaf, pteRes_eq, allowed_of_w hw, State.physOf]
  obtain h | h | h := h <;>
    simp [h, resPOISONED, inTransit, resPROMOTING, resDEMOTING, resAPPLYING, resZERO, resLARDER, pteFrame, bitsOf]

theorem translate_pantry (h : e % 16 = 1) (hf : (s.pantry tower).frames = []) :
    s.translate c va n wr tower agent = (.pantry tower, s.event 0x13 (some c) tower va) := by
  simp only [State.translate, leaf, pteRes_eq, allowed_of_w hw, State.firstTouch, hf]
  simp [h, resPOISONED, inTransit, resPROMOTING, resDEMOTING, resAPPLYING, resZERO, evPANTRYEMPTY]

end

end

theorem translate_absent {c n tower agent : Nat} {wr : Bool} (h : s.walk c va = .absent) :
    s.translate c va n wr tower agent = (.absent, s.event 0x10 (some c) va agent) := by
  simp only [State.translate, h, evPAGEMISS]

/-! ### The access of a core within one page (R49, R140, R347) -/

theorem pieces_one_page {n : Nat} (hn : 0 < n) (h : va % 65536 + n ≤ 65536) : pieces va n = [(va, n)] := by
  have one : (va + n - 1) / 65536 - va / 65536 + 1 = 1 := by omega
  have start : max va ((va / 65536 + 0) * 65536) = va := by omega
  have stop : min (va + n) ((va / 65536 + 0) * 65536 + 65536) - va = n := by omega
  simp only [pieces, if_neg hn.ne', one, List.range_one, List.map_cons, List.map_nil, start, stop]

/-- What follows the translation of a whole access (R347, R382). -/
def State.fateOf (s : State) (lin seq : Nat) (e : MqEntry) (c : Nat) : Except (Trans × Nat) (List Xlat) → State
  | .ok xl =>
    let t := s.fillTlb lin xl
    let sets := e.acquiring && ((t.coreAt lin).setOpAhead e
      || t.setsTouching c e.ea e.len (fun a => a.state == .declared || a.state == .held) != [])
    t.setEntry lin seq fun e => { e with xl := xl, st := if sets then .sets [] else .ready }
  | .error (.absent, va) => s.restart lin e.bseq e.baddr (slotMask e.slot) fcNOTPRESENT (BitVec.ofNat 64 va) 0 5 0 (va / 65536 * 65536)
  | .error (.readonly, va) => s.entryFatal lin e fcREADONLY (BitVec.ofNat 64 va) 0
  | .error (.poison f, _) => s.entryFatal lin e fcPOISON (BitVec.ofNat 64 f) 0
  | .error (.pantry t, va) =>
    s.restart lin e.bseq e.baddr (slotMask e.slot) fcPANTRY (BitVec.ofNat 64 va) (BitVec.ofNat 64 t) 7 0 (va / 65536 * 65536)
  | .error (.transit a, va) =>
    if s.heldAppend c e a then
      s.setEntry lin seq fun e => { e with st := .ready, xl := [{ vpage := va / 65536, base := pteFrame (s.pteOf a), leaf := a, size := 0 }] }
    else s.setEntry lin seq fun e => { e with st := .transit s.cycle a }
  | .error (.ok _, _) => s

section
variable {lin seq : Nat} {e : MqEntry} {u : State} {r : Trans}

theorem translationComplete_eq (he : s.entry lin seq = some e) (hst : e.st = .walk) (hn : ∀ x, e.instr ≠ .hnear x) :
    exec (.translationComplete lin seq) s =
      let all := s.translateAll (s.ctxOf lin) e.writes (towerOf lin) 0 (pieces e.ea e.len)
      .next (all.2.fateOf lin seq e (s.ctxOf lin) all.1) := by
  have walk : (e.st != .walk) = false := by simp [hst]
  simp only [exec_translationComplete, execTranslationComplete, he, walk, Bool.false_eq_true, if_false]
  generalize s.translateAll (s.ctxOf lin) e.writes (towerOf lin) 0 (pieces e.ea e.len) = all
  obtain ⟨all, t⟩ := all
  match all with
  | .ok xl => rfl
  | .error (.absent, _) | .error (.readonly, _) | .error (.poison _, _) | .error (.pantry _, _) | .error (.ok _, _) => rfl
  | .error (.transit a, va) =>
    simp only [State.fateOf]
    split <;> rfl

/-- The fate of one page as that of the whole access. -/
def Trans.whole (va : Nat) : Trans → Except (Trans × Nat) (List Xlat)
  | .ok x => .ok [x]
  | r => .error (r, va)

theorem translateAll_one {c n tower : Nat} {wr : Bool} (h : s.translate c va n wr tower 0 = (r, u)) :
    s.translateAll c wr tower 0 [(va, n)] = (r.whole va, u) := by
  cases r <;> simp [State.translateAll, h, Trans.whole]

theorem translationComplete_one (he : s.entry lin seq = some e) (hst : e.st = .walk) (hn : ∀ x, e.instr ≠ .hnear x) (h0 : 0 < e.len)
    (h1 : e.ea % 65536 + e.len ≤ 65536) (hr : s.translate (s.ctxOf lin) e.ea e.len e.writes (lin / 144) 0 = (r, u)) :
    exec (.translationComplete lin seq) s = .next (u.fateOf lin seq e (s.ctxOf lin) (r.whole e.ea)) := by
  rw [translationComplete_eq he hst hn, pieces_one_page h0 h1, towerOf, translateAll_one hr]

end

/-- A core written with a value that is not the reset value is read back. -/
theorem coreAt_setCore_of_ne {lin : Nat} {c : Core} (h : c ≠ Core.reset) : (s.setCore lin c).coreAt lin = c := by
  unfold State.setCore
  split
  case isTrue e => exact if_pos e
  case isFalse e => exact (if_neg e).trans ((tget_tput_ne _ _ h _).trans (if_pos rfl))

/-- The L1 TLB takes one entry: the queues of the core and the sets stay as they are (R345). -/
theorem fillTlb_keeps (s : State) (lin : Nat) (x : Xlat) :
    ((s.fillTlb lin [x]).coreAt lin).mq = (s.coreAt lin).mq ∧ (s.fillTlb lin [x]).sets = s.sets := by
  have filled (u : State) (l : List (Nat × Nat)) (y : Nat × Nat) :
      ((u.modCore lin fun c => { c with tlb := l ++ [y] }).coreAt lin).mq = (u.coreAt lin).mq ∧
        (u.modCore lin fun c => { c with tlb := l ++ [y] }).sets = u.sets := by
    refine ⟨(congrArg Core.mq (coreAt_setCore_of_ne fun e => ?_)).trans rfl, modCore_sets _ _ _⟩
    exact absurd (congrArg Core.tlb e) (by simp [Core.reset])
  simp only [State.fillTlb, List.foldl_cons, List.foldl_nil]
  split <;> exact filled _ _ _

section
variable {lin seq : Nat} {e : MqEntry} {u : State} {c : Nat}

/-- An access whose page is usable is ready, or asks for the sets it touches (R382). -/
theorem fateOf_ok (x : Xlat) : u.fateOf lin seq e c (.ok [x]) = (u.fillTlb lin [x]).setEntry lin seq fun m => { m with
    xl := [x]
    st := if e.acquiring && ((u.coreAt lin).setOpAhead e
      || u.setsTouching c e.ea e.len (fun a => a.state == .declared || a.state == .held) != []) then .sets [] else .ready } := by
  obtain ⟨mq, sets⟩ := fillTlb_keeps u lin x
  have ahead : ((u.fillTlb lin [x]).coreAt lin).setOpAhead e = (u.coreAt lin).setOpAhead e := by simp only [Core.setOpAhead, mq]
  have touched (p : ASet → Bool) : (u.fillTlb lin [x]).setsTouching c e.ea e.len p = u.setsTouching c e.ea e.len p := by
    unfold State.setsTouching State.aset
    rw [sets]
  simp only [State.fateOf, ahead, touched]

theorem fateOf_ready {x : Xlat} (h : e.acquiring = false ∨ ((u.setsTouching c e.ea e.len fun a => a.state == .declared || a.state == .held) = [] ∧
    (u.coreAt lin).setOpAhead e = false)) :
    u.fateOf lin seq e c (.ok [x]) = (u.fillTlb lin [x]).setEntry lin seq fun m => { m with xl := [x], st := .ready } := by
  rw [fateOf_ok]
  obtain h | ⟨h, h'⟩ := h
  · simp only [h, Bool.false_and, Bool.false_eq_true, if_false]
  · simp only [h, h', bne_self_eq_false, Bool.or_self, Bool.and_false, Bool.false_eq_true, if_false]

theorem fateOf_sets {x : Xlat} (h : e.acquiring = true)
    (h' : (u.setsTouching c e.ea e.len fun a => a.state == .declared || a.state == .held) ≠ [] ∨ (u.coreAt lin).setOpAhead e = true) :
    u.fateOf lin seq e c (.ok [x]) = (u.fillTlb lin [x]).setEntry lin seq fun m => { m with xl := [x], st := .sets [] } := by
  have asks : (e.acquiring && ((u.coreAt lin).setOpAhead e
      || u.setsTouching c e.ea e.len (fun a => a.state == .declared || a.state == .held) != [])) = true := by
    obtain h' | h' := h' <;> simp [h, h']
  rw [fateOf_ok]
  simp only [asks, if_true]

/-- A page in transit freezes an access other than AMON (R347, R375). -/
theorem fateOf_transit (a va : Nat) (h : ∀ x, e.instr ≠ .amon x) :
    u.fateOf lin seq e c (.error (.transit a, va)) = u.setEntry lin seq fun m => { m with st := .transit u.cycle a } := by
  have append : u.heldAppend c e a = false := by
    unfold State.heldAppend
    split
    case h_1 x hx => exact absurd hx (h x)
    case h_2 => rfl
  simp only [State.fateOf, append, Bool.false_eq_true, if_false]

end

/-! ### A freeze that lasts (R354) -/

section
variable {lin since a : Nat} {e : MqEntry} (hm : (s.coreAt lin).mq = [e]) (hst : e.st = .transit since a)
include hm hst

theorem transit_limit (hl : s.hub.tlimit ≠ 0) (h : since + s.hub.tlimit * 64 ≤ s.cycle) : exec (.transit lin) s =
    let va := max e.ea (s.page a).vaddr
    .next (s.restart lin e.bseq e.baddr (2 ^ e.slot) 0x04 (BitVec.ofNat 64 va) 0 5 0 (va / 65536 * 65536)) := by
  simp [exec_transit, execTransit, hm, hst, hl, h, slotMask, fcTRANSIT]

theorem transit_below (h : s.cycle < since + s.hub.tlimit * 64) (hc : (s.coreAt lin).compl = none) : exec (.transit lin) s = .next s := by
  simp [exec_transit, execTransit, hm, hst, Nat.not_le.mpr h, hc]

end

/-- Settles O35: the walk goes down three tables to its leaf, whose state is judged POISONED first and W next; one page is the whole access.
The order POISONED, READONLY, first touch (notes/assumptions/66.md), ABSENT whatever the entry's SIZE (27.md) and the set operations
ahead by age (104.md) are the model's choices. -/
theorem translations : Obligations.Translations := by
  unfold Obligations.Translations
  refine ⟨?_, ?_⟩
  · intro s c va n wr tower agent root table clean
    refine ⟨fun none => if_pos none, ?_, translate_absent, fun a level e leaf => ⟨translate_poisoned leaf, translate_readonly leaf,
      translate_transit leaf, translate_frame leaf, translate_pantry leaf⟩⟩
    intro a3 a2 a1 a0 e3 e2 e1 e0 hroot h3 he3 c3 k3 z3 h2 he2 c2 k2 z2 h1 he1 c1 k1 h0 he0 c0
    rw [walk_to_leaves hroot h3 he3 c3 k3 z3 h2 he2 c2 k2 z2 h1 he1 c1 k1]
    exact ⟨walkFrom_absent h0 c0 he0, walkFrom_leaf h0 c0 he0, walkFrom_format h0 c0 he0⟩
  · intro lin seq s e c fate entryAs aborts fails
    refine ⟨fun he hst hn hlen hpage u => ?_, fun since a hl hm hst => ⟨transit_limit hm hst hl, transit_below hm hst⟩⟩
    have ends {r : Trans} (hr : fate u r) := translationComplete_one he hst hn hlen hpage hr
    refine ⟨fun x hx => ⟨fun ready => ?_, fun acquires sets => ?_⟩, fun hr => ends hr, fun hr => ends hr, fun f hr => ends hr, fun k hr => ends hr,
      fun a hr amon => ?_⟩
    · exact (ends hx).trans (congrArg Host.Outcome.next (fateOf_ready ready))
    · exact (ends hx).trans (congrArg Host.Outcome.next (fateOf_sets acquires sets))
    · exact (ends hr).trans (congrArg Host.Outcome.next (fateOf_transit a _ amon))

end Sys2Proof.Machine
end

section
/-!
Faults and traps leave the core; requests and wounds arrive (O25).
-/
open Sys2Proof

namespace Sys2Proof.Machine

variable {s : State} {i lin : Nat}

/-! ### Cores written (R49) -/

theorem setCore_setCore (h : twf Core.reset s.cores = true) (k : Nat) (a b : Core) : (s.setCore k a).setCore k b = s.setCore k b := by
  unfold State.setCore
  by_cases e : k = s.cur
  · simp [e]
  · have same : tput Core.reset (tput Core.reset s.cores k a) k b = tput Core.reset s.cores k b := by
      refine twf_ext (twf_tput (twf_tput h k a) k b) (twf_tput h k b) fun j => ?_
      rw [tget_tput (twf_tput h k a), tget_tput h, tget_tput h]
      split <;> rfl
    simp [e, same]

theorem setCore_coreAt (h : twf Core.reset s.cores = true) (k : Nat) : s.setCore k (s.coreAt k) = s := by
  unfold State.setCore State.coreAt
  by_cases e : k = s.cur
  · simp [e]
  · have same : tput Core.reset s.cores k (tget Core.reset s.cores k) = s.cores := by
      refine twf_ext (twf_tput h k _) h fun j => ?_
      rw [tget_tput h]
      split
      case isTrue e => rw [e]
      case isFalse => rfl
    simp [e, same]

theorem modCore_setCore (h : twf Core.reset s.cores = true) (k : Nat) (c : Core) (f : Core → Core) :
    (s.setCore k c).modCore k f = s.setCore k (f c) := by
  rw [State.modCore, coreAt_setCore h, if_pos rfl, setCore_setCore h]

theorem coreAt_cur (s : State) : s.coreAt s.cur = s.core := if_pos rfl

/-! ### The core stops (R49, R138, R140) -/

/-- No wound of task i is on its way to a core, or has reached one. -/
def Core.Unwounded (c : Core) (i : Nat) : Prop := (∀ x, c.woundIn = some x → x.2.2 ≠ i) ∧ ∀ x, c.wound = some x → x.2 ≠ i

theorem released_of_unwounded {c : Core} (h : c.Unwounded i) : c.released i = c := by
  obtain ⟨way, here⟩ := h
  have no : ((c.woundIn.any fun x => x.2.2 == i) || c.wound.any fun x => x.2 == i) = false := by
    rw [Bool.or_eq_false_iff]
    refine ⟨?_, ?_⟩
    · cases hw : c.woundIn with
      | none => rfl
      | some x => simpa using way x hw
    · cases hw : c.wound with
      | none => rfl
      | some x => simpa using here x hw
  simp only [Core.released, no, Bool.false_eq_true, if_false]

/-- A task that holds no set and wounds none releases nothing. -/
theorem releaseAll_of_none (h : twf Core.reset s.cores = true) (sets : s.heldSets i = []) (wounds : ∀ l, (s.coreAt l).Unwounded i) :
    s.releaseAll i = s := by
  have cores (ls : List Nat) : ls.foldl (fun s l => s.modCore l fun c => c.released i) s = s :=
    List.foldlRecOn (motive := fun u => u = s) ls _ rfl fun u hu l _ => by
      subst hu
      exact (congrArg (u.setCore l) (released_of_unwounded (wounds l))).trans (setCore_coreAt h l)
  simp only [State.releaseAll, sets, List.foldl_nil, cores, if_true]

theorem dropEntries_of_plain {es : List MqEntry} (h : ∀ e ∈ es, ∀ x y z w, e.instr ∉ [.hnear x, .cpy y, .chase z, .gath w]) :
    s.dropEntries es = s := by
  refine List.foldlRecOn (motive := fun u => u = s) es _ rfl fun u hu e he => ?_
  subst hu
  split
  case h_1 x hx => exact absurd (by simp [hx]) (h e he x dflCpy dflChase dflGath)
  case h_2 y hy => exact absurd (by simp [hy]) (h e he dflA y dflChase dflGath)
  case h_3 z hz => exact absurd (by simp [hz]) (h e he dflA dflCpy z dflGath)
  case h_4 w hw => exact absurd (by simp [hw]) (h e he dflA dflCpy dflChase w)
  case h_5 => rfl

/-- The core of a task that has begun to leave it. -/
def Core.leaving (c : Core) (dest : Dest) (mask epc from_ : Nat) : Core :=
  { c with leave := some { dest := dest, mask := mask, epc := epc }, compl := none, iss := none, pend := [], loops := [], setBuf := [],
           defer := [], preq := none, preqIn := none, preqBy := [], fetchWait := none, mq := c.mq.filter fun e => e.survives from_ }

theorem startLeave_eq (hi : (s.coreAt lin).task = some i) (dest : Dest) (mask epc from_ : Nat) : s.startLeave lin dest mask epc from_ =
    let t := (s.setCore lin ((s.coreAt lin).leaving dest mask epc from_)).dropEntries ((s.coreAt lin).mq.filter fun e => !e.survives from_)
    (((if lin = t.cur then { t with slots := [] } else t).releaseAll i).clearNext i).tryLeave lin := by
  unfold State.startLeave
  dsimp only
  split
  case h_1 none => exact absurd (none.symm.trans hi) nofun
  case h_2 j some =>
    obtain rfl : j = i := Option.some.inj (some.symm.trans hi)
    rfl

theorem tryLeave_of_not_drained (h : (s.coreAt lin).drained = false) : s.tryLeave lin = s := by
  simp only [State.tryLeave, h, Bool.and_false, Bool.false_eq_true, if_false]

/-- With something earlier outstanding the task stands in its core, and issue has stopped. -/
theorem startLeave_stops (hi : s.core.task = some i) (sets : s.heldSets i = []) (next : ∀ k, (s.aset k).next ≠ some i)
    (hc : twf Core.reset s.cores = true) (wounds : ∀ l, (s.coreAt l).Unwounded i) {dest : Dest} {mask epc from_ : Nat}
    (plain : ∀ e ∈ s.core.mq, ∀ x y z w, e.instr ∉ [.hnear x, .cpy y, .chase z, .gath w])
    (out : (s.core.mq.filter fun e => e.survives from_) ≠ [] ∨ s.core.fifo ≠ [] ∨ s.core.nt ≠ []) :
    s.startLeave s.cur dest mask epc from_ = { s with slots := [], core := s.core.leaving dest mask epc from_ } := by
  have drop (u : State) : u.dropEntries (s.core.mq.filter fun e => !e.survives from_) = u :=
    dropEntries_of_plain fun e he => plain e (List.mem_of_mem_filter he)
  have core : s.setCore s.cur (s.core.leaving dest mask epc from_) = { s with core := s.core.leaving dest mask epc from_ } := if_pos rfl
  have stays : (s.core.leaving dest mask epc from_).drained = false := by
    obtain h | h | h := out <;> simp [Core.drained, Core.leaving, h]
  have release (u : State) (hu : u = { s with slots := [], core := s.core.leaving dest mask epc from_ }) : u.releaseAll i = u := by
    subst hu
    refine releaseAll_of_none hc sets fun l => ?_
    have := wounds l
    unfold State.coreAt at this ⊢
    split
    case isTrue e => rwa [if_pos e] at this
    case isFalse e => rwa [if_neg e] at this
  rw [startLeave_eq (lin := s.cur) (by rw [coreAt_cur]; exact hi), coreAt_cur, core, drop]
  dsimp only
  rw [if_pos rfl, release _ rfl, clearNext_of_none (by exact next), tryLeave_of_not_drained]
  exact (congrArg Core.drained (if_pos rfl)).trans stays

/-! ### The task leaves (R131, R138, R140, R141) -/

theorem coreFreed_of_none (h : ∀ g, (s.group g).state ≠ .waiting) (lin : Nat) : s.coreFreed lin = s := by
  have none : (tkeys s.groups).filter (fun k => (s.group k).state == .waiting &&
      (coresOfPair (pairOf lin)).all fun l => (s.group k).reserved.contains l) = [] := by
    simp [h]
  simp only [State.coreFreed, none, List.foldl_nil]

/-- The task's record written back, and its core idle (R138). -/
def State.vacated (s : State) (i : Nat) : State :=
  { s with core := s.core.idle, tasks := tmod {} s.tasks i fun t => t.writeBack s.core.snap }

/-- The record of a fault or trap (R141, R142). -/
def Leave.blames (lv : Leave) (lin cls code : Nat) (a0 a1 a2 : Word) (t : Task) : Task :=
  { t with state := .faulted, ecode := code, eclass := cls, ecore := lin, epc := lv.epc, emask := lv.mask, earg0 := a0, earg1 := a1, earg2 := a2 }

/-- The state a task off its core takes (R131, R140, R141). -/
def State.takes (s : State) (lin i : Nat) (c : Core) (lv : Leave) : State :=
  match lv.dest with
  | .ready => s.modTask i fun t => { t with state := .ready }
  | .suspended kind obj addr =>
    let ctx := (s.task i).ctx
    let s := s.modTask i fun t => { t with state := .suspended, wkind := kind, wobj := obj, waddr := addr }
    if s.causeCleared i ctx kind obj addr then
      let b := s.waitedBar i obj
      let lost := decide (kind = 3) && b.lost && !phaseDone b.gen addr
      (s.wake i).modTask i fun t => { t with recheck := if lost then some (obj, addr) else t.recheck }
    else if kind = 2 && (s.aset (ctx * 4096 + obj % 4096)).next.isNone then s.reserve (ctx * 4096 + obj % 4096) else s
  | .aborted code a0 a1 a2 kind obj addr =>
    let ctx := (s.task i).ctx
    let wounder := if kind = 6 || c.woundDone then none else c.wound.map (fun w : Nat × Nat => w.2)
    let s := s.modTask i fun t =>
      { t with state := .aborted, ecode := code, eclass := 1, ecore := lin, epc := lv.epc, emask := lv.mask,
               earg0 := a0, earg1 := a1, earg2 := a2, wkind := kind, wobj := obj, waddr := addr, wounder := wounder }
    if s.causeCleared i ctx kind obj addr || (kind == 6 && c.woundDone) then s.wake i else s
  | .faulted cls code a0 a1 a2 =>
    (s.modTask i (lv.blames lin cls code a0 a1 a2)).faultPolicy i false

/-- A task that leaves, in no group. -/
structure State.Leaves (s : State) (i : Nat) (lv : Leave) : Prop where
  tasks : twf {} s.tasks = true
  task : s.core.task = some i
  leave : s.core.leave = some lv
  alone : (s.task i).gslot = 65535
  calm : ∀ g, (s.group g).state ≠ .waiting

variable {lv : Leave}

theorem task_vacated (h : s.Leaves i lv) (j : Nat) : (s.vacated i).task j = if j = i then (s.task i).writeBack s.core.snap else s.task j :=
  tget_tmod h.tasks i (fun t => t.writeBack s.core.snap) j

theorem finishLeave_eq (h : s.Leaves i lv) : s.finishLeave s.cur =
    let t := (s.vacated i).takes s.cur i s.core lv
    let slot := slotOfHandle (s.task i).launch
    if (t.launchOf slot).abort then t.abortSweep slot else t := by
  obtain ⟨-, task, leave, alone, calm⟩ := id h
  have own : (s.modTask i fun t => t.writeBack s.core.snap).task i = (s.task i).writeBack s.core.snap := (task_vacated h i).trans (if_pos rfl)
  have vacated : (s.modTask i fun t => t.writeBack s.core.snap).setCore s.cur s.core.idle = s.vacated i := if_pos rfl
  have freed : (s.vacated i).coreFreed s.cur = s.vacated i := coreFreed_of_none (s := s.vacated i) calm _
  have single : ¬(((s.task i).writeBack s.core.snap).gslot != 65535) = true := by simp [Task.writeBack, alone]
  unfold State.finishLeave
  rw [coreAt_cur]
  dsimp only
  rw [task, leave]
  dsimp only
  rw [vacated, freed, own, if_neg single]
  unfold State.takes
  rw [show (s.vacated i).task i = _ from own]
  cases lv.dest with
  | faulted cls code a0 a1 a2 =>
    simp only [if_neg single]
    rfl
  | _ => rfl

theorem twf_vacated (h : s.Leaves i lv) : twf {} (s.vacated i).tasks = true :=
  twf_tmod h.tasks i fun t => t.writeBack s.core.snap

/-- From `s` the task i leaves with record `r`: its core is idle, and but for launches nothing else changes. -/
structure LeftAs (s t : State) (i : Nat) (r : Task) : Prop where
  frame : t = { s with core := s.core.idle, tasks := t.tasks, launches := t.launches }
  own : t.task i = r
  others : ∀ j, j ≠ i → t.task j = s.task j

theorem leftAs_vacated (h : s.Leaves i lv) : LeftAs s (s.vacated i) i ((s.task i).writeBack s.core.snap) :=
  ⟨rfl, (task_vacated h i).trans (if_pos rfl), fun j hj => (task_vacated h j).trans (if_neg hj)⟩

section
variable {u : State} {r : Task} (h : LeftAs s u i r) (wf : twf {} u.tasks = true)
include h wf

theorem leftAs_modTask (f : Task → Task) : LeftAs s (u.modTask i f) i (f r) := by
  obtain ⟨frame, own, others⟩ := h
  have read (j : Nat) := task_modTask wf i f j
  refine ⟨?_, ?_, fun j hj => ?_⟩
  · rw [State.modTask, frame]
  · rw [read, if_pos rfl, own]
  · rw [read, if_neg hj, others j hj]

theorem leftAs_wake (waits : r.state = .suspended ∨ r.state = .aborted) (free : r.wounder = none) : LeftAs s (u.wake i) i r.woken := by
  obtain ⟨frame, rfl, others⟩ := h
  refine ⟨?_, wake_self wf i waits free, fun j hj => (wake_other wf i j hj).trans (others j hj)⟩
  rw [wake_eq, frame]

end

theorem finishLeave_of_takes (h : s.Leaves i lv) {t : State} (e : (s.vacated i).takes s.cur i s.core lv = t)
    (abort : (t.launchOf (slotOfHandle (s.task i).launch)).abort = false) : s.finishLeave s.cur = t := by
  simp only [finishLeave_eq h, e, abort, Bool.false_eq_true, if_false]

section
variable (h : s.Leaves i lv) (abort : (s.launchOf (slotOfHandle (s.task i).launch)).abort = false)
include h abort

theorem finishLeave_ready (hd : lv.dest = .ready) :
    LeftAs s (s.finishLeave s.cur) i { (s.task i).writeBack s.core.snap with state := .ready } := by
  rw [finishLeave_of_takes h (t := (s.vacated i).modTask i fun t => { t with state := .ready }) ?_ abort]
  · exact leftAs_modTask (leftAs_vacated h) (twf_vacated h) _
  · simp only [State.takes, hd]

/-- A wait whose cause still stands (R131). -/
theorem finishLeave_suspended {kind obj addr : Nat} (hd : lv.dest = .suspended kind obj addr) (hk : kind ≠ 2)
    (stands : ∀ f, ((s.vacated i).modTask i f).causeCleared i (s.task i).ctx kind obj addr = false) :
    LeftAs s (s.finishLeave s.cur) i
      { (s.task i).writeBack s.core.snap with state := .suspended, wkind := kind, wobj := obj, waddr := addr } := by
  have ctx : ((s.vacated i).task i).ctx = (s.task i).ctx := by rw [task_vacated h, if_pos rfl]; rfl
  rw [finishLeave_of_takes h (t := (s.vacated i).modTask i fun t => { t with state := .suspended, wkind := kind, wobj := obj, waddr := addr }) ?_ abort]
  · exact leftAs_modTask (leftAs_vacated h) (twf_vacated h) _
  · simp only [State.takes, hd, ctx, stands, hk, decide_false, Bool.false_and, Bool.false_eq_true, if_false]

/-- A wait whose cause has cleared: the task is READY at once (R131). -/
theorem finishLeave_cleared {kind obj addr : Nat} (hd : lv.dest = .suspended kind obj addr) (hk : kind ≠ 3)
    (free : (s.task i).wounder = none)
    (cleared : ∀ f, ((s.vacated i).modTask i f).causeCleared i (s.task i).ctx kind obj addr = true) :
    LeftAs s (s.finishLeave s.cur) i
      { (s.task i).writeBack s.core.snap with state := .ready, wkind := 0, wobj := 0, waddr := 0, qlimit := none } := by
  have ctx : ((s.vacated i).task i).ctx = (s.task i).ctx := by rw [task_vacated h, if_pos rfl]; rfl
  have waits := leftAs_modTask (leftAs_vacated h) (twf_vacated h) fun t => { t with state := .suspended, wkind := kind, wobj := obj, waddr := addr }
  have wf := twf_modTask (twf_vacated h) i fun t => { t with state := .suspended, wkind := kind, wobj := obj, waddr := addr }
  have woken := leftAs_wake waits wf (.inl rfl) free
  have again := leftAs_modTask woken (twf_wake wf i) id
  rw [finishLeave_of_takes h (t := _) ?_ ?_]
  · exact again
  · simp only [State.takes, hd, ctx, cleared, if_true, hk, decide_false, Bool.false_and, Bool.false_eq_true, if_false]
    rfl
  · rw [State.launchOf, modTask_launches, wake_launches]
    exact abort

/-- An abort by a wound whose wounder still holds a set (R140). -/
theorem finishLeave_aborted {code obj addr : Nat} {a0 a1 a2 : Word} (hd : lv.dest = .aborted code a0 a1 a2 6 obj addr)
    (holds : s.heldSets obj ≠ []) (done : s.core.woundDone = false) :
    LeftAs s (s.finishLeave s.cur) i
      { (s.task i).writeBack s.core.snap with
        state := .aborted, ecode := code, eclass := 1, ecore := s.cur, epc := lv.epc, emask := lv.mask,
        earg0 := a0, earg1 := a1, earg2 := a2, wkind := 6, wobj := obj, waddr := addr, wounder := none } := by
  have stands (f : Task → Task) (c : Nat) : ((s.vacated i).modTask i f).causeCleared i c 6 obj addr = false := by
    have same : ((s.vacated i).modTask i f).heldSets obj = s.heldSets obj := rfl
    simp [State.causeCleared, same, holds]
  rw [finishLeave_of_takes h (t := (s.vacated i).modTask i fun t =>
    { t with state := .aborted, ecode := code, eclass := 1, ecore := s.cur, epc := lv.epc, emask := lv.mask,
             earg0 := a0, earg1 := a1, earg2 := a2, wkind := 6, wobj := obj, waddr := addr, wounder := none }) ?_ abort]
  · exact leftAs_modTask (leftAs_vacated h) (twf_vacated h) _
  · simp [State.takes, hd, stands, done]

end

/-! ### The fault policy lets the launch go on (R122) -/

/-- The launch's record after a fault of the task. -/
def Launch.counted (l : Launch) (t : Task) (i : Nat) : Launch :=
  ({ l with faults := min (l.faults + 1) (2 ^ 48 - 1) }).record (t.age, i) t.ecode t.epc t.emask t.ecore

theorem record_abort (l : Launch) (age : Nat × Nat) (code fpc mask core : Nat) : (l.record age code fpc mask core).abort = l.abort := by
  simp only [Launch.record, apply_ite Launch.abort, ite_self]

theorem record_faults (l : Launch) (age : Nat × Nat) (code fpc mask core : Nat) : (l.record age code fpc mask core).faults = l.faults := by
  simp only [Launch.record, apply_ite Launch.faults, ite_self]

/-- With a policy other than 0 a fault of a task but the handler's touches its launch's record alone. -/
theorem faultPolicy_goesOn {t : Task} (ht : s.task i = t) (hh : t.h = false) (pol : (s.launchOf (slotOfHandle t.launch)).img.fpol ≠ 0) :
    s.faultPolicy i false = s ∨ s.faultPolicy i false = s.modLaunch (slotOfHandle t.launch) fun l => l.counted t i := by
  subst ht
  unfold State.faultPolicy
  dsimp only
  split
  case isTrue => exact .inl rfl
  case isFalse =>
    refine .inr ?_
    simp only [hh, pol, decide_false, Bool.or_self, Bool.false_and, Bool.false_eq_true, if_false]
    rfl

theorem abort_modLaunch_counted (k : Nat) (t : Task) : ((s.modLaunch k fun l => l.counted t i).launchOf k).abort = (s.launchOf k).abort := by
  have differs : (s.launchOf k).counted t i ≠ {} := fun e => by
    have faults : ((s.launchOf k).counted t i).faults = 0 := congrArg Launch.faults e
    rw [Launch.counted, record_faults] at faults
    dsimp only at faults
    omega
  have read : (s.modLaunch k fun l => l.counted t i).launchOf k = (s.launchOf k).counted t i :=
    (tget_tput_ne s.launches k differs k).trans (if_pos rfl)
  rw [read, Launch.counted, record_abort]

theorem finishLeave_faulted (h : s.Leaves i lv) (abort : (s.launchOf (slotOfHandle (s.task i).launch)).abort = false)
    {cls code : Nat} {a0 a1 a2 : Word} (hd : lv.dest = .faulted cls code a0 a1 a2) (hh : (s.task i).h = false)
    (pol : (s.launchOf (slotOfHandle (s.task i).launch)).img.fpol ≠ 0) :
    LeftAs s (s.finishLeave s.cur) i (lv.blames s.cur cls code a0 a1 a2 ((s.task i).writeBack s.core.snap)) := by
  have takes : (s.vacated i).takes s.cur i s.core lv = ((s.vacated i).modTask i (lv.blames s.cur cls code a0 a1 a2)).faultPolicy i false := by
    simp only [State.takes, hd]
  have faulted := leftAs_modTask (leftAs_vacated h) (twf_vacated h) (lv.blames s.cur cls code a0 a1 a2)
  obtain same | counted := faultPolicy_goesOn faulted.own hh pol
  · rw [finishLeave_of_takes h (takes.trans same) abort]
    exact faulted
  · rw [finishLeave_of_takes h (takes.trans counted) ((abort_modLaunch_counted _ _).trans abort)]
    obtain ⟨frame, own, others⟩ := faulted
    exact ⟨by rw [State.modLaunch, frame], own, others⟩

/-! ### The cause of a wait for a future (R131) -/

section
variable {f c : Nat} {g : Task → Task}

theorem causeCleared_empty {a : Nat} (empty : (s.fut (f % 2 ^ 20)).state = .empty) (gen : (s.fut (f % 2 ^ 20)).gen.toNat = f / 2 ^ 20 % 4096)
    (ctx : (s.fut (f % 2 ^ 20)).ctx = c) : ((s.vacated i).modTask i g).causeCleared i c 1 f a = false := by
  change ((s.fut (f % 2 ^ 20)).state != .empty || (s.fut (f % 2 ^ 20)).gen.toNat != f / 2 ^ 20 % 4096 || (s.fut (f % 2 ^ 20)).ctx != c) = false
  rw [empty, gen, ctx]
  simp only [bne_self_eq_false, Bool.or_self]

theorem causeCleared_full {a : Nat} (full : (s.fut (f % 2 ^ 20)).state ≠ .empty) :
    ((s.vacated i).modTask i g).causeCleared i c 1 f a = true := by
  change ((s.fut (f % 2 ^ 20)).state != .empty || (s.fut (f % 2 ^ 20)).gen.toNat != f / 2 ^ 20 % 4096 || (s.fut (f % 2 ^ 20)).ctx != c) = true
  rw [bne_iff_ne.mpr full, Bool.true_or, Bool.true_or]

end

/-! ### Requests and wounds arrive (R132, R140, R143, R470) -/

theorem execPreemptArrival_eq {k : Nat} (h : (s.coreAt lin).preqIn = some k) : exec (.preemptArrival lin) s =
    if s.cycle ≤ k then .next s else .next (s.setCore lin { s.coreAt lin with preqIn := none, preq := some s.cycle }) := by
  change execPreemptArrival lin s = _
  rw [execPreemptArrival, h]
  rfl

theorem ending_iff {c : Core} {q : Completion} (h : c.compl = some q) :
    c.ending = true ↔ q.committing = true ∨ q.ask = .tend ∨ c.pend = [] ∧ ∃ h ∈ q.ops, ∃ x, h.instr = .tend x := by
  have tend (i : Instr) : (match i with | .tend _ => true | _ => false) = true ↔ ∃ x, i = .tend x := by
    split
    case h_1 x => exact ⟨fun _ => ⟨x, rfl⟩, fun _ => rfl⟩
    case h_2 other => exact ⟨nofun, fun ⟨x, e⟩ => (other x e).elim⟩
  simp only [Core.ending, h, Bool.or_eq_true, Bool.and_eq_true, beq_iff_eq, List.isEmpty_iff, List.any_eq_true, or_assoc]
  exact or_congr_right (or_congr_right (and_congr_right' (exists_congr fun o => and_congr_right' (tend o.instr))))

/-- The bundle at whose boundary a wound is taken: the one in its completion step, else the one at the pc (R140). -/
def Core.boundary (c : Core) : Nat × Nat :=
  match c.compl with
  | some q => (q.baddr, q.bseq)
  | none => (c.pc, c.bseq + 1)

/-- A wound may be taken: nothing of a bundle is under way (R132, R140). -/
def Core.interruptible (c : Core) : Bool :=
  match c.compl with
  | some q => !q.performing && !q.committing && q.arrivedGen.isNone
  | none => c.iss.isNone

section
variable {c : Core} {q : Completion}

theorem boundary_of_none (h : c.compl = none) : c.boundary = (c.pc, c.bseq + 1) := by rw [Core.boundary, h]

theorem boundary_of_some (h : c.compl = some q) : c.boundary = (q.baddr, q.bseq) := by rw [Core.boundary, h]

theorem interruptible_of_none (h : c.compl = none) (iss : c.iss = none) : c.interruptible = true := by
  rw [Core.interruptible, h, iss]
  rfl

theorem interruptible_of_some (h : c.compl = some q) : c.interruptible = (!q.performing && !q.committing && q.arrivedGen.isNone) := by
  rw [Core.interruptible, h]

theorem ending_of_none (h : c.compl = none) : c.ending = false := by rw [Core.ending, h]

end

theorem takeWound_eq {c : Core} (hc : s.coreAt lin = c) {id w : Nat} (wound : c.wound = some (id, w)) (leave : c.leave = none) :
    s.takeWound lin = if c.interruptible then s.woundAbort lin id w c.boundary.1 c.boundary.2 else s := by
  subst hc
  unfold State.takeWound
  simp only [wound, leave, Option.isSome_none, Bool.false_or]
  change (if (!(s.coreAt lin).interruptible) = true then s else s.woundAbort lin id w (s.coreAt lin).boundary.1 (s.coreAt lin).boundary.2) = _
  cases (s.coreAt lin).interruptible <;> rfl

section
variable {k id w : Nat} (onWay : (s.coreAt lin).woundIn = some (k, id, w)) (task : (s.coreAt lin).task = some i)
include onWay task

theorem execWoundArrival_eq (hc : twf Core.reset s.cores = true) : exec (.woundArrival lin) s =
    if s.cycle ≤ k then .next s
    else if (s.coreAt lin).ending then .next (s.setCore lin { s.coreAt lin with woundIn := none })
    else .next ((s.setCore lin { s.coreAt lin with woundIn := none, wound := some (id, w) }).takeWound lin) := by
  rw [← modCore_setCore hc lin { s.coreAt lin with woundIn := none } fun c => { c with wound := some (id, w) }]
  change execWoundArrival lin s = _
  unfold execWoundArrival
  dsimp only
  split
  case h_1 k' id' w' j e _ =>
    obtain ⟨⟩ := onWay.symm.trans e
    rfl
  case h_2 no => exact (no k id w i onWay task).elim

section
variable (hc : twf Core.reset s.cores = true) (late : k < s.cycle) (goesOn : (s.coreAt lin).ending = false) (leave : (s.coreAt lin).leave = none)
include hc late goesOn leave

theorem execWoundArrival_arrives : exec (.woundArrival lin) s =
    .next (if (s.coreAt lin).interruptible then
      (s.setCore lin { s.coreAt lin with woundIn := none, wound := some (id, w) }).woundAbort lin id w
        (s.coreAt lin).boundary.1 (s.coreAt lin).boundary.2
      else s.setCore lin { s.coreAt lin with woundIn := none, wound := some (id, w) }) := by
  have read : (s.setCore lin { s.coreAt lin with woundIn := none, wound := some (id, w) }).coreAt lin =
    { s.coreAt lin with woundIn := none, wound := some (id, w) } := (coreAt_setCore hc lin _ lin).trans (if_pos rfl)
  rw [execWoundArrival_eq onWay task hc, if_neg (Nat.not_le.mpr late), if_neg (by simp [goesOn]), takeWound_eq read rfl leave]
  rfl

/-- A wound is taken when nothing of a bundle is under way (R140). -/
theorem execWoundArrival_taken (free : (s.coreAt lin).interruptible = true) {epc bseq : Nat} (at_ : (s.coreAt lin).boundary = (epc, bseq)) :
    exec (.woundArrival lin) s = .next ((s.setCore lin { s.coreAt lin with woundIn := none, wound := some (id, w) }).startLeave lin
      (.aborted 0x03 (BitVec.ofNat 64 id) (BitVec.ofNat 64 w) (BitVec.ofNat 64 (s.task w).age) 6 w 0) 0 epc bseq) := by
  have age (c : Core) : (s.setCore lin c).task w = s.task w := by
    rw [State.task, setCore_tasks]
    rfl
  rw [execWoundArrival_arrives onWay task hc late goesOn leave, if_pos free, at_, State.woundAbort, age]
  rfl

/-- Else it stands. -/
theorem execWoundArrival_stands (busy : (s.coreAt lin).interruptible = false) :
    exec (.woundArrival lin) s = .next (s.setCore lin { s.coreAt lin with woundIn := none, wound := some (id, w) }) := by
  rw [execWoundArrival_arrives onWay task hc late goesOn leave, if_neg (by simp [busy])]

end

end

/-- Settles O25: a fault, a trap and an abort stop the core while earlier effects are outstanding, and the core's leaving then sets
the task's record; requests and wounds are taken no earlier than the next cycle. That a wound is still accepted while TEND's
completion step waits for results is the model's choice (notes/assumptions/48.md), and so is the dropping of the entries of the
task's own and younger bundles at once (notes/assumptions/73.md). -/
theorem leavingAndArrivals : Obligations.LeavingAndArrivals := by
  unfold Obligations.LeavingAndArrivals
  refine ⟨⟨?_, ?_⟩, ?_⟩
  · intro s i bseq epc mask code a0 a1 a2 kind obj addr c task sets next hc wounds begins
    have stops {dest : Dest} {mask from_ : Nat} {t : State} (e : t = s.startLeave s.cur dest mask epc from_) : begins t dest mask from_ :=
      fun plain out => e.trans (startLeave_stops task sets next hc wounds plain out)
    refine ⟨fun none => stops ?_, fun id w some => stops ?_, stops rfl, stops (trapTaken_cur s epc mask code a0 a1 a2)⟩
    · rw [State.fatal, coreAt_cur, none]
    · rw [State.fatal, coreAt_cur, some]
      rfl
  · intro s i lv c k l tasks task leave alone abort calm rec_ leftAs
    have h : s.Leaves i lv := ⟨tasks, task, leave, alone, calm⟩
    have left {r : Task} (a : LeftAs s (s.finishLeave s.cur) i r) : leftAs r := by
      obtain ⟨frame, own, others⟩ := a
      have core : (s.finishLeave s.cur).core = c.idle := by rw [frame]
      exact ⟨_, rfl, core, by rw [core]; rfl, own, by rw [core]; exact frame, others⟩
    refine ⟨fun hd => left (finishLeave_ready h abort hd), fun f a hd empty gen ctx => ?_, fun f a hd full free => ?_, fun o a hd => ?_,
      fun code a0 a1 a2 w a hd holds done => left (finishLeave_aborted h abort hd holds done),
      fun cls code a0 a1 a2 hd hh pol => left (finishLeave_faulted h abort hd hh pol)⟩
    · exact left (finishLeave_suspended h abort hd (by decide) fun _ => causeCleared_empty empty gen ctx)
    · exact left (finishLeave_cleared h abort hd (by decide) free fun _ => causeCleared_full full)
    · exact left (finishLeave_suspended h abort hd (by decide) fun _ => rfl)
  · intro lin s c hc
    refine ⟨fun k onWay => ⟨fun early => ?_, fun late => ?_⟩, ?_⟩
    · rw [execPreemptArrival_eq onWay, if_pos early]
    · rw [execPreemptArrival_eq onWay, if_neg (Nat.not_le.mpr late)]
    intro k id w i onWay task arrived taken
    refine ⟨fun early => ?_, fun late leave iss => ⟨fun none => ?_, fun q some => ⟨fun goesOn performing gen => ?_, fun goesOn under => ?_, fun ends => ?_⟩⟩⟩
    · rw [execWoundArrival_eq onWay task hc, if_pos early]
    · exact execWoundArrival_taken onWay task hc late (ending_of_none none) leave (interruptible_of_none none iss) (boundary_of_none none)
    · have going : c.ending = false := Bool.eq_false_iff.mpr (mt (ending_iff some).mp goesOn)
      have committing : q.committing = false := Bool.eq_false_iff.mpr fun e => goesOn (.inl e)
      refine execWoundArrival_taken onWay task hc late going leave ?_ (boundary_of_some some)
      rw [interruptible_of_some some, performing, committing, gen]
      rfl
    · have going : c.ending = false := Bool.eq_false_iff.mpr (mt (ending_iff some).mp goesOn)
      refine execWoundArrival_stands onWay task hc late going leave ?_
      rw [interruptible_of_some some]
      obtain performing | gen := under
      · rw [performing, Bool.not_true, Bool.false_and, Bool.false_and]
      · rw [Option.isNone_eq_false_iff.mpr (Option.isSome_iff_ne_none.mpr gen), Bool.and_false]
    · rw [execWoundArrival_eq onWay task hc, if_neg (Nat.not_le.mpr late), if_pos ((ending_iff some).mpr ends)]

end Sys2Proof.Machine
end

section
/-!
Decode of encode (O45): a slot instruction reads back from its word, form by form; a bundle reads back from its bytes.
-/
open Sys2Proof

namespace Sys2Proof.Machine

variable {i : Instr} {cls : SlotCls} {op : Nat}

/-! ### The word of a slot instruction -/

/-- The word that encodes an instruction of this OP and payload (R65). -/
def formWord (i : Instr) (op : Nat) : Form → Word
  | .nop => 0
  | .prefetch x => encCommon op x.cl Guard.always false ((0x7F : BitVec 8) ++ encOpnd x.b ++ (0 : BitVec 12) ++ x.off)
  | .branch x => encCommon op .a Guard.always false (x.disp ++ (0 : BitVec 20))
  | .a x => encA i op x
  | .i x => encI i op x
  | .m x => encM i op x
  | .l x => encL i op x
  | .c x => encC i op x
  | .mma x => encMma op x
  | .cpy x => encCpy op x
  | .chase x => encChase op x
  | .gath x => encGath op x
  | .send x => encSend i op x

theorem encode_of_slotForm {f : Form} (h : slotForm i = some (cls, op, f)) :
    encode i = some (Fin.ofNat 8 (slotOf cls f.cluster), formWord i op f) := by
  unfold encode
  split
  case h_1 => cases h
  case h_2 =>
    rw [h]
    cases f <;> rfl

/-! ### What a well-formed payload says of its cluster -/

theorem OpA.wf_cluster {x : OpA} (h : x.wf cls i = true) : (cls = .c → x.cl = .a) ∧ (cls = .t → x.cl = .b) := by
  simp only [OpA.wf, Bool.and_eq_true] at h
  obtain ⟨⟨⟨⟨⟨⟨⟨⟨⟨cluster, _⟩, _⟩, _⟩, _⟩, _⟩, _⟩, _⟩, _⟩, _⟩ := h
  constructor <;> rintro rfl <;> exact eq_of_beq cluster

theorem OpI.wf_cluster {x : OpI} (h : x.wf cls i = true) : cls = .c → x.cl = .a := by
  simp only [OpI.wf, Bool.and_eq_true] at h
  obtain ⟨⟨⟨⟨⟨cluster, _⟩, _⟩, _⟩, _⟩, _⟩ := h
  rintro rfl
  exact eq_of_beq cluster

theorem OpL.wf_cluster {x : OpL} (h : x.wf cls i = true) : cls = .t → x.cl = .b := by
  simp only [OpL.wf, Bool.and_eq_true] at h
  obtain ⟨⟨⟨⟨⟨⟨⟨⟨⟨⟨cluster, _⟩, _⟩, _⟩, _⟩, _⟩, _⟩, _⟩, _⟩, _⟩, _⟩ := h
  rintro rfl
  exact eq_of_beq cluster

/-- Form M stands in the M class alone (R73). -/
theorem cls_of_opForm_m (h : opForm cls op = some (.m dflM)) : cls = .m := by
  cases cls <;> simp only [opForm] at h
  case m => rfl
  all_goals split_ifs at h <;> cases h

/-! ### Each form reads back -/

theorem fromForm_ok {f : Form} (h : ofForm cls op f = some i) : fromForm cls op f = .ok i := by
  rw [fromForm, h]

theorem decodeSlot_encA {x : OpA} (h : slotForm i = some (cls, op, .a x)) (wf : x.wf cls i = true) :
    decodeSlot (Fin.ofNat 8 (slotOf cls x.cl)) (encA i op x) = .ok i := by
  obtain ⟨assigned, form, back, i0, entry, spec⟩ := row_a h
  have read : decA i0 x.cl (encA i op x) = .ok x := by
    rw [← decA_encA wf, decA, decA, spec]
  rw [decodeSlot_a (slotCls_slotOf _ _) (fOp_encA _ _ assigned.2) assigned form entry,
    slotCluster_slotOf (OpA.wf_cluster wf).1 (OpA.wf_cluster wf).2, read]
  exact fromForm_ok back

theorem decodeSlot_encI {x : OpI} (h : slotForm i = some (cls, op, .i x)) (wf : x.wf cls i = true) :
    decodeSlot (Fin.ofNat 8 (slotOf cls x.cl)) (encI i op x) = .ok i := by
  obtain ⟨assigned, form, back, i0, entry, spec, notT⟩ := row_i h
  have read : decI i0 x.cl (encI i op x) = .ok x := by
    rw [← decI_encI wf, decI, decI, spec]
  rw [decodeSlot_i (slotCls_slotOf _ _) (fOp_encI _ _ assigned.2) assigned form entry,
    slotCluster_slotOf (OpI.wf_cluster wf) fun t => absurd t notT, read]
  exact fromForm_ok back

theorem decodeSlot_encM {x : OpM} (h : slotForm i = some (cls, op, .m x)) (wf : x.wf i = true) :
    decodeSlot (Fin.ofNat 8 (slotOf cls x.cl)) (encM i op x) = .ok i := by
  obtain ⟨assigned, form, back, i0, entry, spec, both, line, dst⟩ := row_m h
  obtain rfl := cls_of_opForm_m form
  have read : decM i0 x.cl (encM i op x) = .ok x := by
    rw [← decM_encM wf both line dst, decM, decM, spec]
  rw [decodeSlot_m (slotCls_slotOf _ _) (fOp_encM _ _ assigned.2) assigned form entry, slotCluster_slotOf (cls := .m) nofun nofun, read]
  exact fromForm_ok back

theorem decodeSlot_encL {x : OpL} (h : slotForm i = some (cls, op, .l x)) (wf : x.wf cls i = true) :
    decodeSlot (Fin.ofNat 8 (slotOf cls x.cl)) (encL i op x) = .ok i := by
  obtain ⟨assigned, form, back, i0, entry, spec, dst, mOrT⟩ := row_l h
  have read : decL i0 x.cl (encL i op x) = .ok x := by
    rw [← decL_encL wf (dst _ _ _), decL, decL, spec]
  have notC : cls ≠ .c := by
    rintro rfl
    exact absurd mOrT (by decide)
  rw [decodeSlot_l (slotCls_slotOf _ _) (fOp_encL _ _ assigned.2) assigned form entry,
    slotCluster_slotOf (fun c => absurd c notC) (OpL.wf_cluster wf), read]
  exact fromForm_ok back

theorem decodeSlot_encC {x : OpC} {cl : Cluster} (h : slotForm i = some (cls, op, .c x)) (wf : x.wf i = true) :
    decodeSlot (Fin.ofNat 8 (slotOf cls cl)) (encC i op x) = .ok i := by
  obtain ⟨assigned, form, back, i0, entry, spec, _⟩ := row_c h
  have read : decC i0 (encC i op x) = .ok x := by
    rw [← decC_encC wf, decC, decC, spec]
  rw [decodeSlot_c (slotCls_slotOf _ _) (fOp_encC _ _ assigned.2) assigned form entry, read]
  exact fromForm_ok back

theorem decodeSlot_encMma {x : OpMma} {cl : Cluster} (h : slotForm i = some (cls, op, .mma x)) (wf : x.wf i = true) :
    decodeSlot (Fin.ofNat 8 (slotOf cls cl)) (encMma op x) = .ok i := by
  obtain ⟨assigned, form, back, i0, entry, _, spec⟩ := row_mma h
  rw [decodeSlot_mma (slotCls_slotOf _ _) (fOp_encMma _ assigned.2) assigned form entry, spec, decMma_encMma wf]
  exact fromForm_ok back

theorem decodeSlot_encCpy {x : OpCpy} {cl : Cluster} (h : slotForm i = some (cls, op, .cpy x)) (wf : x.wf = true) :
    decodeSlot (Fin.ofNat 8 (slotOf cls cl)) (encCpy op x) = .ok i := by
  obtain ⟨assigned, form, back, i0, entry, _⟩ := row_cpy h
  rw [decodeSlot_cpy (slotCls_slotOf _ _) (fOp_encCpy _ assigned.2) assigned form entry, decCpy_encCpy wf]
  exact fromForm_ok back

theorem decodeSlot_encChase {x : OpChase} {cl : Cluster} (h : slotForm i = some (cls, op, .chase x)) (wf : x.wf = true) :
    decodeSlot (Fin.ofNat 8 (slotOf cls cl)) (encChase op x) = .ok i := by
  obtain ⟨assigned, form, back, i0, entry, _⟩ := row_chase h
  rw [decodeSlot_chase (slotCls_slotOf _ _) (fOp_encChase _ assigned.2) assigned form entry, decChase_encChase wf]
  exact fromForm_ok back

theorem decodeSlot_encGath {x : OpGath} {cl : Cluster} (h : slotForm i = some (cls, op, .gath x)) (wf : x.wf = true) :
    decodeSlot (Fin.ofNat 8 (slotOf cls cl)) (encGath op x) = .ok i := by
  obtain ⟨assigned, form, back, i0, entry, _⟩ := row_gath h
  rw [decodeSlot_gath (slotCls_slotOf _ _) (fOp_encGath _ assigned.2) assigned form entry, decGath_encGath wf]
  exact fromForm_ok back

theorem decodeSlot_encSend {x : OpSend} {cl : Cluster} (h : slotForm i = some (cls, op, .send x)) (wf : x.wf i = true) :
    decodeSlot (Fin.ofNat 8 (slotOf cls cl)) (encSend i op x) = .ok i := by
  obtain ⟨assigned, form, back, i0, entry, _, spec⟩ := row_send h
  rw [decodeSlot_send (slotCls_slotOf _ _) (fOp_encSend _ _ assigned.2) assigned form entry, spec, decSend_encSend wf]
  exact fromForm_ok back

/-! ### NOP and the hints (R76, R77) -/

theorem decodeSlot_zero (n : Fin 8) : decodeSlot n 0 = .ok (.nop n) := rfl

theorem not_slotForm_nop : slotForm i ≠ some (cls, op, .nop) := by
  intro h
  cases i <;> cases h

theorem prefetch_of_slotForm {x : OpM} (h : slotForm i = some (cls, op, .prefetch x)) : i = .prefetchHint x ∧ cls = .m ∧ op = 0x7C := by
  cases i <;> cases h
  exact ⟨rfl, rfl, rfl⟩

theorem branch_of_slotForm {x : OpC} (h : slotForm i = some (cls, op, .branch x)) : i = .branchHint x ∧ cls = .c ∧ op = 0x7D := by
  cases i <;> cases h
  exact ⟨rfl, rfl, rfl⟩

/-- A prefetch hint keeps its base and displacement alone. -/
theorem decPrefetch_formWord {x : OpM} (wf : prefetchWf x = true) : decPrefetch x.cl (formWord i 0x7C (.prefetch x)) = x := by
  simp only [prefetchWf, Bool.and_eq_true, beq_iff_eq] at wf
  obtain ⟨fields, base⟩ := wf
  have b : fA (formWord i 0x7C (.prefetch x)) = encOpnd x.b := by
    rw [fA, formWord, body_encCommon _ _ _ _ _ _ _ (by omega), extract_high _ _ _ _ (by omega), extract_high _ _ _ _ (by omega),
      extract_low _ _ _ _ (by omega), extract_all]
  have off : (formWord i 0x7C (.prefetch x)).extractLsb' 0 22 = x.off := by
    rw [formWord, body_encCommon _ _ _ _ _ _ _ (by omega), extract_low _ _ _ _ (by omega), extract_all]
  rw [decPrefetch, b, dec_encOpnd, off]
  cases hb : x.b with
  | sreg n =>
    rw [hb] at fields
    exact fields.symm
  | nil =>
    have zero : x.off = 0 := by simpa [hb] using base
    rw [hb, zero] at fields
    exact fields.symm
  | _ => simp [hb] at base

theorem decodeSlot_prefetch {x : OpM} (wf : prefetchWf x = true) :
    decodeSlot (Fin.ofNat 8 (slotOf .m x.cl)) (formWord i 0x7C (.prefetch x)) = .ok (.prefetchHint x) := by
  have op : (fOp (formWord i 0x7C (.prefetch x))).toNat = 0x7C := by
    rw [formWord, fOp_encCommon]
    rfl
  have cluster : slotCluster (Fin.ofNat 8 (slotOf .m x.cl)).val = x.cl := slotCluster_slotOf nofun nofun
  simp only [decodeSlot, op, slotCls_slotOf, cluster, decPrefetch_formWord wf]
  rfl

theorem decodeSlot_branch {x : OpC} (wf : branchHintWf x = true) :
    decodeSlot 0 (formWord i 0x7D (.branch x)) = .ok (.branchHint x) := by
  have op : (fOp (formWord i 0x7D (.branch x))).toNat = 0x7D := by
    rw [formWord, fOp_encCommon]
    rfl
  have disp : (formWord i 0x7D (.branch x)).extractLsb' 20 30 = x.disp := by
    rw [formWord, body_encCommon _ _ _ _ _ _ _ (by omega), extract_high _ _ _ _ (by omega), extract_all]
  have fields : x = { dflC with disp := x.disp } := eq_of_beq wf
  simp [decodeSlot, op, disp, slotCls, ← fields]

/-! ### Every slot instruction -/

theorem decodeSlot_formWord {f : Form} (h : slotForm i = some (cls, op, f)) (wf : slotWf i = true) :
    decodeSlot (Fin.ofNat 8 (slotOf cls f.cluster)) (formWord i op f) = .ok i := by
  simp only [slotWf, h] at wf
  cases f with
  | nop => exact absurd h not_slotForm_nop
  | prefetch x =>
    obtain ⟨rfl, rfl, rfl⟩ := prefetch_of_slotForm h
    exact decodeSlot_prefetch wf
  | branch x =>
    obtain ⟨rfl, rfl, rfl⟩ := branch_of_slotForm h
    exact decodeSlot_branch wf
  | a x => exact decodeSlot_encA h wf
  | i x => exact decodeSlot_encI h wf
  | m x => exact decodeSlot_encM h wf
  | l x => exact decodeSlot_encL h wf
  | c x => exact decodeSlot_encC h wf
  | mma x => exact decodeSlot_encMma h wf
  | cpy x => exact decodeSlot_encCpy h wf
  | chase x => exact decodeSlot_encChase h wf
  | gath x => exact decodeSlot_encGath h wf
  | send x => exact decodeSlot_encSend h wf

theorem decodeSlot_encode (wf : slotWf i = true) : ∃ n w, encode i = some (n, w) ∧ decodeSlot n w = .ok i := by
  cases h : slotForm i with
  | some row => exact ⟨_, _, encode_of_slotForm h, decodeSlot_formWord h wf⟩
  | none =>
    unfold slotWf at wf
    rw [h] at wf
    dsimp only at wf
    split at wf
    case h_1 n => exact ⟨n, 0, rfl, decodeSlot_zero n⟩
    case h_2 => cases wf

/-! ### Bytes (R3, R61) -/

theorem wordOfBytes_bytesOfWord (w : Word) (rest : List Byte) : Sys2Proof.wordOfBytes (bytesOfWord w ++ rest) = some (w, rest) := by
  have joined : w.extractLsb' 56 8 ++ w.extractLsb' 48 8 ++ w.extractLsb' 40 8 ++ w.extractLsb' 32 8 ++ w.extractLsb' 24 8 ++
      w.extractLsb' 16 8 ++ w.extractLsb' 8 8 ++ w.extractLsb' 0 8 = w := by
    iterate 7 rw [BitVec.extractLsb'_append_extractLsb'_eq_extractLsb' (by rfl)]
    exact extract_all w
  exact congrArg (fun v => some (v, rest)) joined

theorem wordsOfBytes_flatMap (ws : List Word) (rest : List Byte) :
    Sys2Proof.wordsOfBytes ws.length (ws.flatMap bytesOfWord ++ rest) = some (ws, rest) := by
  induction ws with
  | nil => rfl
  | cons w ws ih =>
    rw [List.flatMap_cons, List.append_assoc, List.length_cons, Sys2Proof.wordsOfBytes, wordOfBytes_bytesOfWord]
    simp only [ih]

theorem decodeBundle_bytes {b : RawBundle} (rest : List Byte) (h : b.words.length = spmCount b.header) :
    decodeBundle ((b.header :: b.words).flatMap bytesOfWord ++ rest) = .ok (b, rest) := by
  rw [List.flatMap_cons, List.append_assoc, decodeBundle, wordOfBytes_bytesOfWord]
  simp only [← h, wordsOfBytes_flatMap]

theorem bytesOfNat_add (w m k : Nat) :
    bytesOfNat w (m + k) = (List.range m).map (fun j => BitVec.ofNat 8 (w / 2 ^ (8 * j))) ++ bytesOfNat (w / 2 ^ (8 * m)) k := by
  induction m generalizing w with
  | zero => simp
  | succ m ih =>
    have shift (j : Nat) : w / 256 / 2 ^ (8 * j) = w / 2 ^ (8 * (j + 1)) := by
      rw [Nat.div_div_eq_div_mul, Nat.mul_succ, Nat.add_comm, pow_add]
      rfl
    rw [Nat.add_right_comm, bytesOfNat, ih, List.range_succ_eq_map, shift]
    simp [shift, Function.comp_def]

theorem bytesOfWord_ofNat (w : Nat) : bytesOfWord (BitVec.ofNat 64 w) = (List.range 8).map fun j => BitVec.ofNat 8 (w / 2 ^ (8 * j)) := by
  refine List.map_congr_left fun j hj => BitVec.eq_of_getLsbD_eq fun b hb => ?_
  have inWord : b + 8 * j < 64 := by
    have := List.mem_range.mp hj
    omega
  simp only [BitVec.getLsbD_extractLsb', BitVec.getLsbD_ofNat, hb, inWord, Nat.testBit_div_two_pow, Nat.add_comm, decide_true, Bool.true_and]

/-- The bytes of two words, the first in the low half. -/
theorem bytesOfNat_words (h w : Word) (k : Nat) :
    bytesOfNat (h.toNat + w.toNat * 2 ^ 64) (8 + (8 + k)) = [h, w].flatMap bytesOfWord ++ bytesOfNat 0 k := by
  have low : BitVec.ofNat 64 (h.toNat + w.toNat * 2 ^ 64) = h := BitVec.eq_of_toNat_eq (by
    rw [BitVec.toNat_ofNat, Nat.add_mul_mod_self_right, Nat.mod_eq_of_lt h.isLt])
  have high : (h.toNat + w.toNat * 2 ^ 64) / 2 ^ (8 * 8) = w.toNat := by omega
  have top : w.toNat / 2 ^ (8 * 8) = 0 := Nat.div_eq_of_lt w.isLt
  rw [bytesOfNat_add, ← bytesOfWord_ofNat, low, high, bytesOfNat_add, ← bytesOfWord_ofNat, BitVec.ofNat_toNat, BitVec.setWidth_eq, top]
  simp

/-! ### A bundle of one slot (R61, R62) -/

section
variable (quiet : Bool) (wait : BitVec 5) (n : Fin 8) (w : Word)

theorem encodeBundle_spm {k : Nat} (h : k < 8) : (encodeBundle quiet wait n w).header.getLsbD k = decide (n.val = k) := by
  rw [encodeBundle, getLsbD_low _ _ _ h, BitVec.getLsbD_ofNat, Nat.testBit_two_pow]
  simp [h]

theorem encodeBundle_quiet : (encodeBundle quiet wait n w).quiet = quiet := by
  rw [RawBundle.quiet, encodeBundle, getLsbD_high _ _ _ (by omega), getLsbD_low _ _ _ (by omega)]
  simp

theorem encodeBundle_wait : (encodeBundle quiet wait n w).wait = wait.toNat := by
  rw [RawBundle.wait, encodeBundle, extract_high _ _ _ _ (by omega), extract_high _ _ _ _ (by omega), extract_low _ _ _ _ (by omega), extract_all]

theorem encodeBundle_slotWords : (encodeBundle quiet wait n w).slotWords = [(n, w)] := by
  have slots : spmSlots (encodeBundle quiet wait n w).header = [n] := by
    simp only [spmSlots, encodeBundle_spm, Fin.isLt]
    revert n
    decide
  rw [RawBundle.slotWords, slots]
  rfl

theorem encodeBundle_count : (encodeBundle quiet wait n w).words.length = spmCount (encodeBundle quiet wait n w).header := by
  have one : spmCount (encodeBundle quiet wait n w).header = ((List.range 8).filter fun k => decide (n.val = k)).length := by
    rw [spmCount]
    exact congrArg List.length (List.filter_congr fun k hk => encodeBundle_spm quiet wait n w (List.mem_range.mp hk))
  rw [one]
  fin_cases n <;> rfl

theorem bundleOfNat_of_decode {nbits v : Nat} {b : RawBundle} {rest : List Byte}
    (h : decodeBundle (bytesOfNat (v % 2 ^ nbits) 72) = .ok (b, rest)) : bundleOfNat nbits v = some b := by
  rw [bundleOfNat, h]

theorem decodeTableWord_encodeBundle : decodeTableWord 128 ((encodeBundle quiet wait n w).header.toNat + w.toNat * 2 ^ 64) =
    some (.bundleIssue 0 (encodeBundle quiet wait n w)) := by
  have fits : (encodeBundle quiet wait n w).header.toNat + w.toNat * 2 ^ 64 < 2 ^ 128 := by omega
  have decoded : decodeBundle (bytesOfNat (((encodeBundle quiet wait n w).header.toNat + w.toNat * 2 ^ 64) % 2 ^ 128) 72) =
      .ok (encodeBundle quiet wait n w, bytesOfNat 0 56) := by
    rw [Nat.mod_eq_of_lt fits, show 72 = 8 + (8 + 56) from rfl, bytesOfNat_words]
    exact decodeBundle_bytes _ (encodeBundle_count quiet wait n w)
  rw [decodeTableWord, bundleOfNat_of_decode decoded, Option.map_some]

end

/-- Settles O45: every form reads back its own fields (`decodeSlot_formWord`), a bundle its bytes (`decodeBundle_bytes`). -/
theorem encodeDecode : Obligations.EncodeDecode :=
  ⟨fun _ => decodeSlot_encode, fun _ rest => decodeBundle_bytes rest, fun quiet wait n w =>
    ⟨encodeBundle_slotWords quiet wait n w, encodeBundle_quiet quiet wait n w, encodeBundle_wait quiet wait n w, rfl,
      encodeBundle_count quiet wait n w, decodeTableWord_encodeBundle quiet wait n w⟩⟩

end Sys2Proof.Machine
end

section
/-!
Branches, calls, loops and the next bundle (O15).
-/
open Sys2Proof

namespace Sys2Proof.Machine

variable {s : State} {i : Instr} {x : OpC}

/-! ### A target in the code section, and one outside it (R173) -/

/-- The value check of a transfer to t. -/
def State.targetFault (s : State) (t : Int) : Option IssueFault :=
  if s.targetOk t then none else some (fcBADTARGET, BitVec.ofInt 64 t, 0)

theorem acts_of_target {t : Int} (hg : s.Guarded i) (check : s.slotFault s.issuesQuiet {} i = s.targetFault t) (low : 0 ≤ t)
    (high : t < s.image.words) : s.Acts i := by
  have passes : s.targetFault t = none := by simp [State.targetFault, State.targetOk, low, high]
  exact ⟨hg, check.trans passes⟩

theorem badTarget_of {t : Int} {act : State → State} (e : exec i s = s.slotRun i act) (hg : s.Guarded i)
    (check : s.slotFault s.issuesQuiet {} i = s.targetFault t) (h : t < 0 ∨ s.image.words ≤ t) : exec i s =
      .next (s.fatal s.cur s.core.bundle.2 s.core.bundle.1 (2 ^ instrSlot i) 0x23 (BitVec.ofInt 64 t) 0 0) := by
  have outside : ¬(0 ≤ t ∧ t < s.image.words) := by omega
  have found : s.slotFault s.issuesQuiet {} i = some (fcBADTARGET, BitVec.ofInt 64 t, 0) :=
    check.trans (by simp [State.targetFault, State.targetOk, outside])
  rw [e, State.slotRun, State.slotRunWith]
  refine (if_pos hg).trans ?_
  split
  case h_1 f hf =>
    obtain rfl : f = (fcBADTARGET, BitVec.ofInt 64 t, 0) := Option.some.inj (hf.symm.trans found)
    rfl
  case h_2 none => exact absurd (none.symm.trans found) nofun

/-! ### What a slot-c instruction asks of the order of bundles (R178, R180, R186, R187) -/

theorem redirects_of (e : exec i s = s.slotRun i fun s => s.takeRedirect i) (h : s.Acts i) :
    exec i s = .next (s.setRedirect (s.redirectOf i)) := by
  rw [e, slotRun_acts h, State.takeRedirect]

/-- The link is the address behind the bundle, wherever the bundle redirects to (R178). -/
theorem linkResult_issuedBy (s : State) (r : Redirect) (wbs : Bool) (slot : instrSlot i = 0) :
    let link : Word := BitVec.ofNat 64 (s.core.bundle.1 + s.core.iss.elim 1 fun b => b.len)
    IssuedBy (s.setRedirect r) ((s.setRedirect r).linkResult wbs) i (1, 1) (if wbs then [] else [.sreg 63])
      (if wbs then [] else [.sreg .a 63 link]) (.word link) {} {} := by
  have same : (s.setRedirect r).core.bundle.1 + ((s.setRedirect r).core.iss.elim 1 fun b => b.len) =
      s.core.bundle.1 + s.core.iss.elim 1 fun b => b.len := by
    cases h : s.core.iss <;> simp [State.setRedirect, State.onCore, Core.bundle, h]
  rw [State.linkResult, same, flightOf_issued]
  exact ⟨_, rfl, rfl, slot.symm, rfl, rfl, rfl, rfl, rfl, rfl, rfl, rfl, rfl, rfl, rfl⟩

theorem calls_of {wbs : Bool} (e : exec i s = s.slotRun i fun s => (s.takeRedirect i).linkResult wbs) (h : s.Acts i)
    (slot : instrSlot i = 0) :
    let link : Word := BitVec.ofNat 64 (s.core.bundle.1 + s.core.iss.elim 1 fun b => b.len)
    ∃ t, exec i s = .next t ∧ IssuedBy (s.setRedirect (s.redirectOf i)) t i (1, 1) (if wbs then [] else [.sreg 63])
      (if wbs then [] else [.sreg .a 63 link]) (.word link) {} {} :=
  ⟨_, by rw [e, slotRun_acts h, State.takeRedirect], linkResult_issuedBy s _ wbs slot⟩

theorem redirectOf_loop (s : State) (x : OpC) :
    let at_ := s.core.bundle.1
    let t := (at_ : Int) + x.disp.toInt
    let n := (s.core.src .a x.a).toNat % 2 ^ 32
    s.redirectOf (.loop x) = if n = 0 then .zero (t.toNat + s.bundleLen t.toNat) else
      .start { start := at_ + s.core.iss.elim 1 fun b => b.len, stop := t.toNat, neff := n, pass := 0, stages := x.sub.toNat % 8 + 1,
               base := x.sub.toNat / 8, exit := x.md.toNat, drain := false } := by
  have stages : (x.sub.extractLsb' 0 3).toNat = x.sub.toNat % 8 := by simp
  have base : (x.sub.extractLsb' 3 3).toNat = x.sub.toNat / 8 := by
    rw [BitVec.extractLsb'_toNat, Nat.shiftRight_eq_div_pow]
    omega
  simp only [State.redirectOf, stages, base]
  rfl

theorem redirectOf_lbrk {l : Loop} {rest : List Loop} (h : s.core.loops = l :: rest) (x : OpC) :
    s.redirectOf (.lbrk x) = .brk (l.stop + s.bundleLen l.stop) := by
  simp only [State.redirectOf, h]
  rfl

/-! ### Loops that a branch leaves (R179) -/

/-- The address t lies in the loop, from START to END. -/
def Loop.holds (l : Loop) (t : Nat) : Bool := decide (l.start ≤ t) && decide (t ≤ l.stop)

theorem keepLoops_eq (loops : List Loop) (t : Nat) : keepLoops loops t = loops.rtakeWhile fun l => l.holds t := rfl

/-- The loops kept are those outside the outermost one that does not hold t. -/
theorem keepLoops_eq_drop (loops : List Loop) (t : Nat) : ∃ k, keepLoops loops t = loops.drop k ∧
    (∀ m ∈ loops.drop k, m.start ≤ t ∧ t ≤ m.stop) ∧ ∀ j, j + 1 = k → ∀ m, loops[j]? = some m → ¬(m.start ≤ t ∧ t ≤ m.stop) := by
  rw [keepLoops_eq]
  have ends := List.rdropWhile_last_not (fun l : Loop => l.holds t) loops
  have parts := List.rdropWhile_append_rtakeWhile (p := fun l : Loop => l.holds t) (l := loops)
  have kept (m : Loop) (hm : m ∈ loops.rtakeWhile fun l => l.holds t) : m.holds t = true :=
    List.mem_rtakeWhile_imp (p := fun l : Loop => l.holds t) hm
  generalize loops.rdropWhile (fun l => l.holds t) = left at ends parts
  generalize loops.rtakeWhile (fun l => l.holds t) = rest at parts kept
  subst parts
  refine ⟨left.length, List.drop_left.symm, fun m hm => ?_, fun j hj m hm => ?_⟩
  · rw [List.drop_left] at hm
    simpa [Loop.holds] using kept m hm
  · rw [List.getElem?_append_left (by omega)] at hm
    obtain ⟨inside, rfl⟩ := List.getElem?_eq_some_iff.mp hm
    have last : left.getLast (List.ne_nil_of_length_pos (by omega)) = left[j] := by
      rw [List.getLast_eq_getElem]
      congr 1
      omega
    have out := ends (List.ne_nil_of_length_pos (by omega))
    rw [last] at out
    simpa [Loop.holds] using out

/-! ### The end of a pass (R183, R187, R188) -/

/-- No pass follows this one (R182). -/
def Loop.LastPass (l : Loop) : Prop := (l.pass : Int) ≥ l.neff + l.stages - 2

theorem goesOn_iff (l : Loop) : l.goesOn = true ↔ ¬l.LastPass := by
  rw [Loop.goesOn, Loop.LastPass, decide_eq_true_iff]
  omega

section
variable {l : Loop} {rest : List Loop} {pre : Bool} {f : Nat}

theorem drained_of_fresh (h : l.drain = false) : l.drained = { l with neff := min l.neff (l.pass + 1), drain := true } := by
  simp [Loop.drained, h]

theorem drained_of_draining (h : l.drain = true) : l.drained = l := by simp [Loop.drained, h]

/-- No request counts, or the loop names no exit: the loop goes on, or ends at F. -/
theorem passEnd_stays (h : pre = false ∨ l.exit = 0) : passEnd l rest pre f =
    if l.goesOn then { pc := l.start, redirect := 0, loops := { l with pass := l.pass + 1 } :: rest, px := none }
    else { pc := f, redirect := 0, loops := rest, px := none } := by
  have want : (pre && l.exit != 0) = false := by
    obtain rfl | h := h
    · rfl
    · simp [h]
  simp [passEnd, want]

/-- A request counts and the loop names an exit: the loop drains, then leaves by the exit. -/
theorem passEnd_leaves (h : l.exit ≠ 0) : passEnd l rest true f =
    if l.drained.goesOn then { pc := l.drained.start, redirect := 0, loops := { l.drained with pass := l.drained.pass + 1 } :: rest, px := none }
    else { pc := f + l.drained.exit - 1, redirect := 2, loops := rest, px := some true } := by
  have want : (true && l.exit != 0) = true := by simp [h]
  simp [passEnd, want]

variable {at_ len : Nat}

theorem nextAfter_end (h : l.stop = at_) : nextAfter (l :: rest) at_ len false .seq pre = passEnd l rest pre (at_ + len) := by
  simp [nextAfter, h]

theorem nextAfter_inside {quiet : Bool} (h : l.stop ≠ at_ ∨ quiet = true) :
    nextAfter (l :: rest) at_ len quiet .seq pre = { pc := at_ + len, redirect := 0, loops := l :: rest, px := none } := by
  obtain h | rfl := h
  · simp [nextAfter, h]
  · simp [nextAfter]

theorem nextAfter_drain {quiet : Bool} :
    nextAfter (l :: rest) at_ len quiet .drain pre = nextAfter (l.drained :: rest) at_ len quiet .seq pre := rfl

end

theorem nextAfter_noLoop {at_ len t : Nat} {quiet pre : Bool} {r : Redirect} (h : r ∈ [.seq, .brk t, .drain]) :
    nextAfter [] at_ len quiet r pre = { pc := at_ + len, redirect := 0, loops := [], px := none } := by
  simp only [List.mem_cons, List.not_mem_nil, or_false] at h
  obtain rfl | rfl | rfl := h <;> rfl

/-- What follows the bundle at the END of the innermost loop (R183, R187, R188). -/
theorem nextAfter_passEnd {l : Loop} {rest : List Loop} {at_ len : Nat} {pre : Bool} (end_ : l.stop = at_) :
    let d : Loop := { l with neff := min l.neff (l.pass + 1), drain := true }
    let again (m : Loop) : NextPc := { pc := m.start, redirect := 0, loops := { m with pass := m.pass + 1 } :: rest, px := none }
    let ended : NextPc := { pc := at_ + len, redirect := 0, loops := rest, px := none }
    let leaves : NextPc := { pc := at_ + len + l.exit - 1, redirect := 2, loops := rest, px := some true }
    (pre = false ∨ l.exit = 0 →
      (¬l.LastPass → nextAfter (l :: rest) at_ len false .seq pre = again l) ∧
      (l.LastPass → nextAfter (l :: rest) at_ len false .seq pre = ended) ∧
      (l.drain = false → ¬d.LastPass → nextAfter (l :: rest) at_ len false .drain pre = again d) ∧
      (l.drain = false → d.LastPass → nextAfter (l :: rest) at_ len false .drain pre = ended)) ∧
    (pre = true → l.exit ≠ 0 → l.drain = false →
      (¬d.LastPass → nextAfter (l :: rest) at_ len false .seq pre = again d) ∧
      (d.LastPass → nextAfter (l :: rest) at_ len false .seq pre = leaves)) ∧
    (pre = true → l.exit ≠ 0 → l.drain = true →
      (¬l.LastPass → nextAfter (l :: rest) at_ len false .seq pre = again l) ∧
      (l.LastPass → nextAfter (l :: rest) at_ len false .seq pre = leaves)) := by
  intro d again ended leaves
  have on {m : Loop} (h : ¬m.LastPass) : m.goesOn = true := (goesOn_iff m).mpr h
  have off {m : Loop} (h : m.LastPass) : ¬m.goesOn = true := fun g => (goesOn_iff m).mp g h
  refine ⟨fun stays => ?_, ?_, ?_⟩
  · have seq : nextAfter (l :: rest) at_ len false .seq pre = if l.goesOn then again l else ended :=
      (nextAfter_end end_).trans (passEnd_stays stays)
    have drain (fresh : l.drain = false) : nextAfter (l :: rest) at_ len false .drain pre = if d.goesOn then again d else ended := by
      rw [nextAfter_drain, drained_of_fresh fresh]
      exact (nextAfter_end (l := d) end_).trans (passEnd_stays (l := d) stays)
    exact ⟨fun h => seq.trans (if_pos (on h)), fun h => seq.trans (if_neg (off h)), fun fresh h => (drain fresh).trans (if_pos (on h)),
      fun fresh h => (drain fresh).trans (if_neg (off h))⟩
  · rintro rfl exits fresh
    have seq : nextAfter (l :: rest) at_ len false .seq true = if d.goesOn then again d else leaves := by
      rw [nextAfter_end end_, passEnd_leaves exits, drained_of_fresh fresh]
    exact ⟨fun h => seq.trans (if_pos (on h)), fun h => seq.trans (if_neg (off h))⟩
  · rintro rfl exits draining
    have seq : nextAfter (l :: rest) at_ len false .seq true = if l.goesOn then again l else leaves := by
      rw [nextAfter_end end_, passEnd_leaves exits, drained_of_draining draining]
    exact ⟨fun h => seq.trans (if_pos (on h)), fun h => seq.trans (if_neg (off h))⟩

/-! ### Stage predicates (R182) -/

theorem stagePred_iff (loops : List Loop) (n : Nat) : stagePred loops n = true ↔
    ∃ l ∈ loops, ∃ k, k < l.stages ∧ n = l.base + k ∧ 0 ≤ (l.pass : Int) - k ∧ (l.pass : Int) - k < l.neff := by
  simp only [stagePred, List.any_eq_true, Bool.and_eq_true, decide_eq_true_eq]
  refine exists_congr fun l => and_congr_right fun _ => ⟨fun h => ⟨n - l.base, by omega⟩, ?_⟩
  rintro ⟨k, h⟩
  omega

/-- Settles O15: a slot-c instruction runs its value check, then sets its redirect (`redirects_of`, `calls_of`, `badTarget_of`); what a
branch leaves is `keepLoops_eq_drop`, what ends a pass `nextAfter_passEnd`. -/
theorem transfers : Obligations.Transfers := by
  unfold Obligations.Transfers
  refine ⟨fun x s => ⟨fun hg => ⟨fun low high => ?disp, fun out => ?dispOut, fun inside => ?reg, fun out => ?regOut, fun h => ?loop,
    fun h => ?lbrk, ?ldrain⟩, ?hint, fun n => ?nop⟩, fun loops at_ len quiet pre t l rest => ⟨rfl, ?leave, rfl, rfl, rfl,
    fun _ => nextAfter_noLoop, nextAfter_inside, nextAfter_passEnd⟩, stagePred_iff⟩
  case disp => exact ⟨redirects_of rfl (acts_of_target hg rfl low high), calls_of rfl (acts_of_target hg rfl low high) rfl⟩
  case dispOut => exact ⟨badTarget_of exec_br hg rfl out, badTarget_of exec_call hg rfl out⟩
  case reg =>
    have low := Int.natCast_nonneg (s.core.src .a x.a).toNat
    have high := Int.ofNat_lt.mpr inside
    exact ⟨redirects_of rfl (acts_of_target hg rfl low high), redirects_of rfl (acts_of_target hg rfl low high),
      calls_of rfl (acts_of_target hg rfl low high) rfl⟩
  case regOut =>
    have out := Int.ofNat_le.mpr out
    exact ⟨badTarget_of exec_bri hg rfl (.inr out), badTarget_of exec_ret hg rfl (.inr out), badTarget_of exec_calli hg rfl (.inr out)⟩
  case loop =>
    rw [redirects_of rfl h, redirectOf_loop]
    rfl
  case lbrk =>
    refine ⟨fun _ => ⟨_, redirects_of rfl h⟩, fun l rest loops => ?_⟩
    rw [redirects_of rfl h, redirectOf_lbrk loops]
    rfl
  case ldrain => exact redirects_of rfl ⟨hg, rfl⟩
  case hint =>
    have acts : s.Acts (.branchHint x) := ⟨rfl, rfl⟩
    exact exec_branchHint.trans (slotRun_acts acts _)
  case nop =>
    have acts : s.Acts (.nop n) := ⟨rfl, rfl⟩
    exact exec_nop.trans (slotRun_acts acts _)
  case leave =>
    obtain ⟨k, kept, inside, out⟩ := keepLoops_eq_drop loops t
    exact ⟨k, by rw [← kept]; rfl, inside, out⟩

end Sys2Proof.Machine
end

section
/-!
Words written out from the encodings (O44).
-/
open Sys2Proof

namespace Sys2Proof.Machine

/-- Settles O44: closed words, which the decoder reads by evaluation. -/
theorem goldenWords : Obligations.GoldenWords := by
  unfold Obligations.GoldenWords
  decide +kernel

end Sys2Proof.Machine
end

section
/-!
Appends to a host queue, and its commands (O39).
-/
open Sys2Proof

namespace Sys2Proof.Machine

/-! ### A queue changed -/

theorem tmod_tmod {α : Type} [DecidableEq α] {d : α} {t : Tbl α} (h : twf d t = true) (k : Nat) (f g : α → α) :
    tmod d (tmod d t k f) k g = tmod d t k fun x => g (f x) := by
  refine twf_ext (twf_tmod (twf_tmod h k f) k g) (twf_tmod h k _) fun j => ?_
  simp only [tget_tmod (twf_tmod h k f), tget_tmod h, if_true]
  split <;> rfl

/-- An append or a command leaves queue q as y and the others as they were; beside the queues the state is u's. -/
def QueueStep (s : State) (q : Nat) (i : Instr) (u : State) (y : Queue) : Prop :=
  ∃ t, exec i s = .next t ∧ t = { u with queues := t.queues } ∧ t.queue q = y ∧ ∀ j, j ≠ q → t.queue j = s.queue j

section
variable {s : State} {q : Nat}

/-- The queue takes appended records (R103). -/
def State.takesAppends (s : State) (q : Nat) : Prop :=
  ((s.queue q).state = .enabled ∨ (s.queue q).state = .blocked ∨ (s.queue q).state = .stopped) ∧ (s.ctx (s.queue q).ctx).state = .active

/-- What R101 lets no ENABLE pass. -/
def State.badBind (s : State) (q : Nat) : Prop :=
  let x := s.queue q
  (s.ctx x.ctx).maxpri < x.pri ∨ (x.privq = true ∧ (s.ctx x.ctx).priv = false) ∨ (s.ctx x.ctx).state ≠ .active ∨ x.log2n < 6 ∨ 16 < x.log2n

theorem not_takesAppends_iff : (!((s.queue q).state == .enabled || (s.queue q).state == .blocked || (s.queue q).state == .stopped) ||
    !s.ctxActive (s.queue q).ctx) = true ↔ ¬s.takesAppends q := by
  simp only [State.takesAppends, State.ctxActive, Bool.or_eq_true, Bool.not_eq_true', Bool.or_eq_false_iff, beq_eq_false_iff_ne, ne_eq,
    not_and_or, not_or, and_assoc]

theorem badBind_iff : (decide ((s.queue q).pri > (s.ctx (s.queue q).ctx).maxpri) || ((s.queue q).privq && !(s.ctx (s.queue q).ctx).priv) ||
    (s.ctx (s.queue q).ctx).state != .active || decide ((s.queue q).log2n < 6) || decide ((s.queue q).log2n > 16)) = true ↔ s.badBind q := by
  simp only [State.badBind, Bool.or_eq_true, Bool.and_eq_true, Bool.not_eq_true', decide_eq_true_eq, bne_iff_ne, or_assoc, gt_iff_lt]

/-! ### Appends (R102, R103) -/

section
variable {offset : Nat} {bytes : List Byte}

theorem queueAppend_partial (h : bytes.length ≠ 64 ∨ offset % 64 ≠ 0) : exec (.queueAppend q offset bytes) s =
    .next ((s.modCtx (s.queue q).ctx fun c => { c with qpartial := c.qpartial + 1 }).event 0x04 (some (s.queue q).ctx) q
      (offset % 4096 + bytes.length % 4096 * 2 ^ 16)) := if_pos (by simpa using h)

variable (len : bytes.length = 64) (aligned : offset % 64 = 0)
include len aligned

theorem queueAppend_discards (h : ¬s.takesAppends q) : exec (.queueAppend q offset bytes) s = .next s :=
  (if_neg (by simp [len, aligned])).trans (if_pos (not_takesAppends_iff.2 h))

theorem queueAppend_full (h : s.takesAppends q) (full : 2 ^ (s.queue q).log2n ≤ ((s.queue q).appended - (s.queue q).taken).toNat) :
    exec (.queueAppend q offset bytes) s = .next (s.queueError q 3) :=
  (if_neg (by simp [len, aligned])).trans ((if_neg (not_takesAppends_iff.not.2 (not_not.2 h))).trans (if_pos full))

theorem queueAppend_appends (h : s.takesAppends q) (room : ((s.queue q).appended - (s.queue q).taken).toNat < 2 ^ (s.queue q).log2n) :
    exec (.queueAppend q offset bytes) s =
      .next ((s.write ((s.queue q).rbase + (s.queue q).appended.toNat % 2 ^ (s.queue q).log2n * 64) bytes).modQueue q fun x =>
        { x with appended := x.appended + 1 }) :=
  (if_neg (by simp [len, aligned])).trans ((if_neg (not_takesAppends_iff.not.2 (not_not.2 h))).trans (if_neg (not_le.2 room)))

end

/-! ### Commands (R101, R106) -/

theorem enable_refused (h : (s.queue q).state = .disabled) (bad : s.badBind q) :
    exec (.enable q) s = .next (s.modQueue q fun x => { x with err := 8 }) :=
  (if_pos (by simp [h])).trans (if_pos (badBind_iff.2 bad))

theorem enable_disabled (h : (s.queue q).state = .disabled) (good : ¬s.badBind q) :
    exec (.enable q) s = .next (s.modQueue q fun x => { x with state := .enabled }) :=
  (if_pos (by simp [h])).trans (if_neg (badBind_iff.not.2 good))

theorem stop_enabled (h : (s.queue q).state = .enabled) :
    exec (.stop q) s = .next (s.modQueue q fun x => { x with state := .stopped, stalled := false }) := by
  simp only [exec_stop, execStop, h]

theorem stop_blocked (h : (s.queue q).state = .blocked) :
    exec (.stop q) s = .next ((s.modQueue q fun x => { x with state := .stopped, stalled := false }).rank 5 q 0) := by
  simp only [exec_stop, execStop, h]

theorem drain_runs (h : (s.queue q).state = .enabled ∨ (s.queue q).state = .blocked ∨ (s.queue q).state = .stopped) :
    exec (.drain q) s = .next ((s.modQueue q fun x => { x with state := .draining, stalled := false }).drainCheck q) := by
  obtain h | h | h := h <;> simp only [exec_drain, execDrain, h]

theorem reset_runs (h : (s.queue q).state ≠ .disabled) : exec (.reset q) s = .next (s.modQueue q fun x =>
    { x with state := .disabled, appended := 0, taken := 0, err := 0, waitf := none, stalled := false }) :=
  congrArg _ (if_neg (by simp [h]))

theorem settleWaitf_none (h : (s.queue q).waitf = none) : s.settleWaitf q = s := by
  simp only [State.settleWaitf, h]

theorem drainCheck_stays (h : s.launchesOf q ≠ [] ∨ (s.ctx (s.queue q).ctx).state ≠ .active) : s.drainCheck q = s := by
  refine if_neg ?_
  simp only [State.ctxActive, Bool.and_eq_true, List.isEmpty_iff, beq_iff_eq]
  tauto

theorem drainCheck_stops (h : (s.queue q).state = .draining) (done : s.launchesOf q = []) (active : (s.ctx (s.queue q).ctx).state = .active) :
    s.drainCheck q = (s.modQueue q fun x => { x with state := .stopped }).event 0x05 (some (s.queue q).ctx) q 0 :=
  if_pos (by simp [State.ctxActive, h, done, active])

section
variable (hw : twf {} s.queues = true)
include hw

theorem modQueue_modQueue (f g : Queue → Queue) : (s.modQueue q f).modQueue q g = s.modQueue q fun x => g (f x) := by
  simp only [State.modQueue, tmod_tmod hw]

theorem queue_modQueue_same (f : Queue → Queue) : (s.modQueue q f).queue q = f (s.queue q) := (queue_modQueue hw q f q).trans (if_pos rfl)

theorem queueStep_modQueue {i : Instr} {u : State} (hu : u.queues = s.queues) (f : Queue → Queue) (run : exec i s = .next (u.modQueue q f)) :
    QueueStep s q i u (f (s.queue q)) := by
  have same (j : Nat) : u.queue j = s.queue j := by rw [State.queue, hu, State.queue]
  have hwu : twf {} u.queues = true := hu ▸ hw
  exact ⟨_, run, rfl, (queue_modQueue_same hwu f).trans (congrArg f (same q)),
    fun j hj => ((queue_modQueue hwu q f j).trans (if_neg hj)).trans (same j)⟩

theorem enable_stopped (h : (s.queue q).state = .stopped) (none : (s.queue q).waitf = none) :
    exec (.enable q) s = .next (s.modQueue q fun x => { x with state := .enabled }) := by
  have settled : (s.modQueue q fun x => { x with state := .enabled }).settleWaitf q = s.modQueue q fun x => { x with state := .enabled } :=
    settleWaitf_none (by rw [queue_modQueue_same hw]; exact none)
  exact (if_neg (by simp [h])).trans ((if_pos (by simp [h])).trans (congrArg _ settled))

theorem drain_waits (h : (s.queue q).state = .enabled ∨ (s.queue q).state = .blocked ∨ (s.queue q).state = .stopped)
    (waits : s.launchesOf q ≠ [] ∨ (s.ctx (s.queue q).ctx).state ≠ .active) :
    exec (.drain q) s = .next (s.modQueue q fun x => { x with state := .draining, stalled := false }) := by
  rw [drain_runs h, drainCheck_stays]
  rw [queue_modQueue_same hw]
  exact waits

theorem drain_ends (h : (s.queue q).state = .enabled ∨ (s.queue q).state = .blocked ∨ (s.queue q).state = .stopped)
    (done : s.launchesOf q = []) (active : (s.ctx (s.queue q).ctx).state = .active) : exec (.drain q) s =
      .next ((s.modQueue q fun x => { x with state := .stopped, stalled := false }).event 0x05 (some (s.queue q).ctx) q 0) := by
  have draining := queue_modQueue_same (q := q) hw fun x => { x with state := .draining, stalled := false }
  have ends := drainCheck_stops (congrArg Queue.state draining) done (draining ▸ active)
  rw [drain_runs h, ends, draining, modQueue_modQueue hw]

end

end

/-- Settles O39: each append and command sets its queue's block and no other. That DRAIN keeps the WAITF of a BLOCKED queue is the model's
choice (notes/assumptions/94.md). -/
theorem hostQueueCommands : Obligations.HostQueueCommands := by
  unfold Obligations.HostQueueCommands
  intro q offset bytes s hw x becomes takes waiting
  have step {u : State} {i : Instr} (f : Queue → Queue) (run : exec i s = .next (u.modQueue q f)) (hu : u.queues = s.queues) :
      becomes i u (f x) := queueStep_modQueue hw hu f run
  refine ⟨fun len aligned => ⟨queueAppend_discards len aligned, fun h full => step _ (queueAppend_full len aligned h full) rfl,
      fun h room => step _ (queueAppend_appends len aligned h room) rfl⟩,
    fun h => ⟨_, queueAppend_partial h, rfl, fun hc => ctx_modCtx_same hc _⟩,
    fun h => ⟨fun bad => step _ (enable_refused h bad) rfl, fun good => step _ (enable_disabled h good) rfl⟩,
    fun h none => step _ (enable_stopped hw h none) rfl, fun h => step _ (stop_enabled h) rfl, fun h => ?blocked,
    fun h => ⟨fun waits => step _ (drain_waits hw h waits) rfl, fun done active => ?drained⟩, fun h => step _ (reset_runs h) rfl⟩
  case blocked =>
    have becomes := queue_modQueue hw q fun x => { x with state := .stopped, stalled := false }
    exact ⟨_, stop_blocked h, rfl, (becomes q).trans (if_pos rfl), fun j hj => (becomes j).trans (if_neg hj)⟩
  case drained =>
    exact ⟨_, drain_ends hw h done active, rfl, queue_modQueue_same hw _⟩

end Sys2Proof.Machine
end

section
/-!
The records that the queue engine takes, launches apart (O40).
-/
open Sys2Proof

namespace Sys2Proof.Machine

/-! ### A record taken (R104) -/

/-- The record at the head of queue q is taken and leaves the queue as y; beside the queues and the turn of the queue's PRI the state is u's. -/
def Taken (s : State) (q : Nat) (u t : State) (y : Queue) : Prop :=
  t = { u with queues := t.queues, hub := { u.hub with robin := t.hub.robin } } ∧
    t.queue q = { y with taken := (s.queue q).taken + 1, stalled := false } ∧ (∀ j, j ≠ q → t.queue j = s.queue j) ∧
    (twf 0 s.hub.robin = true → tget 0 t.hub.robin (s.queue q).pri = q + 1)
/-- The engine's step on queue q takes its record so. -/
def TakesRecord (s : State) (q : Nat) (i : Instr) (u : State) (y : Queue) : Prop := ∃ t, exec i s = .next t ∧ Taken s q u t y

/-- A queue after one more record. -/
def Queue.counted (x : Queue) : Queue := { x with taken := x.taken + 1, stalled := false }
/-- A queue in ERROR (R106). -/
def Queue.failed (x : Queue) (n : Nat) : Queue := { x with state := .error, err := n, waitf := none, stalled := false }
/-- Queue q changed by f, and the next turn of its PRI given away (R104). -/
def State.turned (s : State) (q pri : Nat) (f : Queue → Queue) : State :=
  (s.modQueue q f).modHub fun h => { h with robin := tput 0 h.robin pri (q + 1) }

section
variable {s u : State} {q : Nat}

theorem countTaken_eq : s.countTaken q = s.turned q (s.queue q).pri Queue.counted := rfl

section
variable (hw : twf {} s.queues = true)
include hw

theorem countTaken_modQueue (f : Queue → Queue) (hf : (f (s.queue q)).pri = (s.queue q).pri) :
    (s.modQueue q f).countTaken q = s.turned q (s.queue q).pri fun x => (f x).counted := by
  rw [countTaken_eq, queue_modQueue_same hw, hf, State.turned, modQueue_modQueue hw, State.turned]

theorem countTaken_queueError (n : Nat) :
    (s.countTaken q).queueError q n = s.turned q (s.queue q).pri fun x => x.counted.failed n := by
  have twice := modQueue_modQueue (q := q) hw Queue.counted fun x => x.failed n
  rw [State.turned, ← twice]
  rfl

theorem taken_turned (hu : u.queues = s.queues) (hr : u.hub.robin = s.hub.robin) {f : Queue → Queue} {y : Queue}
    (hf : f (s.queue q) = { y with taken := (s.queue q).taken + 1, stalled := false }) :
    Taken s q u (u.turned q (s.queue q).pri f) y := by
  have same (j : Nat) : u.queue j = s.queue j := by rw [State.queue, hu, State.queue]
  have hwu : twf {} u.queues = true := hu ▸ hw
  refine ⟨rfl, ?_, fun j hj => ?_, fun h => ?_⟩
  · exact ((queue_modQueue_same hwu f).trans (congrArg f (same q))).trans hf
  · exact ((queue_modQueue hwu q f j).trans (if_neg hj)).trans (same j)
  · have hwr : twf 0 u.hub.robin = true := hr ▸ h
    exact (tget_tput hwr (s.queue q).pri (q + 1) (s.queue q).pri).trans (if_pos rfl)

end

/-! ### What a record comes to (R105, R106) -/

section
variable {p : List Nat → Bool} {act : List Nat → State → Took} (can : s.canTake q = true) (kind : p (s.record q) = true)
include can kind

theorem takeRecord_refuses {n : Nat} (err : s.recordError q (s.record q) = n) (hn : n ≠ 0) :
    s.takeRecord q p act = .next ((s.countTaken q).queueError q n) := by
  have runs : (!s.canTake q || !p (s.record q)) = false := by simp [can, kind]
  unfold State.takeRecord
  simp only [runs, Bool.false_eq_true, if_false, err]

theorem takeRecord_acts {t : State} (ok : s.recordError q (s.record q) = 0) (done : act (s.record q) s = .done t) :
    s.takeRecord q p act = .next (t.countTaken q) := by
  have runs : (!s.canTake q || !p (s.record q)) = false := by simp [can, kind]
  unfold State.takeRecord
  simp only [runs, Bool.false_eq_true, if_false, ok, done]

end

theorem recKind_eq (w : List Nat) : recKind w = w.getD 0 0 % 16 := by simp [recKind, bitsOf]

section
variable {w : List Nat}

theorem recordError_reserved (h : 8 ≤ recKind w) : s.recordError q w = 1 := if_pos h

theorem recordError_unprivileged (h : recKind w = 7) (priv : (s.queue q).privq = false) : s.recordError q w = 2 := by
  simp [State.recordError, h, priv]

theorem recordError_stale (h : recKind w = 3 ∨ recKind w = 4) (stale : ¬s.FutLive (recHandle w) (s.queue q).ctx) : s.recordError q w = 4 := by
  have isStale := (futStale_iff s _ _).2 stale
  obtain h | h := h <;> simp [State.recordError, h, isStale]

theorem recordError_resolved (h : recKind w = 3) (full : (s.fut (recHandle w % 2 ^ 20)).state ≠ .empty) : s.recordError q w = 4 := by
  have isFull : (s.fut (futIndex (recHandle w))).state ≠ .empty := full
  simp [State.recordError, h, isFull]

/-! With its privilege and its handle in order a record is judged by its reserved bits (R106, notes/assumptions/42.md). -/

theorem recordError_plain (h : recKind w = 0 ∨ recKind w = 5) : s.recordError q w = if recordOk w then 0 else 6 := by
  obtain h | h := h <;> simp [State.recordError, h]

theorem recordError_signal (h : recKind w = 3) (live : s.FutLive (recHandle w) (s.queue q).ctx)
    (empty : (s.fut (recHandle w % 2 ^ 20)).state = .empty) : s.recordError q w = if recordOk w then 0 else 6 := by
  have isEmpty : (s.fut (futIndex (recHandle w))).state = .empty := empty
  simp [State.recordError, h, futStale_false live, isEmpty]

theorem recordError_waitf (h : recKind w = 4) (live : s.FutLive (recHandle w) (s.queue q).ctx) :
    s.recordError q w = if recordOk w then 0 else 6 := by
  simp [State.recordError, h, futStale_false live]

theorem recordError_mcgroup (h : recKind w = 7) (priv : (s.queue q).privq = true) : s.recordError q w = if recordOk w then 0 else 6 := by
  simp [State.recordError, h, priv]

/-! ### Reserved bits (R105) -/

/-- Words a to 7 of a record are zero. -/
def ZeroFrom (w : List Nat) (a : Nat) : Prop := ∀ j, a ≤ j → j < 8 → w.getD j 0 = 0

theorem recordOk_nop (h : recKind w = 0) (h0 : w.getD 0 0 < 32) (z : ZeroFrom w 1) : recordOk w = true := by
  simp [recordOk, h, Nat.div_eq_of_lt h0, z 1, z 2, z 3, z 4, z 5, z 6, z 7, -List.getD_eq_getElem?_getD, -Nat.reducePow]

theorem recordOk_nop_high (h : recKind w = 0) (h0 : 32 ≤ w.getD 0 0) : recordOk w = false := by
  have high : w.getD 0 0 / 32 ≠ 0 := by omega
  simp [recordOk, h, high, -List.getD_eq_getElem?_getD, -Nat.div_eq_zero_iff]

theorem recordOk_signal (h : recKind w = 3) (h0 : w.getD 0 0 / 2 ^ 5 % 2 ^ 27 = 0) (h2 : w.getD 2 0 / 2 % 2 ^ 7 = 0) (hi : w.getD 2 0 < 2 ^ 24)
    (z : ZeroFrom w 3) : recordOk w = true := by
  simp [recordOk, h, bitsOf, h0, h2, Nat.div_eq_of_lt hi, z 3, z 4, z 5, z 6, z 7, -List.getD_eq_getElem?_getD, -Nat.reducePow]

theorem recordOk_waitf (h : recKind w = 4) (h0 : w.getD 0 0 / 2 ^ 5 % 2 ^ 27 = 0) (h1 : w.getD 1 0 < 2) (z : ZeroFrom w 2) : recordOk w = true := by
  simp [recordOk, h, bitsOf, h0, Nat.div_eq_of_lt h1, z 2, z 3, z 4, z 5, z 6, z 7, -List.getD_eq_getElem?_getD, -Nat.reducePow]

theorem recordOk_migsched (h : recKind w = 5) (h0 : w.getD 0 0 < 32) (h1 : w.getD 1 0 % 2 ^ 6 = 0) (hi : w.getD 1 0 < 2 ^ 57)
    (h2 : 1 ≤ w.getD 2 0) (h2' : w.getD 2 0 < 2 ^ 16) (z : ZeroFrom w 3) : recordOk w = true := by
  simp [recordOk, h, Nat.div_eq_of_lt h0, h1, hi, h2, h2', z 3, z 4, z 5, z 6, z 7, -List.getD_eq_getElem?_getD, -Nat.reducePow]

theorem recordOk_mcgroup (h : recKind w = 7) (h0 : w.getD 0 0 / 2 ^ 5 % 2 ^ 27 = 0) (h0' : w.getD 0 0 / 2 ^ 40 % 2 ^ 24 = 0)
    (h1 : w.getD 1 0 % 2 ^ 7 = 0) (hi : w.getD 1 0 < 2 ^ 57) (z : ZeroFrom w 2) : recordOk w = true := by
  simp [recordOk, h, bitsOf, h0, h0', h1, hi, z 2, z 3, z 4, z 5, z 6, z 7, -List.getD_eq_getElem?_getD, -Nat.reducePow]

end

/-! ### A WAITF meets its future (R106) -/

theorem servable_of_canTake (can : s.canTake q = true) : (s.queue q).state = .enabled ∧ (s.ctx (s.queue q).ctx).state = .active := by
  simp only [State.canTake, State.servable, State.ctxActive, Bool.and_eq_true, beq_iff_eq] at can
  exact ⟨can.1.1.1.1.1, can.1.1.1.2⟩

section
variable {h : Nat} {onfail : Bool} (enabled : (s.queue q).state = .enabled) (active : (s.ctx (s.queue q).ctx).state = .active)
  (waits : (s.queue q).waitf = some (h, onfail)) (live : s.FutLive h (s.queue q).ctx)
include enabled active waits live

theorem settleWaitf_blocks (empty : (s.fut (h % 2 ^ 20)).state = .empty) :
    s.settleWaitf q = s.modQueue q fun x => { x with state := .blocked } := by
  simp [State.settleWaitf, State.ctxActive, enabled, active, waits, futStale_false live, futIndex, empty, -Nat.reducePow]

theorem settleWaitf_passes (met : (s.fut (h % 2 ^ 20)).state = .set ∨ ((s.fut (h % 2 ^ 20)).state = .failed ∧ onfail = true)) :
    s.settleWaitf q = s.modQueue q fun x => { x with state := .enabled, waitf := none } := by
  obtain met | ⟨met, go⟩ := met
  · simp [State.settleWaitf, State.ctxActive, enabled, active, waits, futStale_false live, futIndex, met, -Nat.reducePow]
  · simp [State.settleWaitf, State.ctxActive, enabled, active, waits, futStale_false live, futIndex, met, go, -Nat.reducePow]

theorem settleWaitf_fails (failed : (s.fut (h % 2 ^ 20)).state = .failed) (stop : onfail = false) :
    s.settleWaitf q = s.queueError q 5 := by
  simp [State.settleWaitf, State.ctxActive, enabled, active, waits, futStale_false live, futIndex, failed, stop, -Nat.reducePow]

end

/-! ### The masks of a multicast entry (R416) -/

/-- 32 masks written from entry e's place on. -/
def putMasks (t : Tbl (BitVec 32)) (e : Nat) (bs : List Byte) : Tbl (BitVec 32) :=
  (List.range 32).foldl (fun t p => tput 0 t (32 * e + p) (BitVec.ofNat 32 (natOfBytes ((bs.drop (4 * p)).take 4)))) t

theorem tget_foldl_tput_range {α : Type} [DecidableEq α] {d : α} (f : Nat → α) (lo n : Nat) {t : Tbl α} (h : twf d t = true) :
    twf d ((List.range n).foldl (fun t k => tput d t (lo + k) (f k)) t) = true ∧
      ∀ j, tget d ((List.range n).foldl (fun t k => tput d t (lo + k) (f k)) t) j = if lo ≤ j ∧ j < lo + n then f (j - lo) else tget d t j := by
  induction n with
  | zero => exact ⟨h, fun j => (if_neg (by omega)).symm⟩
  | succ n ih =>
    obtain ⟨wf, get⟩ := ih
    rw [List.range_succ, List.foldl_append]
    refine ⟨twf_tput wf _ _, fun j => (tget_tput wf _ _ j).trans ?_⟩
    rw [get j]
    by_cases last : j = lo + n
    · rw [if_pos last, if_pos (by omega), last, Nat.add_sub_cancel_left]
    · rw [if_neg last]
      exact if_congr (by omega) rfl rfl

theorem tget_putMasks {t : Tbl (BitVec 32)} (h : twf 0 t = true) (e : Nat) (bs : List Byte) (j : Nat) : tget 0 (putMasks t e bs) j =
    if j / 32 = e then BitVec.ofNat 32 (natOfBytes ((bs.drop (4 * (j % 32))).take 4)) else tget 0 t j := by
  refine ((tget_foldl_tput_range _ (32 * e) 32 h).2 j).trans ?_
  by_cases mine : j / 32 = e
  · rw [if_pos mine, if_pos (by omega), show j - 32 * e = j % 32 by omega]
  · rw [if_neg mine, if_neg (by omega)]

theorem hubReach_ok {va n : Nat} {wr : Bool} {xl : List Xlat} (stalled : (s.queue q).stalled = false)
    (reach : s.agentXlat (s.queue q).ctx wr (va / 2 ^ 16 % 8) 3 va n = (.ok xl, u)) : s.hubReach q va n wr = (.ok xl, u) := by
  have reach' : s.agentXlat (s.queue q).ctx wr (agentTower va) 3 va n = (.ok xl, u) := reach
  simp only [State.hubReach, stalled, Bool.false_and, Bool.false_eq_true, if_false, reach']

/-! ### Each kind of record (R104 to R106) -/

section
variable (can : s.canTake q = true) (hw : twf {} s.queues = true)
include can hw

theorem takesRecord_error {p : List Nat → Bool} {act : List Nat → State → Took} {i : Instr} {n : Nat} (run : exec i s = s.takeRecord q p act)
    (kind : p (s.record q) = true) (err : s.recordError q (s.record q) = n) (hn : n ≠ 0) :
    TakesRecord s q i s { s.queue q with state := .error, err := n, waitf := none } := by
  refine ⟨_, run.trans (takeRecord_refuses can kind err hn), ?_⟩
  rw [countTaken_queueError hw]
  exact taken_turned hw rfl rfl rfl

theorem takesRecord_acts {p : List Nat → Bool} {act : List Nat → State → Took} {i : Instr} {f : Queue → Queue}
    (run : exec i s = s.takeRecord q p act) (kind : p (s.record q) = true) (ok : s.recordError q (s.record q) = 0)
    (done : act (s.record q) s = .done (s.modQueue q f)) (hf : (f (s.queue q)).pri = (s.queue q).pri)
    (ht : (f (s.queue q)).taken = (s.queue q).taken) :
    TakesRecord s q i s (f (s.queue q)) := by
  refine ⟨_, run.trans (takeRecord_acts can kind ok done), ?_⟩
  rw [countTaken_modQueue hw f hf]
  exact taken_turned hw rfl rfl (by rw [← ht]; rfl)

theorem takesRecord_elsewhere {p : List Nat → Bool} {act : List Nat → State → Took} {i : Instr} (run : exec i s = s.takeRecord q p act)
    (kind : p (s.record q) = true) (ok : s.recordError q (s.record q) = 0) (done : act (s.record q) s = .done u)
    (hu : u.queues = s.queues) (hr : u.hub.robin = s.hub.robin) : TakesRecord s q i u (s.queue q) := by
  refine ⟨_, run.trans (takeRecord_acts can kind ok done), ?_⟩
  have same : u.queue q = s.queue q := by rw [State.queue, hu, State.queue]
  rw [countTaken_eq, same]
  exact taken_turned hw hu hr rfl

/-- The handle of a WAITF live, the record's form in order (R105, R106). -/
def MayWait (s : State) (q : Nat) : Prop :=
  recKind (s.record q) = 4 ∧ s.FutLive (recHandle (s.record q)) (s.queue q).ctx ∧ (s.record q).getD 0 0 / 2 ^ 5 % 2 ^ 27 = 0 ∧
    (s.record q).getD 1 0 < 2 ∧ ZeroFrom (s.record q) 2
/-- A queue that a WAITF of handle h makes wait. -/
def Queue.awaits (x : Queue) (h : Nat) (onfail : Bool) : Queue := { x with waitf := some (h, onfail) }

theorem takesRecord_waitf (may : MayWait s q) {onfail : Bool} (flag : ((s.record q).getD 1 0 % 2 == 1) = onfail) {g : Queue → Queue}
    (met : (s.modQueue q fun x => x.awaits (recHandle (s.record q)) onfail).settleWaitf q =
      (s.modQueue q fun x => x.awaits (recHandle (s.record q)) onfail).modQueue q g)
    (hp : ∀ x, (g x).pri = x.pri) (ht : ∀ x, (g x).taken = x.taken) :
    TakesRecord s q (.waitf q) s (g ((s.queue q).awaits (recHandle (s.record q)) onfail)) := by
  subst flag
  obtain ⟨kind, live, h0, h1, z⟩ := may
  refine takesRecord_acts (f := fun x => g (x.awaits _ _)) can hw exec_waitf (by simp [kind]) ?_ ?_ (hp _) (ht _)
  · rw [recordError_waitf kind live, recordOk_waitf kind h0 h1 z, if_pos rfl]
  · exact congrArg _ (met.trans (modQueue_modQueue hw _ _))

section
variable {h : Nat} {onfail : Bool} (live : s.FutLive h (s.queue q).ctx)
include live

/-- What a WAITF meets, in the queue that it made wait (R106). -/
theorem settleWaitf_awaits :
    let v := s.modQueue q fun x => x.awaits h onfail
    ((s.fut (h % 2 ^ 20)).state = .empty → v.settleWaitf q = v.modQueue q fun x => { x with state := .blocked }) ∧
    ((s.fut (h % 2 ^ 20)).state = .set ∨ ((s.fut (h % 2 ^ 20)).state = .failed ∧ onfail = true) →
      v.settleWaitf q = v.modQueue q fun x => { x with state := .enabled, waitf := none }) ∧
    ((s.fut (h % 2 ^ 20)).state = .failed → onfail = false → v.settleWaitf q = v.queueError q 5) := by
  intro v
  obtain ⟨enabled, active⟩ := servable_of_canTake can
  have block : v.queue q = (s.queue q).awaits h onfail := queue_modQueue_same hw _
  have enabled' : (v.queue q).state = .enabled := block ▸ enabled
  have ctx' : (v.queue q).ctx = (s.queue q).ctx := block ▸ rfl
  have active' : (v.ctx (v.queue q).ctx).state = .active := ctx'.symm ▸ active
  have waits' : (v.queue q).waitf = some (h, onfail) := block ▸ rfl
  have live' : v.FutLive h (v.queue q).ctx := ctx'.symm ▸ live
  exact ⟨settleWaitf_blocks enabled' active' waits' live', settleWaitf_passes enabled' active' waits' live',
    settleWaitf_fails enabled' active' waits' live'⟩

end

/-- What SIGNAL resolves its future to (R105). -/
def signalFate (w : List Nat) : Fate := if w.getD 2 0 % 2 = 0 then .set (BitVec.ofNat 64 (w.getD 1 0)) else .failed (bitsOf (w.getD 2 0) 8 16)

omit can hw in
theorem fut_signalled (hf : twf {} s.futs = true) (k : Nat) (w : List Nat) : (s.endFuture k (signalFate w) 3).fut k =
    if w.getD 2 0 % 2 = 0 then { s.fut k with state := .set, value := BitVec.ofNat 64 (w.getD 1 0), rscope := 3 }
    else { s.fut k with state := .failed, status := BitVec.ofNat 16 (w.getD 2 0 / 2 ^ 8), rscope := 3 } := by
  refine ((endFuture_spec s k (signalFate w) 3).2.1 hf).2.trans ?_
  have low : BitVec.ofNat 16 (bitsOf (w.getD 2 0) 8 16) = BitVec.ofNat 16 (w.getD 2 0 / 2 ^ 8) := BitVec.eq_of_toNat_eq (by simp [bitsOf])
  unfold signalFate
  by_cases parity : w.getD 2 0 % 2 = 0
  · rw [if_pos parity, if_pos parity]
  · rw [if_neg parity, if_neg parity, ← low]

theorem takesRecord_signal (kind : recKind (s.record q) = 3) (live : s.FutLive (recHandle (s.record q)) (s.queue q).ctx)
    (empty : (s.fut (recHandle (s.record q) % 2 ^ 20)).state = .empty) (ok : recordOk (s.record q) = true) :
    TakesRecord s q (.signal q) (s.endFuture (recHandle (s.record q) % 2 ^ 20) (signalFate (s.record q)) 3) (s.queue q) := by
  have kept := (endFuture_spec s (recHandle (s.record q) % 2 ^ 20) (signalFate (s.record q)) 3).1
  refine takesRecord_elsewhere can hw exec_signal (by simp [kind]) ?_ rfl (by rw [kept]) (by rw [kept])
  rw [recordError_signal kind live empty, ok, if_pos rfl]

theorem takesRecord_mcgroup {xl : List Xlat} (kind : recKind (s.record q) = 7) (priv : (s.queue q).privq = true)
    (ok : recordOk (s.record q) = true) (reach : s.hubReach q ((s.record q).getD 1 0) 128 false = (.ok xl, u))
    (good : u.badSectors xl ((s.record q).getD 1 0) 128 = []) (hu : u.queues = s.queues) (hr : u.hub.robin = s.hub.robin) :
    TakesRecord s q (.mcgroup q) (u.modCtx (s.queue q).ctx fun x =>
      { x with mcast := putMasks x.mcast (bitsOf ((s.record q).getD 0 0) 32 8) (u.readVia xl ((s.record q).getD 1 0) 128) }) (s.queue q) := by
  refine takesRecord_elsewhere can hw exec_mcgroup (by simp [kind]) ?_ ?_ hu hr
  · rw [recordError_mcgroup kind priv, ok, if_pos rfl]
  · simp only [reach, good]
    rfl

end

end

theorem recHandle_low (w : List Nat) : bitsOf (w.getD 0 0) 32 8 = recHandle w % 2 ^ 8 := by
  simp only [recHandle, bitsOf]
  omega

/-- Settles O40: a record that the engine takes raises TAKEN and acts, or puts its queue in ERROR. That the privilege, the handle and the
kind are judged before the reserved bits is the model's choice (notes/assumptions/42.md). -/
theorem queueRecords : Obligations.QueueRecords := by
  unfold Obligations.QueueRecords
  intro q s can hw x w kind f k zeros took does errs
  have kind_eq : recKind (s.record q) = kind := recKind_eq _
  refine ⟨fun h h0 z => ?nop, fun h h0 => ?nopError, fun h => ?reserved, fun h => ?signal, fun h => ?waitf, fun h h0 h1 hi h2 h2' z => ?migsched,
    fun h => ?mcgroup⟩
  case nop =>
    have is := kind_eq.trans h
    refine takesRecord_elsewhere can hw exec_nopRecord (by simp [is]) ?_ rfl rfl rfl
    rw [recordError_plain (.inl is), recordOk_nop is h0 z, if_pos rfl]
  case nopError =>
    have is := kind_eq.trans h
    refine takesRecord_error can hw exec_nopRecord (by simp [is]) ?_ (by decide)
    rw [recordError_plain (.inl is), recordOk_nop_high is h0, if_neg Bool.false_ne_true]
  case reserved =>
    have is : 8 ≤ recKind (s.record q) := kind_eq ▸ h
    exact takesRecord_error can hw exec_reservedRecord (by simp [is]) (recordError_reserved is) (by decide)
  case signal =>
    have is := kind_eq.trans h
    refine ⟨fun bad => takesRecord_error can hw exec_signal (by simp [is]) ?_ (by decide), fun live empty h0 h2 hi z => ?_⟩
    · obtain stale | full := bad
      · exact recordError_stale (.inl is) stale
      · exact recordError_resolved is full
    · obtain ⟨kept, futs, wakes⟩ := endFuture_spec s k (signalFate (s.record q)) 3
      exact ⟨_, takesRecord_signal can hw is live empty (recordOk_signal is h0 h2 hi z), kept,
        fun hf => ⟨fut_signalled hf k _, (futs hf).1⟩, wakes⟩
  case waitf =>
    have is := kind_eq.trans h
    refine ⟨fun stale => takesRecord_error can hw exec_waitf (by simp [is]) (recordError_stale (.inr is) stale) (by decide),
      fun live h0 h1 z => ?_⟩
    have may : MayWait s q := ⟨is, live, h0, h1, z⟩
    have flag : (w 1 % 2 == 1) = decide (w 1 = 1) := by rw [Nat.mod_eq_of_lt h1]; rfl
    obtain ⟨blocks, passes, fails⟩ := settleWaitf_awaits (onfail := decide (w 1 = 1)) can hw live
    have meets {g : Queue → Queue} := takesRecord_waitf (g := g) can hw may flag
    exact ⟨fun empty => meets (blocks empty) (fun _ => rfl) fun _ => rfl, fun set => meets (passes (.inl set)) (fun _ => rfl) fun _ => rfl,
      fun failed go => meets (passes (.inr ⟨failed, by simp [go]⟩)) (fun _ => rfl) fun _ => rfl,
      fun failed stop => meets (g := fun x => x.failed 5) (fails failed (by simp [stop])) (fun _ => rfl) fun _ => rfl⟩
  case migsched =>
    have is := kind_eq.trans h
    refine takesRecord_elsewhere can hw exec_migsched (by simp [is]) ?_ rfl rfl rfl
    rw [recordError_plain (.inr is), recordOk_migsched is h0 h1 hi h2 h2' z, if_pos rfl]
  case mcgroup =>
    have is := kind_eq.trans h
    refine ⟨fun priv => takesRecord_error can hw exec_mcgroup (by simp [is]) (recordError_unprivileged is priv) (by decide),
      fun u xl priv h0 h0' h1 hi z stalled reach good hu hr hc hm => ?_⟩
    refine ⟨_, takesRecord_mcgroup can hw is priv (recordOk_mcgroup is h0 h0' h1 hi z) (hubReach_ok stalled reach) good hu hr, rfl, fun j => ?_⟩
    rw [ctx_modCtx_same hc, recHandle_low]
    exact tget_putMasks hm _ _ j

end Sys2Proof.Machine
end

section
/-!
What hub, controllers and slices answer (O59).
-/
open Sys2Proof

namespace Sys2Proof.Machine

section
variable {s u : State} {lin : Nat} {e : MqEntry}

/-! ### An entry leaves its queues (R42, R318) -/

theorem dequeue_of_stays (hc : twf Core.reset s.cores = true) (stays : (s.coreAt lin).leave = none) (seq : Nat) :
    s.dequeue lin seq = s.modCore lin fun y => { y with mq := y.mq.filter fun m => m.seq != seq } := by
  have leave : ((s.modCore lin fun y => { y with mq := y.mq.filter fun m => m.seq != seq }).coreAt lin).leave = none := by
    rw [coreAt_modCore hc, if_pos rfl]; exact stays
  simp only [State.dequeue, State.tryLeave, leave, Option.isSome_none, Bool.false_and, Bool.false_eq_true, if_false]

/-! ### Futures (R154, R155) -/

/-- A FREE entry as FNEW leaves it for context c (R153). -/
def Fut.taken (y : Fut) (c : Nat) : Fut := { gen := y.gen, state := .empty, ctx := c }
/-- The word that FTEST tells of an entry (R155). -/
def Fut.shown (y : Fut) : Word :=
  match y.state with
  | .set => y.value
  | .failed => y.status.setWidth 64
  | _ => 0
/-- The state that FTEST tells of an entry (R155). -/
def Fut.code (y : Fut) : Word :=
  match y.state with
  | .empty => 1
  | .set => 2
  | _ => 3

section
variable {x : OpA}

theorem performHub_fnew (h : e.instr = .fnew x) : s.performHub lin e =
    (s.allocFuture (s.ctxOf lin)).2.deliverWord lin e x.d (BitVec.ofNat 64 (s.allocFuture (s.ctxOf lin)).1) := by
  simp only [State.performHub, h, State.performFnew]

theorem fnew_lowest (h : e.instr = .fnew x) {i : Nat} (h1 : 1 ≤ i) (hi : i < 2 ^ 20) (free : (s.fut i).state = .free)
    (lowest : ∀ j, 1 ≤ j → j < i → (s.fut j).state ≠ .free) (hf : twf {} s.futs = true) : ∃ u : State,
      s.performHub lin e = u.deliverWord lin e x.d (BitVec.ofNat 64 (i + (s.fut i).gen.toNat * 2 ^ 20)) ∧ u = { s with futs := u.futs } ∧
        u.fut i = { gen := (s.fut i).gen, state := .empty, ctx := s.ctxOf lin } := by
  have entry := (fut_modFut hf i (fun y => y.taken (s.ctxOf lin)) i).trans (if_pos rfl)
  refine ⟨s.modFut i fun y => y.taken (s.ctxOf lin), ?_, rfl, entry⟩
  have handle : (s.modFut i fun y => y.taken (s.ctxOf lin)).futHandle i = i + (s.fut i).gen.toNat * 2 ^ 20 := by
    rw [State.futHandle, entry, Fut.taken]
  rw [performHub_fnew h, allocFuture_lowest _ h1 hi free lowest, ← handle]
  rfl

theorem fnew_full (h : e.instr = .fnew x) (full : ∀ j, 1 ≤ j → j < 2 ^ 20 → (s.fut j).state ≠ .free) :
    s.performHub lin e = s.deliverWord lin e x.d 0 := by
  rw [performHub_fnew h, allocFuture_full _ full]
  rfl

section
variable {f : Nat} (hf : (e.vals.getD 0 0).toNat % 2 ^ 32 = f)
include hf

theorem ftest_stale (h : e.instr = .ftest x) (stale : ¬s.FutLive f (s.ctxOf lin)) :
    s.performHub lin e = s.fatal lin e.bseq e.baddr (2 ^ e.slot) 0x16 (BitVec.ofNat 64 f) 0 0 := by
  subst hf
  simp only [State.performHub, h]
  exact if_pos ((futStale_iff _ _ _).2 stale)

section
variable (h : e.instr = .ftest x) (live : s.FutLive f (s.ctxOf lin))
include h live

theorem ftest_live : s.performHub lin e =
    (if (s.fut (f % 2 ^ 20)).state = .empty then s else s.acquireAt lin (s.fut (f % 2 ^ 20)).rscope).deliver lin e
      (pairWrites .a x.d (s.fut (f % 2 ^ 20)).shown (s.fut (f % 2 ^ 20)).code) (.word (s.fut (f % 2 ^ 20)).shown) {} {} := by
  subst hf
  simp only [State.performHub, h, State.performFtest, beq_iff_eq]
  exact if_neg (ne_true_of_eq_false (futStale_false live))

theorem ftest_empty (st : (s.fut (f % 2 ^ 20)).state = .empty) :
    s.performHub lin e = s.deliver lin e (pairWrites .a x.d 0 1) (.word 0) {} {} := by
  simp only [ftest_live hf h live, Fut.shown, Fut.code, st, if_true]

theorem ftest_set (st : (s.fut (f % 2 ^ 20)).state = .set) : s.performHub lin e = (s.acquireAt lin (s.fut (f % 2 ^ 20)).rscope).deliver lin e
    (pairWrites .a x.d (s.fut (f % 2 ^ 20)).value 2) (.word (s.fut (f % 2 ^ 20)).value) {} {} := by
  simp only [ftest_live hf h live, Fut.shown, Fut.code, st, reduceCtorEq, if_false]

theorem ftest_failed (st : (s.fut (f % 2 ^ 20)).state = .failed) :
    s.performHub lin e = (s.acquireAt lin (s.fut (f % 2 ^ 20)).rscope).deliver lin e
      (pairWrites .a x.d ((s.fut (f % 2 ^ 20)).status.setWidth 64) 3) (.word ((s.fut (f % 2 ^ 20)).status.setWidth 64)) {} {} := by
  simp only [ftest_live hf h live, Fut.shown, Fut.code, st, reduceCtorEq, if_false]

end

theorem ffree_stale (h : e.instr = .ffree x) (stale : ¬s.FutLive f (s.ctxOf lin)) :
    s.performHub lin e = s.fatal lin e.bseq e.baddr (2 ^ e.slot) 0x16 (BitVec.ofNat 64 f) 0 0 := by
  subst hf
  simp only [State.performHub, h]
  exact if_pos ((futStale_iff _ _ _).2 stale)

theorem ffree_live (h : e.instr = .ffree x) (live : s.FutLive f (s.ctxOf lin)) :
    s.performHub lin e = (s.freeFuture (f % 2 ^ 20)).dequeue lin e.seq := by
  subst hf
  simp only [State.performHub, h]
  exact if_neg (ne_true_of_eq_false (futStale_false live))

/-! ### BARI (R166) -/

theorem bari_unnamed (h : e.instr = .bari x) (none : s.barRef ((s.coreAt lin).task.getD 0) f = none) :
    s.performHub lin e = s.fatal lin e.bseq e.baddr (2 ^ e.slot) 0x22 (s.freeArg 0x22) 0 0 := by
  have none' : s.barRef ((s.coreAt lin).task.getD 0) (barId (e.vals.getD 0 0)) = .none := by rw [barId, hf]; exact none
  simp only [State.performHub, h, State.performBari, none']
  rfl

section
variable {i : Nat} (h : e.instr = .bari x) (device : f / 2 ^ 30 = 1)
  (named : s.barRef ((s.coreAt lin).task.getD 0) f = some (.device i)) (found : (s.devBar i).lost = false)
include h device named found

theorem bari_device : s.performHub lin e =
    if ((s.devBar i).expect ≠ 0 && (s.devBar i).arrived ≠ 0) = true then s.entryFatal lin e fcBARBUSY (s.freeArg fcBARBUSY) 0
    else ({ s with devBars := tput {} s.devBars i { s.devBar i with expect := (e.vals.getD 1 0).toNat, seats := 0 } } : State).dequeue lin e.seq := by
  have named' : s.barRef ((s.coreAt lin).task.getD 0) (barId (e.vals.getD 0 0)) = some (.device i) := by rw [barId, hf]; exact named
  have kind : (barKind (barId (e.vals.getD 0 0)) == 2) = false := by rw [barId, hf, barKind, bitsOf, device]; rfl
  have found' : (s.bar (.device i)).lost = false := found
  simp only [State.performHub, h, State.performBari, named', found', kind, Bool.false_eq_true, if_false]
  rfl

theorem bari_busy (expect : (s.devBar i).expect ≠ 0) (arrived : (s.devBar i).arrived ≠ 0) :
    s.performHub lin e = s.fatal lin e.bseq e.baddr (2 ^ e.slot) 0x21 (s.freeArg 0x21) 0 0 :=
  (bari_device hf h device named found).trans (if_pos (by simp [expect, arrived]))

theorem bari_sets (idle : (s.devBar i).expect = 0 ∨ (s.devBar i).arrived = 0) : s.performHub lin e =
    ({ s with devBars := tput {} s.devBars i { s.devBar i with expect := (e.vals.getD 1 0).toNat, seats := 0 } } : State).dequeue lin e.seq :=
  (bari_device hf h device named found).trans (if_neg (by obtain idle | idle := idle <;> simp [idle]))

end

end

end

/-! ### MIGR (R362) -/

/-- The tower that MIGR names (R362). -/
def migrTarget (s : State) (lin : Nat) (x : OpA) (b : Nat) : Nat :=
  if x.sub = 1 then 8 else if b % 16 = 8 then (s.coreAt lin).task.elim (lin / 144) fun i => (s.task i).tower else b % 16

/-- What MIGR does with the leaf that its walk finds (R362). -/
def State.migrLeaf (u : State) (c va target a pte : Nat) (e : MqEntry) : State :=
  let fails (st : Nat) : State := u.resolve ((e.vals.getD 2 0).toNat % 2 ^ 32) c 3 0 (.failed st)
  if pte % 16 = 1 ∨ pte % 16 = 4 then fails 0x106
  else if pte % 16 = 9 then fails 0x100
  else if pte / 2 ^ 9 % 4 = 2 ∨ pte / 2 ^ 4 % 4 ≠ 0 then fails 0x105
  else u.requestMig a c va target ((e.vals.getD 1 0).toNat / 2 ^ 16 % 2 ^ 48) ((e.vals.getD 2 0).toNat % 2 ^ 32) 0

section
variable {x : OpA} (h : e.instr = .migr x) (low : (e.vals.getD 0 0).toNat < 2 ^ 57)
include h low

theorem migr_absent (absent : (s.dequeue lin e.seq).walk (s.ctxOf lin) ((e.vals.getD 0 0).toNat / 65536 * 65536) = .absent) :
    s.performHub lin e = (s.dequeue lin e.seq).resolve ((e.vals.getD 2 0).toNat % 2 ^ 32) (s.ctxOf lin) 3 0 (.failed 0x106) := by
  have va : (e.vals.getD 0 0).toNat / 2 ^ 16 * 2 ^ 16 % 2 ^ 57 = (e.vals.getD 0 0).toNat / 65536 * 65536 := by omega
  simp only [State.performHub, h, State.performMigr, va, absent]
  rfl

theorem migr_leaf (task : ((s.dequeue lin e.seq).coreAt lin).task = (s.coreAt lin).task) (tasks : (s.dequeue lin e.seq).tasks = s.tasks)
    {a n pte : Nat} (leaf : (s.dequeue lin e.seq).walk (s.ctxOf lin) ((e.vals.getD 0 0).toNat / 65536 * 65536) = .leaf a n pte) :
    s.performHub lin e = (s.dequeue lin e.seq).migrLeaf (s.ctxOf lin) ((e.vals.getD 0 0).toNat / 65536 * 65536)
      (migrTarget s lin x (e.vals.getD 1 0).toNat) a pte e := by
  have va : (e.vals.getD 0 0).toNat / 2 ^ 16 * 2 ^ 16 % 2 ^ 57 = (e.vals.getD 0 0).toNat / 65536 * 65536 := by omega
  have tower (i : Nat) : (s.dequeue lin e.seq).task i = s.task i := by rw [State.task, tasks, State.task]
  have down : (x.sub.toNat == 1) = decide (x.sub = 1) := by
    simp [← BitVec.toNat_inj, beq_eq_decide]
  have code (b : Nat) : bitsOf b 0 4 = b % 16 := by simp [bitsOf]
  simp only [State.performHub, h, State.performMigr, va, leaf, task, tower, code, pteRes_eq, State.migrLeaf, migrTarget, down, Bool.or_eq_true,
    decide_eq_true_eq, bne_iff_ne]
  rcases (s.coreAt lin).task with _ | i <;> rfl

end

/-! ### QPEEK (R110) -/

section
variable {x : OpI} {pd : Nat} (h : e.instr = .qpeek x) (reach : s.ringAt (s.ctxOf lin) (towerOf lin) e.ea true false = (.ok pd, u))
include h reach

theorem qpeek_counts (ok : (u.ringDesc pd).ok = true) :
    s.performHub lin e = u.deliverWord lin e x.d ((u.ringDesc pd).tail - (u.ringDesc pd).head) := by
  simp only [State.performHub, h, State.performQpeek, reach, ok, Bool.not_true, Bool.false_eq_true, if_false]

theorem qpeek_malformed (bad : (u.ringDesc pd).ok = false) :
    s.performHub lin e = u.entryFatal lin e fcQDESC (BitVec.ofNat 64 e.ea) 0 := by
  simp only [State.performHub, h, State.performQpeek, reach, bad, Bool.not_false, if_true]

end

/-! ### PGSTAT (R363) -/

theorem pteLog_weighed (e n : Nat) : (if pteLog e = true then n else 0) = e / 2 ^ 7 % 2 * n := by
  obtain bit | bit := Nat.mod_two_eq_zero_or_one (e / 2 ^ 7) <;> simp [pteLog, bitsOf, bit, -Nat.reducePow]

theorem pteW_weighed (e n : Nat) : (if pteW e = true then n else 0) = e / 2 ^ 6 % 2 * n := by
  obtain bit | bit := Nat.mod_two_eq_zero_or_one (e / 2 ^ 6) <;> simp [pteW, bitsOf, bit, -Nat.reducePow]

section
variable {x : OpA} (h : e.instr = .pgstat x) (low : (e.vals.getD 0 0).toNat < 2 ^ 57)
include h low

theorem performEntry_pgstat : s.performEntry lin e = (s.walkFault (s.ctxOf lin) (e.vals.getD 0 0).toNat).deliverWord lin e x.d
    (s.pgstatWord (s.ctxOf lin) (e.vals.getD 0 0).toNat) := by
  simp only [State.performEntry, h, State.performPgstat, Nat.mod_eq_of_lt low]

theorem pgstat_absent (absent : s.walk (s.ctxOf lin) (e.vals.getD 0 0).toNat = .absent) : s.performEntry lin e = s.deliverWord lin e x.d 0 := by
  simp only [performEntry_pgstat h low, State.walkFault, State.pgstatWord, absent]

theorem pgstat_leaf {a n pte : Nat} (leaf : s.walk (s.ctxOf lin) (e.vals.getD 0 0).toNat = .leaf a n pte)
    (still : pteRes pte ≠ resATTIC ∧ pteRes pte ≠ resPROMOTING ∧ pteRes pte ≠ resDEMOTING) : s.performEntry lin e =
      s.deliverWord lin e x.d (BitVec.ofNat 64 (pte % 16 + pte / 2 ^ 4 % 4 * 2 ^ 4 + pte / 2 ^ 9 % 4 * 2 ^ 6 + pte / 2 ^ 7 % 2 * 2 ^ 8 +
        pte / 2 ^ 6 % 2 * 2 ^ 9 + (if (s.page a).pins = 0 then 0 else 2 ^ 13) + (s.page a).count.toNat * 2 ^ 16 + (s.page a).log.length * 2 ^ 32)) := by
  obtain ⟨attic, promoting, demoting⟩ := still
  simp only [performEntry_pgstat h low, State.walkFault, State.pgstatWord, leaf, attic, promoting, demoting, pteLog_weighed, pteW_weighed,
    decide_false, Bool.or_false, Bool.false_eq_true, if_false, Nat.zero_mul, Nat.add_zero]
  rw [pteRes_eq]
  rfl

end

/-! ### LOGAPPLY (R377) -/

/-- The application that LOGAPPLY starts, with its future. -/
def PageX.applies (p : PageX) (g : Nat) : PageX :=
  { p with app := some (p.log.length, false, p.logFuts ++ [g]), logFuts := [], pins := p.pins + 1 }

section
variable {x : OpA} {a n pte : Nat} (h : e.instr = .logapply x) (low : (e.vals.getD 0 0).toNat < 2 ^ 57)
  (leaf : s.walk (s.ctxOf lin) (e.vals.getD 0 0).toNat = .leaf a n pte)
include h low leaf

theorem logapply_logged (res : pteRes pte = resLOGGED) {g : Nat} (hg : (e.vals.getD 1 0).toNat % 2 ^ 32 = g) (given : g ≠ 0) : ∃ u : State,
    s.performEntry lin e = u.dequeue lin e.seq ∧ u = { s.setRes a resAPPLYING with pages := u.pages } ∧
      (twf {} s.pages = true → u.page a = (s.page a).applies g) := by
  subst hg
  refine ⟨(s.startApply a false).modPage a fun p => { p with app := p.app.map fun q => (q.1, q.2.1, q.2.2 ++ [(e.vals.getD 1 0).toNat % 2 ^ 32]) },
    ?_, rfl, fun hp => ?_⟩
  · simp only [State.performEntry, h, State.performLogapply, Nat.mod_eq_of_lt low, leaf, res, if_true, if_neg given]
  · have hp' : twf {} (s.setRes a resAPPLYING).pages = true := hp
    have begun (f : PageX → PageX) : twf {} ((s.setRes a resAPPLYING).modPage a f).pages = true := twf_tmod hp' a f
    rw [State.startApply, page_modPage (begun _), if_pos rfl, page_modPage hp', if_pos rfl]
    rfl

theorem logapply_poisoned (res : pteRes pte = resPOISONED) : s.performEntry lin e =
    (s.resolve ((e.vals.getD 1 0).toNat % 2 ^ 32) (s.ctxOf lin) 3 0 (.failed 0x100)).dequeue lin e.seq := by
  simp only [State.performEntry, h, State.performLogapply, Nat.mod_eq_of_lt low, leaf, res]
  rfl

theorem logapply_other (res : pteRes pte ≠ resLOGGED ∧ pteRes pte ≠ resAPPLYING ∧ pteRes pte ≠ resPROMOTING ∧ pteRes pte ≠ resPOISONED) :
    s.performEntry lin e = (s.resolve ((e.vals.getD 1 0).toNat % 2 ^ 32) (s.ctxOf lin) 3 0 (.set 0)).dequeue lin e.seq := by
  obtain ⟨logged, applying, promoting, poisoned⟩ := res
  simp only [State.performEntry, h, State.performLogapply, Nat.mod_eq_of_lt low, leaf, logged, applying, promoting, poisoned, if_false]

end

/-! ### ACAS (R338) -/

theorem modCore_same (hc : twf Core.reset s.cores = true) {f : Core → Core} (same : f (s.coreAt lin) = s.coreAt lin) : s.modCore lin f = s := by
  rw [State.modCore, same, setCore_coreAt hc]

section
variable {c : Core} (fifo : c.fifo = [])
include fifo

theorem dropMarker_of_empty (k : Nat) : c.dropMarker k = c := by
  cases c
  subst fifo
  rfl

theorem dropSector_of_empty (l1 : c.l1 = []) (k : Nat) : (c.dropSector k).tidyFifo = c := by
  cases c
  subst fifo l1
  rfl

end

/-- A core that caches nothing writes nothing back. -/
theorem flushSector_of_empty (hc : twf Core.reset s.cores = true) (l1 : (s.coreAt lin).l1 = []) (k : Nat) : s.flushSector lin k = s := by
  have core : { s.coreAt lin with l1 := [] } = s.coreAt lin := by rw [← l1]
  simp [State.flushSector, l1, core, setCore_coreAt hc]

theorem physVia_one {y : Xlat} {va : Nat} (h : y.vpage = va / 65536) : physVia [y] va = y.base + va % 65536 := by simp [physVia, h]

section
variable {x : OpM} {y : Xlat} {pa m : Nat} (h : e.instr = .acas x) (one : e.xl = [y])
  (unheld : s.heldSetAt ((s.coreAt lin).task.getD 0) e.ea = none) (hc : twf Core.reset s.cores = true) (l1 : (s.coreAt lin).l1 = [])
  (fifo : (s.coreAt lin).fifo = []) (relaxed : e.acquires = false) (open_ : s.logBlocked y.leaf = false) (uncounted : ptePol (s.pteOf y.leaf) ≠ 1)
  (place : physVia e.xl e.ea = pa) (clean : s.poisoned pa e.len = false) (old : natOfBytes (s.read pa e.len) = m)
include h one unheld hc l1 fifo relaxed open_ uncounted place clean old

theorem performEntry_acas : s.performEntry lin e = (match e.amoNew m with
    | some v => s.write pa (leBytes v e.len)
    | none => s).deliverWord lin e x.v (extendSize x.sz m) := by
  have leaf : (e.xl.head?.elim 0 fun x => x.leaf) = y.leaf := by rw [one]; rfl
  have flushed (k : Nat) : s.flushSector lin k = s := flushSector_of_empty hc l1 k
  have dropped (k : Nat) : s.modCore lin (fun c => (c.dropSector k).tidyFifo) = s := modCore_same hc (dropSector_of_empty fifo l1 k)
  have uncounted' : s.maybeCount y.leaf (s.ctxOf lin) e.ea (towerOf lin) = s := if_neg uncounted
  have answered (t : State) (core : t.coreAt lin = s.coreAt lin) (cores : t.cores = s.cores) :
      t.modCore lin (fun c => c.dropMarker e.seq) = t := modCore_same (cores ▸ hc) (dropMarker_of_empty (core ▸ fifo) e.seq)
  simp only [State.performEntry, h, State.performAtomic, unheld, Option.isSome_none, Bool.false_eq_true, if_false, leaf, open_, place, flushed,
    dropped, clean, uncounted', old, State.afterAcquire, relaxed, Bool.false_and]
  rcases e.amoNew m with _ | v
  · simp only [answered s rfl rfl]
  · simp only [answered (s.write pa (leBytes v e.len)) rfl rfl]

theorem acas_differs (differs : m ≠ (e.vals.getD 0 0).toNat % 2 ^ (8 * e.len)) :
    s.performEntry lin e = s.deliverWord lin e x.v (extendSize x.sz m) := by
  have keeps : e.amoNew m = none := by
    simp only [MqEntry.amoNew, h]
    exact if_neg differs
  rw [performEntry_acas h one unheld hc l1 fifo relaxed open_ uncounted place clean old, keeps]

theorem acas_agrees (agrees : m = (e.vals.getD 0 0).toNat % 2 ^ (8 * e.len)) : s.performEntry lin e =
    (s.write pa (leBytes ((e.vals.getD 1 0).toNat % 2 ^ (8 * e.len)) e.len)).deliverWord lin e x.v (extendSize x.sz m) := by
  have writes : e.amoNew m = some ((e.vals.getD 1 0).toNat % 2 ^ (8 * e.len)) := by
    simp only [MqEntry.amoNew, h]
    exact if_pos agrees
  rw [performEntry_acas h one unheld hc l1 fifo relaxed open_ uncounted place clean old, writes]

end

/-! ### MARK and NTDRAIN (R324) -/

theorem performEntry_mark {x : OpM} (h : e.instr = .mark x ∨ ∃ y, e.instr = .ntdrain y) :
    s.performEntry lin e = if (s.coreAt lin).nt = [] then s.dequeue lin e.seq else s := by
  obtain h | ⟨y, h⟩ := h <;> simp only [State.performEntry, h]

end

/-! ### HNEAR (R293, R296) -/

/-- r is the first of the nearest among the first n entries, with its distance. -/
def NearestIn (q : HyperVec) (hs : List HyperVec) (n : Nat) (r : Nat × Nat) : Prop :=
  r.1 < n ∧ r.2 = hvDist q (hs.getD r.1 0) ∧ ∀ j, j < n → r.2 ≤ hvDist q (hs.getD j 0) ∧ (j < r.1 → r.2 < hvDist q (hs.getD j 0))

theorem nearestIn_succ {q : HyperVec} {hs : List HyperVec} {n : Nat} {r : Nat × Nat} (h : NearestIn q hs n r) :
    NearestIn q hs (n + 1) (if hvDist q (hs.getD n 0) < r.2 then (n, hvDist q (hs.getD n 0)) else r) := by
  obtain ⟨below, dist, least⟩ := h
  split
  case isTrue nearer =>
    refine ⟨by omega, by dsimp only, fun j hj => ?_⟩
    by_cases last : j = n
    · subst last
      exact ⟨Nat.le_refl (hvDist q (hs.getD j 0)), fun h => absurd h (Nat.lt_irrefl j)⟩
    · have := (least j (by omega)).1
      exact ⟨by omega, fun _ => by omega⟩
  case isFalse farther =>
    refine ⟨by omega, dist, fun j hj => ?_⟩
    by_cases last : j = n
    · subst last; exact ⟨not_lt.1 farther, fun h => by omega⟩
    · exact least j (by omega)

theorem nearest_rest {q : HyperVec} (rest pre : List HyperVec) {r : Nat × Nat} (h : NearestIn q (pre ++ rest) pre.length r) :
    NearestIn q (pre ++ rest) (pre ++ rest).length (nearest q rest pre.length r) := by
  induction rest generalizing pre r with
  | nil => simpa [nearest] using h
  | cons x rest ih =>
    have at_ : (pre ++ x :: rest).getD pre.length 0 = x := by simp
    have next := nearestIn_succ h
    rw [at_] at next
    have all : pre ++ x :: rest = (pre ++ [x]) ++ rest := by simp
    rw [all] at next ⊢
    simpa [nearest] using ih (pre ++ [x]) (by simpa using next)

theorem nearestIn_nearestOf {q : HyperVec} {hs : List HyperVec} (h : hs ≠ []) : NearestIn q hs hs.length (nearestOf q hs) := by
  cases hs with
  | nil => exact absurd rfl h
  | cons x rest =>
    refine nearest_rest rest [x] ⟨Nat.zero_lt_one, by simp, fun j hj => ?_⟩
    obtain rfl : j = 0 := Nat.lt_one_iff.1 hj
    exact ⟨Nat.le_refl (hvDist q x), fun h => absurd h (Nat.lt_irrefl 0)⟩

/-- Settles O59: what each answer is as its operation performs. That a freed entry keeps its generation alone is the model's choice
(notes/assumptions/99.md), and so is what BARI leaves of a barrier (notes/assumptions/63.md). -/
theorem hubAnswers : Obligations.HubAnswers := by
  unfold Obligations.HubAnswers
  intro lin s e c v h k f fatal
  refine ⟨fun _ _ _ _ _ => rfl, fun _ _ _ => rfl, fun u hc stays => dequeue_of_stays hc stays e.seq,
    fun x i is h1 hi free lowest hf => fnew_lowest is h1 hi free lowest hf, fun x is full => fnew_full is full, fun x is => ?ftest, fun x is => ?ffree,
    fun x i is device named found => ⟨fun idle => bari_sets rfl is device named found idle,
      fun expect arrived => ⟨_, bari_busy rfl is device named found expect arrived⟩⟩,
    fun x is none => ⟨_, bari_unnamed rfl is none⟩, fun x is low => ?migr,
    fun x pd u is reach => ⟨fun ok => qpeek_counts is reach ok, fun bad => qpeek_malformed is reach bad⟩, fun x is low => ?pgstat,
    fun x is low a n pte leaf => ?logapply, fun x y is one unheld hc l1 fifo stays relaxed blocks uncounted page aligned => ?acas,
    fun q hs full => nearestIn_nearestOf full, fun x is => ?mark⟩
  case ftest =>
    exact ⟨ftest_stale rfl is, fun live => ⟨ftest_empty rfl is live, ftest_set rfl is live, ftest_failed rfl is live⟩⟩
  case ffree =>
    obtain ⟨kept, futs, wakes⟩ := freeFuture_spec s k
    exact ⟨ffree_stale rfl is, fun live => ⟨_, ffree_live rfl is live, kept, fun hf => ⟨(futs hf).2, (futs hf).1⟩, wakes⟩⟩
  case migr =>
    intro u va target fails task tasks
    refine ⟨migr_absent is low, fun a n pte leaf => ?_⟩
    have runs := migr_leaf is low task tasks leaf
    simp only [List.mem_cons, List.not_mem_nil, or_false, not_or]
    refine ⟨fun fixed => runs.trans (if_pos fixed), fun poisoned => runs.trans ((if_neg (by omega)).trans (if_pos poisoned)),
      fun free pinned => ?_, fun free movable small => ?_⟩ <;> obtain ⟨zero, larder, sound⟩ := free
    · exact runs.trans ((if_neg (not_or.2 ⟨zero, larder⟩)).trans ((if_neg sound).trans (if_pos pinned)))
    · exact runs.trans ((if_neg (not_or.2 ⟨zero, larder⟩)).trans ((if_neg sound).trans (if_neg (not_or.2 ⟨movable, not_not.2 small⟩))))
  case pgstat =>
    refine ⟨pgstat_absent is low, fun a n pte leaf attic promoting demoting => pgstat_leaf is low leaf ?_⟩
    rw [pteRes_eq]
    exact ⟨attic, promoting, demoting⟩
  case logapply =>
    intro g
    refine ⟨fun res given => logapply_logged is low leaf ((pteRes_eq pte).trans res) rfl given,
      fun res => logapply_poisoned is low leaf ((pteRes_eq pte).trans res), fun res => logapply_other is low leaf ?_⟩
    simp only [List.mem_cons, List.not_mem_nil, or_false] at res
    simp only [pteRes_eq, resLOGGED, resAPPLYING, resPROMOTING, resPOISONED]
    omega
  case acas =>
    intro pa n old clean
    have place : physVia e.xl e.ea = pa := by rw [one]; exact physVia_one page
    exact ⟨acas_differs is one unheld hc l1 fifo relaxed blocks uncounted place clean rfl,
      acas_agrees is one unheld hc l1 fifo relaxed blocks uncounted place clean rfl⟩
  case mark =>
    rw [performEntry_mark is]
    exact ⟨fun empty => if_pos empty, fun waits => if_neg waits⟩

end Sys2Proof.Machine
end

section
/-!
A ring whose HEAD is past its TAIL (O26).
-/
open Sys2Proof

namespace Sys2Proof.Machine

/-! ### QGET waits at a ring that counts no record (R110, R111) -/

theorem count_of_past {d : RingDesc} (h : d.tail.toNat ≤ d.head.toNat) : d.count = 0 := Nat.sub_eq_zero_of_le h

/-- The task's side record as a waiting QGET leaves it. -/
def Task.expects (t : Task) (h : HeldOp) (at_ : Nat × Nat) : Task :=
  { t with qdest := (h.vals.getD 1 0).toNat, qlimit := limitCycle (h.vals.getD 3 0).toNat (h.vals.getD 2 0).toNat, qfrom := at_ }

theorem qget_waits {x : OpI} {s u w : State} {h : HeldOp} {q : Completion} {pd p1 : Nat} (hp : s.Performing (.qget x) h q)
    (desc : (s.performed q).ringAt s.curCtx (towerOf s.cur) (h.vals.getD 0 0).toNat true true = (.ok pd, u)) (ok : (u.ringDesc pd).ok = true)
    (dest : u.ringAt u.curCtx (towerOf u.cur) (h.vals.getD 1 0).toNat false true = (.ok p1, w)) (none : (u.ringDesc pd).count = 0) :
    exec (.qget x) s = .next ((w.modTask w.curTask fun t => t.expects h (w.core.compl.elim 0 fun q => q.baddr, w.cur)).ask
      (.suspend 4 0 (h.vals.getD 0 0).toNat)) := by
  have desc' : (s.performed q).ringAt (s.performed q).curCtx (towerOf (s.performed q).cur) (h.vals.getD 0 0).toNat true true = (.ok pd, u) := desc
  refine (quietOp_performs hp _ _).trans (congrArg _ ?_)
  simp only [State.performQget, desc', ok, Bool.not_true, Bool.false_eq_true, if_false, dest, none, if_true]
  rfl

/-! ### The ring -/

/-- One table serves three levels of the walk and holds the leaf of page 0x10000, which maps to itself; the descriptor there has its records
at 0x10040, room for two, HEAD 1 and TAIL 0. -/
def overrunMem : Memory :=
  [(0x1000, 0x0F), (0x1001, 0x10), (0x1008, 0x42), (0x100A, 0x01), (0x10000, 0x40), (0x10002, 0x01), (0x10008, 0x01), (0x10010, 0x01)]
/-- QGET of that ring into 0x100C0, without a limit. -/
def overrunGet : HeldOp := { slot := 0, instr := .qget dflI, vals := [0x10000, 0x100C0] }
def overrunStep (ops : List HeldOp) : Completion :=
  { baddr := 0, bseq := 0, cyc := 0, next := 0, ops := ops, performing := true, committing := false, heldArrival := none, arrivedGen := none,
    stall := none, ask := .none, trap := none, failed := none, more := 0 }
def overrun (ops : List HeldOp) : State :=
  { State.reset with
    mem := overrunMem, ctxs := [(0, { state := .active, ptroot := 1 })], core := { Core.reset with compl := some (overrunStep ops) } }

theorem overrun_performing : (overrun [overrunGet]).Performing (.qget dflI) overrunGet (overrunStep [overrunGet]) := ⟨rfl, rfl, rfl, rfl, rfl⟩

theorem overrun_translations : ∀ a ∈ [(0x10000, true, true), (0x100C0, false, true), (0x10080, true, false)],
    (overrun []).ringAt 0 0 a.1 a.2.1 a.2.2 = (.ok a.1, overrun []) := by
  decide +kernel

theorem overrun_desc : ((overrun []).ringDesc 0x10000).ok = true ∧ ((overrun []).ringDesc 0x10000).head = 1 ∧
    ((overrun []).ringDesc 0x10000).tail = 0 := by
  decide +kernel

theorem overrun_record : ((overrun []).ringDesc 0x10000).base + ((overrun []).ringDesc 0x10000).head.toNat %
    2 ^ ((overrun []).ringDesc 0x10000).log2cap * 64 = 0x10080 := by
  decide +kernel

theorem overrun_waits : exec (.qget dflI) (overrun [overrunGet]) =
    .next (((overrun []).modTask 0 fun t => t.expects overrunGet (0, 0)).ask (.suspend 4 0 0x10000)) := by
  obtain ⟨ok, head, tail⟩ := overrun_desc
  have none : ((overrun []).ringDesc 0x10000).count = 0 := count_of_past (by rw [head, tail]; decide)
  exact qget_waits overrun_performing (overrun_translations (0x10000, true, true) (by simp)) ok
    (overrun_translations (0x100C0, false, true) (by simp)) none

/-- Refutes O26: the model counts a ring's records as TAIL less HEAD, none where HEAD is past TAIL, and there its QGET waits (R110, R111);
the statement has it read a record wherever TAIL differs from HEAD. -/
theorem not_deviceQueues : ¬ Obligations.DeviceQueues := by
  unfold Obligations.DeviceQueues
  intro claim
  obtain ⟨ok, head, tail⟩ := overrun_desc
  obtain ⟨-, get, -⟩ := claim.1 dflI (overrun [overrunGet]) overrunGet (overrunStep [overrunGet]) (overrun []) (overrun []) 0x10000 0x100C0
    (overrun_translations (0x10000, true, true) (by simp)) rfl
  obtain ⟨-, reads⟩ := (get overrun_performing).2 ok (overrun_translations (0x100C0, false, true) (by simp))
  have place : (overrun []).ringAt 0 0 (((overrun []).ringDesc 0x10000).base + ((overrun []).ringDesc 0x10000).head.toNat %
      2 ^ ((overrun []).ringDesc 0x10000).log2cap * 64) true false = (.ok 0x10080, overrun []) := by
    rw [overrun_record]
    exact overrun_translations (0x10080, true, false) (by simp)
  obtain ⟨t, run, kept, -⟩ := reads 0x10080 (overrun []) (by rw [head, tail]; decide) place
  have waits : (t.core.compl.map fun q => q.ask) = some (.suspend 4 0 0x10000) := by
    rw [overrun_waits] at run
    injection run with run
    exact run ▸ rfl
  have passes : (t.core.compl.map fun q => q.ask) = some .none := by rw [kept]; rfl
  exact absurd (waits.symm.trans passes) (by decide)

end Sys2Proof.Machine
end

section
/-!
Launch records, and the count of launch ticks that begins again (O41).
-/
open Sys2Proof

namespace Sys2Proof.Machine

/-! ### Bytes written through translations -/

/-- A write through translations leaves the agents' state as it was. -/
theorem writeVia_keeps (s : State) (xl : List Xlat) (va : Nat) (bs : List Byte) :
    let t := s.writeVia xl va bs
    t = { s with mem := t.mem, badCheck := t.badCheck, poison := t.poison, marks := t.marks } := by
  unfold State.writeVia
  induction sectorParts va bs.length generalizing s with
  | nil => rfl
  | cons p ps ih => exact ih (s.write _ _)

theorem writeVia_hub (s : State) (xl : List Xlat) (va : Nat) (bs : List Byte) : (s.writeVia xl va bs).hub = s.hub := by rw [writeVia_keeps]
theorem writeVia_tick (s : State) (xl : List Xlat) (va : Nat) (bs : List Byte) : (s.writeVia xl va bs).tick = s.tick := by rw [writeVia_keeps]
theorem writeVia_launches (s : State) (xl : List Xlat) (va : Nat) (bs : List Byte) : (s.writeVia xl va bs).launches = s.launches := by
  rw [writeVia_keeps]
theorem writeVia_queues (s : State) (xl : List Xlat) (va : Nat) (bs : List Byte) : (s.writeVia xl va bs).queues = s.queues := by
  rw [writeVia_keeps]

/-! ### Launches changed -/

section
variable {s : State} {slot : Nat} (hw : twf {} s.launches = true) (f : Launch → Launch)
include hw

theorem launchOf_modLaunch_same : (s.modLaunch slot f).launchOf slot = f (s.launchOf slot) :=
  (launchOf_modLaunch hw slot f slot).trans (if_pos rfl)

theorem launchOf_modLaunch_ne {j : Nat} (h : j ≠ slot) : (s.modLaunch slot f).launchOf j = s.launchOf j :=
  (launchOf_modLaunch hw slot f j).trans (if_neg h)

end

theorem firstBelow_eq_some {n k : Nat} {p : Nat → Bool} (hk : k < n) (is : p k = true) (first : ∀ j, j < k → p j = false) :
    firstBelow n p = some k :=
  List.find?_range_eq_some.2 ⟨is, List.mem_range.2 hk, fun j hj => by rw [first j hj]; rfl⟩

/-! ### The image of a launch record (R114 to R117, R157) -/

/-- The extents that a launch record gives (R117). -/
def recExtents (w : List Nat) : List Nat :=
  [w.getD 4 0 % 2 ^ 32, w.getD 4 0 / 2 ^ 32 % 2 ^ 32, w.getD 5 0 % 2 ^ 32, w.getD 5 0 / 2 ^ 32 % 2 ^ 32]

theorem recExtents_eq (w : List Nat) :
    [bitsOf (w.getD 4 0) 0 32, bitsOf (w.getD 4 0) 32 32, bitsOf (w.getD 5 0) 0 32, bitsOf (w.getD 5 0) 32 32] = recExtents w := by
  simp only [recExtents, bitsOf, Nat.pow_zero, Nat.div_one]

/-- A launch, or one of groups of `size`, may be made of the header (R115, R157). -/
def AllowsLaunch (header ext : List Nat) (img : Image) (size : Nat) : Prop :=
  headerOk header ext = true ∧ (size ≠ 0 → img.persist = false ∧ ∀ l ∈ img.levels, l.2 ≠ 1)

theorem not_allowsLaunch_iff {header ext : List Nat} {img : Image} {size : Nat} :
    (!headerOk header ext || (size != 0 && (img.persist || img.levels.any fun l => l.2 == 1))) = true ↔ ¬AllowsLaunch header ext img size := by
  simp only [AllowsLaunch, Bool.or_eq_true, Bool.not_eq_true', Bool.and_eq_true, bne_iff_ne, List.any_eq_true, beq_iff_eq, not_and_or,
    Classical.not_imp, Bool.not_eq_true, Bool.not_eq_false, not_forall, not_not]

/-- The launch that a record asks for (R105, R122). -/
def State.recLaunch (s : State) (q : Nat) (w : List Nat) (size : Nat) (img : Image) (ctx gen : Nat) : Launch :=
  { state := .loaded, gen := gen, queue := q, ctx := ctx, pri := (s.queue q).pri, donef := w.getD 0 0 / 2 ^ 32 % 2 ^ 32,
    towers := w.getD 0 0 / 2 ^ 8 % 2 ^ 8, arg := w.getD 2 0, status := w.getD 3 0, ltag := BitVec.ofNat 32 (w.getD 6 0), gsize := size,
    img := img, stick := s.nextStick }

/-- The status block zeroed, and a launch loaded into a slot with the next launch tick (R115, R125, R130). -/
def State.loads (z : State) (q slot : Nat) (w : List Nat) (size : Nat) (img : Image) (ctx : Nat) (sx : List Xlat) : State :=
  ((z.writeVia sx (w.getD 3 0) (List.replicate 64 0)).modHub fun h => { h with sPrev := z.nextStick }).modLaunch slot fun l =>
    z.recLaunch q w size img ctx l.gen

section
variable {s u z : State} {q slot size : Nat} {w : List Nat} {xl sx : List Xlat}

section
variable (tick : s.nextStick ≤ maxStick) (reach : s.hubReach q (w.getD 1 0) 256 false = (.ok xl, u))
  (clean : u.badSectors xl (w.getD 1 0) 256 = []) {header : List Nat} (read : wordsOfBytes (u.readVia xl (w.getD 1 0) 256) 32 = header)
include tick reach clean read

theorem takeLaunch_refuses (bad : ¬AllowsLaunch header (recExtents w) (imageOfHeader (w.getD 1 0) header (recExtents w)) size) :
    s.takeLaunch q w size = .err 6 u := by
  subst read
  simp only [State.takeLaunch, if_neg (not_lt.2 tick), reach, clean, recExtents_eq, if_pos (not_allowsLaunch_iff.2 bad), bne_self_eq_false,
    Bool.false_eq_true, if_false]

theorem takeLaunch_loads (good : AllowsLaunch header (recExtents w) (imageOfHeader (w.getD 1 0) header (recExtents w)) size)
    (status : u.hubReach q (w.getD 3 0) 64 true = (.ok sx, z)) (free : firstBelow 4096 (fun n => (z.launchOf n).state == .free) = some slot) :
    s.takeLaunch q w size =
      .done (z.loads q slot w size (imageOfHeader (w.getD 1 0) header (recExtents w)) (s.queue q).ctx sx) := by
  subst read
  have tick_eq : (z.writeVia sx (w.getD 3 0) (List.replicate 64 0)).nextStick = z.nextStick := by
    rw [State.nextStick, writeVia_tick, writeVia_hub, State.nextStick]
  have queue_eq : (z.writeVia sx (w.getD 3 0) (List.replicate 64 0)).queue q = z.queue q := by rw [State.queue, writeVia_queues, State.queue]
  simp only [State.takeLaunch, if_neg (not_lt.2 tick), reach, clean, recExtents_eq, if_neg (not_allowsLaunch_iff.not.2 (not_not.2 good)),
    bne_self_eq_false, Bool.false_eq_true, if_false, status, free, tick_eq]
  rw [State.loads]
  simp only [State.recLaunch, ← queue_eq]
  rfl

end

theorem launchOf_loads (img : Image) (ctx : Nat) (hw : twf {} z.launches = true) :
    (∀ j, j ≠ slot → (z.loads q slot w size img ctx sx).launchOf j = z.launchOf j) ∧
      (z.loads q slot w size img ctx sx).launchOf slot = z.recLaunch q w size img ctx (z.launchOf slot).gen := by
  have launches := writeVia_launches z sx (w.getD 3 0) (List.replicate 64 0)
  have same (j : Nat) : (z.writeVia sx (w.getD 3 0) (List.replicate 64 0)).launchOf j = z.launchOf j := by
    rw [State.launchOf, launches, State.launchOf]
  have hw' : twf {} (z.writeVia sx (w.getD 3 0) (List.replicate 64 0)).launches = true := launches ▸ hw
  rw [← same slot]
  exact ⟨fun j hj => (launchOf_modLaunch_ne hw' _ hj).trans (same j), launchOf_modLaunch_same hw' _⟩

theorem hub_loads (img : Image) (ctx : Nat) : (z.loads q slot w size img ctx sx).hub = { z.hub with sPrev := z.nextStick } :=
  congrArg (fun h : Hub => { h with sPrev := z.nextStick }) (writeVia_hub z sx _ _)

/-! ### A record taken that errs, and two ways to take one (R106, R130) -/

variable {p p' : List Nat → Bool} {act act' : List Nat → State → Took}

theorem takeRecord_errs {n : Nat} {t : State} (can : s.canTake q = true) (kind : p (s.record q) = true)
    (ok : s.recordError q (s.record q) = 0) (err : act (s.record q) s = .err n t) :
    s.takeRecord q p act = .next ((t.countTaken q).queueError q n) := by
  have runs : (!s.canTake q || !p (s.record q)) = false := by simp [can, kind]
  unfold State.takeRecord
  simp only [runs, Bool.false_eq_true, if_false, ok, err]

theorem takeRecord_congr (kind : p (s.record q) = p' (s.record q)) (same : act (s.record q) s = act' (s.record q) s) :
    s.takeRecord q p act = s.takeRecord q p' act' := by
  simp only [State.takeRecord, kind, same]

/-! ### The count of launch ticks begins again (R130) -/

/-- The launch ticks counted from the present tick on. -/
def State.rebased (s : State) : State := { s with hub := { s.hub with ageBase := s.tick, sPrev := 0 } }
/-- A launch record that only its tick holds back. -/
def State.holdsLaunch (s : State) (q : Nat) : Bool := s.canTake q && (recKind (s.record q) == 1 || recKind (s.record q) == 2)

theorem holdsLaunch_iff :
    s.holdsLaunch q = true ↔ s.canTake q = true ∧ ((s.record q).getD 0 0 % 16 = 1 ∨ (s.record q).getD 0 0 % 16 = 2) := by
  simp only [State.holdsLaunch, Bool.and_eq_true, Bool.or_eq_true, beq_iff_eq, recKind_eq]

theorem nextStick_rebased (s : State) : s.rebased.nextStick = 1 := by
  simp [State.nextStick, State.rebased]

section
variable (idle : s.tasks = []) (spent : maxStick < s.nextStick)
include idle spent

theorem ageRebase_eq : exec .ageRebase s =
    match (tkeys s.queues).find? s.holdsLaunch with
    | none => .next s
    | some q => s.rebased.takeRecord q (fun _ => true) fun w s => s.takeLaunch q w (if recKind w = 2 then w.getD 7 0 else 0) :=
  if_neg (by simpa [State.taskList, idle, tkeys] using spent)

theorem ageRebase_stays (h : ∀ j, s.holdsLaunch j = false) : exec .ageRebase s = .next s := by
  have none : (tkeys s.queues).find? s.holdsLaunch = none := List.find?_eq_none.2 fun j _ => by simp [h j]
  rw [ageRebase_eq idle spent, none]

theorem ageRebase_takes {rest : List Nat} (first : tkeys s.queues = q :: rest) (held : s.holdsLaunch q = true) :
    (recKind (s.record q) = 1 → exec .ageRebase s = exec (.launch q) s.rebased) ∧
      (recKind (s.record q) = 2 → exec .ageRebase s = exec (.glaunch q) s.rebased) := by
  have record : s.rebased.record q = s.record q := rfl
  rw [ageRebase_eq idle spent, first, List.find?_cons_of_pos held, exec_launch, exec_glaunch]
  exact ⟨fun kind => takeRecord_congr (by simp [record, kind]) (by simp [record, kind]),
    fun kind => takeRecord_congr (by simp [record, kind]) (by simp [record, kind])⟩

end

end

/-- Settles O41: the record that its image allows loads the lowest free slot, and the ticks begin again at 1. That the header is judged
before the reach of the status block is the model's choice (notes/assumptions/85.md). -/
theorem launchRecords : Obligations.LaunchRecords := by
  unfold Obligations.LaunchRecords
  refine ⟨?records, ?ages⟩
  case records =>
    intro q s u z xl sx x w kind header ext img tick size takes can low ok reach clean _ _ _
    have acts {i : Instr} {p : List Nat → Bool} {act : List Nat → State → Took} (run : exec i s = s.takeRecord q p act)
        (is : p (s.record q) = true) (does : act (s.record q) s = s.takeLaunch q (s.record q) size) : takes i := by
      refine ⟨fun bad => run.trans (takeRecord_errs can is ok (does.trans (takeLaunch_refuses low reach clean rfl bad))),
        fun head group status tick' base prev slot below free first => ?_⟩
      have lowest : firstBelow 4096 (fun n => (z.launchOf n).state == .free) = some slot :=
        firstBelow_eq_some below (by simp [free]) fun j hj => by simp [first j hj]
      have next : z.nextStick = tick := by rw [State.nextStick, tick', base, prev]
      have done := does.trans (takeLaunch_loads low reach clean rfl ⟨head, group⟩ status lowest)
      refine ⟨_, run.trans (takeRecord_acts can is ok done), rfl, ?_, fun hw => ?_⟩
      · rw [hub_loads, next]
      · rw [← next]
        exact launchOf_loads _ _ hw
    have kind_eq : recKind (s.record q) = kind := recKind_eq _
    refine ⟨fun one => acts exec_launch (beq_iff_eq.2 (kind_eq.trans one)) ?_, fun two => acts exec_glaunch (beq_iff_eq.2 (kind_eq.trans two)) ?_⟩
    · exact congrArg _ (if_neg (by omega)).symm
    · exact congrArg _ (if_pos two).symm
  case ages =>
    intro q s rebased held idle spent
    refine ⟨fun rest first holds => ?_, fun none => ageRebase_stays idle spent fun j => ?_⟩
    · obtain ⟨launch, glaunch⟩ := ageRebase_takes idle spent first (holdsLaunch_iff.2 holds)
      rw [recKind_eq] at launch glaunch
      exact ⟨launch, glaunch, nextStick_rebased s⟩
    · exact Bool.eq_false_iff.2 fun is => none j (holdsLaunch_iff.1 is)

end Sys2Proof.Machine
end

section
/-!
A launch's life: walkers, ends and handlers (O42).
-/
open Sys2Proof

namespace Sys2Proof.Machine

section
variable {s : State} {slot : Nat}

/-! ### The hub changed -/

theorem task_modHub (s : State) (f : Hub → Hub) (j : Nat) : (s.modHub f).task j = s.task j := rfl
theorem launchOf_modHub (s : State) (f : Hub → Hub) (j : Nat) : (s.modHub f).launchOf j = s.launchOf j := rfl
theorem hub_modHub (s : State) (f : Hub → Hub) : (s.modHub f).hub = f s.hub := rfl

/-! ### Acceptance (R119, R122) -/

theorem launchAccept_stays (h : (s.launchOf slot).state ≠ .loaded) : exec (.launchAccept slot) s = .next s := if_pos (by simp [h])

/-- A launch that the walkers of its towers hold, each in the order of its own acceptances. -/
def Launch.accepted (l : Launch) (ts : List Nat) (accepts : Tbl Nat) : Launch :=
  { l with state := .walking, owedState := true,
           walkers := ts.map fun t => { tower := t, order := tget 0 accepts t, next := 0, succ := [] } }

theorem launchAccept_accepts (loaded : (s.launchOf slot).state = .loaded) (active : (s.ctx (s.launchOf slot).ctx).state = .active)
    (room : ∀ t ∈ towersOf (s.launchOf slot).towers, (s.walkerHolds t).length < 16) : ∃ f : Hub → Hub, exec (.launchAccept slot) s =
      .next (((s.modLaunch slot fun l => l.accepted (towersOf (s.launchOf slot).towers) s.hub.accepts).modHub f).flushStatus slot) :=
  ⟨_, if_neg (by simpa [State.ctxActive, loaded, active] using room)⟩

/-! ### The next chain head (R118 to R120) -/

theorem sa_walkerTask (tower : Nat) (iter : List Nat) (bound : Option Nat) (gslot : Nat) {n : Nat} (hn : n < 5) :
    tget 0 (s.walkerTask slot tower iter bound gslot).sa n =
      if n = 0 then BitVec.ofNat 64 (s.launchOf slot).arg else BitVec.ofNat 64 (iter.getD (n - 1) 0) := by
  have wf : twf 0 (tput 0 [] 0 (BitVec.ofNat 64 (s.launchOf slot).arg)) = true := twf_tput rfl _ _
  have shift : (fun (r : Tbl Word) n => tput 0 r (n + 1) (BitVec.ofNat 64 (iter.getD n 0))) =
      fun r n => tput 0 r (1 + n) (BitVec.ofNat 64 (iter.getD n 0)) := by simp only [Nat.add_comm]
  have get := (tget_foldl_tput_range (fun n => BitVec.ofNat 64 (iter.getD n 0)) 1 4 wf).2 n
  rw [← shift] at get
  refine get.trans ?_
  by_cases zero : n = 0
  · rw [if_neg (by omega), if_pos zero, zero]
    exact (tget_tput rfl _ _ _).trans (if_pos rfl)
  · rw [if_pos (by omega), if_neg zero]

/-- The walker of a tower goes on to head n. -/
def Launch.walked (l : Launch) (tower n : Nat) : Launch :=
  { l with walkers := l.walkers.map fun w => if w.tower = tower then { w with next := n } else w }

theorem walkSettle_cases (s : State) (slot : Nat) :
    s.walkSettle slot = s.modLaunch slot (fun l => { l with state := .draining, owedState := true }) ∨ s.walkSettle slot = s := by
  unfold State.walkSettle
  dsimp only
  split
  · exact .inl rfl
  · exact .inr rfl

theorem walkSettle_keeps (s : State) (slot : Nat) : s.walkSettle slot = { s with launches := (s.walkSettle slot).launches } := by
  obtain ended | goesOn := walkSettle_cases s slot
  · rw [ended]; rfl
  · rw [goesOn]

theorem walkers_walkSettle (hl : twf {} s.launches = true) :
    ((s.walkSettle slot).launchOf slot).walkers = (s.launchOf slot).walkers := by
  obtain ended | goesOn := walkSettle_cases s slot
  · rw [ended, launchOf_modLaunch_same hl]
  · rw [goesOn]

section
variable {tower h i : Nat} {rest : List (Nat × Bool)} {wk : Walker}

/-- The task of chain head h (R120). -/
def State.headTask (s : State) (slot tower h : Nat) : Task :=
  s.walkerTask slot tower (headTuple (s.launchOf slot).img.levels h) none 65535
/-- Head h created as task i, its walker gone on. -/
def State.headCreated (s : State) (slot tower h i : Nat) : State :=
  (s.modTask i fun _ => s.headTask slot tower h).modLaunch slot fun l => l.walked tower (h + 1)
/-- The same, and the walk at its end when no head is left (R122). -/
def State.createsHead (s : State) (slot tower h i : Nat) : State := (s.headCreated slot tower h i).walkSettle slot

theorem createsHead_keeps : s.createsHead slot tower h i =
    { s with tasks := (s.createsHead slot tower h i).tasks, launches := (s.createsHead slot tower h i).launches } := by
  rw [State.createsHead, walkSettle_keeps]
  rfl

theorem task_createsHead (ht : twf {} s.tasks = true) (j : Nat) :
    (s.createsHead slot tower h i).task j = if j = i then s.headTask slot tower h else s.task j := by
  rw [State.createsHead, walkSettle_keeps]
  exact task_modTask ht i (fun _ => s.headTask slot tower h) j

theorem walkers_createsHead (hl : twf {} s.launches = true) :
    ((s.createsHead slot tower h i).launchOf slot).walkers = ((s.launchOf slot).walked tower (h + 1)).walkers := by
  have hl' : twf {} (s.headCreated slot tower h i).launches = true :=
    twf_tmod hl slot fun l => l.walked tower (h + 1)
  rw [State.createsHead, walkers_walkSettle hl']
  exact congrArg Launch.walkers (launchOf_modLaunch_same (s := s.modTask i fun _ => s.headTask slot tower h) hl _)

theorem tryCreate_head (mine : (s.launchOf slot).walkers.find? (fun w => w.tower == tower) = some wk) (few : s.readyIn slot tower < 256)
    (single : (s.launchOf slot).gsize = 0) (next : (s.launchOf slot).headAt wk = some h) (free : s.freeEntry 64 = some i) :
    s.tryCreate tower slot false = (some (s.createsHead slot tower h i), s) := by
  simp only [State.tryCreate, mine, if_neg (not_le.2 few), Bool.false_eq_true, if_false, if_pos single, next, free]
  rfl

theorem walkerCreate_creates {u : State} (due : tget 0 s.hub.walkAt tower ≤ s.cycle) (first : s.walkerChoices tower = (slot, false) :: rest)
    (created : s.tryCreate tower slot false = (some u, s)) : exec (.walkerCreate tower) s =
      .next (u.modHub fun h => { h with walkAt := tput 0 h.walkAt tower (s.cycle + 2) }).flushAll := by
  refine (if_neg (not_lt.2 due)).trans ?_
  simp only [first, State.createFirst, created]

end

/-! ### Ends (R122, R124, R125) -/

theorem tryEnd_ends {st : LState} (clear : s.statusBlocked slot = false) : s.tryEnd slot st = s.endLaunch slot st := if_neg (by simp [clear])

theorem tryEnd_waits {st : LState} (blocked : s.statusBlocked slot = true) :
    s.tryEnd slot st = (s.modLaunch slot fun l => { l with owedState := true }).flushStatus slot := if_pos blocked

theorem launchComplete_ends (quiet : (s.launchOf slot).state = .quiet) (done : s.launchWork slot = false) :
    exec (.launchComplete slot) s = .next (s.tryEnd slot .complete) := if_pos (by simp [quiet, done])

theorem launchComplete_stays (h : (s.launchOf slot).state ≠ .quiet ∨ s.launchWork slot = true) :
    exec (.launchComplete slot) s = .next s := if_neg (by simpa [or_iff_not_imp_left] using h)

section
variable (draining : (s.launchOf slot).state = .draining) (abort : (s.launchOf slot).abort = true)
include draining abort

theorem launchAbortDrainComplete_ends (gone : s.tasksOf slot = []) (done : s.launchWork slot = false) :
    exec (.launchAbortDrainComplete slot) s = .next (s.tryEnd slot .faulted) := if_pos (by simp [draining, abort, gone, done])

theorem launchAbortDrainComplete_stays (h : s.tasksOf slot ≠ [] ∨ s.launchWork slot = true) :
    exec (.launchAbortDrainComplete slot) s = .next s := if_neg (by simpa [draining, abort, or_iff_not_imp_left] using h)

end

/-! ### Handlers (R123, R127) -/

/-- The handler task of launch `slot` with image m, for the fault of task i. -/
def State.handlerTask (s : State) (slot i : Nat) (m : Image) : Task :=
  let l := s.launchOf slot
  { state := .ready, ctx := l.ctx, h := true, pc := m.entry, age := l.stick * 2 ^ 20 + 0x1000 + slot, launch := s.handleOf slot,
    sa := tput 0 (tput 0 (tput 0 [] 0 (BitVec.ofNat 64 l.status)) 1 (BitVec.ofNat 64 (s.hub.poolAt.getD 0 + entryBytes * i))) 2
      (BitVec.ofNat 64 (s.handleOf slot)),
    tower := (s.task i).tower }

theorem sa_handlerTask (i : Nat) (m : Image) :
    tget 0 (s.handlerTask slot i m).sa 0 = BitVec.ofNat 64 (s.launchOf slot).status ∧
      tget 0 (s.handlerTask slot i m).sa 1 = BitVec.ofNat 64 (s.hub.poolAt.getD 0 + 128 * i) ∧
      tget 0 (s.handlerTask slot i m).sa 2 = BitVec.ofNat 64 (s.handleOf slot) := by
  have one (v : Word) : twf 0 (tput 0 [] 0 v) = true := twf_tput rfl _ _
  have two (v w : Word) : twf 0 (tput 0 (tput 0 [] 0 v) 1 w) = true := twf_tput (one v) _ _
  have nil : twf (0 : Word) [] = true := rfl
  simp only [State.handlerTask, entryBytes, tget_tput (two _ _), tget_tput (one _), tget_tput nil, reduceIte, Nat.reduceEqDiff, and_self]

theorem handlerStart_starts {i k : Nat} {m : Image} (policy : (s.launchOf slot).img.fpol = 1) (runs : (s.launchOf slot).abort = false)
    (idle : (s.launchOf slot).handling = none) (live : (s.launchOf slot).state = .walking ∨ (s.launchOf slot).state = .draining)
    (active : (s.ctx (s.launchOf slot).ctx).state = .active) (oldest : s.oldest (s.faultsOf slot) = some i)
    (image : (s.launchOf slot).himg = some m) (free : s.freeEntry 0 = some k) : exec (.handlerStart slot) s =
      .next ((s.modTask k fun _ => s.handlerTask slot i m).modLaunch slot fun l => { l with handling := some (k, i) }) := by
  have got : s.handlerImage slot = (some (some m), s) := by simp only [State.handlerImage, image]
  refine (if_neg (by simpa [State.ctxActive, policy, runs, idle, active] using or_iff_not_imp_left.1 live)).trans ?_
  simp only [oldest, got, free]
  rfl

end

/-- Settles O42: acceptance, chain heads, ends and handlers, each by its own step. That the walkers of all towers accept in one step
(notes/assumptions/92.md), and that a status block that cannot yet be written leaves its words owed and the end waiting
(notes/assumptions/43.md), are the model's choices. -/
theorem launchLife : Obligations.LaunchLife := by
  unfold Obligations.LaunchLife
  intro slot s hl ht l ts
  refine ⟨fun loaded active room => ?accept, launchAccept_stays, fun tower rest wk h i due first mine few single next free => ?create, ?lives⟩
  case accept =>
    obtain ⟨f, run⟩ := launchAccept_accepts loaded active room
    exact ⟨_, run, rfl, fun j hj => launchOf_modLaunch_ne hl (fun x => x.accepted ts s.hub.accepts) hj,
      launchOf_modLaunch_same hl fun x => x.accepted ts s.hub.accepts⟩
  case create =>
    have run := walkerCreate_creates due first (tryCreate_head mine few single next free)
    have task := task_createsHead (slot := slot) (tower := tower) (h := h) (i := i) ht
    have hub : (s.createsHead slot tower h i).hub = s.hub := by rw [createsHead_keeps]
    have mine : (s.createsHead slot tower h i).task i = s.headTask slot tower h := (task i).trans (if_pos rfl)
    refine ⟨_, run, ?_, fun j hj => ?_, ?_⟩
    · rw [createsHead_keeps]
      rfl
    · rw [task_modHub, task j, if_neg hj]
    · rw [task_modHub, launchOf_modHub, hub_modHub, hub, mine]
      exact ⟨rfl, rfl, rfl, rfl, rfl, rfl, rfl, rfl, rfl, rfl, fun n => sa_walkerTask tower _ none 65535, walkers_createsHead hl,
        fun hw => (tget_tput hw tower (s.cycle + 2) tower).trans (if_pos rfl)⟩
  case lives =>
    intro ends
    have ends_of {i : Instr} {st : LState} (run : exec i s = .next (s.tryEnd slot st)) : ends i st :=
      ⟨fun clear => run.trans (congrArg _ (tryEnd_ends clear)), fun blocked => run.trans (congrArg _ (tryEnd_waits blocked))⟩
    refine ⟨fun quiet done => ends_of (launchComplete_ends quiet done), launchComplete_stays,
      fun draining abort gone done => ends_of (launchAbortDrainComplete_ends draining abort gone done), launchAbortDrainComplete_stays,
      fun i k m policy runs idle live active oldest image free => ?_⟩
    have started := handlerStart_starts policy runs idle live active oldest image free
    have task (j : Nat) := task_modTask ht k (fun _ => s.handlerTask slot i m) j
    refine ⟨_, started, rfl, launchOf_modLaunch_same (s := s.modTask k fun _ => s.handlerTask slot i m) hl _,
      fun j hj => (task j).trans (if_neg hj), ?_⟩
    have handler : ((s.modTask k fun _ => s.handlerTask slot i m).modLaunch slot fun l => { l with handling := some (k, i) }).task k =
        s.handlerTask slot i m := (task k).trans (if_pos rfl)
    rw [handler]
    exact ⟨rfl, rfl, rfl, rfl, rfl, rfl, sa_handlerTask i m⟩

end Sys2Proof.Machine
end

section
/-!
What TEND, YIELD, TRAP and TSPAWN do as they perform (O22).
-/
open Sys2Proof

namespace Sys2Proof.Machine

section
variable {s : State} {h : HeldOp} {q : Completion} {d : Opnd} {v : Word}

/-! ### What a performing operation asks, and where it traps (R144, R148) -/

theorem committing_of_performing {i : Instr} (hp : s.Performing i h q) : q.committing = false := by
  obtain ⟨-, -, -, -, live⟩ := hp
  exact live

/-- Outside a commit a task's operation is not deferred (R136). -/
theorem isDeferred_performed (live : q.committing = false) : (s.performed q).isDeferred = false := live

/-- The completion step's first trap is the one taken (R142). -/
theorem opFailed_trap (live : q.committing = false) (code : Nat) (a0 a1 a2 : Word) : (s.performed q).opFailed h 3 code a0 a1 a2 =
    s.performed { q with trap := if q.trap.isSome then q.trap else some (code, a0, a1, a2, h.slot) } := by
  have traps : (s.performed q).opFailed h 3 code a0 a1 a2 =
      (s.performed q).modCompl fun q => if q.trap.isSome then q else { q with trap := some (code, a0, a1, a2, h.slot) } := by
    simp [State.opFailed, performed_compl, live]
  rw [traps, performed_with]
  simp only [State.performed]
  split <;> rfl

theorem execTend_performs {x : OpC} (hp : s.Performing (.tend x) h q) : execTend x s = .next ((s.performed q).ask .tend) := by
  refine Eq.trans ?_ (quietOp_performs (i := .tend x) hp (fun _ => []) fun _ s => s.ask .tend)
  simp only [execTend, hp.1]

/-! ### A scalar written in the completion step, with its slot's latch (R35, R147) -/

theorem writeNow_keeps : s.writeNow h d v = { s with core := { s.core with
    regs := { s.core.regs with sa := (s.writeNow h d v).core.regs.sa, lat := (s.writeNow h d v).core.regs.lat } } } := by
  cases d <;> rfl

theorem lat_writeNow (wf : twf 0 s.core.regs.lat = true) (k : Nat) :
    tget 0 (s.writeNow h d v).core.regs.lat k = if k = h.slot then v else tget 0 s.core.regs.lat k := by
  cases d <;> exact tget_tput wf h.slot v k

theorem sa_writeNow (wf : twf 0 s.core.regs.sa = true) (k : Fin 64) :
    tget 0 (s.writeNow h d v).core.regs.sa k = if d = .sreg k then v else tget 0 s.core.regs.sa k := by
  cases d with
  | sreg n =>
    refine (tget_tput wf n v k).trans (if_congr ?_ rfl rfl)
    rw [Opnd.sreg.injEq, Fin.ext_iff, eq_comm]
  | _ => rfl

/-! ### The pool (R126) -/

theorem freeEntry_none {spare : Nat} (full : Config.poolSize ≤ s.tasks.length + spare) : s.freeEntry spare = none :=
  if_neg (by simpa [State.taskList, tkeys] using full)

theorem freeEntry_lowest {spare i : Nat} (room : s.tasks.length + spare < Config.poolSize) (inPool : i < Config.poolSize)
    (free : (s.task i).state = .free) (lowest : ∀ j, j < i → (s.task j).state ≠ .free) : s.freeEntry spare = some i :=
  (if_pos (by simpa [State.taskList, tkeys] using room)).trans
    (firstFrom_eq_some (Nat.zero_le i) (by omega) (by simp [free]) fun j _ below => by simp [lowest j below])

/-! ### TSPAWN (R147) -/

/-- The task that a TSPAWN with these operands creates (R130, R147). -/
def State.spawned (s : State) (h : HeldOp) : Task :=
  let v (k : Nat) : Word := h.vals.getD k 0
  let p := s.task s.curTask
  let tower := bitsOf (v 2).toNat 0 4
  { state := .ready, ctx := p.ctx, h := p.h, pc := (v 0).toNat, age := spawnAge p.age s.cur s.core.spawn, launch := p.launch,
    sa := (List.range 4).foldl (fun t k => tput 0 t (k + 1) (v (3 + k))) (tput 0 [] 0 (v 1)),
    tower := if tower = 8 then towerOf s.cur else tower }

/-- That task in entry i of the pool, and its core's count of the tasks spawned gone on. -/
def State.spawns (s : State) (h : HeldOp) (i : Nat) : State :=
  (s.modTask i fun _ => s.spawned h).onCore fun c => { c with spawn := (c.spawn + 1) % 256 }

/-- The creator's B is the child's sa0, and its sa1 to sa4 are the child's own. -/
theorem sa_spawned {k : Nat} (hk : k < 5) : tget 0 (s.spawned h).sa k = if k = 0 then h.vals.getD 1 0 else h.vals.getD (2 + k) 0 := by
  have wf : twf 0 (tput 0 [] 0 (h.vals.getD 1 0)) = true := twf_tput rfl _ _
  have shift : (fun (t : Tbl Word) k => tput 0 t (k + 1) (h.vals.getD (3 + k) 0)) =
      fun t k => tput 0 t (1 + k) (h.vals.getD (3 + k) 0) := by simp only [Nat.add_comm]
  have get := (tget_foldl_tput_range (fun k => h.vals.getD (3 + k) 0) 1 4 wf).2 k
  rw [← shift] at get
  refine get.trans ?_
  by_cases zero : k = 0
  · rw [if_neg (by omega), if_pos zero, zero]
    exact (tget_tput rfl _ _ _).trans (if_pos rfl)
  · rw [if_pos (by omega), if_neg zero, show 3 + (k - 1) = 2 + k by omega]

theorem tower_spawned : (s.spawned h).tower =
    if (h.vals.getD 2 0).toNat % 16 = 8 then s.cur / 144 else (h.vals.getD 2 0).toNat % 16 := by
  simp [State.spawned, bitsOf, towerOf]

/-- A spawned task is READY, so its entry is listed in any table of tasks. -/
theorem task_spawns_same (i : Nat) : (s.spawns h i).task i = s.spawned h := by
  have listed : s.spawned h ≠ {} := fun unlisted => TState.noConfusion (congrArg Task.state unlisted)
  exact (tget_tput_ne s.tasks i listed i).trans (if_pos rfl)

theorem task_spawns_ne (wf : twf {} s.tasks = true) {i j : Nat} (other : j ≠ i) : (s.spawns h i).task j = s.task j :=
  (task_modTask wf i (fun _ => s.spawned h) j).trans (if_neg other)

theorem performTspawn_full {x : OpA} (now : s.isDeferred = false) (full : s.freeEntry 64 = none) :
    s.performTspawn x h = s.writeNow h x.d (BitVec.allOnes 64) := by
  simp [State.performTspawn, full, now]

theorem performTspawn_spawns {x : OpA} {i : Nat} (now : s.isDeferred = false) (free : s.freeEntry 64 = some i) :
    s.performTspawn x h = (s.spawns h i).writeNow h x.d (BitVec.ofNat 64 i) := by
  have now' : (s.spawns h i).isDeferred = false := now
  simp only [State.performTspawn, free]
  exact if_neg (by rw [Bool.not_eq_true]; exact now')

end

/-- Settles O22: the operation leaves its completion step and performs at once (`quietOp_performs`); what it asks or traps with counts if
it is the first, and TSPAWN fills the lowest free entry or, with too few free, none. -/
theorem taskOperations : Obligations.TaskOperations := by
  unfold Obligations.TaskOperations
  refine ⟨fun s h q => ⟨fun x hp => ?tend, fun x hp => ?yield, fun x hp => ?trap⟩, ?tspawn⟩
  case tend => rw [exec_tend, execTend_performs hp, ask_performed]
  case yield => rw [exec_yield, execYield, quietOp_performs hp, ask_performed]
  case trap =>
    rw [exec_trap, execTrap, quietOp_performs hp, State.performTrap, opFailed_trap (committing_of_performing hp)]
  case tspawn =>
    intro x s h q v p done gives regs hp
    have now : done.isDeferred = false := isDeferred_performed (committing_of_performing hp)
    have run : exec (.tspawn x) s = .next (done.performTspawn x h) := by rw [exec_tspawn, execTspawn, quietOp_performs hp]
    refine ⟨fun full => ?_, fun i room inPool free lowest => ?_⟩
    · rw [performTspawn_full now (freeEntry_none full)] at run
      exact ⟨_, run, writeNow_keeps, lat_writeNow, sa_writeNow⟩
    · rw [performTspawn_spawns now (freeEntry_lowest room inPool free lowest)] at run
      exact ⟨_, _, run, writeNow_keeps (s := done.spawns h i), ⟨lat_writeNow (s := done.spawns h i), sa_writeNow (s := done.spawns h i)⟩,
        task_spawns_same (s := done) i, fun wf j other => task_spawns_ne (s := done) wf other, rfl, rfl, rfl, rfl, rfl, rfl, rfl,
        tower_spawned, fun k hk => sa_spawned hk⟩

end Sys2Proof.Machine
end

section
/-!
What FSET, FFAIL and FWAIT do as they perform (O23).
-/
open Sys2Proof

namespace Sys2Proof.Machine

section
variable {s : State} {h : HeldOp} {q : Completion}

/-! ### Resolving at the hub (R150, R153) -/

/-- An entry as a core's resolution leaves it: RSCOPE is device (R153, R154). -/
def Fut.resolvedBy (f : Fut) : Fate → Fut
  | .set v => { f with state := .set, value := v, rscope := 3 }
  | .failed st => { f with state := .failed, status := BitVec.ofNat 16 st, rscope := 3 }

theorem fut_endFuture_device (wf : twf {} s.futs = true) (k : Nat) (r : Fate) :
    (s.endFuture k r 3).fut k = (s.fut k).resolvedBy r := by
  obtain ⟨-, futs, -⟩ := endFuture_spec s k r 3
  obtain ⟨-, entry⟩ := futs wf
  cases r <;> exact entry

/-- FFAIL's status is the low half word of its operand (R155). -/
theorem resolvedBy_failed (f : Fut) (v : Word) : f.resolvedBy (.failed (v.toNat % 2 ^ 16)) =
    { f with state := .failed, status := v.extractLsb' 0 16, rscope := 3 } := by
  have low : BitVec.ofNat 16 (v.toNat % 2 ^ 16) = v.extractLsb' 0 16 := BitVec.eq_of_toNat_eq (by simp)
  rw [← low, Fut.resolvedBy]

/-- The handle that the head operation names. -/
abbrev HeldOp.handle (h : HeldOp) : Nat := regHandle (h.vals.getD 0 0)

theorem resolveOp_stale (noCommit : q.committing = false) (r : Fate) (stale : ¬s.FutLive h.handle s.curCtx) :
    (s.performed q).resolveOp h r =
      (s.performed q).fatal s.cur q.bseq q.baddr (2 ^ h.slot) 0x16 (BitVec.ofNat 64 h.handle) 0 0 :=
  (if_pos ((futStale_iff (s.performed q) _ _).2 stale)).trans (opFailed_fatal noCommit h _ _ _ _)

theorem resolveOp_late (noCommit : q.committing = false) (r : Fate) (live : s.FutLive h.handle s.curCtx)
    (late : (s.fut (h.handle % 2 ^ 20)).state ≠ .empty) : (s.performed q).resolveOp h r =
      (s.performed q).fatal s.cur q.bseq q.baddr (2 ^ h.slot) 0x20 ((s.performed q).freeArg 0x20) 0 0 :=
  (if_neg (ne_true_of_eq_false (futStale_false (s := s.performed q) live))).trans
    ((if_pos (bne_iff_ne.2 late)).trans (opFailed_fatal noCommit h _ _ _ _))

theorem resolveOp_empty (r : Fate) (live : s.FutLive h.handle s.curCtx) (empty : (s.fut (h.handle % 2 ^ 20)).state = .empty) :
    s.resolveOp h r = s.endFuture (h.handle % 2 ^ 20) r 3 :=
  (if_neg (ne_true_of_eq_false (futStale_false live))).trans (if_neg fun late => bne_iff_ne.1 late empty)

/-! ### Waiting (R154, R155) -/

theorem performFwait_stale (noCommit : q.committing = false) (stale : ¬s.FutLive h.handle s.curCtx) :
    (s.performed q).performFwait h =
      (s.performed q).fatal s.cur q.bseq q.baddr (2 ^ h.slot) 0x16 (BitVec.ofNat 64 h.handle) 0 0 :=
  (if_pos ((futStale_iff (s.performed q) _ _).2 stale)).trans (opFailed_fatal noCommit h _ _ _ _)

theorem performFwait_empty (live : s.FutLive h.handle s.curCtx) (empty : (s.fut (h.handle % 2 ^ 20)).state = .empty) :
    s.performFwait h = s.ask (.suspend 1 h.handle 0) :=
  (if_neg (ne_true_of_eq_false (futStale_false live))).trans (if_pos (beq_iff_eq.2 empty))

theorem performFwait_left (live : s.FutLive h.handle s.curCtx) (left : (s.fut (h.handle % 2 ^ 20)).state ≠ .empty) :
    s.performFwait h = s.acquireAt s.cur (s.fut (h.handle % 2 ^ 20)).rscope :=
  (if_neg (ne_true_of_eq_false (futStale_false live))).trans (if_neg fun empty => left (beq_iff_eq.1 empty))

theorem acquireAt_core (s : State) (lin : Nat) : s.acquireAt lin 0 = s := if_pos rfl

theorem acquired_acquireAt {n : Nat} (wider : n ≠ 0) : Acquired s (s.acquireAt s.cur n) := by
  rw [State.acquireAt, if_neg wider]
  exact acquired_invalidate s

end

/-- Settles O23: FSET and FFAIL are one resolution (`resolveOp`) with two fates, and FWAIT sorts the same handles; each performs at the head
of its completion step (`quietOp_performs`). -/
theorem futureOperations : Obligations.FutureOperations := by
  unfold Obligations.FutureOperations
  intro x s h q f v k e done live resolves fails
  have resolution {i : Instr} {r : Fate} {e' : Fut} (noCommit : q.committing = false) (run : exec i s = .next (done.resolveOp h r))
      (fate : e.resolvedBy r = e') : (¬live → fails i 0x16 (BitVec.ofNat 64 f)) ∧ (live → e.state ≠ .empty → ∃ a0, fails i 0x20 a0) ∧
        (live → e.state = .empty → resolves i e') := by
    refine ⟨fun stale => ?_, fun lives late => ⟨done.freeArg 0x20, ?_⟩, fun lives empty => ?_⟩
    · rw [resolveOp_stale noCommit r stale] at run
      exact run
    · rw [resolveOp_late noCommit r lives late] at run
      exact run
    · rw [resolveOp_empty (s := done) r lives empty] at run
      obtain ⟨keeps, futs, wakes⟩ := endFuture_spec done k r 3
      refine ⟨_, run, keeps, fun wf => ?_, wakes⟩
      obtain ⟨others, -⟩ := futs wf
      exact ⟨(fut_endFuture_device (s := done) wf k r).trans fate, others⟩
  refine ⟨fun hp => ?fset, fun hp => ?ffail, fun hp => ?fwait⟩
  case fset => exact resolution (committing_of_performing hp) (quietOp_performs hp _ State.performFset) rfl
  case ffail => exact resolution (committing_of_performing hp) (quietOp_performs hp _ State.performFfail) (resolvedBy_failed e v)
  case fwait =>
    have run : exec (.fwait x) s = .next (done.performFwait h) := quietOp_performs hp _ State.performFwait
    refine ⟨fun stale => ?_, fun lives empty => ?_, fun lives left core => ?_, fun lives left wider => ?_⟩
    · rw [performFwait_stale (committing_of_performing hp) stale] at run
      exact run
    · rw [performFwait_empty (s := done) lives empty, ask_performed] at run
      exact run
    · have scope : (done.fut (h.handle % 2 ^ 20)).rscope = 0 := core
      rw [performFwait_left (s := done) lives left, scope, acquireAt_core] at run
      exact run
    · rw [performFwait_left (s := done) lives left] at run
      exact ⟨_, run, acquired_acquireAt (s := done) wider⟩

end Sys2Proof.Machine
end

section
/-!
When a phase counts as completed (O30), and what arrivals and waits at barriers do as they perform (O24).
-/
open Sys2Proof

namespace Sys2Proof.Machine

/-! ### Phases (R165) -/

theorem phaseDone_iff (gen : BitVec 16) (g : Nat) : phaseDone gen g = true ↔ ((gen.toNat : Int) - g - 1) % 65536 < 32768 := by
  have bound := gen.isLt
  simp only [phaseDone, decide_eq_true_eq, BitVec.toNat_sub, BitVec.toNat_ofNat, show (1 : BitVec 16).toNat = 1 from rfl]
  omega

/-- The same distance on natural numbers, kept positive by two turns of GEN. -/
theorem phaseDone_iff_past (gen : BitVec 16) (g : Nat) :
    phaseDone gen g = true ↔ (gen.toNat + 2 ^ 17 - g % 2 ^ 16 - 1) % 2 ^ 16 < 2 ^ 15 := by
  rw [phaseDone_iff]
  omega

theorem phaseDone_false {gen : BitVec 16} {g : Nat} (ahead : ¬(gen.toNat + 2 ^ 17 - g % 2 ^ 16 - 1) % 2 ^ 16 < 2 ^ 15) :
    phaseDone gen g = false :=
  Bool.eq_false_iff.2 fun past => ahead ((phaseDone_iff_past gen g).1 past)

/-- The phase that GEN counts is open. -/
theorem phaseDone_current (gen : BitVec 16) : phaseDone gen gen.toNat = false := by
  rw [← Bool.not_eq_true, phaseDone_iff]
  omega

/-- A step of GEN completes the phase it leaves. -/
theorem phaseDone_next (gen : BitVec 16) : phaseDone (gen + 1) gen.toNat = true := by
  have bound := gen.isLt
  rw [phaseDone_iff, BitVec.toNat_add, show (1 : BitVec 16).toNat = 1 from rfl]
  omega

/-- Settles O30: the subtraction of 16-bit words is the one modulo 2^16 (`phaseDone_iff`). -/
theorem phaseCompleted : Obligations.PhaseCompleted := phaseDone_iff

section
variable {s : State} {r : BarRef} {id : Nat}

/-! ### The barrier that an id names for a task (R163, R167) -/

/-- The id names the barrier r for task i, bound or not (R163). -/
def State.Names (s : State) (i id : Nat) (r : BarRef) : Prop :=
  (id / 2 ^ 30 = 0 ∧ r = .group (groupKey (s.task i).gslot)) ∨ (id / 2 ^ 30 = 1 ∧ r = .device (id % 4096)) ∨
    (id / 2 ^ 30 = 2 ∧ r = .pod (id % 256))

/-- The barrier r, named by the id, serves task i: a group's its member, another the tasks of its context (R167). -/
def State.Serves (s : State) (i id : Nat) (r : BarRef) : Prop :=
  (id / 2 ^ 30 = 0 → (s.task i).gslot ≠ 65535) ∧ (id / 2 ^ 30 ≠ 0 → (s.bar r).bound = true ∧ (s.bar r).ctx = (s.task i).ctx)

theorem ne_pod_of_names {i : Nat} (named : s.Names i id r) (noPod : id / 2 ^ 30 ≠ 2) (k : Nat) : r ≠ .pod k := by
  obtain ⟨-, rfl⟩ | ⟨-, rfl⟩ | ⟨two, -⟩ := named
  · exact BarRef.noConfusion
  · exact BarRef.noConfusion
  · exact absurd two noPod

theorem eq_pod_of_names {i : Nat} (named : s.Names i id r) (two : id / 2 ^ 30 = 2) : r = .pod (id % 256) := by
  obtain ⟨zero, -⟩ | ⟨one, -⟩ | ⟨-, pod⟩ := named
  · omega
  · omega
  · exact pod

/-- The three branches of the identity. -/
theorem barNamed_cases (s : State) (i id : Nat) :
    (barKind id = 0 ∧ s.barNamed i id = .group (groupKey (s.task i).gslot)) ∨ (barKind id = 1 ∧ s.barNamed i id = .device (id % 4096)) ∨
      (2 ≤ barKind id ∧ s.barNamed i id = .pod (id % 256)) := by
  unfold State.barNamed
  by_cases group : barKind id = 0
  · exact .inl ⟨group, if_pos group⟩
  · by_cases device : barKind id = 1
    · exact .inr (.inl ⟨device, (if_neg group).trans (if_pos device)⟩)
    · exact .inr (.inr ⟨by omega, (if_neg group).trans (if_neg device)⟩)

theorem barKind_eq (id : Nat) : barKind id = id / 2 ^ 30 % 4 := rfl

theorem barNamed_of_names {i : Nat} (named : s.Names i id r) : s.barNamed i id = r := by
  have field := barKind_eq id
  obtain ⟨kind, rfl⟩ | ⟨kind, rfl⟩ | ⟨kind, rfl⟩ := named
  · exact if_pos (by omega)
  · exact (if_neg (by omega)).trans (if_pos (by omega))
  · exact (if_neg (by omega)).trans (if_neg (by omega))

theorem barRef_serves {i : Nat} (named : s.Names i id r) (serves : s.Serves i id r) : s.barRef i id = some r := by
  obtain ⟨member, bound⟩ := serves
  simp only [State.barRef, barNamed_of_names named]
  obtain ⟨kind, rfl⟩ | ⟨kind, rfl⟩ | ⟨kind, rfl⟩ := named
  · exact if_neg (member kind)
  · exact if_pos (by simpa using bound (by omega))
  · exact if_pos (by simpa using bound (by omega))

theorem barRef_stale {i : Nat} (named : s.Names i id r) (stale : ¬s.Serves i id r) : s.barRef i id = none := by
  simp only [State.barRef, barNamed_of_names named]
  obtain ⟨kind, rfl⟩ | ⟨kind, rfl⟩ | ⟨kind, rfl⟩ := named
  · exact if_pos (by_contra fun member => stale ⟨fun _ => member, fun other => absurd kind other⟩)
  all_goals exact if_neg fun bound => stale ⟨fun group => absurd (kind.symm.trans group) (by decide), fun _ => by simpa using bound⟩

/-! ### A barrier's entry written -/

theorem modBar_keeps (f : Barrier → Barrier) : s.modBar r f =
    { s with groups := (s.modBar r f).groups, devBars := (s.modBar r f).devBars, podBars := (s.modBar r f).podBars } := by
  cases r <;> rfl

theorem modBar_tasks (f : Barrier → Barrier) : (s.modBar r f).tasks = s.tasks := by rw [modBar_keeps]

/-- An entry written with something other than the reset entry reads back, whatever the tables. -/
theorem bar_modBar {f : Barrier → Barrier} (listed : f (s.bar r) ≠ {}) (r' : BarRef) :
    (s.modBar r f).bar r' = if r' = r then f (s.bar r) else s.bar r' := by
  cases r with
  | group k =>
    have listed' : ({ s.group k with bar := f (s.group k).bar } : Group) ≠ {} := fun reset => listed (congrArg Group.bar reset)
    cases r' with
    | group j =>
      refine (congrArg Group.bar (tget_tput_ne s.groups k listed' j)).trans ?_
      rw [apply_ite Group.bar]
      exact if_congr (BarRef.group.injEq j k).symm.to_iff rfl rfl
    | _ => rfl
  | device k =>
    cases r' with
    | device j => exact (tget_tput_ne s.devBars k listed j).trans (if_congr (BarRef.device.injEq j k).symm.to_iff rfl rfl)
    | _ => rfl
  | pod k =>
    cases r' with
    | pod j => exact (tget_tput_ne s.podBars k listed j).trans (if_congr (BarRef.pod.injEq j k).symm.to_iff rfl rfl)
    | _ => rfl

theorem bar_wakeAll (l : List Nat) (r : BarRef) : (s.wakeAll l).bar r = s.bar r := by
  rw [wakeAll_eq]
  cases r <;> rfl

theorem bar_writeNow (h : HeldOp) (d : Opnd) (v : Word) (r : BarRef) : (s.writeNow h d v).bar r = s.bar r := by
  cases r <;> rfl

/-! ### Waking (R131, R166) -/

/-- What decides which barriers serve a task: its group slot and its context. -/
def Task.place (w : Task) : Nat × Nat := (w.gslot, w.ctx)

/-- A task rewritten in its place, which no FREE entry has, whatever the table. -/
theorem place_modTask (s : State) {i : Nat} {f : Task → Task} (place : (f (s.task i)).place = (s.task i).place)
    (used : (f (s.task i)).state ≠ .free) (j : Nat) : ((s.modTask i f).task j).place = (s.task j).place := by
  have read : (s.modTask i f).task j = if j = i then f (s.task i) else s.task j :=
    tget_tput_ne s.tasks i (fun reset => used (congrArg Task.state reset)) j
  rw [read]
  split
  case isTrue same => rw [place, same]
  case isFalse => rfl

theorem place_wake (s : State) (i j : Nat) : ((s.wake i).task j).place = (s.task j).place := by
  simp only [State.wake]
  split
  case isTrue asleep =>
    have stays : (s.task i).state ≠ .free := fun free => by simp [free] at asleep
    split
    · split
      · exact place_modTask s rfl (by simp) j
      · exact place_modTask s rfl stays j
    · exact place_modTask s rfl (by simp) j
  case isFalse => rfl

theorem place_wakeAll (s : State) (l : List Nat) (j : Nat) : ((s.wakeAll l).task j).place = (s.task j).place := by
  induction l generalizing s with
  | nil => rfl
  | cons i l ih => exact (ih (s.wake i)).trans (place_wake s i j)

/-- Task w waits at the barrier r, whose entry is b, for a phase that GEN has passed. -/
def Barrier.Releases (b : Barrier) (r : BarRef) (w : Task) : Prop :=
  w.state = .suspended ∧ w.wkind = 3 ∧ phaseDone b.gen w.waddr = true ∧
    match r with
    | .group k => barKind w.wobj = 0 ∧ groupKey w.gslot = k ∧ w.gslot ≠ 65535
    | .device i => barKind w.wobj = 1 ∧ w.wobj % 4096 = i ∧ w.ctx = b.ctx
    | .pod i => 2 ≤ barKind w.wobj ∧ w.wobj % 256 = i ∧ w.ctx = b.ctx

theorem barNamed_eq_group {i k : Nat} : s.barNamed i id = .group k ↔ barKind id = 0 ∧ groupKey (s.task i).gslot = k := by
  obtain ⟨kind, named⟩ | ⟨kind, named⟩ | ⟨kind, named⟩ := barNamed_cases s i id <;> simp [named] <;> omega

theorem barNamed_eq_device {i k : Nat} : s.barNamed i id = .device k ↔ barKind id = 1 ∧ id % 4096 = k := by
  obtain ⟨kind, named⟩ | ⟨kind, named⟩ | ⟨kind, named⟩ := barNamed_cases s i id <;> simp [named] <;> omega

theorem barNamed_eq_pod {i k : Nat} : s.barNamed i id = .pod k ↔ 2 ≤ barKind id ∧ id % 256 = k := by
  obtain ⟨kind, named⟩ | ⟨kind, named⟩ | ⟨kind, named⟩ := barNamed_cases s i id <;> simp [named] <;> omega

theorem barWake_wakes (s : State) (r : BarRef) : Wakes s (s.barWake r) ((s.bar r).Releases r) := by
  rw [State.barWake, State.barWaiters, List.filter_filter]
  refine wakes_filter s _ _ (fun j _ => ?_) fun j waits => .inl (by simp at waits; tauto)
  cases r <;> simp [Barrier.Releases, barNamed_eq_group, barNamed_eq_device, barNamed_eq_pod] <;> tauto

theorem releases_iff {i : Nat} {b : Barrier} (named : s.Names i id r) (noPod : id / 2 ^ 30 ≠ 2) (w : Task) :
    b.Releases r w ↔ w.state = .suspended ∧ w.wkind = 3 ∧
      (id / 2 ^ 30 = 0 → barKind w.wobj = 0 ∧ w.gslot ≠ 65535 ∧ r = .group (groupKey w.gslot)) ∧
      (id / 2 ^ 30 = 1 → barKind w.wobj = 1 ∧ w.wobj % 4096 = id % 4096 ∧ w.ctx = b.ctx) ∧
      (b.gen.toNat + 2 ^ 17 - w.waddr % 2 ^ 16 - 1) % 2 ^ 16 < 2 ^ 15 := by
  rw [← phaseDone_iff_past]
  obtain ⟨zero, rfl⟩ | ⟨one, rfl⟩ | ⟨two, -⟩ := named
  · rw [zero, BarRef.group.injEq, eq_comm (b := groupKey w.gslot)]
    simp only [Barrier.Releases]
    tauto
  · rw [one]
    simp only [Barrier.Releases]
    tauto
  · exact absurd two noPod

end

section
variable {s u : State} {r : BarRef} {h : HeldOp} {q : Completion} {d : Opnd}

/-! ### An arrival counts at a group or device barrier (R166) -/

/-- Such an arrival has counted: below EXPECT it adds one to ARRIVED, else it completes the phase. -/
def State.arrivedAt (s : State) (r : BarRef) : State :=
  if (s.bar r).arrived + 1 < (s.bar r).expect then s.modBar r fun b => { b with arrived := b.arrived + 1 } else s.barComplete r

theorem barArrive_local (noPod : ∀ i, r ≠ .pod i) : s.barArrive r = ((s.bar r).gen, s.arrivedAt r) := by
  cases r with
  | pod i => exact absurd rfl (noPod i)
  | _ => rfl

theorem arrivedAt_open (below : (s.bar r).arrived + 1 < (s.bar r).expect) :
    s.arrivedAt r = s.modBar r fun b => { b with arrived := b.arrived + 1 } := if_pos below

theorem arrivedAt_last (last : (s.bar r).expect ≤ (s.bar r).arrived + 1) : s.arrivedAt r = s.barComplete r := if_neg (by omega)

theorem barComplete_keeps (s : State) (r : BarRef) : s.barComplete r = { s with
    groups := (s.barComplete r).groups, devBars := (s.barComplete r).devBars, podBars := (s.barComplete r).podBars,
    tasks := (s.barComplete r).tasks } := by
  simp only [State.barComplete, State.barWake]
  rw [wakeAll_eq, modBar_keeps]

theorem arrivedAt_keeps (s : State) (r : BarRef) : s.arrivedAt r = { s with
    groups := (s.arrivedAt r).groups, devBars := (s.arrivedAt r).devBars, podBars := (s.arrivedAt r).podBars,
    tasks := (s.arrivedAt r).tasks } := by
  unfold State.arrivedAt
  split
  · rw [modBar_keeps]
  · exact barComplete_keeps s r

theorem arrivedAt_core (s : State) (r : BarRef) : (s.arrivedAt r).core = s.core := by rw [arrivedAt_keeps]

/-- A barrier that expects arrivals is no reset entry. -/
theorem listed_of_expect {b : Barrier} (counts : b.expect ≠ 0) : b ≠ {} := fun reset => counts (congrArg Barrier.expect reset)

theorem bar_arrivedAt_open (below : (s.bar r).arrived + 1 < (s.bar r).expect) (r' : BarRef) :
    (s.arrivedAt r).bar r' = if r' = r then { s.bar r with arrived := (s.bar r).arrived + 1 } else s.bar r' := by
  rw [arrivedAt_open below]
  exact bar_modBar (listed_of_expect (show (s.bar r).expect ≠ 0 by omega)) r'

/-- A barrier's entry as the end of its phase leaves it. -/
def Barrier.phaseEnd (b : Barrier) : Barrier := { b with arrived := 0, gen := b.gen + 1 }

/-- That entry, before its waiters are READY. -/
theorem bar_phaseEnd (counts : (s.bar r).expect ≠ 0) (r' : BarRef) :
    (s.modBar r Barrier.phaseEnd).bar r' = if r' = r then (s.bar r).phaseEnd else s.bar r' :=
  bar_modBar (listed_of_expect counts) r'

theorem bar_arrivedAt_last (counts : (s.bar r).expect ≠ 0) (last : (s.bar r).expect ≤ (s.bar r).arrived + 1) (r' : BarRef) :
    (s.arrivedAt r).bar r' = if r' = r then (s.bar r).phaseEnd else s.bar r' := by
  rw [arrivedAt_last last, State.barComplete, State.barWake, bar_wakeAll]
  exact bar_phaseEnd counts r'

/-- The end of a phase makes READY the tasks whose phases it completes (R166). -/
theorem arrivedAt_wakes (counts : (s.bar r).expect ≠ 0) (last : (s.bar r).expect ≤ (s.bar r).arrived + 1) :
    Wakes s (s.arrivedAt r) ((s.bar r).phaseEnd.Releases r) := by
  rw [arrivedAt_last last]
  have woken := barWake_wakes (s.modBar r Barrier.phaseEnd) r
  rw [(bar_phaseEnd counts r).trans (if_pos rfl)] at woken
  simp only [Wakes, State.task, modBar_tasks] at woken
  exact woken

theorem place_arrivedAt (s : State) (r : BarRef) (j : Nat) : ((s.arrivedAt r).task j).place = (s.task j).place := by
  have written (f : Barrier → Barrier) : (s.modBar r f).task j = s.task j := by rw [State.task, modBar_tasks, State.task]
  unfold State.arrivedAt
  split
  · rw [written]
  · rw [← written Barrier.phaseEnd]
    exact place_wakeAll _ _ j

/-- Such an arrival by the operation h, which writes the generation it arrived in (R172). -/
def State.arrival (s : State) (h : HeldOp) (d : Opnd) (r : BarRef) : State := (s.arrivedAt r).writeNow h d ((s.bar r).gen.setWidth 64)

theorem arrival_keeps (s : State) (h : HeldOp) (d : Opnd) (r : BarRef) : s.arrival h d r = { s with
    groups := (s.arrival h d r).groups, devBars := (s.arrival h d r).devBars, podBars := (s.arrival h d r).podBars,
    tasks := (s.arrival h d r).tasks,
    core := { s.core with regs := { s.core.regs with sa := (s.arrival h d r).core.regs.sa, lat := (s.arrival h d r).core.regs.lat } } } := by
  obtain ⟨groups, devBars, podBars, tasks, arrived⟩ : ∃ groups devBars podBars tasks, s.arrivedAt r =
    { s with groups := groups, devBars := devBars, podBars := podBars, tasks := tasks } := ⟨_, _, _, _, arrivedAt_keeps s r⟩
  rw [State.arrival, arrived]
  exact writeNow_keeps

theorem compl_arrival : (s.arrival h d r).core.compl = s.core.compl := by rw [arrival_keeps]

theorem curTask_arrival : (s.arrival h d r).curTask = s.curTask := by
  rw [arrival_keeps]
  rfl

theorem sa_arrival (wf : twf 0 s.core.regs.sa = true) (k : Fin 64) : tget 0 (s.arrival h d r).core.regs.sa k =
    if d = .sreg k then (s.bar r).gen.setWidth 64 else tget 0 s.core.regs.sa k := by
  rw [State.arrival, sa_writeNow (by rwa [arrivedAt_core]), arrivedAt_core]

theorem lat_arrival (wf : twf 0 s.core.regs.lat = true) (k : Nat) : tget 0 (s.arrival h d r).core.regs.lat k =
    if k = h.slot then (s.bar r).gen.setWidth 64 else tget 0 s.core.regs.lat k := by
  rw [State.arrival, lat_writeNow (by rwa [arrivedAt_core]), arrivedAt_core]

theorem bar_arrival_open (below : (s.bar r).arrived + 1 < (s.bar r).expect) (r' : BarRef) :
    (s.arrival h d r).bar r' = if r' = r then { s.bar r with arrived := (s.bar r).arrived + 1 } else s.bar r' :=
  (bar_writeNow h d _ r').trans (bar_arrivedAt_open below r')

theorem bar_arrival_last (counts : (s.bar r).expect ≠ 0) (last : (s.bar r).expect ≤ (s.bar r).arrived + 1) (r' : BarRef) :
    (s.arrival h d r).bar r' = if r' = r then (s.bar r).phaseEnd else s.bar r' :=
  (bar_writeNow h d _ r').trans (bar_arrivedAt_last counts last r')

theorem tasks_arrival_open (below : (s.bar r).arrived + 1 < (s.bar r).expect) : (s.arrival h d r).tasks = s.tasks :=
  (congrArg State.tasks (arrivedAt_open below)).trans (modBar_tasks _)

/-- An arrival moves no task to another group or context, and unbinds no barrier: the id still names it. -/
theorem barRef_arrival {id : Nat} (named : s.Names s.curTask id r) (serves : s.Serves s.curTask id r) (counts : (s.bar r).expect ≠ 0) :
    (s.arrival h d r).barRef (s.arrival h d r).curTask id = some r := by
  rw [curTask_arrival]
  obtain ⟨gslot, ctx⟩ : ((s.arrival h d r).task s.curTask).gslot = (s.task s.curTask).gslot ∧
      ((s.arrival h d r).task s.curTask).ctx = (s.task s.curTask).ctx := Prod.mk.inj (place_arrivedAt s r s.curTask)
  obtain ⟨bound, owner⟩ : ((s.arrival h d r).bar r).bound = (s.bar r).bound ∧ ((s.arrival h d r).bar r).ctx = (s.bar r).ctx := by
    by_cases below : (s.bar r).arrived + 1 < (s.bar r).expect
    · rw [bar_arrival_open below, if_pos rfl]
      exact ⟨rfl, rfl⟩
    · rw [bar_arrival_last counts (by omega), if_pos rfl]
      exact ⟨rfl, rfl⟩
  refine barRef_serves ?_ ?_
  · rw [State.Names, gslot]
    exact named
  · rw [State.Serves, bound, owner, gslot, ctx]
    exact serves

/-! ### The operation of an arrival (R167, R170, R172) -/

/-- The barrier id that the head operation holds. -/
abbrev HeldOp.bar (h : HeldOp) : Nat := barId (h.vals.getD 0 0)

theorem barStale_performed (live : q.committing = false) : (s.performed q).barStale h =
    (s.performed q).fatal s.cur q.bseq q.baddr (2 ^ h.slot) 0x22 ((s.performed q).freeArg 0x22) 0 0 :=
  opFailed_fatal live h _ _ _ _

theorem barLost_performed (live : q.committing = false) (id seat : Nat) : (s.performed q).barLost h id seat =
    (s.performed q).fatal s.cur q.bseq q.baddr (2 ^ h.slot) 0x2D (BitVec.ofNat 64 id) (BitVec.ofNat 64 seat) 0 :=
  opFailed_fatal live h _ _ _ _

section
variable (fresh : s.core.compl.bind (fun q => q.arrivedGen) = none)
include fresh

theorem arriveOp_stale (nameless : s.barRef s.curTask h.bar = none) : s.arriveOp h d = (none, s.barStale h) := by
  simp only [State.arriveOp, fresh, nameless]

variable (found : s.barRef s.curTask h.bar = some r)
include found

theorem arriveOp_lost (lost : (s.bar r).lost = true) : s.arriveOp h d = (none, s.barLost h h.bar (s.bar r).lostSeat) := by
  simp only [State.arriveOp, fresh, found, lost, if_true]

theorem arriveOp_idle (sound : (s.bar r).lost = false) (idle : (s.bar r).expect = 0) : s.arriveOp h d = (none, s.barStale h) := by
  simp only [State.arriveOp, fresh, found, sound, idle, Bool.false_eq_true, if_false, if_true]

/-- An arrival that counts writes the generation it arrived in. -/
theorem arriveOp_counts (sound : (s.bar r).lost = false) (counts : (s.bar r).expect ≠ 0) {g : BitVec 16}
    (arrived : s.barArrive r = (g, u)) (now : u.isDeferred = false) : s.arriveOp h d = (some g, u.writeNow h d (g.setWidth 64)) := by
  simp only [State.arriveOp, fresh, found, sound, counts, arrived, now, Bool.false_eq_true, if_false]

theorem arriveOp_local (sound : (s.bar r).lost = false) (counts : (s.bar r).expect ≠ 0) (noPod : ∀ i, r ≠ .pod i)
    (now : s.isDeferred = false) : s.arriveOp h d = (some (s.bar r).gen, s.arrival h d r) :=
  arriveOp_counts fresh found sound counts (barArrive_local noPod) (by rwa [State.isDeferred, arrivedAt_core])

/-- An arrival at a pod barrier that stays below EXPECT (R166). -/
theorem arriveOp_pod {i : Nat} (pod : r = .pod i) (sound : (s.bar r).lost = false) (below : (s.bar r).arrived + 1 < (s.bar r).expect)
    (now : s.isDeferred = false) : s.arriveOp h d = (some (s.bar r).agen,
      (s.modBar r fun b => { b with arrived := b.arrived + 1 }).writeNow h d ((s.bar r).agen.setWidth 64)) := by
  subst pod
  refine arriveOp_counts fresh found sound (by omega) ?_ now
  have below' : (s.podBar i).arrived + 1 < (s.podBar i).expect := below
  simp only [State.barArrive, State.podArrive, below', if_true, Bool.false_eq_true, if_false]

end

/-! ### A wait (R170, R171, R172) -/

section
variable {id g : Nat}

theorem waitOp_stale (nameless : s.barRef s.curTask id = none) : s.waitOp h id g = s.barStale h := by
  simp only [State.waitOp, nameless]

variable (found : s.barRef s.curTask id = some r)
include found

theorem waitOp_past (past : phaseDone (s.bar r).gen g = true) : s.waitOp h id g = s.acquireAt s.cur (barScope id) := by
  simp only [State.waitOp, found, past, if_true]

theorem waitOp_lost (current : phaseDone (s.bar r).gen g = false) (lost : (s.bar r).lost = true) :
    s.waitOp h id g = s.barLost h id (s.bar r).lostSeat := by
  simp only [State.waitOp, found, current, lost, Bool.false_eq_true, if_false, if_true]

theorem waitOp_open (current : phaseDone (s.bar r).gen g = false) (sound : (s.bar r).lost = false) :
    s.waitOp h id g = s.ask (.suspend 3 id g) := by
  simp only [State.waitOp, found, current, sound, Bool.false_eq_true, if_false]

end

theorem compl_ask (compl : s.core.compl = some q) (a : Ask) :
    (s.ask a).core.compl = some { q with ask := if q.ask = .none then a else q.ask } := by
  simp only [State.ask, State.modCompl, State.onCore, compl, Option.map_some]
  split <;> rfl

theorem Acquired.compl (acquired : Acquired s u) : u.core.compl = s.core.compl := by
  obtain ⟨keeps, -⟩ := acquired
  rw [keeps]

theorem Acquired.bar (acquired : Acquired s u) (r : BarRef) : u.bar r = s.bar r := by
  obtain ⟨keeps, -⟩ := acquired
  rw [keeps]
  cases r <;> rfl

theorem bar_ask (a : Ask) (r : BarRef) : (s.ask a).bar r = s.bar r := by
  cases r <;> rfl

/-! ### BARX: the arrival, and a wait for the phase it counts in (R172) -/

section
variable {x : OpA} (fresh : s.core.compl.bind (fun q => q.arrivedGen) = none) (now : s.isDeferred = false)
  (named : s.Names s.curTask h.bar r) (serves : s.Serves s.curTask h.bar r) (noPod : ∀ i, r ≠ .pod i) (sound : (s.bar r).lost = false)
include fresh now named serves noPod sound

theorem performBarx_local (counts : (s.bar r).expect ≠ 0) :
    s.performBarx x h = (s.arrival h x.d r).waitOp h h.bar (s.bar r).gen.toNat := by
  rw [State.performBarx, arriveOp_local fresh (barRef_serves named serves) sound counts noPod now]

theorem performBarx_open (below : (s.bar r).arrived + 1 < (s.bar r).expect) :
    s.performBarx x h = (s.arrival h x.d r).ask (.suspend 3 h.bar (s.bar r).gen.toNat) := by
  have counts : (s.bar r).expect ≠ 0 := by omega
  have entry := (bar_arrival_open (h := h) (d := x.d) below r).trans (if_pos rfl)
  rw [performBarx_local fresh now named serves noPod sound counts]
  refine waitOp_open (barRef_arrival named serves counts) ?_ ?_
  · rw [entry]
    exact phaseDone_current _
  · rw [entry]
    exact sound

theorem performBarx_last (counts : (s.bar r).expect ≠ 0) (last : (s.bar r).expect ≤ (s.bar r).arrived + 1) :
    s.performBarx x h = (s.arrival h x.d r).acquireAt (s.arrival h x.d r).cur (barScope h.bar) := by
  have entry := (bar_arrival_last (h := h) (d := x.d) counts last r).trans (if_pos rfl)
  rw [performBarx_local fresh now named serves noPod sound counts]
  refine waitOp_past (barRef_arrival named serves counts) ?_
  rw [entry]
  exact phaseDone_next _

end

end

/-- Settles O24: an arrival at a group or device barrier is `State.arrival`, whose entry, wakes and frame are the lemmas above; BARW and
PBARW are one wait (`waitOp`), and BARX an arrival followed by that wait on the generation it counted in. -/
theorem barrierOperations : Obligations.BarrierOperations := by
  unfold Obligations.BarrierOperations
  intro x s h q r id kind slot b done named valid fails past waiting arrives waits names
  have names' : done.Names done.curTask h.bar r := names
  have stale' (stale : ¬valid) : done.barRef done.curTask h.bar = none := barRef_stale names' stale
  have found' (serves : valid) : done.barRef done.curTask h.bar = some r := barRef_serves names' serves
  have refusals {i : Instr} (live : q.committing = false) (fresh : q.arrivedGen = none) (run : exec i s = .next (done.performBara x h)) :
      (¬valid → ∃ a0, fails i 0x22 a0 0) ∧
      (valid → b.lost = true → fails i 0x2D (BitVec.ofNat 64 id) (BitVec.ofNat 64 b.lostSeat)) ∧
      (valid → b.lost = false → b.expect = 0 → ∃ a0, fails i 0x22 a0 0) := by
    refine ⟨fun stale => ⟨done.freeArg 0x22, ?_⟩, fun serves lost => ?_, fun serves sound idle => ⟨done.freeArg 0x22, ?_⟩⟩
    · rw [State.performBara, arriveOp_stale (s := done) fresh (stale' stale), barStale_performed live] at run
      exact run
    · rw [State.performBara, arriveOp_lost (s := done) fresh (found' serves) lost, barLost_performed live] at run
      exact run
    · rw [State.performBara, arriveOp_idle (s := done) fresh (found' serves) sound idle, barStale_performed live] at run
      exact run
  have waiter {i : Instr} (live : q.committing = false) (run : exec i s = .next (done.performBarw h)) :
      (¬valid → ∃ a0, fails i 0x22 a0 0) ∧ (valid → waits i) := by
    refine ⟨fun stale => ⟨done.freeArg 0x22, ?_⟩, fun serves => ⟨fun gone => ?_, fun current lost => ?_, fun current sound => ?_⟩⟩
    · rw [State.performBarw, waitOp_stale (stale' stale), barStale_performed live] at run
      exact run
    · rw [State.performBarw, waitOp_past (found' serves) ((phaseDone_iff_past _ _).2 gone)] at run
      exact ⟨_, run, acquired_acquireAt (s := done) (Nat.succ_ne_zero _)⟩
    · rw [State.performBarw, waitOp_lost (found' serves) (phaseDone_false current) lost, barLost_performed live] at run
      exact run
    · rw [State.performBarw, waitOp_open (found' serves) (phaseDone_false current) sound, ask_performed] at run
      exact run
  refine ⟨fun hp fresh => ?bara, fun hp fresh => ?pbara, fun hp => waiter (committing_of_performing hp) ?barw,
    fun hp => waiter (committing_of_performing hp) ?pbarw, fun hp fresh serves sound near wfG wfD => ?barx⟩
  case barw => exact quietOp_performs hp _ State.performBarw
  case pbarw => exact quietOp_performs hp _ State.performBarw
  case bara =>
    have now := isDeferred_performed (s := s) (committing_of_performing hp)
    have run : exec (.bara x) s = .next (done.performBara x h) := quietOp_performs hp _ _
    obtain ⟨stale, lost, idle⟩ := refusals (committing_of_performing hp) fresh run
    refine ⟨stale, lost, idle, fun serves sound counts near => ?_⟩
    rw [State.performBara, arriveOp_local (s := done) fresh (found' serves) sound counts (ne_pod_of_names names' near) now] at run
    refine ⟨_, run, arrival_keeps done h x.d r, sa_arrival (s := done), lat_arrival (s := done),
      fun below => ⟨tasks_arrival_open (s := done) below, fun _ _ _ => ?_⟩, fun last => ⟨fun _ _ _ => ?_, ?_⟩⟩
    · have entry := bar_arrival_open (s := done) (h := h) (d := x.d) below
      exact ⟨(entry r).trans (if_pos rfl), fun r' other => (entry r').trans (if_neg other)⟩
    · have entry := bar_arrival_last (s := done) (h := h) (d := x.d) counts last
      exact ⟨(entry r).trans (if_pos rfl), fun r' other => (entry r').trans (if_neg other)⟩
    · have woken : Wakes done (done.arrivedAt r) (b.phaseEnd.Releases r) := arrivedAt_wakes (s := done) counts last
      rw [show b.phaseEnd.Releases r = waiting from funext fun w => propext (releases_iff names' near w)] at woken
      exact woken
  case pbara =>
    have now := isDeferred_performed (s := s) (committing_of_performing hp)
    have run : exec (.pbara x) s = .next (done.performBara x h) := quietOp_performs hp _ _
    obtain ⟨stale, lost, -⟩ := refusals (committing_of_performing hp) fresh run
    refine ⟨stale, lost, fun serves sound two below => ?_⟩
    have pod : r = .pod (id % 256) := eq_pod_of_names names' two
    rw [State.performBara, arriveOp_pod (s := done) fresh (found' serves) pod sound below now] at run
    refine ⟨_, run, ?_, fun wf => ?_, fun _ => ?_⟩
    · rw [pod]
      exact writeNow_keeps
    · refine (lat_writeNow ?_ _).trans (if_pos rfl)
      rw [pod]
      exact wf
    · rw [bar_writeNow, bar_modBar (listed_of_expect (show b.expect ≠ 0 by omega)), if_pos rfl]
      rfl
  case barx =>
    have now := isDeferred_performed (s := s) (committing_of_performing hp)
    have run : exec (.barx x) s = .next (done.performBarx x h) := quietOp_performs hp _ _
    have compl : (done.arrival h x.d r).core.compl = some { q with ops := q.ops.tail } := compl_arrival
    refine ⟨fun below => ?_, fun counts last => ?_⟩
    · rw [performBarx_open (s := done) fresh now names' serves (ne_pod_of_names names' near) sound below] at run
      exact ⟨_, run, (bar_ask _ r).trans ((bar_arrival_open (s := done) below r).trans (if_pos rfl)), compl_ask compl _⟩
    · rw [performBarx_last (s := done) fresh now names' serves (ne_pod_of_names names' near) sound counts last] at run
      have acquired := acquired_acquireAt (s := done.arrival h x.d r) (n := barScope h.bar) (Nat.succ_ne_zero _)
      exact ⟨_, run, (acquired.bar r).trans ((bar_arrival_last (s := done) counts last r).trans (if_pos rfl)), acquired.compl.trans compl⟩

end Sys2Proof.Machine
end

section
/-!
The snapshot of a quiescent bundle (O31).
-/
open Sys2Proof

namespace Sys2Proof.Machine

variable {s : State} {b : Issue}

/-! ### The completion step that a quiescent bundle begins (R52, R176) -/

/-- What follows the bundle in issue. -/
def State.nextOf (s : State) (b : Issue) : NextPc := nextAfter s.core.loops b.baddr b.len b.quiet b.redir s.requested

theorem compl_closeIssue (issued : s.core.iss = some b) (quiet : b.quiet = true) :
    s.closeIssue.core.compl = some (b.completion (s.nextOf b).pc s.cycle) := by
  simp only [State.closeIssue, issued, State.onCore]
  exact if_pos quiet

theorem nextOf_xfer {t : Nat} {ends : Bool} (taken : b.redir = .xfer t ends) : (s.nextOf b).pc = t := by
  rw [State.nextOf, taken]
  rfl

/-- A quiescent bundle ends no pass, so its successor is the sequential one in a loop too (R52). -/
theorem nextOf_seq (quiet : b.quiet = true) (none : b.redir = .seq) : (s.nextOf b).pc = b.baddr + b.len := by
  rw [State.nextOf, none]
  cases s.core.loops with
  | nil => rw [nextAfter_noLoop (t := 0) (by simp)]
  | cons l rest => rw [nextAfter_inside (.inr quiet)]

/-! ### The snapshot it takes -/

@[simp] theorem reserve_core (s : State) (key : Nat) : (s.reserve key).core = s.core := by
  unfold State.reserve
  dsimp only
  split
  · rfl
  split
  · split
    · rfl
    · simp
  split <;> simp

@[simp] theorem clearNext_core (s : State) (i : Nat) : (s.clearNext i).core = s.core :=
  List.foldlRecOn (motive := fun u : State => u.core = s.core) _ _ rfl fun u kept k _ => by simp [kept]

theorem snap_finishCompl_tend {q : Completion} (tend : q.ask = .tend) : (s.finishCompl q).core.snap = s.core.capture q.next := by
  simp [State.finishCompl, tend, State.modCompl, State.onCore]

/-- Settles O31: TEND's completion step keeps the snapshot, whose next bundle is the one that closed the issue. -/
theorem snapshotAddress : Obligations.SnapshotAddress := by
  unfold Obligations.SnapshotAddress
  intro s b issued quiet
  refine ⟨_, compl_closeIssue issued quiet, fun t ends taken => nextOf_xfer taken, nextOf_seq quiet, fun u => ?_⟩
  rw [snap_finishCompl_tend rfl]
  rfl

end Sys2Proof.Machine
end

section
/-!
Pegs, streams and the tick lock (O57).
-/
open Sys2Proof

namespace Sys2Proof.Machine

/-! ### What leaves a stream (R401, R403) -/

section
variable {t u : Stream} {x : QFlit} {r : List QFlit}

/-- The flits of a stream in emission order. -/
def Stream.flits (t : Stream) : List QFlit := t.retr ++ t.relay ++ t.loc

theorem next_eq_none : t.next = none ↔ t.retr = [] ∧ t.relay = [] ∧ t.loc = [] := by
  unfold Stream.next
  split <;> simp_all

theorem next_retr (retr : t.retr = x :: r) : t.next = some (x, { t with retr := r }) := by simp only [Stream.next, retr]
theorem next_relay (retr : t.retr = []) (relay : t.relay = x :: r) : t.next = some (x, { t with relay := r }) := by
  simp only [Stream.next, retr, relay]
theorem next_loc (retr : t.retr = []) (relay : t.relay = []) (loc : t.loc = x :: r) : t.next = some (x, { t with loc := r }) := by
  simp only [Stream.next, retr, relay, loc]

/-- The next flit is the first in emission order, and the others stay. -/
theorem flits_next (next : t.next = some (x, u)) : t.flits = x :: u.flits := by
  unfold Stream.next at next
  split at next <;> cases next <;> simp_all [Stream.flits]

/-- A flit's leaving counts in SENT (R403). -/
def Stream.counted (t : Stream) : Stream := { t with sent := (t.sent + 1) % 2 ^ 24 }

theorem take_full (full : t.shadow = 0) (n : Nat) : t.take n = ([], t) := by
  cases n with
  | zero => rfl
  | succ n => exact if_pos full

theorem take_empty (empty : t.next = none) (n : Nat) : t.take n = ([], t) := by
  cases n with
  | zero => rfl
  | succ n => simp [Stream.take, empty]

theorem take_next (room : t.shadow ≠ 0) (next : t.next = some (x, u)) (n : Nat) :
    t.take (n + 1) = (x :: (u.counted.take n).1, (u.counted.take n).2) := by
  simp only [Stream.take, if_neg room, next]
  rfl

/-- A stream gives up nothing, or its next flit first. -/
theorem take_cases (t : Stream) (n : Nat) : t.take (n + 1) = ([], t) ∨
    ∃ x u, t.next = some (x, u) ∧ t.take (n + 1) = (x :: (u.counted.take n).1, (u.counted.take n).2) := by
  by_cases full : t.shadow = 0
  · exact .inl (take_full full _)
  · cases next : t.next with
    | none => exact .inl (take_empty next _)
    | some e => exact .inr ⟨e.1, e.2, rfl, take_next full next n⟩

theorem length_take_le (t : Stream) (n : Nat) : (t.take n).1.length ≤ n := by
  induction n generalizing t with
  | zero => exact Nat.le_refl 0
  | succ n ih =>
    obtain none | ⟨x, u, -, taken⟩ := take_cases t n
    · rw [none]
      exact Nat.zero_le _
    · rw [taken]
      exact Nat.succ_le_succ (ih _)

/-- What leaves and what stays are the stream's flits in their order. -/
theorem flits_take (t : Stream) (n : Nat) : (t.take n).1 ++ (t.take n).2.flits = t.flits := by
  induction n generalizing t with
  | zero => rfl
  | succ n ih =>
    obtain none | ⟨x, u, next, taken⟩ := take_cases t n
    · rw [none]
      rfl
    · rw [taken, flits_next next]
      exact congrArg (x :: ·) (ih u.counted)

end

/-! ### The flits of a slot on the lines of a stripe (R401, R404) -/

section
variable {α β : Type}

theorem zip_range_eq_zipIdx (l : List α) : l.zip (List.range l.length) = l.zipIdx := by
  rw [List.zipIdx_eq_zip_range', List.range_eq_range']

theorem map_zipIdx_eq (f : α × Nat → β) (l : List α) :
    l.zipIdx.map f = (List.range l.length).filterMap fun n => l[n]?.map fun x => f (x, n) := by
  induction l using List.reverseRecOn with
  | nil => rfl
  | append_singleton l a ih =>
    have before : ∀ n ∈ List.range l.length, (l ++ [a])[n]?.map (fun x => f (x, n)) = l[n]?.map fun x => f (x, n) := fun n inside => by
      rw [List.getElem?_append_left (List.mem_range.mp inside)]
    simp [List.zipIdx_append, ih, List.range_succ, List.filterMap_congr before]

end

/-- Where the n-th flit of a slot leaves: its band and its position on that line. -/
def flitPlace (bands : List Nat) (n : Nat) : Nat × Nat := (bands.getD (n % bands.length) 0, n / bands.length)

/-- The flits that leave on a band, by their positions. -/
def lineFlits (bands : List Nat) (l : List QFlit) (b : Nat) : List (Nat × QFlit) :=
  (l.zipIdx.filter fun i => (flitPlace bands i.2).1 == b).map fun i => ((flitPlace bands i.2).2, i.1)

theorem mem_lineFlits {bands : List Nat} {l : List QFlit} {b pos : Nat} {x : QFlit} :
    (pos, x) ∈ lineFlits bands l b ↔ ∃ n, l[n]? = some x ∧ bands.getD (n % bands.length) 0 = b ∧ n / bands.length = pos := by
  simp [lineFlits, flitPlace, List.mem_zipIdx_iff_getElem?, and_assoc]

/-- What of a slot waits for ACKs, line by line (R404). -/
def awaited (tick : Nat) (bands : List Nat) (l : List QFlit) : List Unacked :=
  bands.map fun b => { tick := tick, band := b, items := lineFlits bands l b }

section
variable {s t u : State} {p q : Plane}

theorem modPlane_congr {f g : PlaneSt → PlaneSt} (same : f (s.plane p) = g (s.plane p)) : s.modPlane p f = s.modPlane p g := by
  cases p with
  | x => exact congrArg (fun q => { s with planeX := q }) same
  | y => exact congrArg (fun q => { s with planeY := q }) same

theorem modPlane_eq_self {f : PlaneSt → PlaneSt} (same : f (s.plane p) = s.plane p) : s.modPlane p f = s :=
  (modPlane_congr (g := id) same).trans (by cases p <;> rfl)

theorem modPlane_modPlane (f g : PlaneSt → PlaneSt) : (s.modPlane p f).modPlane p g = s.modPlane p fun q => g (f q) := by cases p <;> rfl

/-! ### Messages to a neighbour stay on its plane (R389, R390) -/

theorem peerPod_lt (n : Nat) : peerPod n < 32 := Nat.mod_lt _ (by decide)
theorem peerSeat_lt (n : Nat) : peerSeat n < 32 := Nat.mod_lt _ (by decide)

theorem neighbour_lt (own : Nat) (p : Plane) (k : Nat) : neighbour own p k < 1024 := by
  have pod := peerPod_lt own
  have seat := peerSeat_lt own
  cases p <;> simp only [neighbour] <;> omega

/-- The first hop to a neighbour is on the plane that reaches it; a residue of 0 names the device itself. -/
theorem hopFrom_neighbour (own : Nat) (p : Plane) (k : Nat) :
    hopFrom own (neighbour own p k) = none ∨ ∃ j, hopFrom own (neighbour own p k) = some (p, j) := by
  have pod := peerPod_lt own
  have seat := peerSeat_lt own
  unfold hopFrom
  cases p with
  | x =>
    have same : peerPod (neighbour own .x k) = peerPod own := by
      rw [peerPod, neighbour]
      omega
    rw [if_pos same]
    split
    · exact .inl rfl
    · exact .inr ⟨_, rfl⟩
  | y =>
    have same : peerSeat (neighbour own .y k) = peerSeat own := by
      rw [peerSeat, neighbour]
      omega
    rw [if_pos same]
    split
    · exact .inl rfl
    · exact .inr ⟨_, rfl⟩

theorem ctlDest_eq (m : BitVec 128) : ctlDest m = m.toNat / 2 ^ 4 % 2 ^ 10 := by
  rw [ctlDest, BitVec.extractLsb'_toNat, Nat.shiftRight_eq_div_pow]

theorem toNat_ofNat_field {lo w : Nat} (inside : lo + w ≤ 128) (n : Nat) :
    (BitVec.ofNat 128 n).toNat / 2 ^ lo % 2 ^ w = n / 2 ^ lo % 2 ^ w := by
  obtain ⟨above, width⟩ := Nat.exists_eq_add_of_le inside
  rw [BitVec.toNat_ofNat, width, Nat.add_assoc, Nat.pow_add, Nat.mod_mul_right_div_self, Nat.pow_add, Nat.mod_mul_right_mod]

theorem ctlDest_ctlWord (type dest src plane fields w1 : Nat) : ctlDest (ctlWord type dest src plane fields w1) = dest % 1024 := by
  rw [ctlDest_eq, ctlWord, toNat_ofNat_field (by decide)]
  generalize fields % 2 ^ 39 = f
  generalize w1 % 2 ^ 64 = w
  omega

theorem queueCtl_eq (m : BitVec 128) : s.queueCtl m = (hopFrom s.hub.peer (ctlDest m)).elim s fun h =>
    s.modPlane h.1 fun q => { q with ctl := tmod [] q.ctl h.2 fun l => l ++ [m] } := by
  unfold State.queueCtl
  cases hopFrom s.hub.peer (ctlDest m) <;> rfl

/-- A message of this device to a neighbour joins a queue of the plane that reaches it. -/
theorem sendCtl_neighbour (s : State) (p : Plane) (k type : Nat) (plane : Plane) (fields w1 : Nat) :
    ∃ c, s.sendCtl type (neighbour s.hub.peer p k) plane fields w1 = s.modPlane p fun q => { q with ctl := c } := by
  have dest := (ctlDest_ctlWord type (neighbour s.hub.peer p k) s.hub.peer (planeNum plane) fields w1).trans
    (Nat.mod_eq_of_lt (neighbour_lt ..))
  rw [State.sendCtl, queueCtl_eq, dest]
  obtain here | ⟨j, hop⟩ := hopFrom_neighbour s.hub.peer p k
  · rw [here]
    exact ⟨(s.plane p).ctl, (modPlane_eq_self rfl).symm⟩
  · rw [hop, Option.elim_some]
    exact ⟨_, modPlane_congr rfl⟩

/-! ### What a peg changes for one plane -/

/-- Only one plane, what leaves the device and the count of free values differ. -/
def State.OnPlane (s : State) (p : Plane) (t : State) : Prop := ∃ q out n, t = { s.modPlane p fun _ => q with outbox := out, fresh := n }

theorem State.OnPlane.refl (s : State) (p : Plane) : s.OnPlane p s := ⟨s.plane p, s.outbox, s.fresh, by cases p <;> rfl⟩

theorem State.OnPlane.trans (first : s.OnPlane p t) (second : t.OnPlane p u) : s.OnPlane p u := by
  obtain ⟨_, _, _, rfl⟩ := first
  obtain ⟨q, out, n, rfl⟩ := second
  exact ⟨q, out, n, by cases p <;> rfl⟩

theorem State.OnPlane.foldl {α : Type} {f : State → α → State} (step : ∀ (s : State) x, s.OnPlane p (f s x)) (l : List α) (s : State) :
    s.OnPlane p (l.foldl f s) :=
  List.foldlRecOn (motive := s.OnPlane p) l f (.refl s p) fun u before x _ => before.trans (step u x)

theorem State.OnPlane.other (on : s.OnPlane p t) (other : q ≠ p) : t.plane q = s.plane q := by
  obtain ⟨_, _, _, rfl⟩ := on
  exact (plane_modPlane s p q _).trans (if_neg other)

theorem State.OnPlane.keeps (on : s.OnPlane p t) :
    t.tick = s.tick ∧ t.phase = s.phase ∧ t.cycle = s.cycle ∧ t.mem = s.mem ∧ t.tasks = s.tasks ∧ t.hub = s.hub := by
  obtain ⟨_, _, _, rfl⟩ := on
  simp

theorem onPlane_modPlane (s : State) (p : Plane) (f : PlaneSt → PlaneSt) : s.OnPlane p (s.modPlane p f) :=
  ⟨f (s.plane p), s.outbox, s.fresh, by cases p <;> rfl⟩

/-- So much leaves the device. -/
def State.emits (s : State) (l : List Out) : State := { s with outbox := s.outbox ++ l }

theorem onPlane_emits (s : State) (p : Plane) (l : List Out) : s.OnPlane p (s.emits l) :=
  ⟨s.plane p, s.outbox ++ l, s.fresh, by cases p <;> rfl⟩

theorem onPlane_draw (s : State) (p : Plane) (n : Nat) : s.OnPlane p (s.draw n).2 :=
  ⟨s.plane p, s.outbox, s.fresh + 1, by cases p <;> rfl⟩

theorem onPlane_sendRepair (s : State) (p : Plane) (k phase r b id dlane switch entry : Nat) :
    s.OnPlane p (s.sendRepair p (neighbour s.hub.peer p k) phase r b id dlane switch entry) := by
  obtain ⟨c, queued⟩ := sendCtl_neighbour s p k 7 p
    (phase + r * 2 ^ 3 + b * 2 ^ 8 + id % 2 ^ 16 * 2 ^ 12 + dlane % 128 * 2 ^ 28) (switch % 2 ^ 48 + entry * 2 ^ 48)
  rw [State.sendRepair, queued]
  exact onPlane_modPlane s p _

/-! ### Parks that begin at a peg (R435) -/

/-- Only the bands and the queued control messages of one plane differ. -/
def State.Parks (s : State) (p : Plane) (t : State) : Prop := ∃ b c, t = s.modPlane p fun q => { q with bands := b, ctl := c }

theorem State.Parks.refl (s : State) (p : Plane) : s.Parks p s := ⟨(s.plane p).bands, (s.plane p).ctl, by cases p <;> rfl⟩

theorem State.Parks.trans (first : s.Parks p t) (second : t.Parks p u) : s.Parks p u := by
  obtain ⟨_, _, rfl⟩ := first
  obtain ⟨b, c, rfl⟩ := second
  exact ⟨b, c, by cases p <;> rfl⟩

theorem State.Parks.onPlane (parks : s.Parks p t) : s.OnPlane p t := by
  obtain ⟨b, c, rfl⟩ := parks
  exact onPlane_modPlane s p _

theorem startPark_parks (s : State) (p : Plane) (b : Nat) (auto : Bool) : s.Parks p (s.startPark p b auto) := by
  unfold State.startPark
  dsimp only
  split
  · exact .refl s p
  · refine List.foldlRecOn (motive := s.Parks p) _ _ ⟨_, (s.plane p).ctl, modPlane_congr rfl⟩ fun u before k _ => before.trans ?_
    obtain ⟨c, queued⟩ := sendCtl_neighbour u p k 7 p (phPARK + k * 2 ^ 3 + b * 2 ^ 8 + 0 % 2 ^ 16 * 2 ^ 12 + 0 % 128 * 2 ^ 28)
      ((s.tick + 8) % 2 ^ 48 + 0 * 2 ^ 48)
    exact ⟨(u.plane p).bands, c, queued.trans (modPlane_congr rfl)⟩

/-- PARKMASK's bands start parking. -/
def State.parkMasked (s : State) (p : Plane) : State :=
  (List.range 8).foldl (fun u b => if (u.plane p).pol.parkmask.getLsbD b = true then u.startPark p b false else u) s

theorem parkMasked_parks (s : State) (p : Plane) : s.Parks p (s.parkMasked p) := by
  refine List.foldlRecOn (motive := s.Parks p) _ _ (.refl s p) fun u before b _ => before.trans ?_
  split
  · exact startPark_parks u p b false
  · exact .refl u p

theorem parkMasked_none (none : (s.plane p).pol.parkmask = 0) : s.parkMasked p = s := by
  refine List.foldlRecOn (motive := fun u => u = s) _ _ rfl fun u same b _ => ?_
  subst same
  simp [none]

/-! ### What leaves a plane at a peg -/

theorem foldl_lastFlit (s : State) (p : Plane) (bs : List Nat) :
    ∃ c, bs.foldl (fun u b => u.modPlane p fun q => q.modBand b fun x => { x with lastFlit := u.tick }) s =
      s.modPlane p fun q => { q with bands := c } := by
  refine List.foldlRecOn (motive := fun u : State => ∃ c, u = s.modPlane p fun q => { q with bands := c }) _ _
    ⟨(s.plane p).bands, by cases p <;> rfl⟩ ?_
  rintro _ ⟨c, rfl⟩ b -
  exact ⟨tmod {} c b fun x => { x with lastFlit := s.tick }, by cases p <;> rfl⟩

/-- The flits that leave a residue's stream on so many lines, and the stream after them (R401). -/
def State.leaving (s : State) (p : Plane) (k : Nat) (bands : List Nat) : List QFlit × Stream :=
  ((s.plane p).stream k).take (32 * bands.length)

/-- The stream that waits for the ACKs of what has left. -/
def State.streamAfter (s : State) (p : Plane) (k : Nat) (bands : List Nat) : Stream :=
  let r := s.leaving p k bands
  { r.2 with unacked := r.2.unacked ++ awaited s.tick bands r.1 }

theorem emitFlits_eq (s : State) (p : Plane) (k : Nat) (bands : List Nat) : ∃ c, s.emitFlits p k bands =
    (s.modPlane p fun q => { q with streams := tput {} q.streams k (s.streamAfter p k bands), bands := c }).emits
      ((s.leaving p k bands).1.zipIdx.map fun i => .flit p k (flitPlace bands i.2).1 (flitPlace bands i.2).2 i.1.flit) := by
  obtain ⟨c, marked⟩ := foldl_lastFlit (s.modPlane p fun q => q.modStream k fun _ => s.streamAfter p k bands) p
    (bands.filter fun b => lineFlits bands (s.leaving p k bands).1 b != [])
  refine ⟨c, ?_⟩
  rw [modPlane_modPlane] at marked
  refine Eq.trans ?_ (congrArg (fun u : State => u.emits _) marked)
  simp only [State.emitFlits, zip_range_eq_zipIdx]
  rfl

theorem onPlane_emitFlits (s : State) (p : Plane) (k : Nat) (bands : List Nat) : s.OnPlane p (s.emitFlits p k bands) := by
  obtain ⟨c, emitted⟩ := emitFlits_eq s p k bands
  rw [emitted]
  exact (onPlane_modPlane s p _).trans (onPlane_emits _ p _)

theorem onPlane_emitCtl (s : State) (p : Plane) (k : Nat) : s.OnPlane p (s.emitCtl p k) :=
  (onPlane_modPlane s p _).trans (onPlane_emits _ p _)

theorem onPlane_emitProbe (s : State) (p : Plane) : s.OnPlane p (s.emitProbe p) := by
  unfold State.emitProbe
  dsimp only
  split
  · exact onPlane_emits s p _
  · exact .refl s p

theorem onPlane_reportProbe (s : State) (p : Plane) : s.OnPlane p (s.reportProbe p) := by
  unfold State.reportProbe
  dsimp only
  split
  · exact onPlane_draw s p 2
  · exact (((onPlane_draw s p 2).trans (onPlane_draw _ p 31)).trans (onPlane_draw _ p 9)).trans
      ((onPlane_draw _ p 128).trans (onPlane_sendRepair _ p _ _ _ _ _ _ _ _))

/-! ### A plane at the peg (R396, R401, R406) -/

/-- Staged settings in force: a snapshot asked for is taken, the policy written counts, and every 1,024 ticks a window begins. -/
def PlaneSt.opened (q : PlaneSt) (tick : Nat) : PlaneSt :=
  let z := { q.takeSnap with pol := q.polNext.getD q.pol, polNext := none }
  if tick % 1024 = 0 then { z with high := [], healthRaised := [] } else z

/-- The plane in the slot that opens, before anything leaves. -/
def State.opens (s : State) (p : Plane) : State := (s.modPlane p fun q => q.opened s.tick).parkMasked p

/-- Nothing leaves the plane: its device has not locked, its control lanes are dark, or no lantern shines (R423, R426, R434). -/
def State.Dark (s : State) (p : Plane) : Prop :=
  s.hub.lock = false ∨ (s.plane p).ctlLit = false ∨ (s.plane p).takeover ≠ none ∨ (s.plane p).lanternLost = true

/-- A residue's flits leave on its LIT lines. -/
def State.emitStripe (s : State) (p : Plane) (own : Nat) (t : SlotTable) (k : Nat) : State :=
  let bands := (t.stripe (s.tick % t.period) k).filter fun b => ((s.plane p).line k b).state == .lit
  if bands = [] || !((s.plane p).link (neighbour own p k)).up then s else s.emitFlits p k bands

/-- The flits of the slot leave (R401). -/
def State.emitSlot (s : State) (p : Plane) : State :=
  match (s.plane p).active with
  | none => s
  | some t => hopResidues.foldl (fun u k => u.emitStripe p s.hub.peer t k) s

/-- The control lanes of the slot carry their messages. -/
def State.emitLanes (s : State) (p : Plane) : State :=
  ((List.range 8).map fun c => 8 * (s.tick % 4) + c).foldl (fun u k =>
    if k = 0 then u.emit (.ctl p 0 (ctlWord 0 u.hub.peer u.hub.peer (planeNum p) 0 0)) else u.emitCtl p k) s

theorem takeSnap_of_not {r : PlaneSt} (none : r.snapReq = false) : r.takeSnap = r := by simp [PlaneSt.takeSnap, none]

theorem opened_still {r : PlaneSt} {tick : Nat} (policy : r.polNext = none) (snap : r.snapReq = false) (inside : tick % 1024 ≠ 0) :
    r.opened tick = r := by
  rw [PlaneSt.opened, if_neg inside, takeSnap_of_not snap, policy]
  cases r
  cases policy
  rfl

theorem opened_keeps (r : PlaneSt) (tick : Nat) : (r.opened tick).active = r.active ∧ (r.opened tick).ctlLit = r.ctlLit ∧
    (r.opened tick).takeover = r.takeover ∧ (r.opened tick).lanternLost = r.lanternLost := by
  unfold PlaneSt.opened PlaneSt.takeSnap
  split <;> split <;> exact ⟨rfl, rfl, rfl, rfl⟩

theorem onPlane_opens (s : State) (p : Plane) : s.OnPlane p (s.opens p) :=
  (onPlane_modPlane s p _).trans (parkMasked_parks _ p).onPlane

theorem opens_keeps (s : State) (p : Plane) : (s.opens p).hub = s.hub ∧ ((s.opens p).plane p).active = (s.plane p).active ∧
    ((s.opens p).plane p).ctlLit = (s.plane p).ctlLit ∧ ((s.opens p).plane p).takeover = (s.plane p).takeover ∧
    ((s.opens p).plane p).lanternLost = (s.plane p).lanternLost := by
  obtain ⟨b, c, parks⟩ := parkMasked_parks (s.modPlane p fun q => q.opened s.tick) p
  rw [State.opens, parks]
  simpa [plane_modPlane] using opened_keeps (s.plane p) s.tick

theorem opens_dark : (s.opens p).Dark p ↔ s.Dark p := by
  obtain ⟨hub, -, lit, takeover, lost⟩ := opens_keeps s p
  rw [State.Dark, hub, lit, takeover, lost, State.Dark]

theorem dark_iff : (!s.hub.lock || !(s.plane p).ctlLit || (s.plane p).takeover.isSome || (s.plane p).lanternLost) = true ↔ s.Dark p := by
  simp [State.Dark, Option.isSome_iff_ne_none, or_assoc]

theorem pegPlane_dark (dark : s.Dark p) : s.pegPlane p = s.opens p := if_pos (dark_iff.2 (opens_dark.2 dark))

theorem pegPlane_lit (lit : ¬s.Dark p) : s.pegPlane p = ((((s.opens p).emitSlot p).emitLanes p).emitProbe p).reportProbe p :=
  if_neg fun dark => lit (opens_dark.1 (dark_iff.1 dark))

theorem emitSlot_eq (s : State) (p : Plane) : s.emitSlot p = (s.plane p).active.elim s fun t => hopResidues.foldl (fun u k =>
    let bands := (t.stripe (u.tick % t.period) k).filter fun b => ((u.plane p).line k b).state == .lit
    if bands = [] ∨ ((u.plane p).link (neighbour s.hub.peer p k)).up = false then u else u.emitFlits p k bands) s := by
  unfold State.emitSlot
  simp only [State.emitStripe, Bool.or_eq_true, decide_eq_true_eq, Bool.not_eq_true']
  cases (s.plane p).active <;> rfl

/-! ### What of a plane a peg changes -/

theorem onPlane_emitStripe (s : State) (p : Plane) (own : Nat) (t : SlotTable) (k : Nat) : s.OnPlane p (s.emitStripe p own t k) := by
  unfold State.emitStripe
  dsimp only
  split
  · exact .refl s p
  · exact onPlane_emitFlits s p k _

theorem onPlane_emitSlot (s : State) (p : Plane) : s.OnPlane p (s.emitSlot p) := by
  unfold State.emitSlot
  split
  · exact .refl s p
  · exact .foldl (fun u k => onPlane_emitStripe u p _ _ k) _ s

theorem onPlane_emitLanes (s : State) (p : Plane) : s.OnPlane p (s.emitLanes p) := by
  refine .foldl (fun u k => ?_) _ s
  split
  · exact onPlane_emits u p _
  · exact onPlane_emitCtl u p k

theorem onPlane_pegPlane (s : State) (p : Plane) : s.OnPlane p (s.pegPlane p) := by
  by_cases dark : s.Dark p
  · rw [pegPlane_dark dark]
    exact onPlane_opens s p
  · rw [pegPlane_lit dark]
    exact ((onPlane_opens s p).trans (onPlane_emitSlot _ p)).trans
      ((onPlane_emitLanes _ p).trans ((onPlane_emitProbe _ p).trans (onPlane_reportProbe _ p)))

theorem pegPlane_still (unlocked : s.hub.lock = false) (policy : (s.plane p).polNext = none) (snap : (s.plane p).snapReq = false)
    (inside : s.tick % 1024 ≠ 0) (none : (s.plane p).pol.parkmask = 0) : s.pegPlane p = s := by
  rw [pegPlane_dark (.inl unlocked), State.opens, modPlane_eq_self (opened_still policy snap inside), parkMasked_none none]

/-! ### The slot that ends (R397, R404, R438) -/

/-- What hearing the end of a slot keeps; memory changes only where an event enters the larder's ring (R448). -/
structure State.Hears (s t : State) : Prop where
  tick : t.tick = s.tick
  cycle : t.cycle = s.cycle
  tasks : t.tasks = s.tasks
  resNext : t.hub.resNext = s.hub.resNext
  even : t.hub.even = s.hub.even
  mem : s.hub.even = false → t.mem = s.mem

theorem State.Hears.refl (s : State) : s.Hears s := ⟨rfl, rfl, rfl, rfl, rfl, fun _ => rfl⟩

theorem State.Hears.trans (first : s.Hears t) (second : t.Hears u) : s.Hears u where
  tick := second.tick.trans first.tick
  cycle := second.cycle.trans first.cycle
  tasks := second.tasks.trans first.tasks
  resNext := second.resNext.trans first.resNext
  even := second.even.trans first.even
  mem off := (second.mem (first.even.trans off)).trans (first.mem off)

theorem State.Hears.foldl {α : Type} {f : State → α → State} (step : ∀ (s : State) x, s.Hears (f s x)) (l : List α) (s : State) :
    s.Hears (l.foldl f s) :=
  List.foldlRecOn (motive := s.Hears) l f (.refl s) fun u before x _ => before.trans (step u x)

theorem State.OnPlane.hears (on : s.OnPlane p t) : s.Hears t := by
  obtain ⟨tick, -, cycle, mem, tasks, hub⟩ := on.keeps
  exact ⟨tick, cycle, tasks, congrArg _ hub, congrArg _ hub, fun _ => mem⟩

section
variable (h : s.Hears t)
include h

theorem State.Hears.modPlane (p : Plane) (f : PlaneSt → PlaneSt) : s.Hears (t.modPlane p f) := h.trans (onPlane_modPlane t p f).hears

theorem State.Hears.draw (n : Nat) : s.Hears (t.draw n).2 := h.trans (onPlane_draw t .x n).hears

theorem State.Hears.signal : s.Hears t.signal := by
  refine h.trans ?_
  unfold State.signal
  split <;> exact ⟨rfl, rfl, rfl, rfl, rfl, fun _ => rfl⟩

theorem State.Hears.event (code : Nat) (ctx : Option Nat) (a0 a1 : Nat) : s.Hears (t.event code ctx a0 a1) := by
  refine h.trans ?_
  unfold State.event
  dsimp only
  split
  · exact ⟨rfl, rfl, rfl, rfl, rfl, fun _ => rfl⟩
  case isFalse on =>
    split
    · exact ⟨rfl, rfl, rfl, rfl, rfl, fun _ => rfl⟩
    · exact .signal ⟨rfl, rfl, rfl, rfl, rfl, fun off => absurd (congrArg not off) on⟩

theorem State.Hears.laneHealth (p : Plane) (lane : Nat) : s.Hears (t.laneHealth p lane) := by
  unfold State.laneHealth
  dsimp only
  split
  · exact .event (h.modPlane p _) ..
  · exact h

theorem State.Hears.countCodeword (p : Plane) (lane sym : Nat) : s.Hears (t.countCodeword p lane sym) := by
  unfold State.countCodeword
  refine .laneHealth ?_ p lane
  split
  · exact .event (h.modPlane p _) ..
  · exact h.modPlane p _

theorem State.Hears.hearCodewords (p : Plane) (lane n : Nat) : s.Hears (t.hearCodewords p lane n) :=
  h.trans (.foldl (fun u _ => (State.Hears.refl u).draw 10 |>.countCodeword p lane _) _ t)

theorem State.Hears.hearControl (p : Plane) (c : Nat) : s.Hears (t.hearControl p c) := by
  unfold State.hearControl
  dsimp only
  split
  · exact h.draw 2
  · exact (h.draw 2).hearCodewords p _ 16

theorem State.Hears.queueCtl (m : BitVec 128) : s.Hears (t.queueCtl m) := by
  unfold State.queueCtl
  split
  · exact h
  · exact h.modPlane _ _

theorem State.Hears.endSlot (p : Plane) : s.Hears (t.endSlot p) := by
  unfold State.endSlot
  split
  · exact h
  · refine h.trans (.foldl (fun u line => ?_) _ t)
    have start := State.Hears.refl u
    dsimp only
    split
    · split
      · exact ((start.modPlane p _).hearCodewords p _ _).queueCtl _
      · exact start.modPlane p _
    · split
      · exact ((start.draw 2).hearCodewords p _ _).queueCtl _
      · exact start.draw 2

end

/-- The slot of TICK has ended: a locked device has heard its light. -/
def State.slotEnded (s : State) : State :=
  if s.hub.lock = true then [Plane.x, Plane.y].foldl (fun u p => (List.range 8).foldl (fun u c => u.hearControl p c) (u.endSlot p)) s else s

theorem hears_slotEnded (s : State) : s.Hears s.slotEnded := by
  unfold State.slotEnded
  split
  · exact .foldl (fun u p => ((State.Hears.refl u).endSlot p).trans (.foldl (fun v c => (State.Hears.refl v).hearControl p c) _ _)) _ s
  · exact .refl s

/-! ### The peg (R396) -/

/-- RESCTL's fields take their place (R352). -/
theorem setRes_eq (h : Hub) (w : Word) : h.setRes w = { h with
    promth := w.toNat % 2 ^ 16, demth := w.toNat / 2 ^ 16 % 2 ^ 16, decay := w.toNat / 2 ^ 32 % 2 ^ 4
    lead := w.toNat / 2 ^ 36 % 2 ^ 12, tlimit := w.toNat / 2 ^ 48 % 2 ^ 16, resNext := none } := by
  simp [Hub.setRes, bitsOf]

/-- TICK rises, the slot begins, and a staged RESCTL comes into force. -/
def State.ticked (s : State) : State :=
  { s with tick := s.tick + 1, phase := 0, hub := s.hub.resNext.elim s.hub s.hub.setRes }

theorem ticked_eq (s : State) : s.ticked = { s with
    tick := s.tick + 1
    phase := 0
    hub := s.hub.resNext.elim s.hub fun v => { s.hub with
      promth := v.toNat % 2 ^ 16, demth := v.toNat / 2 ^ 16 % 2 ^ 16, decay := v.toNat / 2 ^ 32 % 2 ^ 4
      lead := v.toNat / 2 ^ 36 % 2 ^ 12, tlimit := v.toNat / 2 ^ 48 % 2 ^ 16, resNext := none } } := by
  rw [State.ticked, show s.hub.setRes = _ from funext (setRes_eq s.hub)]

theorem exec_peg_eq (s : State) : exec .peg s = .next ((s.slotEnded.ticked.pegPlane .x).pegPlane .y) := rfl

theorem ticked_plane (s : State) (p : Plane) : s.ticked.plane p = s.plane p := by cases p <;> rfl

theorem ticked_lock (s : State) : s.ticked.hub.lock = s.hub.lock := by
  unfold State.ticked
  cases s.hub.resNext <;> rfl

theorem ticked_resNext (s : State) : s.ticked.hub.resNext = none := by
  unfold State.ticked
  cases staged : s.hub.resNext with
  | none => exact staged
  | some v => rfl

/-- Both planes' work leaves the rest of the state as the peg has opened the slot. -/
theorem pegged_keeps (s : State) :
    let t := (s.pegPlane .x).pegPlane .y
    t.tick = s.tick ∧ t.phase = s.phase ∧ t.cycle = s.cycle ∧ t.mem = s.mem ∧ t.tasks = s.tasks ∧ t.hub = s.hub := by
  obtain ⟨tick, phase, cycle, mem, tasks, hub⟩ := (onPlane_pegPlane s .x).keeps
  obtain ⟨tick', phase', cycle', mem', tasks', hub'⟩ := (onPlane_pegPlane (s.pegPlane .x) .y).keeps
  exact ⟨tick'.trans tick, phase'.trans phase, cycle'.trans cycle, mem'.trans mem, tasks'.trans tasks, hub'.trans hub⟩

/-- An unlocked device's plane with nothing staged goes through a peg as it is. -/
theorem pegged_still (unlocked : s.hub.lock = false) (policy : (s.plane p).polNext = none) (none : (s.plane p).pol.parkmask = 0)
    (snap : (s.plane p).snapReq = false) (inside : s.tick % 1024 ≠ 0) : ((s.pegPlane .x).pegPlane .y).plane p = s.plane p := by
  have first := onPlane_pegPlane s .x
  have second := onPlane_pegPlane (s.pegPlane .x) .y
  cases p with
  | x => rw [second.other (by decide), pegPlane_still unlocked policy snap inside none]
  | y =>
    obtain ⟨tick, -, -, -, -, hub⟩ := first.keeps
    have same := first.other (q := .y) (by decide)
    rw [← same] at policy none snap ⊢
    rw [← tick] at inside
    rw [← hub] at unlocked
    rw [pegPlane_still unlocked policy snap inside none]

/-! ### The tick lock (R194, R426) -/

theorem ticksyncSend_locked (locked : s.hub.lock = true) : exec .ticksyncSend s = .next { s with
    planeX := { s.planeX with syncDue := hopResidues }, planeY := { s.planeY with syncDue := hopResidues } } := by
  rw [exec_ticksyncSend, execTicksyncSend, locked]
  rfl

theorem ticksyncSend_unlocked (unlocked : s.hub.lock = false) : exec .ticksyncSend s = .next s := by
  rw [exec_ticksyncSend, execTicksyncSend, unlocked]
  rfl

theorem lockPeg_eq (s : State) : s.lockPeg = { s with
    hub := { s.hub with lock := true, seat := (s.hub.fabid.extractLsb' 0 10).toNat % 32, pod := (s.hub.fabid.extractLsb' 0 10).toNat / 32 }
    planeX := { s.planeX with locking := false, syncDue := hopResidues }
    planeY := { s.planeY with locking := false, syncDue := hopResidues } } := rfl

theorem ctlBits_word1 (m : BitVec 128) : ctlBits m 64 64 = m.toNat / 2 ^ 64 :=
  Nat.mod_eq_of_lt (Nat.div_lt_of_lt_mul (by rw [← Nat.pow_add]; exact m.isLt))

section
variable {m : CtlMsg} (type : m.bits.toNat % 16 = 6)
include type

theorem ctlType_ticksync : ctlType m.bits = 6 := by
  rw [ctlType, BitVec.extractLsb'_toNat]
  exact type

theorem ticksync_locks (unlocked : s.hub.lock = false) (waits : (s.plane m.plane).locking = true) (here : ctlDest m.bits = s.hub.fabPeer) :
    exec (.ticksync m) s =
      .next { (s.draw 680).2.lockPeg with tick := m.bits.toNat / 2 ^ 64 - 1, phase := (s.draw 680).1 } := by
  simp [execTicksync, ctlType_ticksync type, unlocked, waits, here, ctlBits_word1]

theorem ticksync_passes (unlocked : s.hub.lock = false) (not : (s.plane m.plane).locking = false ∨ ctlDest m.bits ≠ s.hub.fabPeer) :
    exec (.ticksync m) s = .next s := by
  obtain not | not := not <;> simp [execTicksync, ctlType_ticksync type, unlocked, not]

theorem ticksync_locked (locked : s.hub.lock = true) (here : ctlDest m.bits = s.hub.peer) : exec (.ticksync m) s = .next s := by
  simp [execTicksync, State.ctlIn, ctlType_ticksync type, locked, here]

end

end

/-- Settles O57: a peg is the end of the slot (`State.slotEnded`), the opening of the next (`State.ticked`) and each plane's work
(`pegPlane_dark`, `pegPlane_lit`). The model's choices in it: the phase after the lock is a free value below 680 (log 3), parks begin before
flits leave (log 83), and a plane whose lantern is lost emits nothing (log 105). -/
theorem pegsAndTicks : Obligations.PegsAndTicks := by
  unfold Obligations.PegsAndTicks
  intro s
  refine ⟨?peg, ?opens, fun p => ?plane, fun p k bands => ?flits, fun p k => ?ctl, fun unlocked p policy none snap inside t run => ?still,
    fun t n x room => ?order, fun t n => ?room, fun locked => ?due, fun unlocked => ?notDue, fun m type => ?lock⟩
  case peg =>
    have heard := hears_slotEnded s
    obtain ⟨tick, phase, cycle, mem, tasks, hub⟩ := pegged_keeps s.slotEnded.ticked
    refine ⟨_, exec_peg_eq s, tick.trans (congrArg (· + 1) heard.tick), phase, cycle.trans heard.cycle, fun off => mem.trans (heard.mem off),
      tasks.trans heard.tasks, (congrArg Hub.resNext hub).trans (ticked_resNext _), fun v staged => ?_⟩
    rw [hub, State.ticked, heard.resNext.trans staged]
    simp [setRes_eq]
  case opens =>
    exact (exec_peg_eq s).trans (congrArg (fun u : State => Host.Outcome.next ((u.pegPlane .x).pegPlane .y)) (ticked_eq s.slotEnded))
  case plane =>
    refine ⟨pegPlane_dark, fun lock ctl takeover lost => ?_⟩
    have lit : ¬s.Dark p := by simp [State.Dark, lock, ctl, takeover, lost]
    obtain ⟨-, active, -⟩ := opens_keeps s p
    rw [pegPlane_lit lit, emitSlot_eq, active]
    rfl
  case flits =>
    obtain ⟨c, emitted⟩ := emitFlits_eq s p k bands
    rw [emitted]
    refine ⟨?_, fun wf => ⟨awaited s.tick bands (s.leaving p k bands).1, ?_, ?_, fun u line pos x => ?_⟩⟩
    · exact congrArg₂ (· ++ ·) (modPlane_outbox s p _) (map_zipIdx_eq _ _)
    · refine (congrArg (fun q : PlaneSt => q.stream k) ((plane_modPlane s p p _).trans (if_pos rfl))).trans ?_
      exact (tget_tput wf k _ k).trans (if_pos rfl)
    · simp [awaited]
    · obtain ⟨b, -, rfl⟩ := List.mem_map.mp line
      exact mem_lineFlits
  case ctl =>
    simp only [State.emitCtl, List.contains_iff_mem]
    cases p <;> rfl
  case still =>
    rw [exec_peg_eq, State.slotEnded, if_neg (by simp [unlocked])] at run
    cases run
    rw [pegged_still ((ticked_lock s).trans unlocked) (by rwa [ticked_plane]) (by rwa [ticked_plane]) (by rwa [ticked_plane]) inside, ticked_plane]
  case order =>
    exact ⟨next_eq_none, fun r retr => take_next room (next_retr retr) n, fun r retr relay => take_next room (next_relay retr relay) n,
      fun r retr relay loc => take_next room (next_loc retr relay loc) n⟩
  case room =>
    refine ⟨rfl, fun full => take_full full n, length_take_le t n, ?_⟩
    simpa only [Stream.flits, List.append_assoc] using flits_take t n
  case due => exact ticksyncSend_locked locked
  case notDue => exact ticksyncSend_unlocked unlocked
  case lock =>
    have dest : ctlDest m.bits = m.bits.toNat / 2 ^ 4 % 1024 := ctlDest_eq m.bits
    refine ⟨fun unlocked waits here => ⟨(s.draw 680).1, Nat.mod_lt _ (by decide), ?_⟩, fun unlocked not => ?_, fun locked here => ?_⟩
    · rw [ticksync_locks type unlocked waits (dest.trans here), lockPeg_eq]
      rfl
    · exact ticksync_passes type unlocked (not.imp_right fun other same => other (dest.symm.trans same))
    · exact ticksync_locked type locked (dest.trans here)

end Sys2Proof.Machine
end

section
/-!
Steps of the matrix unit: a latch loaded, a step's 256 elements, and exact sums of integers (O12).
-/
open Sys2Proof

namespace Sys2Proof.Machine

/-! ### A stationary latch loaded (R267) -/

/-- Rows paired with their columns are the columns counted up, each with its row. -/
theorem zip_range_eq (rows : List MatRow) (n : Nat) :
    rows.zip (List.range n) = (List.range (min rows.length n)).map fun k => (rows.getD k MatRow.zero, k) := by
  refine List.ext_getElem (by simp) fun k _ inside => ?_
  simp only [List.length_map, List.length_range, Nat.lt_min] at inside
  simp [inside.1]

/-- The latch holds in column k the k-th of the rows loaded into it. -/
theorem tget_loaded {rows : List MatRow} {n k : Nat} {r : MatRow} (row : rows[k]? = some r) (inside : k < n) :
    tget MatRow.zero ((rows.zip (List.range n)).foldl (fun t p => tput MatRow.zero t p.2 p.1) []) k = r := by
  obtain ⟨below, rfl⟩ := List.getElem?_eq_some_iff.mp row
  have loaded := (tget_foldl_tput_range (fun k => rows.getD k MatRow.zero) 0 (min rows.length n) (d := MatRow.zero) (t := []) rfl).2 k
  simp only [Nat.zero_add] at loaded
  rw [zip_range_eq, List.foldl_map, loaded, if_pos (by omega)]
  simp [below]

/-! ### The elements of a step (R270, R271) -/

/-- Element (r, c) of a step: the sum of R220 where the mask enables row r and column c, else what it was. -/
def stepElem (z cn : Bool) (fa fb : Fmt) (mask : MmaMask) (acc : Nat → Nat → Nat) (rows cols : Nat → MatRow) (r c : Nat) :
    Nat × FpFlags × FpCounts :=
  let count := if mask.depth = 0 then mmaDepth fa.width else mask.depth
  let was := if z then 0 else acc r c
  if mask.rows.getLsbD r && mask.cols.getLsbD c then mmaElem cn was (rowVals fa count (rows r)) (rowVals fb count (cols c))
  else (was, {}, {})

/-- What a step gives, from its elements counted row by row. -/
def gathered (elem : Nat → Nat → Nat × FpFlags × FpCounts) : MmaOut where
  codes := (List.range 256).map fun k => (elem (k / 16) (k % 16)).1
  fl := orFlags ((List.range 256).map fun k => (elem (k / 16) (k % 16)).2.1)
  cnt := addCounts ((List.range 256).map fun k => (elem (k / 16) (k % 16)).2.2)

/-- A list that holds the elements row by row gives the same. -/
theorem gathered_eq {elem : Nat → Nat → Nat × FpFlags × FpCounts} {outs : List (Nat × FpFlags × FpCounts)}
    (same : (List.range 256).map (fun k => elem (k / 16) (k % 16)) = outs) :
    gathered elem = ⟨outs.map fun o => o.1, orFlags (outs.map fun o => o.2.1), addCounts (outs.map fun o => o.2.2)⟩ := by
  subst same
  simp only [List.map_map]
  rfl

/-- A table of 16 entries read where it is enabled. -/
theorem getD_enabled {α : Type} (on : Nat → Bool) (f : Nat → List α) {r : Nat} (inside : r < 16) (enabled : on r = true) :
    ((List.range 16).map fun r => if on r then f r else []).getD r [] = f r := by
  simp [inside, enabled]

theorem mmaStep_eq (z cn : Bool) (fa fb : Fmt) (mask : MmaMask) (acc : Nat → Nat → Nat) (rows cols : Nat → MatRow) :
    mmaStep z cn fa fb mask acc rows cols = gathered (stepElem z cn fa fb mask acc rows cols) := by
  refine (gathered_eq (List.map_congr_left fun k below => ?_)).symm
  have inside : k / 16 < 16 := by have := List.mem_range.mp below; omega
  simp only [stepElem]
  split
  next enabled =>
    obtain ⟨row, col⟩ := Bool.and_eq_true_iff.mp enabled
    rw [getD_enabled _ _ inside row, getD_enabled _ _ (Nat.mod_lt k (by decide)) col]
  next => rfl

/-- Element (r, c) of a step stands in column c of its quarter of the destination. -/
theorem contAt_quarter (elem : Nat → Nat → Nat × FpFlags × FpCounts) {q r c : Nat} (quarter : q < 4) (row : r < 16) (col : c < 16) :
    contAt (quarterVec q (gathered elem).codes) r (16 * q + c) = BitVec.ofNat 32 (elem r c).1 := by
  have place : (16 * q + c) / 16 = q ∧ (16 * q + c) % 16 = c ∧ (16 * r + c) / 16 = r ∧ (16 * r + c) % 16 = c ∧ 16 * r + c < 256 := by omega
  obtain ⟨q', c', r', c'', below⟩ := place
  rw [quarterVec, contAt_vecOfFn _ row (by omega), if_pos q']
  simp [gathered, c', r', c'', below]

/-! ### A step issues (R271, R272, R277) -/

/-- The elements of the step that a slot asks for. -/
def State.elemOf (s : State) (i : Instr) (x : OpMma) (z : Bool) : Nat → Nat → Nat × FpFlags × FpCounts :=
  stepElem z (FpEnv.ofFpcr s.core.fpcr).cn (s.core.fmt x.fa) (s.core.fmt x.fb) (s.core.stepMask x.m) (s.core.accIn x.d x.q.toNat)
    (fun r => ((s.core.lsRows i).map s.lsRow).getD r MatRow.zero) (tget MatRow.zero (tget ([] : StatLatch) s.core.regs.sl x.l.val))

/-- A step of either form acts and is counted by the ramp limiter. -/
theorem exec_matStep {s : State} {x : OpMma} {z : Bool} (acts : s.Acts (if z then .mmaz x else .mma x)) :
    exec (if z then .mmaz x else .mma x) s = .next (s.matStep (if z then .mmaz x else .mma x) x z).countStep := by
  cases z with
  | false => exact exec_mma.trans (slotRun_acts acts _)
  | true => exact exec_mmaz.trans (slotRun_acts acts _)

/-! ### Integers are summed exactly (R220) -/

/-- What the products met so far come to when all of them are integers with the sum z. -/
def ProdAcc.Sums (p : ProdAcc) (z : Int) : Prop :=
  p.nan = false ∧ p.zinf = false ∧ p.pinf = false ∧ p.ninf = false ∧ p.sum = (z, 0)

/-- The product of two integers from their magnitudes and signs. -/
theorem signed_natAbs_mul (a b : Int) :
    (if decide (a < 0) != decide (b < 0) then -((a.natAbs * b.natAbs : Nat) : Int) else (a.natAbs * b.natAbs : Nat)) = a * b := by
  rw [Int.natCast_mul]
  rcases lt_or_ge a 0 with ha | ha <;> rcases lt_or_ge b 0 with hb | hb <;>
    simp [ha, hb, not_lt.mpr, abs_of_neg, abs_of_nonneg]

theorem sumStep_product (z a b : Int) :
    sumStep (z, 0) (decide (a < 0) != decide (b < 0)) (a.natAbs * b.natAbs) 0 = (z + a * b, 0) := by
  have product := signed_natAbs_mul a b
  unfold sumStep
  split
  next zero => simp [← product, zero]
  next =>
    rw [← product]
    simp

theorem ProdAcc.Sums.step {p : ProdAcc} {z : Int} (sums : p.Sums z) (a b : Int) :
    (prodStep p (Val.ofInt a) (Val.ofInt b)).Sums (z + a * b) := by
  obtain ⟨nan, zinf, pinf, ninf, sum⟩ := sums
  refine ⟨nan, zinf, pinf, ninf, ?_⟩
  simp only [prodStep, Val.ofInt, sum]
  exact sumStep_product z a b

theorem ProdAcc.Sums.foldl (l : List (Int × Int)) {p : ProdAcc} {z : Int} (sums : p.Sums z) :
    (l.foldl (fun p ab => prodStep p (Val.ofInt ab.1) (Val.ofInt ab.2)) p).Sums (z + (l.map fun ab => ab.1 * ab.2).sum) := by
  induction l generalizing p z with
  | nil => simpa using sums
  | cons ab l ih => simpa [add_assoc] using ih (sums.step ab.1 ab.2)

/-- An element without an accumulator is its exact sum, rounded once. -/
theorem mmaElem_of_sums {cn : Bool} {as bs : List Val} {z : Int}
    (sums : ((as.zip bs).foldl (fun p ab => prodStep p ab.1 ab.2) ({} : ProdAcc)).Sums z) :
    (mmaElem cn 0 as bs).1 = (StdFmt.f32.round .rne false (decide (z < 0)) z.natAbs 0).1 := by
  obtain ⟨nan, zinf, pinf, ninf, sum⟩ := sums
  have zero : StdFmt.f32.decode false 0 = .num false 0 (-149) := by decide
  have same : sumStep (z, 0) false 0 (-149) = (z, 0) := rfl
  simp only [mmaElem, zero, nan, zinf, pinf, ninf, sum, same, Val.isNan, Val.isInf, Bool.or_false, Bool.false_and, Bool.and_false,
    Bool.false_eq_true, if_false]
  split
  next none => rw [none]; rfl
  next => rfl

theorem mmaElem_ofInt (cn : Bool) (l : List (Int × Int)) :
    let z := (l.map fun p => p.1 * p.2).sum
    (mmaElem cn 0 (l.map fun p => Val.ofInt p.1) (l.map fun p => Val.ofInt p.2)).1 =
      (StdFmt.f32.round .rne false (decide (z < 0)) z.natAbs 0).1 := by
  refine mmaElem_of_sums ?_
  have start : ({} : ProdAcc).Sums 0 := ⟨rfl, rfl, rfl, rfl, rfl⟩
  rw [List.zip_map', List.foldl_map]
  simpa using start.foldl l

/-- Settles O12: the latch reads back the rows loaded (`tget_loaded`), a step is its elements counted row by row (`mmaStep_eq`), each in its
place of the quarter (`contAt_quarter`), and products of integers are summed exactly (`ProdAcc.Sums.foldl`) before the one rounding. -/
theorem matrixSteps : Obligations.MatrixSteps := by
  unfold Obligations.MatrixSteps
  refine ⟨⟨fun x s n acts latch => ?slld, fun x s z => ?step⟩, mmaElem_ofInt⟩
  case slld =>
    refine ⟨_, issuesResult_of (i := .slld x) _ exec_slld acts .b _ _ _ _ _ (by rw [latch]), fun k r row => ?_⟩
    obtain ⟨inside, row⟩ := Option.ite_none_right_eq_some.mp (List.getElem?_take.symm.trans row)
    exact tget_loaded (by rw [List.getElem?_map, row]; rfl) inside
  case step =>
    intro i fa fb mask rows latch count acc elem acts
    refine ⟨s.matStep i x z, quarterVec x.q.toNat (gathered (s.elemOf i x z)).codes, exec_matStep acts, ?_, fun r c row col =>
      contAt_quarter _ x.q.isLt row col⟩
    have same : elem = s.elemOf i x z := rfl
    clear_value elem
    subst same
    simp only [State.matStep, mmaStep_eq, gathered, State.elemOf]
    exact result_issuedBy s i .b [x.d] _ _ _ _

end Sys2Proof.Machine
end
